-- ==== Sys2Proof/Word.lean ====
section
/-!
DEFINITION. The byte type that memory, payloads and descriptors are made of.
-/

namespace Sys2Proof

/-- One byte of memory. -/
abbrev Byte := BitVec 8

end Sys2Proof
end

