-- ==== Sys2Proof/Syntax.lean ====
section
/-!
DEFINITION. The commands of the block and the plain data they carry: one constructor of `Instr` for
each row of `spec/opcode_table.json`.
-/

namespace Sys2Proof

/-- A half, 0 or 1 (R1). -/
abbrev HalfId := Fin 2
/-- A grove, numbered HALF × 5 + GROVE (R8, R22). -/
abbrev GroveId := Fin 10
/-- A core, numbered (HALF × 5 + GROVE) × 8 + CORE (R214). -/
abbrev CoreId := Fin 80
/-- A hardware context of a core (R182). -/
abbrev CtxId := Fin 8
/-- A fabric port (R281). -/
abbrev PortId := Fin 18
/-- A mailbox channel of a half (R425, R426). -/
abbrev ChanId := Fin 16
/-- A stream (R423). -/
abbrev StreamId := Fin 256
/-- An HBM stack of the device; stacks 6h to 6h + 5 belong to half h (R262). -/
abbrev StackId := Fin 12
/-- An LPDDR bus of the device; buses 4h to 4h + 3 belong to half h (R264). -/
abbrev BusId := Fin 8
/-- A PLL of a half: core, fabric, HBM, LPDDR (R488). -/
abbrev PllId := Fin 4
/-- A clock domain of a half: CORE, RANGER, FAB, HBM, LPX (R494). -/
abbrev MuxId := Fin 5
/-- A flag of the device (R214). -/
abbrev FlagId := Fin 32768

/-- The source of a set as a wake record names it (R237): the device bits and the context number, 0x3FC for a
dispatcher, 0x3FD and 0x3FE for the rangers, 0x3FF for the host. -/
structure Src where
  dev : Nat
  ctx : Nat
  deriving DecidableEq, Repr

/-- Who makes an access or a register write. "Dexca of half h" is the half's ranger once it runs. -/
inductive Agent where
  /-- The host, through PCIe (R417). -/
  | host
  /-- Dexca, on the ranger of half h (R2, R10). -/
  | dexca (h : HalfId)
  /-- The plinth, the boot ROM stage of half h's ranger (R469). -/
  | plinth (h : HalfId)
  /-- A core of this device. -/
  | core (c : CoreId)
  /-- An agent of another device, named by its 14 device bits (R24). -/
  | remote (dev : Nat)
  /-- The SMBus master (R428, R538), with its 7-bit address. -/
  | smbus (addr : Nat)
  /-- The debug port (R444). -/
  | debug
  deriving DecidableEq, Repr

/-- A reference clock (R487). -/
inductive RefClk where
  | osc
  | pcie
  deriving DecidableEq, Repr

/-- A unit that PWR_CTL names, within a half (R499, R510). -/
inductive PowerUnit where
  | core (c : Fin 40)
  | grove (g : Fin 5)
  deriving DecidableEq, Repr

/-- A node of this device, or the group or hall node that this device serves as principal (R19, R30). -/
inductive NodeId where
  | core (c : CoreId)
  | grove (g : GroveId)
  | half (h : HalfId)
  | device
  | group
  | hall
  deriving DecidableEq, Repr

/-- An engine that CORE_DIS_CTL disables alone (R209, R212). -/
inductive Engine where
  | mat
  | vec
  | load
  | store
  deriving DecidableEq, Repr

/-- A unit under disable (R209). -/
inductive DisUnit where
  | core (c : CoreId)
  | engine (c : CoreId) (e : Engine)
  | grove (g : GroveId)
  deriving DecidableEq, Repr

/-- A memory under background test (R252): the scratchpad of a core or the glade of a half. -/
inductive BistUnit where
  | core (c : CoreId)
  | glade (h : HalfId)
  deriving DecidableEq, Repr

/-- The operand of a MERGE at a bank: the fields merged by OPTSTEP (R168) or by QCVT (R169). -/
inductive MergeOp where
  /-- UMAX is an FP32 bit pattern; `sc` and `sq` are the exact sum to add to SQ, as the sidecar of R64 and L of R62. -/
  | opt (umax nonfin sc : Nat) (sq : Int)
  | scale (amax nsat nnonfin : Nat)
  deriving DecidableEq, Repr

/-- The identity record that a port accepts in IDENT (R300). -/
structure IdRecord where
  serial : Nat
  port : Nat
  vmin : Nat
  vmax : Nat
  discover : Bool
  pass : Bool
  coord : Nat
  job : Nat
  epoch : Nat
  deriving DecidableEq, Repr

/-- A received flit (R284): its 256 bytes, its codewords that FEC could not correct and those that it corrected, the errors that
the port has counted within the last 1 ms, this flit's included, and its entries to RETRAIN within the last 1 s, without one that
this flit causes (R305), and the FSEQ from which the peer requests replay with it, if it does (R285). -/
structure Flit where
  bytes : List Byte
  fecUncorrectable : Nat
  fecCorrected : Nat
  msErrors : Nat
  secRetrains : Nat
  replay : Option Nat
  deriving DecidableEq, Repr

/-- A packet: the 32-byte header of R286, its payload, and the CRC trailer of R288. -/
structure Packet where
  ptype : Nat
  pclass : Nat
  tc : Nat
  chk : Bool
  srcDev : Nat
  srcAgent : Nat
  hops : Nat
  dst : Nat
  job : Nat
  epoch : Nat
  oseq : Nat
  tag : Nat
  via : Nat
  viaValid : Bool
  payload : List Byte
  trailer : List Nat
  deriving DecidableEq, Repr

/-- The measures of R386 that Dexca gathers for one score: correctable errors, link retrains and late
records per hour, worst drift in 0.001 per cent, hottest junction over the last hour, and the scores of the
other devices of the job as (device bits, score) pairs. -/
structure RiskInputs where
  correctable : Nat
  drift : Nat
  hottest : Nat
  retrains : Nat
  lateness : Nat
  others : List (Nat × Nat)
  dayBelow : Bool
  deriving DecidableEq, Repr

/-- The commands of the block: one constructor for each row of the opcode table. -/
inductive Instr where
  /-- MAIN_INPUT_RISE (R528). The main input reaches 47.0 V with the auxiliary input present, and the power controller enables the main stages. -/
  | mainInputRise
  /-- RAILS_GOOD (R530). All rails reach their windows, so module reset may be released. -/
  | railsGood
  /-- MAIN_INPUT_FAULT (R528). The main input falls below 44.0 V or rises above 56.0 V; the stages are removed and the cause is latched. -/
  | mainInputFault (high : Bool)
  /-- POWER_EXCURSION_TRIP (R528). Input power has stayed above 2,600 W for 20 ms, and the main stages trip. -/
  | powerExcursionTrip
  /-- RAIL_FAULT_TRIP (R528). A main rail has been out of its regulation window for 100 µs, and the main stages trip. -/
  | railFaultTrip
  /-- THERMAL_TRIP (R535). A junction sensor reaches 110 °C, and the comparator trips the power controller with cause THERMAL. -/
  | thermalTrip
  /-- AUX_LOSS (R538). The auxiliary input falls below 3.0 V; the main stages are removed and the cadence bypass falls closed. -/
  | auxLoss
  /-- SHUTDOWN_CAUSE_READ (R538). SMBus Read Byte command 0x00 returns the last shutdown cause. -/
  | shutdownCauseRead
  /-- SHUTDOWN_CAUSE_CLEAR (R538). SMBus Write Byte 0xA5 to command 0x01 clears the cause and re-enables the main stages if allowed. -/
  | shutdownCauseClear (value : Nat)
  /-- PERST_N_ASSERT (R529). A PERST_N low of 10 µs or longer asserts module reset. -/
  | perstNAssert
  /-- PERST_N_RELEASE (R529). PERST_N rises, and module reset is released once the rails are good. -/
  | perstNRelease
  /-- MODULE_RESET_RELEASE (R469). Module reset is released, the plinths start and the oscillator count begins. -/
  | moduleResetRelease (feedPins : Nat) (leadSel : Bool)
  /-- OSC_AMPLITUDE_LOW (R486). The oscillator amplitude falls below its threshold, and the stability count restarts from zero. -/
  | oscAmplitudeLow
  /-- OSCILLATOR_STABLE (R486). 65,536 consecutive oscillator cycles are counted; the PLLs start and the domains leave reset. -/
  | oscillatorStable
  /-- PLL_LOCK (R488). A PLL achieves lock. -/
  | pllLock (h : HalfId) (n : PllId) (failed : List CoreId)
  /-- PLL_LOCK_TIMEOUT (R489). A PLL has not locked within 200 µs; it coasts, ERR is set, and the plinth retries it once or halts. -/
  | pllLockTimeout (h : HalfId) (n : PllId)
  /-- SELFTEST_DONE (R469). HBM training ends and the privileged region is cleared; half 0 opens the staging window and STAGE becomes WAIT. -/
  | selftestDone
  /-- STAGING_WRITE (R470). The host writes the staging window through BAR2 aperture 0 while STAGE is WAIT. -/
  | stagingWrite (offset : Nat) (data : List Byte)
  /-- BOOT_GO (R471). A write of SEC_BOOT_CTL.GO in WAIT copies the image into the privileged region and starts the checks in both halves. -/
  | bootGo (h : HalfId) (sameCycleWrite : Bool)
  /-- BOOT_CHECK_DONE (R472). The image checks end in both halves, with either success or rejection. -/
  | bootCheckDone
  /-- BOOT_BRIDGE_TIMEOUT (R471). No answer arrives over the bridge within 100 µs of the check exchange, and both halves HALT with cause BRIDGE. -/
  | bootBridgeTimeout
  /-- MEAS_EXTEND (R477). A write of SEC_EXT_CTL.GO starts the extension of a measurement slot with SEC_EXT_D0 to SEC_EXT_D3. -/
  | measExtend (a : Agent) (h : HalfId) (slot : Fin 8)
  /-- MEAS_EXTEND_DONE (R485). An extension completes after 40 ranger cycles. -/
  | measExtendDone (h : HalfId)
  /-- REF_LOSS (R487). A reference shows no edge for 1 µs, and the monitor sets its loss bit. -/
  | refLoss (h : HalfId) (r : RefClk)
  /-- REF_RETURN (R487). A lost reference returns, and XOOK or RCOK is set. -/
  | refReturn (h : HalfId) (r : RefClk)
  /-- RELOCK (R491). A write of CLK_PLLn_CFG.RELOCK relocks a coasting PLL, or is refused while the reference is lost. -/
  | relock (a : Agent) (h : HalfId) (n : PllId)
  /-- PLL_CONFIG_WRITE (R492). A write of CLK_PLLn_CFG starts an FBDIV slew, or a relock when POSTDIV or REF changes, or is refused. -/
  | pllConfigWrite (a : Agent) (h : HalfId) (n : PllId) (value : Nat)
  /-- FBDIV_SLEW_STEP (R492). Every 2 µs, a slewing core PLL moves one FBDIV step toward its target. -/
  | fbdivSlewStep (h : HalfId)
  /-- SSC_WRITE (R493). A write to CLK_SSCn sets a new spread depth and rate, to be applied at the next modulation period. -/
  | sscWrite (a : Agent) (h : HalfId) (n : PllId) (value : Nat)
  /-- SSC_APPLY (R493). A new spread setting takes effect at the start of the next modulation period. -/
  | sscApply (h : HalfId) (n : PllId)
  /-- MUX_SELECT (R495). A write of CLK_MUXd.SEL starts the glitch-free switch handshake and sets BUSY. -/
  | muxSelect (a : Agent) (h : HalfId) (d : MuxId) (sel : Fin 4)
  /-- MUX_SWITCH_DONE (R495). The multiplexer starts passing the new clock and clears BUSY. -/
  | muxSwitchDone (h : HalfId) (d : MuxId)
  /-- MUX_HANG (R498). BUSY has stayed 1 for 10 µs; HANG is set and the clock interrupt is raised. -/
  | muxHang (h : HalfId) (d : MuxId)
  /-- FORCE_SWITCH (R498). A write of CLK_MUXd with FORCE = 1 while the domain is held in reset passes the new clock at once. -/
  | forceSwitch (a : Agent) (h : HalfId) (d : MuxId) (sel : Fin 4)
  /-- DOMAIN_RESET (R498). A write of PWR_DOM_RST holds or releases clock domains in reset. -/
  | domainReset (a : Agent) (h : HalfId) (hold : Nat)
  /-- FMON_GO (R497). A write of CLK_FMON_CTL.GO starts a frequency measurement. -/
  | fmonGo (a : Agent) (h : HalfId) (base : Bool) (target : Fin 8)
  /-- FMON_DONE (R497). A frequency measurement ends after 1,024 timebase cycles and sets DONE with COUNT. -/
  | fmonDone (h : HalfId) (count : Nat)
  /-- POWER_OFF_REQUEST (R500). A PWR_CTL write with OP = 0 requests power-off of a core or grove, which is accepted or refused. -/
  | powerOffRequest (a : Agent) (h : HalfId) (u : PowerUnit)
  /-- POWER_DOWN_DONE (R500). Power-down completes after 2 µs, and the unit is Off. -/
  | powerDownDone (h : HalfId) (u : PowerUnit)
  /-- WAKE_REQUEST (R501). A PWR_CTL write with OP = 1 requests a wake from Off, which starts, queues or is refused. -/
  | wakeRequest (a : Agent) (h : HalfId) (u : PowerUnit)
  /-- WAKE_RAMP_DONE (R249). The 240-cycle rail ramp ends, and clearing of the unit's SRAM and flags begins. -/
  | wakeRampDone (h : HalfId) (u : PowerUnit)
  /-- WAKE_COMPLETE (R249). Clearing, verification and release end, and the unit becomes Active or Spare. -/
  | wakeComplete (h : HalfId) (u : PowerUnit) (failed : List CoreId)
  /-- TOKEN_HEARTBEAT (R503). Every 10 µs, a half whose watchdog has not expired sends a token heartbeat. -/
  | tokenHeartbeat (h : HalfId)
  /-- PEER_TOKEN_HEARTBEAT (R504). A relayed heartbeat of the other half arrives and clears FENCED if no grant has occurred. -/
  | peerTokenHeartbeat (h : HalfId)
  /-- HALF_FENCE (R504). After 30 µs with no heartbeat from the other half, a half fences itself. -/
  | halfFence (h : HalfId)
  /-- TOKEN_GRANT (R505). After 1 ms of silence from the other half, the token logic grants the token and marks the other half lost. -/
  | tokenGrant (h : HalfId)
  /-- BRIDGE_LINK_FAIL (R506). The bridge data link fails while both halves send heartbeats; BRIDGE is set and the bridge interrupt is raised. -/
  | bridgeLinkFail
  /-- AGE_MEASURE (R507). A write of AGE_CTL.GO starts counting the ring gauges. -/
  | ageMeasure (a : Agent) (h : HalfId)
  /-- AGE_MEASURE_DONE (R507). The 4,096-cycle gauge count ends, and DRIFT and WORST are updated. -/
  | ageMeasureDone (h : HalfId) (counts : List (Nat × Nat))
  /-- MARGIN_REPLAN (R508). Dexca re-plans the margin plan at start and every 24 hours. -/
  | marginReplan
  /-- POWER_AVERAGE_CHECK (R528). Every 1 ms, Dexca reads MOD_PWR and slews the core frequency down while the 1 s average exceeds 2,200 W. -/
  | powerAverageCheck (avg now vin : Nat)
  /-- JUNCTION_READ (R534). Every 1 ms, Dexca reads the junction sensors and throttles or restores the core frequency. -/
  | junctionRead (half0 half1 inlet : Nat) (tenMs : Bool)
  /-- CAD_REGEN_WRITE (R544). Dexca writes MOD_CAD.REGEN to request regeneration or bypass. -/
  | cadRegenWrite (a : Agent) (regen : Bool)
  /-- CAD_REGEN_APPLY (R545). A REGEN change takes effect in the first gap of at least 200 ns after the next mark frame. -/
  | cadRegenApply
  /-- PCIE_CONFIG_REQUEST (R417). The host sends a PCIe configuration request to the function. -/
  | pcieConfigRequest (offset : Nat) (data : Option Nat)
  /-- BAR0_BAD_ACCESS (R418). A BAR0 access of the wrong width or alignment is dropped or aborted, and counted in BADACC. -/
  | bar0BadAccess (write : Bool) (offset len : Nat)
  /-- REGISTER_WRITE (R15). A write to a register that has no row of its own is applied by its access type, or ignored and counted as a privilege fault. -/
  | registerWrite (a : Agent) (offset len : Nat) (value : Option Nat)
  /-- BAR2_ACCESS (R422). A host access through a BAR2 aperture reaches local memory raw, or is refused or held. -/
  | bar2Access (offset len : Nat) (data : Option (List Byte))
  /-- STREAM_SUBMIT (R425). A 64-byte write to DXC_STRm_SUB appends a descriptor to the stream's ring, or is discarded with OVF. -/
  | streamSubmit (m : StreamId) (tlps : Nat) (desc : List Byte)
  /-- WORK (R424). A stream processes a WORK descriptor and posts its work entry to the named queue, waiting if the queue is full. -/
  | work (m : StreamId)
  /-- WAIT (R424). A stream processes a WAIT descriptor and waits on the flag. -/
  | wait (m : StreamId)
  /-- STREAM_SET (R424). A stream processes a SET descriptor and sets the flag with release semantics. -/
  | streamSet (m : StreamId)
  /-- MBX_IN_WR (R426). A word written to MBX_IN_WR enters the inbound queue, subject to lock and room. -/
  | mbxInWr (a : Agent) (h : HalfId) (ch : ChanId) (word : Nat)
  /-- MBX_OUT_WR (R426). The ranger writes a word to MBX_OUT_WR. -/
  | mbxOutWr (a : Agent) (h : HalfId) (ch : ChanId) (word : Nat)
  /-- MBX_IN_RD (R431). A read of MBX_IN_RD pops the head word, or sets UNDER on an empty queue. -/
  | mbxInRd (a : Agent) (h : HalfId) (ch : ChanId)
  /-- MBX_OUT_RD (R431). A read of MBX_OUT_RD pops the head word, or sets UNDER on an empty queue. -/
  | mbxOutRd (a : Agent) (h : HalfId) (ch : ChanId)
  /-- FLUSH_IN (R431). A write of MBX_CTL.FLUSH_IN empties the inbound queue and releases its lock. -/
  | flushIn (h : HalfId) (ch : ChanId)
  /-- FLUSH_OUT (R431). A write of MBX_CTL.FLUSH_OUT empties the outbound queue. -/
  | flushOut (h : HalfId) (ch : ChanId)
  /-- IRQ_CLAIM (R433). A read of IRQ_CLAIM returns the highest pending enabled source and clears its pending bit. -/
  | irqClaim (a : Agent) (h : HalfId)
  /-- IRQ_COALESCE_TIMEOUT (R434). TIME µs have passed since the first coalesced event, and the request line asserts. -/
  | irqCoalesceTimeout (h : HalfId)
  /-- INFO (R450). Dexca returns serial, stepping, version, job state, lifecycle state and lead. -/
  | info (h : HalfId) (ch : ChanId)
  /-- STATUS (R450). Dexca returns epoch, step, job level, score and the number of declared devices. -/
  | status (h : HalfId) (ch : ChanId)
  /-- NODE_DESC (R450). Dexca writes a node descriptor to glade and returns its table version and epoch. -/
  | nodeDesc (h : HalfId) (ch : ChanId)
  /-- OP_QUERY (R450). Dexca returns the state and progress of a long command by handle. -/
  | opQuery (h : HalfId) (ch : ChanId)
  /-- CH_LOG (R450). Dexca returns the last six requests executed on the channel. -/
  | chLog (h : HalfId) (ch : ChanId)
  /-- JOB_LOAD (R453). Dexca verifies the job block and loads the job: tables, identity, memories, seed, spares, partners and port retraining. -/
  | jobLoad (h : HalfId) (ch : ChanId)
  /-- JOB_START (R451). Dexca starts the job at the named beat and step. -/
  | jobStart (h : HalfId) (ch : ChanId)
  /-- JOB_STOP (R452). Dexca passes STOP_REQ to the hall principal, or aborts a load in progress. -/
  | jobStop (h : HalfId) (ch : ChanId)
  /-- JOB_UNLOAD (R452). Dexca disables units, clears glade, initialises the tiers, clears the fail-sets and forgets the job. -/
  | jobUnload (h : HalfId) (ch : ChanId)
  /-- ARM_INSTALL (R452). The hall principal's Dexca sends a new armature to every device for installation at a target beat. -/
  | armInstall (h : HalfId) (ch : ChanId)
  /-- SCHED_SET (R355). Dexca verifies a beat schedule and places it for the next step start. -/
  | schedSet (h : HalfId) (ch : ChanId)
  /-- RESTORE (R455). Dexca checks the restore block and its counter, writes VEC_RNG_STEP and refreshes partner slots. -/
  | restore (h : HalfId) (ch : ChanId)
  /-- XFER (R457). Dexca starts a DMA transfer between host memory and device memory, with CRCs written or verified. -/
  | xfer (h : HalfId) (ch : ChanId)
  /-- XFER_ABORT (R456). Dexca aborts a running XFER by handle. -/
  | xferAbort (h : HalfId) (ch : ChanId)
  /-- B2WIN (R458). Dexca writes DXC_B2WINn to remap a BAR2 aperture. -/
  | b2win (h : HalfId) (ch : ChanId)
  /-- FLAG_SET (R460). Dexca sets a flag as the host source and replies after the set completes. -/
  | flagSet (h : HalfId) (ch : ChanId)
  /-- FLAG_POISON (R460). Dexca poisons a range of flags of this device with CAUSE 0b100. -/
  | flagPoison (h : HalfId) (ch : ChanId)
  /-- STREAM_RESTART (R460). Dexca clears a stream's STOP, retrying or discarding the refused descriptor. -/
  | streamRestart (h : HalfId) (ch : ChanId)
  /-- CKPT_CFG (R462). Dexca sets the checkpoint interval bounds and risk weights. -/
  | ckptCfg (h : HalfId) (ch : ChanId)
  /-- RISK (R461). Dexca returns λ and the pair with the highest score. -/
  | risk (h : HalfId) (ch : ChanId)
  /-- UNIT_DISABLE (R462). Dexca disables a core, grove or port under the four-step disable procedure. -/
  | unitDisable (h : HalfId) (ch : ChanId)
  /-- EXPEL (R462). Dexca passes EXPEL_REQ to the hall principal to declare a device failed. -/
  | expel (h : HalfId) (ch : ChanId)
  /-- SURVEY_LOAD (R462). Dexca verifies and installs a survey package. -/
  | surveyLoad (h : HalfId) (ch : ChanId)
  /-- PORT_RELEASE (R462). Dexca writes FAB_QCLR to release a quarantined port. -/
  | portRelease (h : HalfId) (ch : ChanId)
  /-- FAB_MODE (R462). Dexca writes FAB_CFG.MODE to select check or discover mode. -/
  | fabMode (h : HalfId) (ch : ChanId)
  /-- PEERS (R462). Dexca writes the peer records of the half's ports to glade. -/
  | peers (h : HalfId) (ch : ChanId)
  /-- ATTEST (R478). Dexca forms and signs an attestation report over the given nonce. -/
  | attest (h : HalfId) (ch : ChanId)
  /-- CERT_CHAIN (R476). Dexca writes the certificate chain to glade, leaf first. -/
  | certChain (h : HalfId) (ch : ChanId)
  /-- AUTH_LOAD (R483). Dexca verifies an authorisation and applies its grants. -/
  | authLoad (h : HalfId) (ch : ChanId)
  /-- AUTH_CLEAR (R483). Dexca clears the loaded authorisation's grants. -/
  | authClear (h : HalfId) (ch : ChanId)
  /-- LIFECYCLE (R481). Dexca verifies a lifecycle request and burns revocations, MINSVN, lifecycle and commit fuses. -/
  | lifecycle (h : HalfId) (ch : ChanId)
  /-- BAD_OPCODE (R441). A request with an unknown opcode is answered BAD_OPCODE. -/
  | badOpcode (h : HalfId) (ch : ChanId)
  /-- CHANNEL15_DISCARD (R446). A message on inbound channel 15 is discarded without reply and counted. -/
  | channel15Discard (h : HalfId)
  /-- OP_DONE (R464). A long command ends, its handle is freed, and OP_DONE is posted. -/
  | opDone (handle : Nat) (hostData : List Byte) (hostError : Bool) (badReads : Nat)
  /-- EVENT_POST (R465). A held event is posted when channel 15 has room, preceded by LOST if events were dropped. -/
  | eventPost (h : HalfId)
  /-- WORK_ENTRY_OP (R179). A node accepts an OP entry and spreads its embedded descriptor over its Active slots. -/
  | workEntryOp (nd : NodeId) (q : Fin 8)
  /-- WORK_ENTRY_PROG (R180). A node accepts a PROG entry and spreads one command ring per part, or completes SLOT_MISMATCH. -/
  | workEntryProg (nd : NodeId) (q : Fin 8)
  /-- PART_START (R182). A waiting part starts on the lowest-numbered Idle context of its core. -/
  | partStart (c : CoreId)
  /-- PART_COMPLETE (R181). A part completes once its context has ended and every accepted command has completed. -/
  | partComplete (c : CoreId) (n : CtxId)
  /-- END (R184). An END command ends the context's part. -/
  | cmdEnd (c : CoreId) (n : CtxId)
  /-- INVALID_CLASS (R184). A command with a reserved CLASS completes with INVALID_OP. -/
  | invalidClass (c : CoreId) (n : CtxId)
  /-- CORE_CLOCK_GATE (R187). After 16 idle cycles with no Ready context and no work, the core gates its clocks. -/
  | coreClockGate (c : CoreId)
  /-- MAT (R126). A matrix descriptor is checked and accepted. -/
  | mat (c : CoreId) (n : CtxId)
  /-- BEGIN_CLEAR_POINT (R107). A begin's clear point sets the tile to +0 and frees its far entries. -/
  | beginClearPoint (c : CoreId)
  /-- K_BLOCK_LOAD (R132). The stationary loader starts loading a k-block once a buffer is free. -/
  | kBlockLoad (c : CoreId)
  /-- K_BLOCK_STREAM (R136). A k-block begins to stream its sweeps of activation rows through the array. -/
  | kBlockStream (c : CoreId)
  /-- DEPOSIT (R100). A deposit reaches an accumulator element and is added in near form, rebased, placed or promoted. -/
  | deposit (c : CoreId)
  /-- RESIDUE_DEPOSIT (R86). The residue port deposits one diverted product exactly at its own position. -/
  | residueDeposit (c : CoreId) (col : Fin 128)
  /-- FAR_DEPOSIT (R103). The far adder adds a queued deposit into a spill-table value. -/
  | farDeposit (c : CoreId)
  /-- GLADE_DEPOSIT (R104). A deposit to a glade-held element completes its read-modify-write. -/
  | gladeDeposit (c : CoreId)
  /-- PROMOTION_TIMEOUT (R105). No glade slot is freed within TIMEOUT; the operation completes ACC_EXHAUSTED and the tile is poisoned with NAN_IN. -/
  | promotionTimeout (c : CoreId)
  /-- MAT_COMPLETE (R136). A matrix operation completes after its last deposit and residue deposit. -/
  | matComplete (c : CoreId)
  /-- DRAIN (R112). A drain descriptor is checked and accepted. -/
  | drain (c : CoreId) (n : CtxId)
  /-- DRAIN_START (R109). A drain starts reading tile rows once the scoreboard allows. -/
  | drainStart (c : CoreId)
  /-- DRAIN_COMPLETE (R114). A drain completes, writing rounded elements and escapes, and releases the tile if asked. -/
  | drainComplete (c : CoreId)
  /-- TAG_CLR (R150). A write of MAT_CTL.TAG_CLR clears MAT_TAG.VALID. -/
  | tagClr (a : Agent) (c : CoreId)
  /-- PAIR_CFG_WRITE (R147). Dexca writes GRV_PAIR_CFG.EN to request a pair-mode change. -/
  | pairCfgWrite (a : Agent) (g : GroveId) (en : Fin 16)
  /-- VADD (R153). Vector add, rounded once. -/
  | vadd (c : CoreId) (n : CtxId)
  /-- VSUB (R153). Vector subtract, rounded once. -/
  | vsub (c : CoreId) (n : CtxId)
  /-- VMUL (R153). Vector multiply, rounded once. -/
  | vmul (c : CoreId) (n : CtxId)
  /-- VFMA (R154). Fused multiply-add, rounded once. -/
  | vfma (c : CoreId) (n : CtxId)
  /-- VMAX (R155). Element-wise maximum. -/
  | vmax (c : CoreId) (n : CtxId)
  /-- VMIN (R155). Element-wise minimum. -/
  | vmin (c : CoreId) (n : CtxId)
  /-- VAXPY (R153). s × a + b, rounded once. -/
  | vaxpy (c : CoreId) (n : CtxId)
  /-- VEXP (R153). Correctly rounded exponential. -/
  | vexp (c : CoreId) (n : CtxId)
  /-- VLOG (R153). Correctly rounded natural logarithm. -/
  | vlog (c : CoreId) (n : CtxId)
  /-- VSQRT (R153). Correctly rounded square root. -/
  | vsqrt (c : CoreId) (n : CtxId)
  /-- VRSQ (R155). Correctly rounded reciprocal square root. -/
  | vrsq (c : CoreId) (n : CtxId)
  /-- VDIV (R155). Correctly rounded division. -/
  | vdiv (c : CoreId) (n : CtxId)
  /-- VABS (R153). Absolute value. -/
  | vabs (c : CoreId) (n : CtxId)
  /-- CVT (R77). Format conversion, including block-scaled FP4. -/
  | cvt (c : CoreId) (n : CtxId)
  /-- QCVT (R169). Scale-managed quantisation with AMAX, NSAT and NNONFIN merged into the scale record. -/
  | qcvt (c : CoreId) (n : CtxId)
  /-- SCUPD (R170). Update of a scale record's estimate and scale. -/
  | scupd (c : CoreId) (n : CtxId)
  /-- RSUM (R154). Exact sum reduction, rounded once. -/
  | rsum (c : CoreId) (n : CtxId)
  /-- RSUMSQ (R154). Exact sum of squares, rounded once. -/
  | rsumsq (c : CoreId) (n : CtxId)
  /-- RDOT (R154). Exact dot product, rounded once. -/
  | rdot (c : CoreId) (n : CtxId)
  /-- RAMAX (R154). Largest absolute value. -/
  | ramax (c : CoreId) (n : CtxId)
  /-- SMCOMB (R161). Combination of online-softmax pairs. -/
  | smcomb (c : CoreId) (n : CtxId)
  /-- EXDEP (R159). Exact deposit of exchange values into accumulator elements. -/
  | exdep (c : CoreId) (n : CtxId)
  /-- EXRED (R160). Exact sum of up to 16 packed exchange arrays. -/
  | exred (c : CoreId) (n : CtxId)
  /-- OPTSTEP (R164). Adaptive-moment optimiser step with requantised moments. -/
  | optstep (c : CoreId) (n : CtxId)
  /-- RNGU (R175). Writes the 32-bit draw of each element. -/
  | rngu (c : CoreId) (n : CtxId)
  /-- RNGDROP (R175). Dropout by random threshold. -/
  | rngdrop (c : CoreId) (n : CtxId)
  /-- VEC_INVALID_OP (R550). A vector descriptor with an undefined OP completes INVALID_OP. -/
  | vecInvalidOp (c : CoreId) (n : CtxId)
  /-- VEC_COMPLETE (R189). A vector operation completes. -/
  | vecComplete (c : CoreId)
  /-- LOAD (R195). A LOAD transfer is checked and accepted. -/
  | load (c : CoreId) (n : CtxId)
  /-- STORE (R195). A STORE transfer is checked and accepted. -/
  | store (c : CoreId) (n : CtxId)
  /-- TRANSFER_COMPLETE (R196). A LOAD or STORE completes, with CRCs verified or written. -/
  | transferComplete (c : CoreId) (id : Nat) (badReads : Nat)
  /-- COND (R197). A COND command is accepted and is unresolved. -/
  | cond (c : CoreId) (n : CtxId)
  /-- COND_RESOLVE (R197). Once earlier commands have completed, COND reads its flag and skips or continues. -/
  | condResolve (c : CoreId) (n : CtxId)
  /-- RUN_AHEAD_READ (R199). The load engine reads ahead for a LOAD behind an unresolved COND into its buffer. -/
  | runAheadRead (c : CoreId) (n : CtxId) (k : Fin 16) (badReads : Nat)
  /-- SPEC_COMMIT (R206). A confirmed speculation adds SHADOW into TARGET and the shadow counters into the core's, and clears the partition. -/
  | specCommit (c : CoreId)
  /-- SPEC_EXPIRE (R208). An unresolved speculation reaches beat b + LIFE and is cancelled as expired. -/
  | specExpire (h : HalfId) (handle : Nat)
  /-- DISABLE_CORE (R209). CORE_DIS_CTL.CORE closes the whole core and starts its drain timer. -/
  | disableCore (a : Agent) (c : CoreId)
  /-- DISABLE_MAT (R209). CORE_DIS_CTL.MAT closes the matrix array and drain path queues. -/
  | disableMat (a : Agent) (c : CoreId)
  /-- DISABLE_VEC (R209). CORE_DIS_CTL.VEC closes the vector engine queue. -/
  | disableVec (a : Agent) (c : CoreId)
  /-- DISABLE_LOAD (R209). CORE_DIS_CTL.LOAD closes the load engine queue. -/
  | disableLoad (a : Agent) (c : CoreId)
  /-- DISABLE_STORE (R209). CORE_DIS_CTL.STORE closes the store engine queue. -/
  | disableStore (a : Agent) (c : CoreId)
  /-- DISABLE_GROVE (R209). GRV_DIS_CTL.GROVE closes the dispatcher and all cores of the grove. -/
  | disableGrove (a : Agent) (g : GroveId)
  /-- DISABLE_DRAIN_EXPIRE (R209). The drain time ends; held operations abort with ABORTED_DISABLE and the unit's flags are poisoned. -/
  | disableDrainExpire (u : DisUnit)
  /-- SET (R220). FLAG SET sets a flag on any device of the job with release semantics. -/
  | set (c : CoreId) (n : CtxId)
  /-- CLEAR (R220). FLAG CLEAR clears SET and POISON of consecutive flags. -/
  | clear (c : CoreId) (n : CtxId)
  /-- CLAIM (R220). FLAG CLAIM makes the issuing context owner of consecutive flags. -/
  | claim (c : CoreId) (n : CtxId)
  /-- UNCLAIM (R220). FLAG UNCLAIM returns owned flags to their unit. -/
  | unclaim (c : CoreId) (n : CtxId)
  /-- FENCE (R235). FLAG FENCE waits until the fence of the named beat. -/
  | fence (c : CoreId) (n : CtxId)
  /-- SET_REACHES_FLAG (R221). A set reaches a flag and sets it, is absorbed, or wakes the earliest waiter. -/
  | setReachesFlag (f : FlagId) (src : Src) (more : Nat)
  /-- ADD32 (R244). 32-bit atomic add at a bank. -/
  | add32 (addr operand : Nat)
  /-- ADD64 (R244). 64-bit atomic add at a bank. -/
  | add64 (addr operand : Nat)
  /-- SWAP32 (R244). 32-bit atomic swap at a bank. -/
  | swap32 (addr operand : Nat)
  /-- SWAP64 (R244). 64-bit atomic swap at a bank. -/
  | swap64 (addr operand : Nat)
  /-- MERGE (R244). Locked 16-byte read-modify-write for vector record merges. -/
  | merge (addr : Nat) (m : MergeOp)
  /-- BIST_REGION_START (R252). Every GAP µs, the background test saves and March-tests a 4 KiB region. -/
  | bistRegionStart (u : BistUnit) (failWord : Option Nat)
  /-- BIST_FORCE (R254). The region's idle-cycle window expires, and the test steals bank cycles. -/
  | bistForce (u : BistUnit) (stolen : Nat)
  /-- BIST_REGION_END (R253). The region is restored from the test buffer. -/
  | bistRegionEnd (u : BistUnit) (readBackBad : Bool)
  /-- GLADE_CLEAR (R251). A write of GLD_CLR_CTL.GO starts clearing all glade rows. -/
  | gladeClear (a : Agent) (h : HalfId)
  /-- GLADE_CLEAR_END (R251). The glade clear ends, and held accesses proceed. -/
  | gladeClearEnd (h : HalfId)
  /-- HBM_INIT (R266). A write of HBM_INIT_CTL.GO starts initialising the half's HBM user space with valid CRCs. -/
  | hbmInit (a : Agent) (h : HalfId)
  /-- LPX_INIT (R266). A write of LPX_INIT_CTL.GO starts initialising the half's LPDDR user space. -/
  | lpxInit (a : Agent) (h : HalfId)
  /-- INIT_END (R279). An initialisation ends, DONE is set, and held accesses proceed. -/
  | initEnd (h : HalfId) (lpx : Bool)
  /-- HBM_TEMP_READING (R274). Every 256 µs, a stack's temperature is read and its throttle level moves by at most one. -/
  | hbmTempReading (st : StackId) (reading : Option Nat) (corrected : Nat)
  /-- LPDDR_REFRESH_READ (R276). Every 1 ms, each package's mode register 4 is read and refresh follows it. -/
  | lpddrRefreshRead (b : BusId) (extraRefresh corrected : Nat)
  /-- PORT_ENABLE (R299). An enabled DOWN port enters DETECT. -/
  | portEnable (p : PortId)
  /-- DETECT_RETRY (R299). Every 10 ms, a port in DETECT retries. -/
  | detectRetry (p : PortId)
  /-- PEER_SIGNAL (R299). The peer's signal is detected, and the port equalises. -/
  | peerSignal (p : PortId)
  /-- EQUALISE_DONE (R299). Equalisation ends at 4 or 2 lanes, or the port goes DOWN for a retry after 100 ms. -/
  | equaliseDone (p : PortId) (lanes : Fin 16)
  /-- IDENTITY_RECORD (R300). Three identical identity records with good CRC are accepted from the peer. -/
  | identityRecord (p : PortId) (copies : List (List Byte))
  /-- IDENT_TIMEOUT (R299). IDENT does not complete within 100 µs, and the port goes DOWN. -/
  | identTimeout (p : PortId)
  /-- QUARANTINE_BEACON (R299). Every 1 ms, a quarantined port sends its identity record. -/
  | quarantineBeacon (p : PortId)
  /-- FLIT_RECEIVE (R285). A flit arrives, is accepted in FSEQ order, or is discarded with a replay request. -/
  | flitReceive (p : PortId) (f : Flit)
  /-- RETRAIN_TIMEOUT (R299). RETRAIN does not finish within 5 ms, and the port goes DOWN. -/
  | retrainTimeout (p : PortId)
  /-- PORT_ACK_TIMEOUT (R285). No ACK for 10 µs with flits outstanding sends the port DOWN, and unacknowledged packets are rerouted. -/
  | portAckTimeout (p : PortId)
  /-- SIGNAL_LOSS (R285). A port loses signal and goes DOWN, and its unacknowledged packets are rerouted. -/
  | signalLoss (p : PortId)
  /-- FAB_QCLR (R304). A write of FAB_QCLR sends quarantined ports to DOWN to train again. -/
  | fabQclr (a : Agent) (h : HalfId) (ports : Nat)
  /-- PORT_DISABLE (R306). A write of FAB_DIS_CTL closes a port and starts its drain. -/
  | portDisable (a : Agent) (h : HalfId) (ports : Nat)
  /-- PORT_DRAIN_EXPIRE (R306). A port's drain time ends; packets still unacknowledged are rerouted or aborted and the port is disabled. -/
  | portDrainExpire (p : PortId)
  /-- PUT (R311). Fabric PUT copies bytes to a global address. -/
  | put (c : CoreId) (n : CtxId)
  /-- GET (R311). Fabric GET copies bytes from a global address. -/
  | get (c : CoreId) (n : CtxId)
  /-- EXADD (R314). Fabric EXADD deposits exchange values into remote accumulator elements. -/
  | exadd (c : CoreId) (n : CtxId)
  /-- ATOMIC (R311). Fabric ATOMIC performs an atomic at a remote address. -/
  | atomic (c : CoreId) (n : CtxId)
  /-- TOKEN (R314). Fabric TOKEN sends token records to a half's understory. -/
  | token (c : CoreId) (n : CtxId)
  /-- CONFIRM (R311). Fabric CONFIRM confirms a speculation at a half. -/
  | confirm (c : CoreId) (n : CtxId)
  /-- CANCEL (R311). Fabric CANCEL cancels a speculation at a half. -/
  | cancel (c : CoreId) (n : CtxId)
  /-- FABRIC_INVALID_OP (R552). A fabric descriptor with an undefined OP completes INVALID_OP. -/
  | fabricInvalidOp (c : CoreId) (n : CtxId)
  /-- REDUCE_SCATTER (R320). Collective reduce-scatter of exact contributions to owners. -/
  | reduceScatter (c : CoreId) (n : CtxId)
  /-- ALL_GATHER (R326). Collective all-gather of owners' chunks. -/
  | allGather (c : CoreId) (n : CtxId)
  /-- ALL_REDUCE (R326). Collective all-reduce: reduce-scatter followed by broadcast of owner chunks. -/
  | allReduce (c : CoreId) (n : CtxId)
  /-- PERMUTE (R327). Collective permute into the layout of an armed armature. -/
  | permute (c : CoreId) (n : CtxId)
  /-- FABRIC_COMPLETE (R315). A fabric operation completes when every DONE has returned. -/
  | fabricComplete (op : Nat)
  /-- COLL_COMPLETE (R328). A collective completes, and its collective record is written. -/
  | collComplete (op : Nat)
  /-- PUT_PACKET (R288). A PUT packet arrives, is checked, ordered and applied, and is answered with DONE. -/
  | putPacket (p : PortId) (pkt : Packet)
  /-- PACKET_RESEND (R289). 1 µs after a reorder-store refusal, the previous hop resends the packet. -/
  | packetResend (p : PortId) (pkt : Packet)
  /-- GET_PACKET (R287). A GET packet arrives, is served and verified, and is answered with GETDATA and DONE. -/
  | getPacket (p : PortId) (pkt : Packet) (badReads : Nat)
  /-- GETDATA (R290). Returned data arrives and is written at the return address. -/
  | getdata (p : PortId) (pkt : Packet)
  /-- EXADD_PACKET (R110). Exchange values arrive and are deposited atomically as external deposits. -/
  | exaddPacket (p : PortId) (pkt : Packet)
  /-- FLAGSET (R229). A fabric flag set arrives and is applied in OSEQ order. -/
  | flagset (p : PortId) (pkt : Packet)
  /-- TOKEN_PACKET (R338). Token records arrive in the understory, or are answered UNDERSTORY_FULL, NO_TEMPLATE or TAG_BUSY. -/
  | tokenPacket (p : PortId) (pkt : Packet)
  /-- ATOMIC_PACKET (R245). An ATOMIC packet arrives and its atomic is performed at the bank. -/
  | atomicPacket (p : PortId) (pkt : Packet)
  /-- CONFIRM_PACKET (R208). A CONFIRM arrives at the half and records the resolution, or is counted as double or unknown. -/
  | confirmPacket (p : PortId) (pkt : Packet)
  /-- CANCEL_PACKET (R207). A CANCEL arrives at the half and records the resolution. -/
  | cancelPacket (p : PortId) (pkt : Packet)
  /-- DONE (R290). A DONE packet arrives and is matched to its fabric tracker entry, or dropped. -/
  | done (p : PortId) (pkt : Packet)
  /-- PACKET_BADTYPE (R287). A packet with a reserved TYPE or CLASS is dropped and counted. -/
  | packetBadtype (p : PortId) (pkt : Packet)
  /-- TRANSIT (R295). A transit packet is switched to its next port. -/
  | transit (p : PortId) (pkt : Packet)
  /-- FAB_TIMEOUT (R290). No DONE within FAB_CFG.TMO, and the operation completes FAB_TIMEOUT. -/
  | fabTimeout (tag : Fin 1024)
  /-- SYNC (R350). A BEATMARK SYNC arrives and is answered with REPLY. -/
  | sync (p : PortId) (pkt : Packet) (t2 t3 : Nat)
  /-- REPLY (R350). A BEATMARK REPLY arrives, and the offset is computed and steered toward. -/
  | reply (p : PortId) (pkt : Packet) (t4 : Nat)
  /-- LATE (R358). A BEATMARK LATE report arrives at a principal and is counted or passed on. -/
  | late (p : PortId) (pkt : Packet)
  /-- DECIDE (R359). A BEATMARK DECIDE arrives; it extends the phase or closes it, and is passed on. -/
  | decide (p : PortId) (pkt : Packet)
  /-- SHIFT (R381). A BEATMARK SHIFT arrives and moves deadlines, openings and the next step start by COUNT beats. -/
  | shift (p : PortId) (pkt : Packet)
  /-- BEATMARK_BADKIND (R351). A BEATMARK of reserved KIND is discarded. -/
  | beatmarkBadkind (p : PortId) (pkt : Packet)
  /-- HEARTBEAT (R373). A HEARTBEAT arrives at a watcher and updates the highest beat seen. -/
  | heartbeat (p : PortId) (pkt : Packet)
  /-- FAILNOTE (R376). The hall principal receives a FAILNOTE and probes, or declares at once on SELFFAIL. -/
  | failnote (p : PortId) (pkt : Packet)
  /-- PROBE (R376). Dexca of the subject receives a PROBE and replies. -/
  | probe (p : PortId) (pkt : Packet)
  /-- PROBE_REPLY (R376). A probe reply arrives, and the note is counted as false. -/
  | probeReply (p : PortId) (pkt : Packet)
  /-- PROBE_TIMEOUT (R376). No probe reply within PROBE µs, and the hall principal declares the device with beat f. -/
  | probeTimeout (dev : Nat)
  /-- DECLARE (R379). A DECLARE arrives and is passed on; a declared device disables itself. -/
  | declare (p : PortId) (pkt : Packet)
  /-- STOP (R385). A STOP arrives; the device disables cores and ports and reports JOB_STOPPED. -/
  | stop (p : PortId) (pkt : Packet)
  /-- DIGEST (R404). A holder's slot digest arrives at its judge. -/
  | digest (p : PortId) (pkt : Packet)
  /-- STOP_REQ (R452). The hall principal receives a stop request and stops the job. -/
  | stopReq (p : PortId) (pkt : Packet)
  /-- EXPEL_REQ (R462). The hall principal receives an expel request and declares the device without a probe. -/
  | expelReq (p : PortId) (pkt : Packet)
  /-- ARM_ACK (R47). The hall principal receives a device's acknowledgement or refusal of an armature. -/
  | armAck (p : PortId) (pkt : Packet)
  /-- TABLE (R375). A piece of a table arrives and is assembled and checked when complete. -/
  | table (p : PortId) (pkt : Packet)
  /-- MGMT_UNKNOWN (R375). A management record of unknown MKIND is discarded. -/
  | mgmtUnknown (p : PortId) (pkt : Packet)
  /-- BEAT_BOUNDARY (R348). A local beat boundary arrives: counters are snapshot, heartbeats sent and windows opened and closed. -/
  | beatBoundary
  /-- PHASE_DEADLINE (R358). A phase's deadline passes; late devices set LFLAG and report LATE. -/
  | phaseDeadline (ph : Fin 64)
  /-- EXTEND_DECIDE (R359). At boundary + 5 µs, the hall principal decides to extend or close and sends DECIDE. -/
  | extendDecide (ph : Fin 64)
  /-- DECIDE_TIMEOUT (R359). No DECIDE by the next boundary; DECIDE_ERR is set and the phase closes as under drop. -/
  | decideTimeout (ph : Fin 64)
  /-- BEAT_FENCE (R234). 200 ns after the boundary, the fence applies beat-tied changes and makes earlier completions visible. -/
  | beatFence
  /-- ARM_CANCEL (R47). Not every device acknowledged by beat b − 2; the installation is cancelled and CANCEL is set. -/
  | armCancel
  /-- CADENCE_MARK (R349). A mark frame arrives; it is timestamped and regenerated, and steps or miscounts are detected. -/
  | cadenceMark (bits stamp : Nat)
  /-- CADENCE_LOSS (R352). No mark for 2 beats, and the alignment source falls back to FABRIC. -/
  | cadenceLoss
  /-- BEAT_EXCHANGE (R350). An exchange interval expires, and the device sends SYNC to its principal. -/
  | beatExchange (t1 : Nat)
  /-- HOLDOVER (R352). No exchange succeeds for three intervals, and the device enters HOLDOVER. -/
  | holdover
  /-- BEAT_LOST (R353). HOLDOVER exceeds HOLD; LOST is set and the beat interrupt is raised. -/
  | beatLost
  /-- WATCHDOG_EXPIRE (R372). WDOG µs pass without a kick; WDOG_EXP is set and heartbeats stop. -/
  | watchdogExpire (h : HalfId)
  /-- KICK (R372). A write of HLF_HB_CTL.KICK restarts the watchdog. -/
  | kick (a : Agent) (h : HalfId)
  /-- SELFFAIL (R377). A write of HLF_HB_CTL.SELFFAIL makes the device's heartbeats declare it failed. -/
  | selffail (a : Agent) (h : HalfId)
  /-- FAILSET_CLEAR (R379). A write of HLF_FO_CTL.CLR clears every fail-set while no job is loaded. -/
  | failsetClear (a : Agent) (h : HalfId)
  /-- FAILOVER_EXTENSION (R381). At f + 5 µs, the hall principal sends SHIFT to make room for takeover. -/
  | failoverExtension
  /-- SHIFT_TIMEOUT (R381). No SHIFT by the boundary of f + 1; DECIDE_ERR is set and phases run unshifted. -/
  | shiftTimeout
  /-- TAKEOVER_COMPLETE (R382). Every takeover of the step has completed, and the hall principal installs the next epoch. -/
  | takeoverComplete
  /-- RISK_SCORE (R386). Every 10 s, Dexca recomputes device scores and the job level. -/
  | riskScore (m : RiskInputs)
  /-- BLOCK_REPAIR (R378). Dexca handles an escalated block by repairing it from the partner, or by SELFFAIL. -/
  | blockRepair (addr : Nat) (partnerData : List Byte)
  /-- ECHO_CHECK (R401). A checker core runs a sampled k-block from its echo slot and compares echo records. -/
  | echoCheck (h : HalfId) (slot : Nat)
  /-- ECHO_ARBITER (R402). A third core reruns a mismatched block, and a verdict is logged. -/
  | echoArbiter (h : HalfId) (slot : Nat)
  /-- SURVEY_SLICE (R409). Dexca starts a survey slice on a core with slack at a beat fence. -/
  | surveySlice (c : CoreId)
  /-- SURVEY_PROGRAM_END (R408). A survey program ends, and its digest is compared. -/
  | surveyProgramEnd (c : CoreId) (records : List Byte)
  /-- SURVEY_DEADLINE (R410). A core's survey has not completed DEADLINE seconds after due, and it is rotated. -/
  | surveyDeadline (c : CoreId)
  /-- TST_INJ_ARM (R524). A write of TST_INJ.ARM arms an error injection. -/
  | tstInjArm (a : Agent) (h : HalfId) (value : Nat)
  /-- AUX_RETURN (R538). The 3.3 V auxiliary input returns, resetting the standby domain's cause and letting the power controller re-enable the main stages if the main input is in range. -/
  | auxReturn
  /-- EQUALISE_RETRY (R299). 100 ms after a failed equalisation left a port DOWN, the port retries training. -/
  | equaliseRetry (p : PortId)
  deriving DecidableEq, Repr

end Sys2Proof
end

