-- ==== Sys2Proof/Decode.lean ====
section
/-!
DEFINITION. The words of the opcode table. No row of the table has bits: a command of this block is an event, a register access, a
mailbox message or a packet, and none of them is read from an instruction word.
-/

namespace Sys2Proof

/-- The command that the low `nbits` bits of `w` spell by the table's bits: none, because the table gives no row bits. -/
def decodeTableWord (_nbits _w : Nat) : Option Instr := none

end Sys2Proof
end

