-- ==== Sys2Proof/Machine/Maps.lean ====
section
/-!
DEFINITION. The two finite maps that `State` is built from: `AMap`, an association list over any keys with
decidable equality, and `Memory`, the bytes of the device's address space in canonical form.
-/

namespace Sys2Proof.Machine

/-- A finite map as a list of pairs. A key that the list does not name reads as the caller's default. -/
abbrev AMap (κ α : Type) := List (κ × α)

/-- The value of key `k`, or `d` where the map does not name it. -/
def aget {κ α : Type} [DecidableEq κ] (m : AMap κ α) (k : κ) (d : α) : α :=
  match m with
  | [] => d
  | (k', v) :: rest => if k = k' then v else aget rest k d

/-- The value of key `k`, if the map names it. -/
def aget? {κ α : Type} [DecidableEq κ] (m : AMap κ α) (k : κ) : Option α :=
  match m with
  | [] => none
  | (k', v) :: rest => if k = k' then some v else aget? rest k

/-- The map with key `k` holding `v`. -/
def aset {κ α : Type} [DecidableEq κ] (m : AMap κ α) (k : κ) (v : α) : AMap κ α :=
  match m with
  | [] => [(k, v)]
  | (k', v') :: rest => if k = k' then (k, v) :: rest else (k', v') :: aset rest k v

/-- The map without the keys that `p` holds of: they read as the default again. -/
def adrop {κ α : Type} (m : AMap κ α) (p : κ → Bool) : AMap κ α :=
  m.filter (fun kv => !p kv.1)

/-- The bytes of the address space of R258: (local address, byte), addresses strictly rising, no zero byte. -/
abbrev Memory := List (Nat × Byte)

/-- What an address that the list does not name reads as. DESIGN CHOICE (log 2): the spec gives memory no
contents before it is initialised, cleared or written; the hardware's own clears leave zero. -/
def Memory.unlisted : Byte := 0

/-- Every address of the list is at least `lo`, addresses rise strictly, and no byte equals `Memory.unlisted`. -/
def Memory.wfFrom (lo : Nat) (m : Memory) : Bool :=
  match m with
  | [] => true
  | (a, b) :: rest => decide (lo ≤ a) && decide (b ≠ Memory.unlisted) && Memory.wfFrom (a + 1) rest

/-- The canonical form of memory. -/
def Memory.wf (m : Memory) : Bool := Memory.wfFrom 0 m

/-- The byte at address `a`. -/
def Memory.get (m : Memory) (a : Nat) : Byte :=
  match m with
  | [] => Memory.unlisted
  | (a', b) :: rest => if a' = a then b else Memory.get rest a

/-- Memory with the byte `b` at address `a`, in canonical form. -/
def Memory.set (m : Memory) (a : Nat) (b : Byte) : Memory :=
  match m with
  | [] => if b = Memory.unlisted then [] else [(a, b)]
  | (a', b') :: rest =>
    if a < a' then (if b = Memory.unlisted then (a', b') :: rest else (a, b) :: (a', b') :: rest)
    else if a = a' then (if b = Memory.unlisted then rest else (a, b) :: rest)
    else (a', b') :: Memory.set rest a b

/-- Memory with the bytes `bs` at `a`, `a + 1`, …. -/
def Memory.setBytes (m : Memory) (a : Nat) (bs : List Byte) : Memory :=
  match bs with
  | [] => m
  | b :: rest => Memory.setBytes (m.set a b) (a + 1) rest

/-- The `n` bytes at `a`, `a + 1`, …. -/
def Memory.getBytes (m : Memory) (a n : Nat) : List Byte :=
  match n with
  | 0 => []
  | n + 1 => m.get a :: Memory.getBytes m (a + 1) n

/-- Memory with every byte from `lo` up to but not including `hi` zero (a clear of R249, R251 or R266). -/
def Memory.clear (m : Memory) (lo hi : Nat) : Memory :=
  m.filter (fun ab => !(decide (lo ≤ ab.1) && decide (ab.1 < hi)))

/-- Memory with every byte at an address that `p` holds of zero. -/
def Memory.clearIf (m : Memory) (p : Nat → Bool) : Memory := m.filter (fun ab => !p ab.1)

/-- Memory with `f` at every listed address that `p` holds of, in canonical form (log 46). -/
def Memory.loseIf (m : Memory) (p : Nat → Bool) (f : Nat → Byte) : Memory :=
  match m with
  | [] => []
  | (a, b) :: rest =>
    let v := if p a then f a else b
    if v = Memory.unlisted then Memory.loseIf rest p f else (a, v) :: Memory.loseIf rest p f

/-- The number that bytes spell in little-endian order (R12). -/
def leNat (bs : List Byte) : Nat :=
  match bs with
  | [] => 0
  | b :: rest => b.toNat + 256 * leNat rest

/-- The `n` bytes that spell `v` in little-endian order. -/
def natLE (n v : Nat) : List Byte :=
  match n with
  | 0 => []
  | n + 1 => BitVec.ofNat 8 v :: natLE n (v / 256)

/-- Bits `hi` to `lo` of `v`. -/
def bits (v hi lo : Nat) : Nat := v / 2 ^ lo % 2 ^ (hi + 1 - lo)

/-- Bit `i` of `v`. -/
def bit (v i : Nat) : Bool := v / 2 ^ i % 2 == 1

/-- `v` with bits `hi` to `lo` replaced by the low bits of `x`. -/
def setBits (v hi lo x : Nat) : Nat :=
  v - bits v hi lo * 2 ^ lo + x % 2 ^ (hi + 1 - lo) * 2 ^ lo

/-- 1 for true, 0 for false. -/
def b2n (b : Bool) : Nat := if b then 1 else 0

/-- `v` with bit `i` set to `b`. -/
def setBit (v i : Nat) (b : Bool) : Nat := setBits v i i (b2n b)

/-- Add within a counter of `w` bits that stops at its largest value. -/
def satAdd (w v n : Nat) : Nat := min (v + n) (2 ^ w - 1)

/-- The list padded with zero bytes, or cut, to `n` bytes. -/
def padTo (n : Nat) (bs : List Byte) : List Byte := (bs ++ List.replicate n 0).take n

/-- Round `v` up to a multiple of `m`. -/
def roundUp (v m : Nat) : Nat := (v + m - 1) / m * m

end Sys2Proof.Machine
end

