-- ==== Sys2Proof/Machine/Formats.lean ====
section
/-!
DEFINITION. The number formats of chapter 2: decoding and rounding (R52 to R61, R70, R71, R75, R76), the long form and
its sidecar (R62 to R64), the exchange form (R65 to R68), leaving the long form (R72, R73), and FP4 blocks (R77).
-/

namespace Sys2Proof.Machine

/-! ### Signed helpers -/

/-- Two's complement: the `w`-bit pattern `v` as an integer. -/
def toSigned (w v : Nat) : Int := if v < 2 ^ (w - 1) then (v : Int) else (v : Int) - 2 ^ w

/-- The low `w` bits of an integer, in two's complement. -/
def ofSigned (w : Nat) (i : Int) : Nat := (i % (2 ^ w : Int)).toNat

/-- An integer divided by a power of two, rounded down, or multiplied where `k` is negative. -/
def shiftInt (i : Int) (k : Int) : Int := if 0 ≤ k then i * 2 ^ k.toNat else i / 2 ^ (-k).toNat

/-! ### Formats -/

/-- The parameters of a floating-point format (R54, R55): fraction bits, exponent bits, bias, the magnitude codes of the
largest finite value, infinity and the canonical NaN, and its width. -/
structure Fmt where
  width : Nat
  frac : Nat
  bias : Nat
  maxCode : Nat
  inf : Option Nat
  nan : Option Nat
  deriving DecidableEq, Repr

/-- FP32. -/
def fp32 : Fmt := ⟨32, 23, 127, 0x7F7FFFFF, some 0x7F800000, some 0x7FC00000⟩
/-- FP16. -/
def fp16 : Fmt := ⟨16, 10, 15, 0x7BFF, some 0x7C00, some 0x7E00⟩
/-- BF16. -/
def bf16 : Fmt := ⟨16, 7, 127, 0x7F7F, some 0x7F80, some 0x7FC0⟩
/-- FP8 E4M3. -/
def e4m3 : Fmt := ⟨8, 3, 7, 0x7E, none, some 0x7F⟩
/-- FP8 E5M2. -/
def e5m2 : Fmt := ⟨8, 2, 15, 0x7B, some 0x7C, some 0x7E⟩
/-- FP4 E2M1, which has neither infinity nor NaN (R58). -/
def fp4 : Fmt := ⟨4, 1, 1, 7, none, none⟩

/-- The floating-point format of a format code (R52); none for the exchange form and the reserved code. -/
def fmtOf (code : Nat) : Option Fmt :=
  match code with
  | 0 => some fp32
  | 1 => some fp16
  | 2 => some bf16
  | 3 => some e4m3
  | 4 => some e5m2
  | 5 => some fp4
  | _ => none

/-- A decoded value: NaN, an infinity, or the finite number (−1)^neg × mant × 2^exp. -/
inductive FVal where
  | nan
  | inf (neg : Bool)
  | fin (neg : Bool) (mant : Nat) (exp : Int)
  deriving DecidableEq, Repr

/-- The value of a bit pattern (R54, R55, R57). In a format without infinities the exponent of all ones is ordinary. -/
def Fmt.decode (f : Fmt) (v : Nat) : FVal :=
  let mag := v % 2 ^ (f.width - 1)
  let neg := bit v (f.width - 1)
  let e := mag / 2 ^ f.frac
  let m := mag % 2 ^ f.frac
  if mag > f.maxCode then
    (if f.inf = some mag then .inf neg else .nan)
  else if e = 0 then .fin neg m (1 - (f.bias : Int) - f.frac)
  else .fin neg (2 ^ f.frac + m) ((e : Int) - f.bias - f.frac)

/-- A magnitude as the rounding rules read it: for each `k`, ⌊magnitude × 2^k⌋ and whether that is exact. -/
abbrev Mag := Int → Nat × Bool

/-- The magnitude p ÷ q. -/
def magRat (p q : Nat) : Mag := fun k =>
  let n := if 0 ≤ k then p * 2 ^ k.toNat else p
  let d := if 0 ≤ k then q else q * 2 ^ (-k).toNat
  (n / d, n % d == 0)

/-- The magnitude mant × 2^exp. -/
def magBin (mant : Nat) (exp : Int) : Mag := fun k =>
  let s := exp + k
  if 0 ≤ s then (mant * 2 ^ s.toNat, true)
  else (mant / 2 ^ (-s).toNat, mant % 2 ^ (-s).toNat == 0)

/-- The exponent ⌊log₂⌋ of a magnitude; −400 for one below 2⁻⁴⁰⁰, which every format rounds as a subnormal. -/
def Mag.log2 (m : Mag) : Int :=
  let n := (m 400).1
  if n = 0 then -400 else (Nat.log2 n : Int) - 400

/-- The five rounding modes of R70, as RMODE numbers them; SR carries its draw (R71). -/
inductive RMode where
  | rne | rtz | rup | rdn
  | sr (u : Nat)
  deriving DecidableEq, Repr

/-- RMODE with the draw for SR; none for a reserved mode (R70). -/
def rmodeOf (code u : Nat) : Option RMode :=
  match code with
  | 0 => some .rne
  | 1 => some .rtz
  | 2 => some .rup
  | 3 => some .rdn
  | 4 => some (.sr (u % 2 ^ 32))
  | _ => none

/-- Whether the candidate farther from zero is chosen (R70, R71): `t` is the candidate nearer zero, `d` the next 32
bits below it, `exact` whether nothing lies below those. -/
def roundAway (rm : RMode) (neg : Bool) (t d : Nat) (exact : Bool) : Bool :=
  match rm with
  | .rne => decide (2 ^ 31 < d) || (d == 2 ^ 31 && (!exact || t % 2 == 1))
  | .rtz => false
  | .rup => !neg && (d != 0 || !exact)
  | .rdn => neg && (d != 0 || !exact)
  | .sr u => decide (2 ^ 32 ≤ d + u)

/-- The sign bit of a format over a magnitude code. -/
def Fmt.signed (f : Fmt) (neg : Bool) (mag : Nat) : Nat := if neg then 2 ^ (f.width - 1) + mag else mag

/-- The result of an overflow (R70). FP4 always gives ±6 (R77). -/
def Fmt.overflow (f : Fmt) (rm : RMode) (sat neg : Bool) : Nat :=
  let toInf := match rm with
    | .rne => true
    | .sr _ => true
    | .rtz => false
    | .rup => !neg
    | .rdn => neg
  match f.nan with
  | none => f.signed neg f.maxCode
  | some nan =>
    if sat || !toInf then f.signed neg f.maxCode
    else match f.inf with
      | some i => f.signed neg i
      | none => nan

/-- The code that an exact non-zero magnitude rounds to as though the exponent had no upper bound (R70, R71), subnormals
included (R57); a code above `maxCode` is an overflow. -/
def Fmt.roundCode (f : Fmt) (rm : RMode) (neg : Bool) (m : Mag) : Nat :=
  let e := m.log2
  let q : Int := max e (1 - (f.bias : Int)) - f.frac
  let g := m (32 - q)
  let t := g.1 / 2 ^ 32
  let r := if roundAway rm neg t (g.1 % 2 ^ 32) g.2 then t + 1 else t
  -- the code of r × 2^q: adding r − 2^frac to the exponent's code also carries a rounding up to the next binade
  if r < 2 ^ f.frac then r else ((q + f.frac + f.bias).toNat) * 2 ^ f.frac + (r - 2 ^ f.frac)

/-- An exact non-zero magnitude rounded once to the format (R70, R71). -/
def Fmt.round (f : Fmt) (rm : RMode) (sat neg : Bool) (m : Mag) : Nat :=
  let code := f.roundCode rm neg m
  if code > f.maxCode then f.overflow rm sat neg else f.signed neg code

/-- The canonical NaN of the format (R55), or zero in FP4, which has none. -/
def Fmt.qnan (f : Fmt) : Nat := f.nan.getD 0

/-- An infinity written to the format (R72, R76). -/
def Fmt.ofInf (f : Fmt) (sat neg : Bool) : Nat :=
  match f.inf with
  | some i => f.signed neg i
  | none => if sat || f.nan == none then f.signed neg f.maxCode else f.qnan

/-- A value converted to the format with one rounding (R75, R76). -/
def Fmt.encode (f : Fmt) (rm : RMode) (sat : Bool) (v : FVal) : Nat :=
  match v with
  | .nan => f.qnan
  | .inf neg => f.ofInf sat neg
  | .fin neg m e => if m = 0 then f.signed neg 0 else f.round rm sat neg (magBin m e)

/-! ### Long form, sidecar, exchange form -/

/-- Sidecar bits (R64). -/
abbrev scNanIn : Nat := 1
abbrev scNanInv : Nat := 2
abbrev scPInf : Nat := 4
abbrev scNInf : Nat := 8
abbrev scOvf : Nat := 16

/-- A value in exact form: the sidecar and L, worth L × 2⁻³²⁰ (R62). -/
structure LVal where
  sc : Nat
  l : Int
  deriving DecidableEq, Repr

/-- Exact zero. -/
def LVal.zero : LVal := ⟨0, 0⟩

/-- L lies in the range of R62. -/
def longInRange (l : Int) : Bool := decide (-(2 ^ 639 : Int) ≤ l) && decide (l < 2 ^ 639)

/-- The exact sum of many values, formed before its range is judged, so that it does not depend on their order; one that leaves
the range sets OVF (R62, R63, R160, R323). -/
def LVal.sum (ts : List LVal) : LVal :=
  let sc := ts.foldl (fun n t => n ||| t.sc) 0
  let l := ts.foldl (fun (n : Int) t => n + t.l) 0
  if longInRange l then ⟨sc, l⟩ else ⟨sc ||| scOvf, 0⟩

/-- The exact sum of two values; a sum that leaves the range sets OVF and its value bits become `u`, which the spec
leaves undefined within R549 (R63). -/
def LVal.add (a b : LVal) (u : Int) : LVal :=
  let s := a.l + b.l
  if longInRange s then ⟨a.sc ||| b.sc, s⟩ else ⟨(a.sc ||| b.sc) ||| scOvf, u⟩

/-- A floating-point value in exact form (R75). -/
def FVal.toLong (v : FVal) : LVal :=
  match v with
  | .nan => ⟨scNanIn, 0⟩
  | .inf neg => ⟨if neg then scNInf else scPInf, 0⟩
  | .fin neg m e =>
    let l := shiftInt m (e + 320)
    ⟨0, if neg then -l else l⟩

/-- Leaving the long form (R72, R73). -/
def Fmt.ofLong (f : Fmt) (rm : RMode) (sat : Bool) (v : LVal) : Nat :=
  if v.sc &&& (scNanIn ||| scNanInv ||| scOvf) ≠ 0 then f.qnan
  else if v.sc &&& (scPInf ||| scNInf) = (scPInf ||| scNInf) then f.qnan
  else if v.sc &&& (scPInf ||| scNInf) ≠ 0 then f.ofInf sat (v.sc &&& scNInf ≠ 0)
  else if v.l = 0 then f.signed (rm == .rdn) 0
  else f.round rm sat (decide (v.l < 0)) (magBin v.l.natAbs (-320))

/-- The smallest A from 0 to 16 for which bits [639 : 32A + 111] of L are all equal, if there is one (R68). -/
def exchAnchor (l : Int) : Option Nat :=
  (List.range 17).find? (fun a => decide (-(2 ^ (32 * a + 111) : Int) ≤ l) && decide (l < 2 ^ (32 * a + 111)))

/-- The canonical exchange bytes of a value: 16 bytes, or 96 for a long exchange (R65, R66, R68). -/
def exchEncode (v : LVal) : List Byte :=
  let long := [0xFF, 0] ++ natLE 14 0 ++ natLE 80 (ofSigned 640 v.l)
  if v.sc ≠ 0 then [0, BitVec.ofNat 8 v.sc] ++ natLE 14 0
  else if v.l = 0 then natLE 16 0
  else match exchAnchor v.l with
    | none => long
    | some a =>
      if v.l % 2 ^ (32 * a) = 0 then [BitVec.ofNat 8 a, 0] ++ natLE 14 (ofSigned 112 (v.l / 2 ^ (32 * a))) else long

/-- Whether a value needs the long exchange form. -/
def exchEscapes (v : LVal) : Bool := decide (16 < (exchEncode v).length)

/-- Whether 16 bytes begin a long exchange. -/
def exchIsLong (bs : List Byte) : Bool := (bs.headD 0) == 0xFF

/-- The value of exchange bytes: 16 bytes, or 96 where byte 0 is 0xFF; none where R67 calls them invalid. -/
def exchDecode (bs : List Byte) : Option LVal :=
  let a := (bs.headD 0).toNat
  let sc := ((bs.drop 1).headD 0).toNat % 32
  if a = 255 then
    (if leNat ((bs.drop 2).take 14) ≠ 0 then none
     else some ⟨sc, toSigned 640 (leNat ((bs.drop 16).take 80))⟩)
  else if 16 < a then none
  else some ⟨sc, toSigned 112 (leNat ((bs.drop 2).take 14)) * 2 ^ (32 * a)⟩

/-- A canonical exchange value (R68, R69). -/
def exchCanonical (bs : List Byte) : Bool :=
  match exchDecode bs with
  | none => false
  | some v => exchEncode v == bs.take (exchEncode v).length

/-! ### FP4 blocks -/

/-- The value of an E8M0 scale as an exponent; none for NaN (R60). -/
def scaleExp (x : Nat) : Option Int := if x % 256 = 255 then none else some ((x % 256 : Nat) - 127)

/-- An FP4 element under its scale (R61). -/
def fp4Scaled (code x : Nat) : FVal :=
  match scaleExp x with
  | none => .nan
  | some s => match fp4.decode (code % 16) with
    | .fin neg m e => .fin neg m (e + s)
    | v => v

/-- An FP4 value written under a scale exponent `e`: v × 2⁻ᵉ rounded to E2M1, ±6 above (R77). -/
def fp4Write (rm : RMode) (e : Int) (v : FVal) : Nat :=
  match v with
  | .nan => 0
  | .inf neg => fp4.signed neg 7
  | .fin neg m x => if m = 0 then fp4.signed neg 0 else fp4.round rm true neg (magBin m (x - e))

/-- The exponent ⌊log₂⌋ of a finite non-zero value. -/
def FVal.log2 (v : FVal) : Int :=
  match v with
  | .fin _ m e => (Nat.log2 m : Int) + e
  | _ => 0

/-- Whether a value is a NaN or an infinity. -/
def FVal.nonFinite (v : FVal) : Bool :=
  match v with
  | .fin _ _ _ => false
  | _ => true

/-- Whether a value is a zero. -/
def FVal.isZero (v : FVal) : Bool :=
  match v with
  | .fin _ m _ => m == 0
  | _ => false

/-- Whether a value is a NaN. -/
def FVal.isNan (v : FVal) : Bool := v == .nan

/-- The computed scale byte of a block of 32 values (R77, steps 1 to 3). -/
def fp4Scale (vs : List FVal) : Nat :=
  if vs.any FVal.nonFinite then 255
  else if vs.all FVal.isZero then 0
  else
    let e := (vs.filter (fun v => !v.isZero)).foldl (fun m v => max m (v.log2 - 2)) (-127)
    (min e 127 + 127).toNat

/-- A block of 32 values with its computed scale: the scale byte and the 32 element codes (R77). -/
def fp4Block (rm : Nat → RMode) (vs : List FVal) : Nat × List Nat :=
  let x := fp4Scale vs
  if x = 255 then (255, vs.map (fun _ => 0))
  else (x, vs.zipIdx.map (fun vi => fp4Write (rm vi.2) ((x : Int) - 127) vi.1))

/-- A block of 32 values under a supplied scale byte (R77, R169). -/
def fp4BlockScaled (rm : Nat → RMode) (x : Nat) (vs : List FVal) : Nat × List Nat :=
  if vs.any FVal.isNan then (255, vs.map (fun _ => 0))
  else (x, vs.zipIdx.map (fun vi => fp4Write (rm vi.2) ((x : Int) - 127) vi.1))

/-- Element codes packed two to a byte (R59). -/
def packNibbles (cs : List Nat) : List Byte :=
  match cs with
  | a :: b :: rest => BitVec.ofNat 8 (a % 16 + 16 * (b % 16)) :: packNibbles rest
  | [a] => [BitVec.ofNat 8 (a % 16)]
  | [] => []

end Sys2Proof.Machine
end

