-- ==== Sys2Proof/Machine/ElemFn.lean ====
section
/-!
DEFINITION. The elementary functions with one rounding: square root, exponential and logarithm as magnitudes that
`Fmt.round` rounds exactly, by integer intervals of enough precision (R117, R153, R154), and the FP32 operations that
other rules name.
-/

namespace Sys2Proof.Machine

/-! ### Square root -/

/-- The integer square root, one result bit a step from bit `n − 1` down. -/
def isqrtFrom (v n r : Nat) : Nat :=
  match n with
  | 0 => r
  | n + 1 => let t := r + 2 ^ n; isqrtFrom v n (if t * t ≤ v then t else r)

/-- The integer square root. -/
def isqrt (v : Nat) : Nat := isqrtFrom v (Nat.log2 v / 2 + 1) 0

/-- The magnitude √(p ÷ q). -/
def magSqrt (p q : Nat) : Mag := fun k =>
  -- ⌊√(p·4^k ÷ q)⌋, exact where the division leaves nothing and the quotient is a square
  let n := if 0 ≤ k then p * 4 ^ k.toNat else p
  let d := if 0 ≤ k then q else q * 4 ^ (-k).toNat
  let v := n / d
  let r := isqrt v
  (r, n % d == 0 && r * r == v)

/-! ### Intervals of fixed-point numbers with `p` fraction bits -/

/-- The quotient rounded up. -/
def cdiv (a b : Nat) : Nat := (a + b - 1) / b

/-- Terms yⁱ ÷ i! summed downward and upward, from term `i` on; the last term bounds the remainder, since y ≤ 1 ÷ 2. -/
def expTerms (p y : Nat) (n i lo hi tlo thi : Nat) : Nat × Nat :=
  match n with
  | 0 => (lo, hi + 2 * thi + 2)
  | n + 1 =>
    let tlo := tlo * y / 2 ^ p / i
    let thi := cdiv (cdiv (thi * y) (2 ^ p)) i
    expTerms p y n (i + 1) (lo + tlo) (hi + thi) tlo thi

/-- An interval squared `n` times. -/
def sqTimes (p : Nat) (n lo hi : Nat) : Nat × Nat :=
  match n with
  | 0 => (lo, hi)
  | n + 1 => sqTimes p n (lo * lo / 2 ^ p) (cdiv (hi * hi) (2 ^ p))

/-- An interval around e^(a ÷ 2^j) for 0 ≤ a ÷ 2^j < 256, in units of 2⁻ᵖ. -/
def expPos (p a j : Nat) : Nat × Nat :=
  -- divide by 512, sum the series, square nine times
  let ylo := a * 2 ^ p / 2 ^ (j + 9)
  let yhi := cdiv (a * 2 ^ p) (2 ^ (j + 9))
  let n := p / 8 + 16
  let lo := (expTerms p ylo n 1 (2 ^ p) (2 ^ p) (2 ^ p) (2 ^ p)).1
  let hi := (expTerms p yhi n 1 (2 ^ p) (2 ^ p) (2 ^ p) (2 ^ p)).2
  sqTimes p 9 lo hi

/-- The floor on which both ends of an interval in units of 2⁻ᵖ agree at 2⁻ᵏ, with the precision doubled up to `fuel`
times while they do not. -/
def agree (f : Nat → Nat × Nat) (fuel p k : Nat) : Nat :=
  let (lo, hi) := f p
  let d := 2 ^ (p - k)
  match fuel with
  | 0 => lo / d
  | fuel + 1 => if lo / d = hi / d then lo / d else agree f fuel (2 * p) k

/-- ⌊f × 2^k⌋ of a positive irrational f that `g` encloses; for k < 0 by way of k = 0. -/
def magOf (g : Nat → Nat × Nat) : Mag := fun k =>
  if 0 ≤ k then (agree g 4 (k.toNat + 320) k.toNat, false)
  else (agree g 4 320 0 / 2 ^ (-k).toNat, false)

/-- The magnitude of e^x for a finite non-zero x = ± m × 2^e; beyond ±200 every format overflows or underflows. -/
def magExp (neg : Bool) (m : Nat) (e : Int) : Mag :=
  let a := if 0 ≤ e then m * 2 ^ e.toNat else m
  let j := if 0 ≤ e then 0 else (-e).toNat
  if 200 * 2 ^ j ≤ a then
    (if neg then fun _ => (0, false) else fun k => (2 ^ (k + 600).toNat, false))
  else if neg then
    magOf (fun p => let (lo, hi) := expPos p a j; (2 ^ (2 * p) / hi, cdiv (2 ^ (2 * p)) lo))
  else magOf (fun p => expPos p a j)

/-- 2 × Σ z^(2i+1) ÷ (2i+1), an interval around ln((1+z) ÷ (1−z)) for 0 ≤ z ≤ 1 ÷ 3 given as an interval. -/
def atanhTerms (p zlo zhi : Nat) (n i lo hi tlo thi : Nat) : Nat × Nat :=
  match n with
  | 0 => (2 * lo, 2 * (hi + 2 * thi + 2))
  | n + 1 =>
    let lo := lo + tlo / (2 * i + 1)
    let hi := hi + cdiv thi (2 * i + 1)
    atanhTerms p zlo zhi n (i + 1) lo hi (tlo * zlo / 2 ^ p * zlo / 2 ^ p)
      (cdiv (cdiv (thi * zhi) (2 ^ p) * zhi) (2 ^ p))

/-- An interval around ln(a ÷ b) for 1 ≤ a ÷ b ≤ 2. -/
def lnRatio (p a b : Nat) : Nat × Nat :=
  let zlo := (a - b) * 2 ^ p / (a + b)
  let zhi := cdiv ((a - b) * 2 ^ p) (a + b)
  atanhTerms p zlo zhi (p / 3 + 8) 0 0 0 zlo zhi

/-- |ln x| and its sign for a positive finite x = m × 2^e other than 1: (negative, magnitude). -/
def magLog (m : Nat) (e : Int) : Bool × Mag :=
  -- x = (m ÷ 2^b) × 2^(e + b), with 1 ≤ m ÷ 2^b < 2
  let b := Nat.log2 m
  let t := e + b
  if 0 ≤ t then
    (false, magOf (fun p =>
      let (l1, h1) := lnRatio p m (2 ^ b)
      let (l2, h2) := lnRatio p 2 1
      (l1 + t.toNat * l2, h1 + t.toNat * h2)))
  else
    -- −ln x = −t × ln 2 − ln(m ÷ 2^b)
    (true, magOf (fun p =>
      let (l1, h1) := lnRatio p m (2 ^ b)
      let (l2, h2) := lnRatio p 2 1
      ((-t).toNat * l2 - h1, (-t).toNat * h2 - l1)))

/-! ### Values of operations with one rounding -/

/-- The exponential of a value rounded to a format (R117). -/
def Fmt.exp (f : Fmt) (rm : RMode) (sat : Bool) (x : FVal) : Nat :=
  match x with
  | .nan => f.qnan
  | .inf true => f.signed false 0
  | .inf false => f.ofInf sat false
  | .fin neg m e => if m = 0 then f.round rm sat false (magBin 1 0) else f.round rm sat false (magExp neg m e)

/-- The negation of a value. -/
def FVal.neg (v : FVal) : FVal :=
  match v with
  | .nan => .nan
  | .inf n => .inf (!n)
  | .fin n m e => .fin (!n) m e

/-- The exact sum of two finite values. -/
def finAdd (n1 : Bool) (m1 : Nat) (e1 : Int) (n2 : Bool) (m2 : Nat) (e2 : Int) : Int × Int :=
  let e := min e1 e2
  let a : Int := (m1 * 2 ^ (e1 - e).toNat : Nat)
  let b : Int := (m2 * 2 ^ (e2 - e).toNat : Nat)
  ((if n1 then -a else a) + (if n2 then -b else b), e)

/-- The exact sum of two values, as IEEE 754 lays it down for signed zeros under a rounding mode. -/
def FVal.add (rm : RMode) (x y : FVal) : FVal :=
  match x, y with
  | .nan, _ => .nan
  | _, .nan => .nan
  | .inf a, .inf b => if a = b then .inf a else .nan
  | .inf a, _ => .inf a
  | _, .inf b => .inf b
  | .fin n1 m1 e1, .fin n2 m2 e2 =>
    if m1 = 0 ∧ m2 = 0 then .fin (if n1 = n2 then n1 else rm == .rdn) 0 0
    else
      let (s, e) := finAdd n1 m1 e1 n2 m2 e2
      if s = 0 then .fin (rm == .rdn) 0 0 else .fin (decide (s < 0)) s.natAbs e

/-- The exact product of two values. -/
def FVal.mul (x y : FVal) : FVal :=
  match x, y with
  | .nan, _ => .nan
  | _, .nan => .nan
  | .inf a, .inf b => .inf (a != b)
  | .inf a, .fin n m _ => if m = 0 then .nan else .inf (a != n)
  | .fin n m _, .inf a => if m = 0 then .nan else .inf (a != n)
  | .fin n1 m1 e1, .fin n2 m2 e2 => .fin (n1 != n2) (m1 * m2) (e1 + e2)

/-- x < y for values that are not NaN, with −0 below +0. -/
def FVal.lt (x y : FVal) : Bool :=
  match x, y with
  | .inf true, .inf true => false
  | .inf true, _ => true
  | _, .inf true => false
  | .inf false, _ => false
  | _, .inf false => true
  | .fin n1 m1 e1, .fin n2 m2 e2 =>
    if m1 = 0 ∧ m2 = 0 then n1 && !n2
    else
      let (s, _) := finAdd n1 m1 e1 (!n2) m2 e2
      decide (s < 0)
  | _, _ => false

/-- The larger of two values; NaN if either is (R116). -/
def FVal.max (x y : FVal) : FVal :=
  if x.isNan || y.isNan then .nan else if x.lt y then y else x

/-- The smaller of two values; NaN if either is. -/
def FVal.min (x y : FVal) : FVal :=
  if x.isNan || y.isNan then .nan else if y.lt x then y else x

/-- A value rounded to FP32 under RNE with SAT = 0. -/
def rne32 (v : FVal) : FVal := fp32.decode (fp32.encode .rne false v)

/-- The exponential E of R117, as a value. -/
def expE (v : FVal) : FVal := fp32.decode (fp32.exp .rne false v)

/-- The quotient of two values rounded once. -/
def Fmt.div (f : Fmt) (rm : RMode) (sat : Bool) (x y : FVal) : Nat :=
  match x, y with
  | .nan, _ => f.qnan
  | _, .nan => f.qnan
  | .inf _, .inf _ => f.qnan
  | .inf a, .fin n _ _ => f.ofInf sat (a != n)
  | .fin n _ _, .inf b => f.signed (n != b) 0
  | .fin n1 m1 e1, .fin n2 m2 e2 =>
    if m2 = 0 then (if m1 = 0 then f.qnan else f.ofInf sat (n1 != n2))
    else if m1 = 0 then f.signed (n1 != n2) 0
    else
      let d := e1 - e2
      f.round rm sat (n1 != n2)
        (if 0 ≤ d then magRat (m1 * 2 ^ d.toNat) m2 else magRat m1 (m2 * 2 ^ (-d).toNat))

/-- The sum of values as exact deposits (R72, R82): a sidecar and L. -/
def exactSum (vs : List FVal) : LVal := vs.foldl (fun a v => a.add v.toLong 0) LVal.zero

end Sys2Proof.Machine
end

