-- ==== Sys2Proof/Config.lean ====
section
/-!
DEFINITION. What the spec leaves open and the model leaves free: each constant here has no body, so nothing in Lean
can evaluate it, and a claim that holds of the model holds whatever it is.
-/

namespace Sys2Proof

/-- A value that the spec leaves open at one use: the argument is `State.fresh`, which advances at each use (log 3). -/
opaque Config.free : Nat → Nat

/-- The verdict of SM2 signature verification: public key (X, Y), digest, signature (r, s) (R471, R483; log 4). -/
opaque Config.sm2Verify : Nat × Nat → Nat → Nat × Nat → Bool

/-- The SM2 signature that a private identity makes of a digest (R478; log 4): device identity number, digest, and the
value of the random input. -/
opaque Config.sm2Sign : Nat → Nat → Nat → Nat × Nat

/-- The public key of a fused or derived private identity (R476; log 4). -/
opaque Config.sm2Public : Nat → Nat × Nat

/-- SM4 or any other derivation that the spec names without giving (log 4): a label and its input. -/
opaque Config.derive : Nat → Nat → Nat

/-- The serial number fused into the device (R475). -/
opaque Config.serial : Nat

/-- The SM3 digest of the plinth ROM (R477), and of the public key that each key slot names (R475), as numbers. -/
opaque Config.romDigest : Nat
opaque Config.keyHash : Nat → Nat

/-- The certificate chain of the module EEPROM (R476, R542): its length, its bytes, and whether the leaf's public key is the
device's own. -/
opaque Config.certLength : Nat
opaque Config.certByte : Nat → Nat
opaque Config.certMatches : Bool

/-- The module build date of the EEPROM (R542). -/
opaque Config.buildDate : Nat

/-- The ratio of ring gauge `n` of half `h` fused at manufacture (R507), in units of 10⁻⁵. -/
opaque Config.gaugeRatio : Nat → Nat → Nat

/-- The copies of a shard of a job, by its tag, differ in layout (R403; log 148). -/
opaque Config.copiesDiffer : Nat → Bool

/-- Places that Dexca gives the echo area, the glade overflow region and the understory of a half (R453), as offsets in its glade:
by area, 0 to 2, and half (log 44). -/
opaque Config.areaOffset : Nat → Nat → Nat

/-- The place that Dexca gives the first work queue ring of a node of this device, by node reference (R33; log 44). -/
opaque Config.queuePlace : Nat → Nat

/-- The offset of the MSI-X Message Control word in configuration space (R417, R436; log 26). -/
opaque Config.msixControl : Nat

/-- The offset of the Resizable BAR control register of BAR2 in configuration space (R417; log 26). -/
opaque Config.rebarControl : Nat

/-- The reset value of a byte of configuration space other than the class code (R417; log 26). -/
opaque Config.cfgReset : Nat → Nat

/-- The principal device of a group of the job other than this device's own, by epoch and group (log 19). -/
opaque Config.groupPrincipal : Nat → Nat → Nat

/-- The local address of copy slot 0 or 1 of a ward, by its device bits, on its partner (R368; log 29). -/
opaque Config.wardSlot : Nat → Nat → Nat

/-- The local address of the standby staging area on the partner of a device (R368; log 29). -/
opaque Config.wardStandby : Nat → Nat

/-- The offset in the data of a copy slot at which a chunk of its ward stands, by ward and COLL_ID and chunk (R380;
log 29). -/
opaque Config.wardChunk : Nat → Nat → Nat → Nat

/-- The majority holder with the lowest device bits of the shard of an expelled device, by epoch and device (R406; log 40). -/
opaque Config.majorityHolder : Nat → Nat → Nat

/-- Range `i` of the shard set of a ward, as (base, length) in the partner directory (R368; log 29). -/
opaque Config.wardRange : Nat → Nat → Nat × Nat

/-- The offsets of the hyperparameter records in the shard set of a device (R403; log 141). -/
opaque Config.hyperPlaces : Nat → List Nat

/-- The draw of a collective under SR, by seed, step, micro-batch, COLL_ID and element (R71; log 20). -/
opaque Config.collDraw : Nat → Nat → Nat → Nat → Nat → Nat

/-- The page of the LPDDR tier at which the evaluation copies of a slice member begin, by device (R265; log 144). -/
opaque Config.evalPlace : Nat → Nat

/-- The byte that an address holds after the loss of numbered draw, where its contents are no longer guaranteed (R490, R498;
log 46): draw and address. -/
opaque Config.lostByte : Nat → Nat → Byte

end Sys2Proof
end

