-- ==== Sys2Proof/Machine/Regs.lean ====
section
/-!
DEFINITION. The registers of the block: every register that a chapter of the spec gives a table, with its
fields, their access types and reset values, its place in BAR0 space (R419, R420, R437, R438, R439, R526) and who
may write it. `Fld` names a field as REGISTER_FIELD; an indexed family such as HBM_STKn is one name with an index.
-/

namespace Sys2Proof.Machine

/-- The access types of R15. -/
inductive FTy where
  | rw | ro | wo | w1c | w1s | rc | rwl
  deriving DecidableEq, Repr

/-- Where a register is held: in each core, grove or half, once in the device, or once in the module. -/
inductive RScope where
  | core | grove | half | device | module
  deriving DecidableEq, Repr

/-- Who may write a register: any agent by the types of its fields, Dexca, Dexca or the ranger of the other half
(R510), the ranger of the half (R437, R438, R484), a test authorisation (R521), or the host until the boot lock (R484). -/
inductive RWriter where
  | any | dexca | dexcaOrPeer | ranger | test | bootHost
  deriving DecidableEq, Repr

/-- The registers. -/
inductive Reg where
  /-- HLF_NODE_ID (R49). -/
  | HLF_NODE_ID
  /-- COL_ARM_ADDR (R49). -/
  | COL_ARM_ADDR
  /-- COL_ARM_EPOCH (R49). -/
  | COL_ARM_EPOCH
  /-- COL_ARM_STAT (R49). -/
  | COL_ARM_STAT
  /-- ACC_SPILL_STAT (R121). -/
  | ACC_SPILL_STAT
  /-- ACC_TILE_STAT (R121). -/
  | ACC_TILE_STAT
  /-- ACC_OVF_BASE (R121). -/
  | ACC_OVF_BASE
  /-- ACC_OVF_CFG (R121). -/
  | ACC_OVF_CFG
  /-- ACC_OVF_STAT (R121). -/
  | ACC_OVF_STAT
  /-- MAT_STAT (R149). -/
  | MAT_STAT
  /-- MAT_TAG (R149). -/
  | MAT_TAG
  /-- MAT_CTL (R149). -/
  | MAT_CTL
  /-- GRV_PAIR_CFG (R149). -/
  | GRV_PAIR_CFG
  /-- VEC_STAT (R176). -/
  | VEC_STAT
  /-- VEC_RNG_SEED (R176). -/
  | VEC_RNG_SEED
  /-- VEC_RNG_STEP (R176). -/
  | VEC_RNG_STEP
  /-- CORE_CTX_STATn (R212). -/
  | CORE_CTX_STAT
  /-- CORE_CTX_CFG (R212). -/
  | CORE_CTX_CFG
  /-- CORE_TRK_STAT (R212). -/
  | CORE_TRK_STAT
  /-- CORE_SPEC_CFG (R212). -/
  | CORE_SPEC_CFG
  /-- CORE_SPEC_STAT (R212). -/
  | CORE_SPEC_STAT
  /-- HLF_SPEC_CFG (R212). -/
  | HLF_SPEC_CFG
  /-- CORE_DIS_CTL (R212). -/
  | CORE_DIS_CTL
  /-- GRV_DIS_CTL (R212). -/
  | GRV_DIS_CTL
  /-- CORE_DIS_STAT (R212). -/
  | CORE_DIS_STAT
  /-- FLG_WAKEn (R237). -/
  | FLG_WAKE
  /-- FLG_HALF_STAT (R237). -/
  | FLG_HALF_STAT
  /-- CORE_BIST_CFG (R256). -/
  | CORE_BIST_CFG
  /-- GLD_BIST_CFG (R256). -/
  | GLD_BIST_CFG
  /-- CORE_BIST_STAT (R256). -/
  | CORE_BIST_STAT
  /-- GLD_BIST_STAT (R256). -/
  | GLD_BIST_STAT
  /-- CORE_WAKE_STAT (R256). -/
  | CORE_WAKE_STAT
  /-- GLD_CLR_CTL (R256). -/
  | GLD_CLR_CTL
  /-- HBM_STKn (R277). -/
  | HBM_STK
  /-- HBM_THR_CFG (R277). -/
  | HBM_THR_CFG
  /-- HBM_THR_TIME (R277). -/
  | HBM_THR_TIME
  /-- HBM_ERR_STAT (R277). -/
  | HBM_ERR_STAT
  /-- LPX_ERR_STAT (R277). -/
  | LPX_ERR_STAT
  /-- HBM_ERR_LOG (R277). -/
  | HBM_ERR_LOG
  /-- LPX_ERR_LOG (R277). -/
  | LPX_ERR_LOG
  /-- HBM_PRIV_STAT (R278). -/
  | HBM_PRIV_STAT
  /-- HBM_INIT_CTL (R278). -/
  | HBM_INIT_CTL
  /-- LPX_INIT_CTL (R278). -/
  | LPX_INIT_CTL
  /-- FAB_PORTp_STAT (R307). -/
  | FAB_PORT_STAT
  /-- FAB_PORTp_EXP (R307). -/
  | FAB_PORT_EXP
  /-- FAB_PORTp_PEER (R307). -/
  | FAB_PORT_PEER
  /-- FAB_PORTp_SER (R307). -/
  | FAB_PORT_SER
  /-- FAB_PORTp_ERR (R307). -/
  | FAB_PORT_ERR
  /-- FAB_CFG (R307). -/
  | FAB_CFG
  /-- FAB_QCLR (R307). -/
  | FAB_QCLR
  /-- FAB_DIS_CTL (R307). -/
  | FAB_DIS_CTL
  /-- FAB_DROP (R307). -/
  | FAB_DROP
  /-- FAB_RSVn (R307). -/
  | FAB_RSV
  /-- FAB_RSV_ERR (R307). -/
  | FAB_RSV_ERR
  /-- FAB_TRK_STAT (R307). -/
  | FAB_TRK_STAT
  /-- FAB_GRTg (R307). -/
  | FAB_GRT
  /-- COL_UND_CFG (R344). -/
  | COL_UND_CFG
  /-- COL_UND_OCC (R344). -/
  | COL_UND_OCC
  /-- COL_UND_EVT (R344). -/
  | COL_UND_EVT
  /-- COL_TPL_BASE (R344). -/
  | COL_TPL_BASE
  /-- COL_FWD_STAT (R344). -/
  | COL_FWD_STAT
  /-- COL_SEQ_STAT (R344). -/
  | COL_SEQ_STAT
  /-- BEAT_CFG (R364). -/
  | BEAT_CFG
  /-- BEAT_NOW (R364). -/
  | BEAT_NOW
  /-- BEAT_SUB (R364). -/
  | BEAT_SUB
  /-- BEAT_OFS (R364). -/
  | BEAT_OFS
  /-- BEAT_CAD (R364). -/
  | BEAT_CAD
  /-- BEAT_STAT (R364). -/
  | BEAT_STAT
  /-- BEAT_SCHED (R364). -/
  | BEAT_SCHED
  /-- BEAT_STEP (R364). -/
  | BEAT_STEP
  /-- BEAT_LOG_BASE (R364). -/
  | BEAT_LOG_BASE
  /-- BEAT_LOG_IDX (R364). -/
  | BEAT_LOG_IDX
  /-- MOD_FEED (R391). -/
  | MOD_FEED
  /-- HLF_HB_CFG (R391). -/
  | HLF_HB_CFG
  /-- HLF_HB_CTL (R391). -/
  | HLF_HB_CTL
  /-- HLF_HB_STAT (R391). -/
  | HLF_HB_STAT
  /-- HLF_FAILSETn (R391). -/
  | HLF_FAILSET
  /-- HLF_FO_CFG (R391). -/
  | HLF_FO_CFG
  /-- HLF_FO_CTL (R391). -/
  | HLF_FO_CTL
  /-- HLF_PCOPY_STAT (R391). -/
  | HLF_PCOPY_STAT
  /-- HLF_ECHO_CFG (R415). -/
  | HLF_ECHO_CFG
  /-- HLF_ECHO_BASE (R415). -/
  | HLF_ECHO_BASE
  /-- HLF_ECHO_STAT (R415). -/
  | HLF_ECHO_STAT
  /-- HLF_ECHO_LOG (R415). -/
  | HLF_ECHO_LOG
  /-- HLF_SURV_CFG (R415). -/
  | HLF_SURV_CFG
  /-- HLF_SURV_STAT (R415). -/
  | HLF_SURV_STAT
  /-- CORE_SURV_STAT (R415). -/
  | CORE_SURV_STAT
  /-- HLF_REPL_CFG (R415). -/
  | HLF_REPL_CFG
  /-- MBX_IN_WR (R437). -/
  | MBX_IN_WR
  /-- MBX_OUT_WR (R437). -/
  | MBX_OUT_WR
  /-- MBX_IN_RD (R437). -/
  | MBX_IN_RD
  /-- MBX_OUT_RD (R437). -/
  | MBX_OUT_RD
  /-- MBX_IN_STAT (R437). -/
  | MBX_IN_STAT
  /-- MBX_OUT_STAT (R437). -/
  | MBX_OUT_STAT
  /-- MBX_RX_SRC (R437). -/
  | MBX_RX_SRC
  /-- MBX_CTL (R437). -/
  | MBX_CTL
  /-- IRQ_PENDn (R438). -/
  | IRQ_PEND
  /-- IRQ_ENn (R438). -/
  | IRQ_EN
  /-- IRQ_WAKEn (R438). -/
  | IRQ_WAKE
  /-- IRQ_CLAIM (R438). -/
  | IRQ_CLAIM
  /-- IRQ_COAL (R438). -/
  | IRQ_COAL
  /-- DXC_STRm_SUB (R439). -/
  | DXC_STR_SUB
  /-- DXC_STRm_STAT (R439). -/
  | DXC_STR_STAT
  /-- DXC_B2WINn (R439). -/
  | DXC_B2WIN
  /-- DXC_HOST_STAT (R439). -/
  | DXC_HOST_STAT
  /-- DXC_EVT_STAT (R468). -/
  | DXC_EVT_STAT
  /-- SEC_BOOT_CTL (R484). -/
  | SEC_BOOT_CTL
  /-- SEC_BOOT_STAT (R484). -/
  | SEC_BOOT_STAT
  /-- SEC_LC (R484). -/
  | SEC_LC
  /-- SEC_MEASn_Wk (R484). -/
  | SEC_MEAS
  /-- SEC_EXT_Dk (R484). -/
  | SEC_EXT_D
  /-- SEC_EXT_CTL (R484). -/
  | SEC_EXT_CTL
  /-- SEC_AUTH_STAT (R484). -/
  | SEC_AUTH_STAT
  /-- CLK_STAT (R510). -/
  | CLK_STAT
  /-- CLK_PLLn_CFG (R510). -/
  | CLK_PLL_CFG
  /-- CLK_SSCn (R510). -/
  | CLK_SSC
  /-- CLK_MUXd (R510). -/
  | CLK_MUX
  /-- CLK_FMON_CTL (R510). -/
  | CLK_FMON_CTL
  /-- CLK_FMON_STAT (R510). -/
  | CLK_FMON_STAT
  /-- PWR_CTL (R510). -/
  | PWR_CTL
  /-- PWR_OFF (R510). -/
  | PWR_OFF
  /-- PWR_STAT (R510). -/
  | PWR_STAT
  /-- PWR_DOM_RST (R510). -/
  | PWR_DOM_RST
  /-- PWR_RAIL (R510). -/
  | PWR_RAIL
  /-- AGE_GAUGEn (R510). -/
  | AGE_GAUGE
  /-- AGE_CTL (R510). -/
  | AGE_CTL
  /-- AGE_STAT (R510). -/
  | AGE_STAT
  /-- HLF_LEAD_STAT (R510). -/
  | HLF_LEAD_STAT
  /-- PMC_CNTk (R526). -/
  | PMC_CNT
  /-- PMC_GLD_CNT (R526). -/
  | PMC_GLD_CNT
  /-- PMC_MEM_CNT (R526). -/
  | PMC_MEM_CNT
  /-- PMC_FAB_CNT (R526). -/
  | PMC_FAB_CNT
  /-- PMC_COL_CNT (R526). -/
  | PMC_COL_CNT
  /-- PMC_CFG (R526). -/
  | PMC_CFG
  /-- PMC_RING_BASE (R526). -/
  | PMC_RING_BASE
  /-- PMC_RING_IDX (R526). -/
  | PMC_RING_IDX
  /-- PMC_STAT (R526). -/
  | PMC_STAT
  /-- TST_SEED (R526). -/
  | TST_SEED
  /-- TST_SCOPE (R526). -/
  | TST_SCOPE
  /-- TST_CREDIT (R526). -/
  | TST_CREDIT
  /-- TST_BP (R526). -/
  | TST_BP
  /-- TST_BANK (R526). -/
  | TST_BANK
  /-- TST_QDLY (R526). -/
  | TST_QDLY
  /-- TST_INJ (R526). -/
  | TST_INJ
  /-- TST_STAT (R526). -/
  | TST_STAT
  /-- MOD_PWR (R547). -/
  | MOD_PWR
  /-- MOD_THERM (R547). -/
  | MOD_THERM
  /-- MOD_ALERT (R547). -/
  | MOD_ALERT
  /-- MOD_CAD (R547). -/
  | MOD_CAD
  deriving DecidableEq, Repr

/-- The fields of the registers. -/
inductive Fld where
  | HLF_NODE_ID_LOCK | HLF_NODE_ID_GROUP | HLF_NODE_ID_ROW | HLF_NODE_ID_COL | HLF_NODE_ID_HALF
  | COL_ARM_ADDR_ADDR
  | COL_ARM_EPOCH_PENDING | COL_ARM_EPOCH_CURRENT
  | COL_ARM_STAT_TARGET | COL_ARM_STAT_CANCEL | COL_ARM_STAT_ARMED
  | ACC_SPILL_STAT_HIGH | ACC_SPILL_STAT_FULL | ACC_SPILL_STAT_USED
  | ACC_TILE_STAT_EXH0 | ACC_TILE_STAT_EXH1 | ACC_TILE_STAT_EXH2 | ACC_TILE_STAT_FAR0 | ACC_TILE_STAT_FAR1 | ACC_TILE_STAT_FAR2 | ACC_TILE_STAT_SHADOW0 | ACC_TILE_STAT_SHADOW1 | ACC_TILE_STAT_SHADOW2 | ACC_TILE_STAT_ORD0 | ACC_TILE_STAT_ORD1 | ACC_TILE_STAT_ORD2
  | ACC_OVF_BASE_BASE
  | ACC_OVF_CFG_TIMEOUT | ACC_OVF_CFG_SLOTS
  | ACC_OVF_STAT_EXHAUST | ACC_OVF_STAT_HIGH | ACC_OVF_STAT_USED
  | MAT_STAT_OPS | MAT_STAT_SWEEP | MAT_STAT_HOLD | MAT_STAT_XFILL | MAT_STAT_PAIRED | MAT_STAT_LOADING | MAT_STAT_STREAM
  | MAT_TAG_K_1 | MAT_TAG_N_1 | MAT_TAG_VALID | MAT_TAG_BTRANS | MAT_TAG_BFMT | MAT_TAG_LDB | MAT_TAG_BADDR
  | MAT_CTL_TAG_CLR
  | GRV_PAIR_CFG_ERR | GRV_PAIR_CFG_ACT | GRV_PAIR_CFG_EN
  | VEC_STAT_OPS | VEC_STAT_MERGE | VEC_STAT_OPT | VEC_STAT_LONG | VEC_STAT_BUSY
  | VEC_RNG_SEED_SEED
  | VEC_RNG_STEP_STEP
  | CORE_CTX_STAT_RUNAHEAD | CORE_CTX_STAT_SPEC | CORE_CTX_STAT_STATE | CORE_CTX_STAT_RPTR | CORE_CTX_STAT_OPS | CORE_CTX_STAT_PTR
  | CORE_CTX_CFG_GATE_EN | CORE_CTX_CFG_LIMIT
  | CORE_TRK_STAT_FULL | CORE_TRK_STAT_HIGH | CORE_TRK_STAT_USED
  | CORE_SPEC_CFG_PART
  | CORE_SPEC_STAT_STATE | CORE_SPEC_STAT_TARGET | CORE_SPEC_STAT_SHADOW | CORE_SPEC_STAT_TAG
  | HLF_SPEC_CFG_LIFE
  | CORE_DIS_CTL_DRAIN | CORE_DIS_CTL_STORE | CORE_DIS_CTL_LOAD | CORE_DIS_CTL_VEC | CORE_DIS_CTL_MAT | CORE_DIS_CTL_CORE
  | GRV_DIS_CTL_DRAIN | GRV_DIS_CTL_GROVE
  | CORE_DIS_STAT_DONE | CORE_DIS_STAT_ABORTS | CORE_DIS_STAT_PHASE
  | FLG_WAKE_SRCDEV | FLG_WAKE_SRCCTX | FLG_WAKE_WAIT | FLG_WAKE_VALID | FLG_WAKE_CAUSE | FLG_WAKE_POISON | FLG_WAKE_FLAG
  | FLG_HALF_STAT_POISONED | FLG_HALF_STAT_DEADSET | FLG_HALF_STAT_ABSORB
  | CORE_BIST_CFG_GAP | CORE_BIST_CFG_WINDOW | CORE_BIST_CFG_FORCE | CORE_BIST_CFG_EN
  | GLD_BIST_CFG_GAP | GLD_BIST_CFG_WINDOW | GLD_BIST_CFG_FORCE | GLD_BIST_CFG_EN
  | CORE_BIST_STAT_STOLEN | CORE_BIST_STAT_FWORD | CORE_BIST_STAT_FAIL | CORE_BIST_STAT_FAILDATA | CORE_BIST_STAT_ACTIVE | CORE_BIST_STAT_PAT | CORE_BIST_STAT_SWEEPS | CORE_BIST_STAT_REGION
  | GLD_BIST_STAT_STOLEN | GLD_BIST_STAT_FWORD | GLD_BIST_STAT_FAIL | GLD_BIST_STAT_FAILDATA | GLD_BIST_STAT_ACTIVE | GLD_BIST_STAT_PAT | GLD_BIST_STAT_SWEEPS | GLD_BIST_STAT_REGION
  | CORE_WAKE_STAT_VFAIL | CORE_WAKE_STAT_WAKES
  | GLD_CLR_CTL_BUSY | GLD_CLR_CTL_GO
  | HBM_STK_CORR | HBM_STK_SENSOR_ERR | HBM_STK_LEVEL | HBM_STK_TEMP
  | HBM_THR_CFG_EN | HBM_THR_CFG_HYST | HBM_THR_CFG_STEP | HBM_THR_CFG_THRESH
  | HBM_THR_TIME_L4 | HBM_THR_TIME_L3 | HBM_THR_TIME_L2 | HBM_THR_TIME_L1
  | HBM_ERR_STAT_CRC1 | HBM_ERR_STAT_CRC2 | HBM_ERR_STAT_PARR | HBM_ERR_STAT_DROP
  | LPX_ERR_STAT_CRC1 | LPX_ERR_STAT_CRC2 | LPX_ERR_STAT_PARR | LPX_ERR_STAT_DROP
  | HBM_ERR_LOG_VALID | HBM_ERR_LOG_PRIV | HBM_ERR_LOG_UNIT | HBM_ERR_LOG_BLOCK
  | LPX_ERR_LOG_VALID | LPX_ERR_LOG_PRIV | LPX_ERR_LOG_UNIT | LPX_ERR_LOG_BLOCK
  | HBM_PRIV_STAT_FAIL
  | HBM_INIT_CTL_DONE | HBM_INIT_CTL_BUSY | HBM_INIT_CTL_GO
  | LPX_INIT_CTL_DONE | LPX_INIT_CTL_BUSY | LPX_INIT_CTL_GO
  | FAB_PORT_STAT_RETRAINS | FAB_PORT_STAT_VER | FAB_PORT_STAT_QCAUSE | FAB_PORT_STAT_WIDTH | FAB_PORT_STAT_DIS | FAB_PORT_STAT_STATE
  | FAB_PORT_EXP_VALID | FAB_PORT_EXP_PORT | FAB_PORT_EXP_DEV
  | FAB_PORT_PEER_VMAX | FAB_PORT_PEER_VMIN | FAB_PORT_PEER_MODE | FAB_PORT_PEER_PORT | FAB_PORT_PEER_DEV
  | FAB_PORT_SER_SERIAL
  | FAB_PORT_ERR_FECUNC | FAB_PORT_ERR_FECCOR | FAB_PORT_ERR_LCRC | FAB_PORT_ERR_REPLAY
  | FAB_CFG_TMO | FAB_CFG_ERRLIM | FAB_CFG_RTLIM | FAB_CFG_VMAX | FAB_CFG_VMIN | FAB_CFG_MODE
  | FAB_QCLR_PORT
  | FAB_DIS_CTL_DRAIN | FAB_DIS_CTL_PORT
  | FAB_DROP_NAKRO | FAB_DROP_DUP | FAB_DROP_BADTYPE | FAB_DROP_JOBMIS
  | FAB_RSV_VALID | FAB_RSV_SHARE | FAB_RSV_TC | FAB_RSV_JOB
  | FAB_RSV_ERR_OVER
  | FAB_TRK_STAT_FULL | FAB_TRK_STAT_HIGH | FAB_TRK_STAT_USED
  | FAB_GRT_VALID | FAB_GRT_VIA | FAB_GRT_DEV | FAB_GRT_PORT
  | COL_UND_CFG_BASE | COL_UND_CFG_SIZE
  | COL_UND_OCC_KEYS | COL_UND_OCC_USED
  | COL_UND_EVT_EXPIRED | COL_UND_EVT_UNKNOWN | COL_UND_EVT_DOUBLE | COL_UND_EVT_FULL
  | COL_TPL_BASE_ADDR
  | COL_FWD_STAT_FWD | COL_FWD_STAT_STALE | COL_FWD_STAT_HELD
  | COL_SEQ_STAT_ACTIVE | COL_SEQ_STAT_LATE
  | BEAT_CFG_EN | BEAT_CFG_ROLE | BEAT_CFG_LATEMAX | BEAT_CFG_HOLD | BEAT_CFG_PERIOD
  | BEAT_NOW_BEAT
  | BEAT_SUB_NS
  | BEAT_OFS_OFFSET | BEAT_OFS_RATE
  | BEAT_CAD_DELAY | BEAT_CAD_ERR
  | BEAT_STAT_DECIDE_ERR | BEAT_STAT_MISCOUNT | BEAT_STAT_CADSTEP | BEAT_STAT_ALIGN_ERR | BEAT_STAT_LOST | BEAT_STAT_SRC
  | BEAT_SCHED_ADDR
  | BEAT_STEP_START | BEAT_STEP_STEP | BEAT_STEP_EXT | BEAT_STEP_POS
  | BEAT_LOG_BASE_ADDR
  | BEAT_LOG_IDX_SIZE | BEAT_LOG_IDX_NEXT
  | MOD_FEED_FEED
  | HLF_HB_CFG_EN | HLF_HB_CFG_WDOG
  | HLF_HB_CTL_SELFFAIL | HLF_HB_CTL_KICK
  | HLF_HB_STAT_ZOMBIE | HLF_HB_STAT_FALSE | HLF_HB_STAT_REPAIR | HLF_HB_STAT_WDOG_EXP
  | HLF_FAILSET_FAILED
  | HLF_FO_CFG_FOEXT | HLF_FO_CFG_STRAGMAX | HLF_FO_CFG_PROBE
  | HLF_FO_CTL_CLR
  | HLF_PCOPY_STAT_PSTEP | HLF_PCOPY_STAT_WARDS | HLF_PCOPY_STAT_BARE
  | HLF_ECHO_CFG_RATE | HLF_ECHO_CFG_SLOTS | HLF_ECHO_CFG_EN
  | HLF_ECHO_BASE_BASE
  | HLF_ECHO_STAT_MISMATCH | HLF_ECHO_STAT_SKIP | HLF_ECHO_STAT_PASS
  | HLF_ECHO_LOG_VALID | HLF_ECHO_LOG_VERDICT | HLF_ECHO_LOG_COL | HLF_ECHO_LOG_SRC | HLF_ECHO_LOG_CHK | HLF_ECHO_LOG_ARB | HLF_ECHO_LOG_STEP
  | HLF_SURV_CFG_EN | HLF_SURV_CFG_PERIOD | HLF_SURV_CFG_DEADLINE | HLF_SURV_CFG_SLICE | HLF_SURV_CFG_STRIKES
  | HLF_SURV_STAT_MISSED | HLF_SURV_STAT_FAILS | HLF_SURV_STAT_DELAYS | HLF_SURV_STAT_ROTATIONS
  | CORE_SURV_STAT_STRIKES | CORE_SURV_STAT_SUSPECT | CORE_SURV_STAT_STATE | CORE_SURV_STAT_AGE
  | HLF_REPL_CFG_EVERY | HLF_REPL_CFG_COPIES | HLF_REPL_CFG_TIE
  | MBX_IN_WR_WORD
  | MBX_OUT_WR_WORD
  | MBX_IN_RD_WORD
  | MBX_OUT_RD_WORD
  | MBX_IN_STAT_COLL | MBX_IN_STAT_UNDER | MBX_IN_STAT_BADLEN | MBX_IN_STAT_OVF | MBX_IN_STAT_LOCK | MBX_IN_STAT_MSGS | MBX_IN_STAT_FREE | MBX_IN_STAT_USED
  | MBX_OUT_STAT_COLL | MBX_OUT_STAT_UNDER | MBX_OUT_STAT_BADLEN | MBX_OUT_STAT_OVF | MBX_OUT_STAT_LOCK | MBX_OUT_STAT_MSGS | MBX_OUT_STAT_FREE | MBX_OUT_STAT_USED
  | MBX_RX_SRC_VALID | MBX_RX_SRC_KIND | MBX_RX_SRC_DEV | MBX_RX_SRC_ID
  | MBX_CTL_FLUSH_OUT | MBX_CTL_FLUSH_IN
  | IRQ_PEND_PEND
  | IRQ_EN_EN
  | IRQ_WAKE_WAKE
  | IRQ_CLAIM_NONE | IRQ_CLAIM_SRC
  | IRQ_COAL_TIME | IRQ_COAL_COUNT
  | DXC_STR_SUB_DESC
  | DXC_STR_STAT_SEQ | DXC_STR_STAT_ERR | DXC_STR_STAT_STOP | DXC_STR_STAT_OVF | DXC_STR_STAT_WAIT | DXC_STR_STAT_FREE
  | DXC_B2WIN_VALID | DXC_B2WIN_BASE
  | DXC_HOST_STAT_B2REF | DXC_HOST_STAT_BADACC
  | DXC_EVT_STAT_IN15 | DXC_EVT_STAT_LOST | DXC_EVT_STAT_BACKLOG
  | SEC_BOOT_CTL_GO
  | SEC_BOOT_STAT_KEY | SEC_BOOT_STAT_ATTEMPTS | SEC_BOOT_STAT_CAUSE | SEC_BOOT_STAT_LOCK | SEC_BOOT_STAT_STAGE
  | SEC_LC_REVOKED | SEC_LC_MINSVN | SEC_LC_PEND | SEC_LC_NEXT | SEC_LC_STATE
  | SEC_MEAS_VAL
  | SEC_EXT_D_VAL
  | SEC_EXT_CTL_GO | SEC_EXT_CTL_SLOT
  | SEC_AUTH_STAT_VALID | SEC_AUTH_STAT_GRANTS
  | CLK_STAT_HANG | CLK_STAT_COAST | CLK_STAT_LOCK | CLK_STAT_RCOK | CLK_STAT_RCLOSS | CLK_STAT_XOOK | CLK_STAT_XOLOSS
  | CLK_PLL_CFG_ERR | CLK_PLL_CFG_RELOCK | CLK_PLL_CFG_REF | CLK_PLL_CFG_POSTDIV | CLK_PLL_CFG_FBDIV
  | CLK_SSC_RATE | CLK_SSC_DEPTH
  | CLK_MUX_ERR | CLK_MUX_BUSY | CLK_MUX_FORCE | CLK_MUX_SEL
  | CLK_FMON_CTL_GO | CLK_FMON_CTL_BASE | CLK_FMON_CTL_TARGET
  | CLK_FMON_STAT_DONE | CLK_FMON_STAT_BUSY | CLK_FMON_STAT_COUNT
  | PWR_CTL_OP | PWR_CTL_GROVE | PWR_CTL_UNIT
  | PWR_OFF_GROVES | PWR_OFF_CORES
  | PWR_STAT_REFUSED | PWR_STAT_QUEUED | PWR_STAT_RAMPING
  | PWR_DOM_RST_HOLD
  | PWR_RAIL_MEAS | PWR_RAIL_SET
  | AGE_GAUGE_DRIFT | AGE_GAUGE_UCNT | AGE_GAUGE_SCNT
  | AGE_CTL_BUSY | AGE_CTL_GO
  | AGE_STAT_WORST | AGE_STAT_IDX | AGE_STAT_RUNS
  | HLF_LEAD_STAT_BRIDGE | HLF_LEAD_STAT_PEERLOST | HLF_LEAD_STAT_FENCED | HLF_LEAD_STAT_MINE | HLF_LEAD_STAT_LEAD | HLF_LEAD_STAT_STRAP
  | PMC_CNT_EN | PMC_CNT_OVF | PMC_CNT_EVENT | PMC_CNT_COUNT
  | PMC_GLD_CNT_EN | PMC_GLD_CNT_OVF | PMC_GLD_CNT_EVENT | PMC_GLD_CNT_COUNT
  | PMC_MEM_CNT_EN | PMC_MEM_CNT_OVF | PMC_MEM_CNT_EVENT | PMC_MEM_CNT_COUNT
  | PMC_FAB_CNT_EN | PMC_FAB_CNT_OVF | PMC_FAB_CNT_EVENT | PMC_FAB_CNT_COUNT
  | PMC_COL_CNT_EN | PMC_COL_CNT_OVF | PMC_COL_CNT_EVENT | PMC_COL_CNT_COUNT
  | PMC_CFG_USER_EN | PMC_CFG_FLAGEN | PMC_CFG_FLAG
  | PMC_RING_BASE_ADDR
  | PMC_RING_IDX_SIZE | PMC_RING_IDX_NEXT
  | PMC_STAT_DROPS | PMC_STAT_BUSY
  | TST_SEED_SEED
  | TST_SCOPE_CORES
  | TST_CREDIT_EN | TST_CREDIT_PROB | TST_CREDIT_CYCLES | TST_CREDIT_TARGET
  | TST_BP_EN | TST_BP_PROB | TST_BP_CYCLES | TST_BP_TARGET
  | TST_BANK_EN | TST_BANK_PROB | TST_BANK_CYCLES | TST_BANK_TARGET
  | TST_QDLY_EN | TST_QDLY_PROB | TST_QDLY_CYCLES | TST_QDLY_TARGET
  | TST_INJ_ARM | TST_INJ_ARMED | TST_INJ_KIND | TST_INJ_COUNT | TST_INJ_UNIT | TST_INJ_BLOCK
  | TST_STAT_APPLIED | TST_STAT_INJECTED | TST_STAT_ERR
  | MOD_PWR_AVG | MOD_PWR_NOW | MOD_PWR_VIN
  | MOD_THERM_INLET | MOD_THERM_HALF1 | MOD_THERM_HALF0
  | MOD_ALERT_EN | MOD_ALERT_SELFFAIL | MOD_ALERT_THROTTLE | MOD_ALERT_POWER | MOD_ALERT_HOT
  | MOD_CAD_CLOSES | MOD_CAD_OPEN | MOD_CAD_REGEN
  deriving DecidableEq, Repr

/-- A field's register, its highest and lowest bit, its access type and its reset value. -/
structure FldInfo where
  reg : Reg
  hi : Nat
  lo : Nat
  ty : FTy
  reset : Nat
  deriving DecidableEq, Repr

/-- The register tables of the spec, one row a field. The reset values that the spec gives by half, by index or by
fuse (HLF_NODE_ID.HALF, HLF_LEAD_STAT.STRAP, DXC_B2WIN0, SEC_LC) stand in `fldReset`. -/
def Fld.info (f : Fld) : FldInfo :=
  match f with
  | .HLF_NODE_ID_LOCK => ⟨.HLF_NODE_ID, 21, 21, .w1s, 0⟩
  | .HLF_NODE_ID_GROUP => ⟨.HLF_NODE_ID, 20, 13, .rw, 0⟩
  | .HLF_NODE_ID_ROW => ⟨.HLF_NODE_ID, 12, 10, .rw, 0⟩
  | .HLF_NODE_ID_COL => ⟨.HLF_NODE_ID, 9, 7, .rw, 0⟩
  | .HLF_NODE_ID_HALF => ⟨.HLF_NODE_ID, 6, 6, .ro, 0⟩
  | .COL_ARM_ADDR_ADDR => ⟨.COL_ARM_ADDR, 63, 0, .rw, 0⟩
  | .COL_ARM_EPOCH_PENDING => ⟨.COL_ARM_EPOCH, 63, 32, .rw, 0⟩
  | .COL_ARM_EPOCH_CURRENT => ⟨.COL_ARM_EPOCH, 31, 0, .ro, 0⟩
  | .COL_ARM_STAT_TARGET => ⟨.COL_ARM_STAT, 63, 2, .ro, 0⟩
  | .COL_ARM_STAT_CANCEL => ⟨.COL_ARM_STAT, 1, 1, .w1c, 0⟩
  | .COL_ARM_STAT_ARMED => ⟨.COL_ARM_STAT, 0, 0, .ro, 0⟩
  | .ACC_SPILL_STAT_HIGH => ⟨.ACC_SPILL_STAT, 26, 16, .rw, 0⟩
  | .ACC_SPILL_STAT_FULL => ⟨.ACC_SPILL_STAT, 11, 11, .ro, 0⟩
  | .ACC_SPILL_STAT_USED => ⟨.ACC_SPILL_STAT, 10, 0, .ro, 0⟩
  | .ACC_TILE_STAT_EXH0 => ⟨.ACC_TILE_STAT, 3, 3, .ro, 0⟩
  | .ACC_TILE_STAT_EXH1 => ⟨.ACC_TILE_STAT, 11, 11, .ro, 0⟩
  | .ACC_TILE_STAT_EXH2 => ⟨.ACC_TILE_STAT, 19, 19, .ro, 0⟩
  | .ACC_TILE_STAT_FAR0 => ⟨.ACC_TILE_STAT, 2, 2, .ro, 0⟩
  | .ACC_TILE_STAT_FAR1 => ⟨.ACC_TILE_STAT, 10, 10, .ro, 0⟩
  | .ACC_TILE_STAT_FAR2 => ⟨.ACC_TILE_STAT, 18, 18, .ro, 0⟩
  | .ACC_TILE_STAT_SHADOW0 => ⟨.ACC_TILE_STAT, 1, 1, .ro, 0⟩
  | .ACC_TILE_STAT_SHADOW1 => ⟨.ACC_TILE_STAT, 9, 9, .ro, 0⟩
  | .ACC_TILE_STAT_SHADOW2 => ⟨.ACC_TILE_STAT, 17, 17, .ro, 0⟩
  | .ACC_TILE_STAT_ORD0 => ⟨.ACC_TILE_STAT, 0, 0, .ro, 0⟩
  | .ACC_TILE_STAT_ORD1 => ⟨.ACC_TILE_STAT, 8, 8, .ro, 0⟩
  | .ACC_TILE_STAT_ORD2 => ⟨.ACC_TILE_STAT, 16, 16, .ro, 0⟩
  | .ACC_OVF_BASE_BASE => ⟨.ACC_OVF_BASE, 63, 0, .rw, 0⟩
  | .ACC_OVF_CFG_TIMEOUT => ⟨.ACC_OVF_CFG, 31, 16, .rw, 1000⟩
  | .ACC_OVF_CFG_SLOTS => ⟨.ACC_OVF_CFG, 15, 0, .rw, 0⟩
  | .ACC_OVF_STAT_EXHAUST => ⟨.ACC_OVF_STAT, 32, 32, .w1c, 0⟩
  | .ACC_OVF_STAT_HIGH => ⟨.ACC_OVF_STAT, 31, 16, .rw, 0⟩
  | .ACC_OVF_STAT_USED => ⟨.ACC_OVF_STAT, 15, 0, .ro, 0⟩
  | .MAT_STAT_OPS => ⟨.MAT_STAT, 23, 16, .ro, 0⟩
  | .MAT_STAT_SWEEP => ⟨.MAT_STAT, 7, 5, .ro, 0⟩
  | .MAT_STAT_HOLD => ⟨.MAT_STAT, 4, 4, .ro, 0⟩
  | .MAT_STAT_XFILL => ⟨.MAT_STAT, 3, 3, .ro, 0⟩
  | .MAT_STAT_PAIRED => ⟨.MAT_STAT, 2, 2, .ro, 0⟩
  | .MAT_STAT_LOADING => ⟨.MAT_STAT, 1, 1, .ro, 0⟩
  | .MAT_STAT_STREAM => ⟨.MAT_STAT, 0, 0, .ro, 0⟩
  | .MAT_TAG_K_1 => ⟨.MAT_TAG, 63, 57, .ro, 0⟩
  | .MAT_TAG_N_1 => ⟨.MAT_TAG, 56, 49, .ro, 0⟩
  | .MAT_TAG_VALID => ⟨.MAT_TAG, 48, 48, .ro, 0⟩
  | .MAT_TAG_BTRANS => ⟨.MAT_TAG, 47, 47, .ro, 0⟩
  | .MAT_TAG_BFMT => ⟨.MAT_TAG, 46, 44, .ro, 0⟩
  | .MAT_TAG_LDB => ⟨.MAT_TAG, 43, 22, .ro, 0⟩
  | .MAT_TAG_BADDR => ⟨.MAT_TAG, 21, 0, .ro, 0⟩
  | .MAT_CTL_TAG_CLR => ⟨.MAT_CTL, 0, 0, .wo, 0⟩
  | .GRV_PAIR_CFG_ERR => ⟨.GRV_PAIR_CFG, 8, 8, .w1c, 0⟩
  | .GRV_PAIR_CFG_ACT => ⟨.GRV_PAIR_CFG, 7, 4, .ro, 0⟩
  | .GRV_PAIR_CFG_EN => ⟨.GRV_PAIR_CFG, 3, 0, .rw, 0⟩
  | .VEC_STAT_OPS => ⟨.VEC_STAT, 23, 16, .ro, 0⟩
  | .VEC_STAT_MERGE => ⟨.VEC_STAT, 3, 3, .ro, 0⟩
  | .VEC_STAT_OPT => ⟨.VEC_STAT, 2, 2, .ro, 0⟩
  | .VEC_STAT_LONG => ⟨.VEC_STAT, 1, 1, .ro, 0⟩
  | .VEC_STAT_BUSY => ⟨.VEC_STAT, 0, 0, .ro, 0⟩
  | .VEC_RNG_SEED_SEED => ⟨.VEC_RNG_SEED, 63, 0, .rw, 0⟩
  | .VEC_RNG_STEP_STEP => ⟨.VEC_RNG_STEP, 31, 0, .rw, 0⟩
  | .CORE_CTX_STAT_RUNAHEAD => ⟨.CORE_CTX_STAT, 36, 36, .ro, 0⟩
  | .CORE_CTX_STAT_SPEC => ⟨.CORE_CTX_STAT, 35, 35, .ro, 0⟩
  | .CORE_CTX_STAT_STATE => ⟨.CORE_CTX_STAT, 34, 32, .ro, 0⟩
  | .CORE_CTX_STAT_RPTR => ⟨.CORE_CTX_STAT, 31, 24, .ro, 0⟩
  | .CORE_CTX_STAT_OPS => ⟨.CORE_CTX_STAT, 23, 16, .ro, 0⟩
  | .CORE_CTX_STAT_PTR => ⟨.CORE_CTX_STAT, 15, 0, .ro, 0⟩
  | .CORE_CTX_CFG_GATE_EN => ⟨.CORE_CTX_CFG, 8, 8, .rw, 1⟩
  | .CORE_CTX_CFG_LIMIT => ⟨.CORE_CTX_CFG, 7, 0, .rw, 48⟩
  | .CORE_TRK_STAT_FULL => ⟨.CORE_TRK_STAT, 16, 16, .ro, 0⟩
  | .CORE_TRK_STAT_HIGH => ⟨.CORE_TRK_STAT, 15, 8, .rw, 0⟩
  | .CORE_TRK_STAT_USED => ⟨.CORE_TRK_STAT, 7, 0, .ro, 0⟩
  | .CORE_SPEC_CFG_PART => ⟨.CORE_SPEC_CFG, 4, 0, .rw, 4⟩
  | .CORE_SPEC_STAT_STATE => ⟨.CORE_SPEC_STAT, 21, 20, .ro, 0⟩
  | .CORE_SPEC_STAT_TARGET => ⟨.CORE_SPEC_STAT, 19, 18, .ro, 0⟩
  | .CORE_SPEC_STAT_SHADOW => ⟨.CORE_SPEC_STAT, 17, 16, .ro, 0⟩
  | .CORE_SPEC_STAT_TAG => ⟨.CORE_SPEC_STAT, 15, 0, .ro, 0⟩
  | .HLF_SPEC_CFG_LIFE => ⟨.HLF_SPEC_CFG, 7, 0, .rw, 2⟩
  | .CORE_DIS_CTL_DRAIN => ⟨.CORE_DIS_CTL, 31, 16, .rw, 100⟩
  | .CORE_DIS_CTL_STORE => ⟨.CORE_DIS_CTL, 4, 4, .w1s, 0⟩
  | .CORE_DIS_CTL_LOAD => ⟨.CORE_DIS_CTL, 3, 3, .w1s, 0⟩
  | .CORE_DIS_CTL_VEC => ⟨.CORE_DIS_CTL, 2, 2, .w1s, 0⟩
  | .CORE_DIS_CTL_MAT => ⟨.CORE_DIS_CTL, 1, 1, .w1s, 0⟩
  | .CORE_DIS_CTL_CORE => ⟨.CORE_DIS_CTL, 0, 0, .w1s, 0⟩
  | .GRV_DIS_CTL_DRAIN => ⟨.GRV_DIS_CTL, 31, 16, .rw, 100⟩
  | .GRV_DIS_CTL_GROVE => ⟨.GRV_DIS_CTL, 0, 0, .w1s, 0⟩
  | .CORE_DIS_STAT_DONE => ⟨.CORE_DIS_STAT, 16, 16, .w1c, 0⟩
  | .CORE_DIS_STAT_ABORTS => ⟨.CORE_DIS_STAT, 15, 8, .ro, 0⟩
  | .CORE_DIS_STAT_PHASE => ⟨.CORE_DIS_STAT, 2, 0, .ro, 0⟩
  | .FLG_WAKE_SRCDEV => ⟨.FLG_WAKE, 63, 50, .ro, 0⟩
  | .FLG_WAKE_SRCCTX => ⟨.FLG_WAKE, 49, 40, .ro, 0⟩
  | .FLG_WAKE_WAIT => ⟨.FLG_WAKE, 39, 20, .ro, 0⟩
  | .FLG_WAKE_VALID => ⟨.FLG_WAKE, 19, 19, .ro, 0⟩
  | .FLG_WAKE_CAUSE => ⟨.FLG_WAKE, 18, 16, .ro, 0⟩
  | .FLG_WAKE_POISON => ⟨.FLG_WAKE, 15, 15, .ro, 0⟩
  | .FLG_WAKE_FLAG => ⟨.FLG_WAKE, 14, 0, .ro, 0⟩
  | .FLG_HALF_STAT_POISONED => ⟨.FLG_HALF_STAT, 47, 32, .rc, 0⟩
  | .FLG_HALF_STAT_DEADSET => ⟨.FLG_HALF_STAT, 31, 16, .rc, 0⟩
  | .FLG_HALF_STAT_ABSORB => ⟨.FLG_HALF_STAT, 15, 0, .rc, 0⟩
  | .CORE_BIST_CFG_GAP => ⟨.CORE_BIST_CFG, 31, 16, .rw, 100⟩
  | .CORE_BIST_CFG_WINDOW => ⟨.CORE_BIST_CFG, 15, 8, .rw, 16⟩
  | .CORE_BIST_CFG_FORCE => ⟨.CORE_BIST_CFG, 1, 1, .rw, 1⟩
  | .CORE_BIST_CFG_EN => ⟨.CORE_BIST_CFG, 0, 0, .rw, 1⟩
  | .GLD_BIST_CFG_GAP => ⟨.GLD_BIST_CFG, 31, 16, .rw, 100⟩
  | .GLD_BIST_CFG_WINDOW => ⟨.GLD_BIST_CFG, 15, 8, .rw, 16⟩
  | .GLD_BIST_CFG_FORCE => ⟨.GLD_BIST_CFG, 1, 1, .rw, 1⟩
  | .GLD_BIST_CFG_EN => ⟨.GLD_BIST_CFG, 0, 0, .rw, 1⟩
  | .CORE_BIST_STAT_STOLEN => ⟨.CORE_BIST_STAT, 63, 48, .rc, 0⟩
  | .CORE_BIST_STAT_FWORD => ⟨.CORE_BIST_STAT, 47, 32, .ro, 0⟩
  | .CORE_BIST_STAT_FAIL => ⟨.CORE_BIST_STAT, 31, 31, .w1c, 0⟩
  | .CORE_BIST_STAT_FAILDATA => ⟨.CORE_BIST_STAT, 30, 30, .w1c, 0⟩
  | .CORE_BIST_STAT_ACTIVE => ⟨.CORE_BIST_STAT, 29, 29, .ro, 0⟩
  | .CORE_BIST_STAT_PAT => ⟨.CORE_BIST_STAT, 28, 28, .ro, 0⟩
  | .CORE_BIST_STAT_SWEEPS => ⟨.CORE_BIST_STAT, 27, 10, .ro, 0⟩
  | .CORE_BIST_STAT_REGION => ⟨.CORE_BIST_STAT, 9, 0, .ro, 0⟩
  | .GLD_BIST_STAT_STOLEN => ⟨.GLD_BIST_STAT, 63, 52, .rc, 0⟩
  | .GLD_BIST_STAT_FWORD => ⟨.GLD_BIST_STAT, 51, 32, .ro, 0⟩
  | .GLD_BIST_STAT_FAIL => ⟨.GLD_BIST_STAT, 31, 31, .w1c, 0⟩
  | .GLD_BIST_STAT_FAILDATA => ⟨.GLD_BIST_STAT, 30, 30, .w1c, 0⟩
  | .GLD_BIST_STAT_ACTIVE => ⟨.GLD_BIST_STAT, 29, 29, .ro, 0⟩
  | .GLD_BIST_STAT_PAT => ⟨.GLD_BIST_STAT, 28, 28, .ro, 0⟩
  | .GLD_BIST_STAT_SWEEPS => ⟨.GLD_BIST_STAT, 27, 14, .ro, 0⟩
  | .GLD_BIST_STAT_REGION => ⟨.GLD_BIST_STAT, 13, 0, .ro, 0⟩
  | .CORE_WAKE_STAT_VFAIL => ⟨.CORE_WAKE_STAT, 16, 16, .w1c, 0⟩
  | .CORE_WAKE_STAT_WAKES => ⟨.CORE_WAKE_STAT, 15, 0, .ro, 0⟩
  | .GLD_CLR_CTL_BUSY => ⟨.GLD_CLR_CTL, 1, 1, .ro, 0⟩
  | .GLD_CLR_CTL_GO => ⟨.GLD_CLR_CTL, 0, 0, .wo, 0⟩
  | .HBM_STK_CORR => ⟨.HBM_STK, 31, 16, .rc, 0⟩
  | .HBM_STK_SENSOR_ERR => ⟨.HBM_STK, 11, 11, .w1c, 0⟩
  | .HBM_STK_LEVEL => ⟨.HBM_STK, 10, 8, .ro, 0⟩
  | .HBM_STK_TEMP => ⟨.HBM_STK, 7, 0, .ro, 0⟩
  | .HBM_THR_CFG_EN => ⟨.HBM_THR_CFG, 16, 16, .rw, 1⟩
  | .HBM_THR_CFG_HYST => ⟨.HBM_THR_CFG, 15, 12, .rw, 2⟩
  | .HBM_THR_CFG_STEP => ⟨.HBM_THR_CFG, 11, 8, .rw, 3⟩
  | .HBM_THR_CFG_THRESH => ⟨.HBM_THR_CFG, 7, 0, .rw, 85⟩
  | .HBM_THR_TIME_L4 => ⟨.HBM_THR_TIME, 63, 48, .rc, 0⟩
  | .HBM_THR_TIME_L3 => ⟨.HBM_THR_TIME, 47, 32, .rc, 0⟩
  | .HBM_THR_TIME_L2 => ⟨.HBM_THR_TIME, 31, 16, .rc, 0⟩
  | .HBM_THR_TIME_L1 => ⟨.HBM_THR_TIME, 15, 0, .rc, 0⟩
  | .HBM_ERR_STAT_CRC1 => ⟨.HBM_ERR_STAT, 63, 48, .rc, 0⟩
  | .HBM_ERR_STAT_CRC2 => ⟨.HBM_ERR_STAT, 47, 32, .rc, 0⟩
  | .HBM_ERR_STAT_PARR => ⟨.HBM_ERR_STAT, 31, 16, .rc, 0⟩
  | .HBM_ERR_STAT_DROP => ⟨.HBM_ERR_STAT, 15, 0, .rc, 0⟩
  | .LPX_ERR_STAT_CRC1 => ⟨.LPX_ERR_STAT, 63, 48, .rc, 0⟩
  | .LPX_ERR_STAT_CRC2 => ⟨.LPX_ERR_STAT, 47, 32, .rc, 0⟩
  | .LPX_ERR_STAT_PARR => ⟨.LPX_ERR_STAT, 31, 16, .rc, 0⟩
  | .LPX_ERR_STAT_DROP => ⟨.LPX_ERR_STAT, 15, 0, .rc, 0⟩
  | .HBM_ERR_LOG_VALID => ⟨.HBM_ERR_LOG, 63, 63, .w1c, 0⟩
  | .HBM_ERR_LOG_PRIV => ⟨.HBM_ERR_LOG, 62, 62, .ro, 0⟩
  | .HBM_ERR_LOG_UNIT => ⟨.HBM_ERR_LOG, 61, 58, .ro, 0⟩
  | .HBM_ERR_LOG_BLOCK => ⟨.HBM_ERR_LOG, 49, 11, .ro, 0⟩
  | .LPX_ERR_LOG_VALID => ⟨.LPX_ERR_LOG, 63, 63, .w1c, 0⟩
  | .LPX_ERR_LOG_PRIV => ⟨.LPX_ERR_LOG, 62, 62, .ro, 0⟩
  | .LPX_ERR_LOG_UNIT => ⟨.LPX_ERR_LOG, 61, 58, .ro, 0⟩
  | .LPX_ERR_LOG_BLOCK => ⟨.LPX_ERR_LOG, 49, 11, .ro, 0⟩
  | .HBM_PRIV_STAT_FAIL => ⟨.HBM_PRIV_STAT, 0, 0, .w1c, 0⟩
  | .HBM_INIT_CTL_DONE => ⟨.HBM_INIT_CTL, 2, 2, .w1c, 0⟩
  | .HBM_INIT_CTL_BUSY => ⟨.HBM_INIT_CTL, 1, 1, .ro, 0⟩
  | .HBM_INIT_CTL_GO => ⟨.HBM_INIT_CTL, 0, 0, .wo, 0⟩
  | .LPX_INIT_CTL_DONE => ⟨.LPX_INIT_CTL, 2, 2, .w1c, 0⟩
  | .LPX_INIT_CTL_BUSY => ⟨.LPX_INIT_CTL, 1, 1, .ro, 0⟩
  | .LPX_INIT_CTL_GO => ⟨.LPX_INIT_CTL, 0, 0, .wo, 0⟩
  | .FAB_PORT_STAT_RETRAINS => ⟨.FAB_PORT_STAT, 47, 32, .rc, 0⟩
  | .FAB_PORT_STAT_VER => ⟨.FAB_PORT_STAT, 23, 16, .ro, 0⟩
  | .FAB_PORT_STAT_QCAUSE => ⟨.FAB_PORT_STAT, 10, 8, .ro, 0⟩
  | .FAB_PORT_STAT_WIDTH => ⟨.FAB_PORT_STAT, 5, 4, .ro, 0⟩
  | .FAB_PORT_STAT_DIS => ⟨.FAB_PORT_STAT, 3, 3, .ro, 0⟩
  | .FAB_PORT_STAT_STATE => ⟨.FAB_PORT_STAT, 2, 0, .ro, 0⟩
  | .FAB_PORT_EXP_VALID => ⟨.FAB_PORT_EXP, 31, 31, .rw, 0⟩
  | .FAB_PORT_EXP_PORT => ⟨.FAB_PORT_EXP, 18, 14, .rw, 0⟩
  | .FAB_PORT_EXP_DEV => ⟨.FAB_PORT_EXP, 13, 0, .rw, 0⟩
  | .FAB_PORT_PEER_VMAX => ⟨.FAB_PORT_PEER, 63, 56, .ro, 0⟩
  | .FAB_PORT_PEER_VMIN => ⟨.FAB_PORT_PEER, 55, 48, .ro, 0⟩
  | .FAB_PORT_PEER_MODE => ⟨.FAB_PORT_PEER, 32, 32, .ro, 0⟩
  | .FAB_PORT_PEER_PORT => ⟨.FAB_PORT_PEER, 18, 14, .ro, 0⟩
  | .FAB_PORT_PEER_DEV => ⟨.FAB_PORT_PEER, 13, 0, .ro, 0⟩
  | .FAB_PORT_SER_SERIAL => ⟨.FAB_PORT_SER, 63, 0, .ro, 0⟩
  | .FAB_PORT_ERR_FECUNC => ⟨.FAB_PORT_ERR, 63, 48, .rc, 0⟩
  | .FAB_PORT_ERR_FECCOR => ⟨.FAB_PORT_ERR, 47, 32, .rc, 0⟩
  | .FAB_PORT_ERR_LCRC => ⟨.FAB_PORT_ERR, 31, 16, .rc, 0⟩
  | .FAB_PORT_ERR_REPLAY => ⟨.FAB_PORT_ERR, 15, 0, .rc, 0⟩
  | .FAB_CFG_TMO => ⟨.FAB_CFG, 63, 48, .rw, 100⟩
  | .FAB_CFG_ERRLIM => ⟨.FAB_CFG, 47, 40, .rw, 16⟩
  | .FAB_CFG_RTLIM => ⟨.FAB_CFG, 39, 32, .rw, 4⟩
  | .FAB_CFG_VMAX => ⟨.FAB_CFG, 23, 16, .rw, 3⟩
  | .FAB_CFG_VMIN => ⟨.FAB_CFG, 15, 8, .rw, 2⟩
  | .FAB_CFG_MODE => ⟨.FAB_CFG, 0, 0, .rw, 0⟩
  | .FAB_QCLR_PORT => ⟨.FAB_QCLR, 8, 0, .wo, 0⟩
  | .FAB_DIS_CTL_DRAIN => ⟨.FAB_DIS_CTL, 31, 16, .rw, 100⟩
  | .FAB_DIS_CTL_PORT => ⟨.FAB_DIS_CTL, 8, 0, .w1s, 0⟩
  | .FAB_DROP_NAKRO => ⟨.FAB_DROP, 63, 48, .rc, 0⟩
  | .FAB_DROP_DUP => ⟨.FAB_DROP, 47, 32, .rc, 0⟩
  | .FAB_DROP_BADTYPE => ⟨.FAB_DROP, 31, 16, .rc, 0⟩
  | .FAB_DROP_JOBMIS => ⟨.FAB_DROP, 15, 0, .rc, 0⟩
  | .FAB_RSV_VALID => ⟨.FAB_RSV, 42, 42, .rw, 0⟩
  | .FAB_RSV_SHARE => ⟨.FAB_RSV, 41, 34, .rw, 0⟩
  | .FAB_RSV_TC => ⟨.FAB_RSV, 33, 32, .rw, 0⟩
  | .FAB_RSV_JOB => ⟨.FAB_RSV, 31, 0, .rw, 0⟩
  | .FAB_RSV_ERR_OVER => ⟨.FAB_RSV_ERR, 0, 0, .ro, 0⟩
  | .FAB_TRK_STAT_FULL => ⟨.FAB_TRK_STAT, 22, 22, .ro, 0⟩
  | .FAB_TRK_STAT_HIGH => ⟨.FAB_TRK_STAT, 21, 11, .rw, 0⟩
  | .FAB_TRK_STAT_USED => ⟨.FAB_TRK_STAT, 10, 0, .ro, 0⟩
  | .FAB_GRT_VALID => ⟨.FAB_GRT, 31, 31, .rw, 0⟩
  | .FAB_GRT_VIA => ⟨.FAB_GRT, 20, 13, .rw, 0⟩
  | .FAB_GRT_DEV => ⟨.FAB_GRT, 12, 7, .rw, 0⟩
  | .FAB_GRT_PORT => ⟨.FAB_GRT, 4, 0, .rw, 0⟩
  | .COL_UND_CFG_BASE => ⟨.COL_UND_CFG, 25, 16, .rw, 960⟩
  | .COL_UND_CFG_SIZE => ⟨.COL_UND_CFG, 10, 0, .rw, 64⟩
  | .COL_UND_OCC_KEYS => ⟨.COL_UND_OCC, 31, 18, .ro, 0⟩
  | .COL_UND_OCC_USED => ⟨.COL_UND_OCC, 17, 0, .ro, 0⟩
  | .COL_UND_EVT_EXPIRED => ⟨.COL_UND_EVT, 63, 48, .rc, 0⟩
  | .COL_UND_EVT_UNKNOWN => ⟨.COL_UND_EVT, 47, 32, .rc, 0⟩
  | .COL_UND_EVT_DOUBLE => ⟨.COL_UND_EVT, 31, 16, .rc, 0⟩
  | .COL_UND_EVT_FULL => ⟨.COL_UND_EVT, 15, 0, .rc, 0⟩
  | .COL_TPL_BASE_ADDR => ⟨.COL_TPL_BASE, 63, 0, .rw, 0⟩
  | .COL_FWD_STAT_FWD => ⟨.COL_FWD_STAT, 63, 48, .rc, 0⟩
  | .COL_FWD_STAT_STALE => ⟨.COL_FWD_STAT, 47, 32, .rc, 0⟩
  | .COL_FWD_STAT_HELD => ⟨.COL_FWD_STAT, 31, 16, .rc, 0⟩
  | .COL_SEQ_STAT_ACTIVE => ⟨.COL_SEQ_STAT, 20, 16, .ro, 0⟩
  | .COL_SEQ_STAT_LATE => ⟨.COL_SEQ_STAT, 15, 0, .rc, 0⟩
  | .BEAT_CFG_EN => ⟨.BEAT_CFG, 31, 31, .rw, 0⟩
  | .BEAT_CFG_ROLE => ⟨.BEAT_CFG, 30, 29, .rw, 0⟩
  | .BEAT_CFG_LATEMAX => ⟨.BEAT_CFG, 28, 24, .rw, 3⟩
  | .BEAT_CFG_HOLD => ⟨.BEAT_CFG, 23, 16, .rw, 10⟩
  | .BEAT_CFG_PERIOD => ⟨.BEAT_CFG, 15, 0, .rw, 100⟩
  | .BEAT_NOW_BEAT => ⟨.BEAT_NOW, 63, 0, .rw, 0⟩
  | .BEAT_SUB_NS => ⟨.BEAT_SUB, 31, 0, .ro, 0⟩
  | .BEAT_OFS_OFFSET => ⟨.BEAT_OFS, 63, 32, .ro, 0⟩
  | .BEAT_OFS_RATE => ⟨.BEAT_OFS, 31, 0, .ro, 0⟩
  | .BEAT_CAD_DELAY => ⟨.BEAT_CAD, 31, 16, .ro, 0⟩
  | .BEAT_CAD_ERR => ⟨.BEAT_CAD, 15, 0, .ro, 0⟩
  | .BEAT_STAT_DECIDE_ERR => ⟨.BEAT_STAT, 6, 6, .w1c, 0⟩
  | .BEAT_STAT_MISCOUNT => ⟨.BEAT_STAT, 5, 5, .w1c, 0⟩
  | .BEAT_STAT_CADSTEP => ⟨.BEAT_STAT, 4, 4, .w1c, 0⟩
  | .BEAT_STAT_ALIGN_ERR => ⟨.BEAT_STAT, 3, 3, .w1c, 0⟩
  | .BEAT_STAT_LOST => ⟨.BEAT_STAT, 2, 2, .w1c, 0⟩
  | .BEAT_STAT_SRC => ⟨.BEAT_STAT, 1, 0, .ro, 0⟩
  | .BEAT_SCHED_ADDR => ⟨.BEAT_SCHED, 63, 0, .rw, 0⟩
  | .BEAT_STEP_START => ⟨.BEAT_STEP, 127, 64, .rw, 0⟩
  | .BEAT_STEP_STEP => ⟨.BEAT_STEP, 63, 32, .rw, 0⟩
  | .BEAT_STEP_EXT => ⟨.BEAT_STEP, 31, 24, .ro, 0⟩
  | .BEAT_STEP_POS => ⟨.BEAT_STEP, 15, 0, .ro, 0⟩
  | .BEAT_LOG_BASE_ADDR => ⟨.BEAT_LOG_BASE, 63, 0, .rw, 0⟩
  | .BEAT_LOG_IDX_SIZE => ⟨.BEAT_LOG_IDX, 31, 16, .rw, 4096⟩
  | .BEAT_LOG_IDX_NEXT => ⟨.BEAT_LOG_IDX, 15, 0, .ro, 0⟩
  | .MOD_FEED_FEED => ⟨.MOD_FEED, 7, 0, .ro, 255⟩
  | .HLF_HB_CFG_EN => ⟨.HLF_HB_CFG, 31, 31, .rw, 0⟩
  | .HLF_HB_CFG_WDOG => ⟨.HLF_HB_CFG, 15, 0, .rw, 1000⟩
  | .HLF_HB_CTL_SELFFAIL => ⟨.HLF_HB_CTL, 1, 1, .w1s, 0⟩
  | .HLF_HB_CTL_KICK => ⟨.HLF_HB_CTL, 0, 0, .wo, 0⟩
  | .HLF_HB_STAT_ZOMBIE => ⟨.HLF_HB_STAT, 63, 48, .rc, 0⟩
  | .HLF_HB_STAT_FALSE => ⟨.HLF_HB_STAT, 47, 32, .rc, 0⟩
  | .HLF_HB_STAT_REPAIR => ⟨.HLF_HB_STAT, 31, 16, .rc, 0⟩
  | .HLF_HB_STAT_WDOG_EXP => ⟨.HLF_HB_STAT, 0, 0, .ro, 0⟩
  | .HLF_FAILSET_FAILED => ⟨.HLF_FAILSET, 63, 0, .w1s, 0⟩
  | .HLF_FO_CFG_FOEXT => ⟨.HLF_FO_CFG, 31, 24, .rw, 8⟩
  | .HLF_FO_CFG_STRAGMAX => ⟨.HLF_FO_CFG, 23, 16, .rw, 8⟩
  | .HLF_FO_CFG_PROBE => ⟨.HLF_FO_CFG, 15, 0, .rw, 20⟩
  | .HLF_FO_CTL_CLR => ⟨.HLF_FO_CTL, 0, 0, .wo, 0⟩
  | .HLF_PCOPY_STAT_PSTEP => ⟨.HLF_PCOPY_STAT, 63, 32, .ro, 0⟩
  | .HLF_PCOPY_STAT_WARDS => ⟨.HLF_PCOPY_STAT, 18, 16, .ro, 0⟩
  | .HLF_PCOPY_STAT_BARE => ⟨.HLF_PCOPY_STAT, 0, 0, .ro, 0⟩
  | .HLF_ECHO_CFG_RATE => ⟨.HLF_ECHO_CFG, 63, 32, .rw, 42949673⟩
  | .HLF_ECHO_CFG_SLOTS => ⟨.HLF_ECHO_CFG, 31, 24, .rw, 32⟩
  | .HLF_ECHO_CFG_EN => ⟨.HLF_ECHO_CFG, 0, 0, .rw, 1⟩
  | .HLF_ECHO_BASE_BASE => ⟨.HLF_ECHO_BASE, 63, 0, .rw, 0⟩
  | .HLF_ECHO_STAT_MISMATCH => ⟨.HLF_ECHO_STAT, 63, 48, .rc, 0⟩
  | .HLF_ECHO_STAT_SKIP => ⟨.HLF_ECHO_STAT, 47, 32, .rc, 0⟩
  | .HLF_ECHO_STAT_PASS => ⟨.HLF_ECHO_STAT, 31, 0, .rc, 0⟩
  | .HLF_ECHO_LOG_VALID => ⟨.HLF_ECHO_LOG, 63, 63, .w1c, 0⟩
  | .HLF_ECHO_LOG_VERDICT => ⟨.HLF_ECHO_LOG, 62, 61, .ro, 0⟩
  | .HLF_ECHO_LOG_COL => ⟨.HLF_ECHO_LOG, 57, 50, .ro, 0⟩
  | .HLF_ECHO_LOG_SRC => ⟨.HLF_ECHO_LOG, 49, 44, .ro, 0⟩
  | .HLF_ECHO_LOG_CHK => ⟨.HLF_ECHO_LOG, 43, 38, .ro, 0⟩
  | .HLF_ECHO_LOG_ARB => ⟨.HLF_ECHO_LOG, 37, 32, .ro, 0⟩
  | .HLF_ECHO_LOG_STEP => ⟨.HLF_ECHO_LOG, 31, 0, .ro, 0⟩
  | .HLF_SURV_CFG_EN => ⟨.HLF_SURV_CFG, 63, 63, .rw, 1⟩
  | .HLF_SURV_CFG_PERIOD => ⟨.HLF_SURV_CFG, 31, 16, .rw, 3600⟩
  | .HLF_SURV_CFG_DEADLINE => ⟨.HLF_SURV_CFG, 15, 8, .rw, 60⟩
  | .HLF_SURV_CFG_SLICE => ⟨.HLF_SURV_CFG, 7, 2, .rw, 50⟩
  | .HLF_SURV_CFG_STRIKES => ⟨.HLF_SURV_CFG, 1, 0, .rw, 2⟩
  | .HLF_SURV_STAT_MISSED => ⟨.HLF_SURV_STAT, 63, 48, .rc, 0⟩
  | .HLF_SURV_STAT_FAILS => ⟨.HLF_SURV_STAT, 47, 32, .rc, 0⟩
  | .HLF_SURV_STAT_DELAYS => ⟨.HLF_SURV_STAT, 31, 16, .rc, 0⟩
  | .HLF_SURV_STAT_ROTATIONS => ⟨.HLF_SURV_STAT, 15, 0, .rc, 0⟩
  | .CORE_SURV_STAT_STRIKES => ⟨.CORE_SURV_STAT, 25, 24, .ro, 0⟩
  | .CORE_SURV_STAT_SUSPECT => ⟨.CORE_SURV_STAT, 23, 23, .ro, 0⟩
  | .CORE_SURV_STAT_STATE => ⟨.CORE_SURV_STAT, 22, 20, .ro, 0⟩
  | .CORE_SURV_STAT_AGE => ⟨.CORE_SURV_STAT, 15, 0, .ro, 0⟩
  | .HLF_REPL_CFG_EVERY => ⟨.HLF_REPL_CFG, 31, 16, .rw, 50⟩
  | .HLF_REPL_CFG_COPIES => ⟨.HLF_REPL_CFG, 15, 8, .rw, 1⟩
  | .HLF_REPL_CFG_TIE => ⟨.HLF_REPL_CFG, 0, 0, .rw, 0⟩
  | .MBX_IN_WR_WORD => ⟨.MBX_IN_WR, 31, 0, .wo, 0⟩
  | .MBX_OUT_WR_WORD => ⟨.MBX_OUT_WR, 31, 0, .wo, 0⟩
  | .MBX_IN_RD_WORD => ⟨.MBX_IN_RD, 31, 0, .rc, 0⟩
  | .MBX_OUT_RD_WORD => ⟨.MBX_OUT_RD, 31, 0, .rc, 0⟩
  | .MBX_IN_STAT_COLL => ⟨.MBX_IN_STAT, 31, 24, .rc, 0⟩
  | .MBX_IN_STAT_UNDER => ⟨.MBX_IN_STAT, 19, 19, .w1c, 0⟩
  | .MBX_IN_STAT_BADLEN => ⟨.MBX_IN_STAT, 18, 18, .w1c, 0⟩
  | .MBX_IN_STAT_OVF => ⟨.MBX_IN_STAT, 17, 17, .w1c, 0⟩
  | .MBX_IN_STAT_LOCK => ⟨.MBX_IN_STAT, 16, 16, .ro, 0⟩
  | .MBX_IN_STAT_MSGS => ⟨.MBX_IN_STAT, 15, 12, .ro, 0⟩
  | .MBX_IN_STAT_FREE => ⟨.MBX_IN_STAT, 7, 4, .ro, 8⟩
  | .MBX_IN_STAT_USED => ⟨.MBX_IN_STAT, 3, 0, .ro, 0⟩
  | .MBX_OUT_STAT_COLL => ⟨.MBX_OUT_STAT, 31, 24, .rc, 0⟩
  | .MBX_OUT_STAT_UNDER => ⟨.MBX_OUT_STAT, 19, 19, .w1c, 0⟩
  | .MBX_OUT_STAT_BADLEN => ⟨.MBX_OUT_STAT, 18, 18, .w1c, 0⟩
  | .MBX_OUT_STAT_OVF => ⟨.MBX_OUT_STAT, 17, 17, .w1c, 0⟩
  | .MBX_OUT_STAT_LOCK => ⟨.MBX_OUT_STAT, 16, 16, .ro, 0⟩
  | .MBX_OUT_STAT_MSGS => ⟨.MBX_OUT_STAT, 15, 12, .ro, 0⟩
  | .MBX_OUT_STAT_FREE => ⟨.MBX_OUT_STAT, 7, 4, .ro, 8⟩
  | .MBX_OUT_STAT_USED => ⟨.MBX_OUT_STAT, 3, 0, .ro, 0⟩
  | .MBX_RX_SRC_VALID => ⟨.MBX_RX_SRC, 31, 31, .ro, 0⟩
  | .MBX_RX_SRC_KIND => ⟨.MBX_RX_SRC, 30, 28, .ro, 0⟩
  | .MBX_RX_SRC_DEV => ⟨.MBX_RX_SRC, 27, 14, .ro, 0⟩
  | .MBX_RX_SRC_ID => ⟨.MBX_RX_SRC, 13, 0, .ro, 0⟩
  | .MBX_CTL_FLUSH_OUT => ⟨.MBX_CTL, 1, 1, .wo, 0⟩
  | .MBX_CTL_FLUSH_IN => ⟨.MBX_CTL, 0, 0, .wo, 0⟩
  | .IRQ_PEND_PEND => ⟨.IRQ_PEND, 63, 0, .w1c, 0⟩
  | .IRQ_EN_EN => ⟨.IRQ_EN, 63, 0, .rw, 0⟩
  | .IRQ_WAKE_WAKE => ⟨.IRQ_WAKE, 63, 0, .rw, 0⟩
  | .IRQ_CLAIM_NONE => ⟨.IRQ_CLAIM, 31, 31, .rc, 1⟩
  | .IRQ_CLAIM_SRC => ⟨.IRQ_CLAIM, 8, 0, .rc, 0⟩
  | .IRQ_COAL_TIME => ⟨.IRQ_COAL, 25, 16, .rw, 0⟩
  | .IRQ_COAL_COUNT => ⟨.IRQ_COAL, 7, 0, .rw, 1⟩
  | .DXC_STR_SUB_DESC => ⟨.DXC_STR_SUB, 511, 0, .wo, 0⟩
  | .DXC_STR_STAT_SEQ => ⟨.DXC_STR_STAT, 63, 32, .ro, 0⟩
  | .DXC_STR_STAT_ERR => ⟨.DXC_STR_STAT, 31, 24, .ro, 0⟩
  | .DXC_STR_STAT_STOP => ⟨.DXC_STR_STAT, 23, 23, .ro, 0⟩
  | .DXC_STR_STAT_OVF => ⟨.DXC_STR_STAT, 22, 22, .w1c, 0⟩
  | .DXC_STR_STAT_WAIT => ⟨.DXC_STR_STAT, 21, 21, .ro, 0⟩
  | .DXC_STR_STAT_FREE => ⟨.DXC_STR_STAT, 15, 0, .ro, 0⟩
  | .DXC_B2WIN_VALID => ⟨.DXC_B2WIN, 63, 63, .rw, 0⟩
  | .DXC_B2WIN_BASE => ⟨.DXC_B2WIN, 49, 0, .rw, 0⟩
  | .DXC_HOST_STAT_B2REF => ⟨.DXC_HOST_STAT, 31, 16, .rc, 0⟩
  | .DXC_HOST_STAT_BADACC => ⟨.DXC_HOST_STAT, 15, 0, .rc, 0⟩
  | .DXC_EVT_STAT_IN15 => ⟨.DXC_EVT_STAT, 23, 16, .rc, 0⟩
  | .DXC_EVT_STAT_LOST => ⟨.DXC_EVT_STAT, 15, 8, .rc, 0⟩
  | .DXC_EVT_STAT_BACKLOG => ⟨.DXC_EVT_STAT, 7, 0, .ro, 0⟩
  | .SEC_BOOT_CTL_GO => ⟨.SEC_BOOT_CTL, 0, 0, .wo, 0⟩
  | .SEC_BOOT_STAT_KEY => ⟨.SEC_BOOT_STAT, 19, 16, .ro, 0⟩
  | .SEC_BOOT_STAT_ATTEMPTS => ⟨.SEC_BOOT_STAT, 15, 8, .ro, 0⟩
  | .SEC_BOOT_STAT_CAUSE => ⟨.SEC_BOOT_STAT, 7, 4, .ro, 0⟩
  | .SEC_BOOT_STAT_LOCK => ⟨.SEC_BOOT_STAT, 3, 3, .ro, 0⟩
  | .SEC_BOOT_STAT_STAGE => ⟨.SEC_BOOT_STAT, 2, 0, .ro, 0⟩
  | .SEC_LC_REVOKED => ⟨.SEC_LC, 31, 24, .ro, 0⟩
  | .SEC_LC_MINSVN => ⟨.SEC_LC, 16, 10, .ro, 0⟩
  | .SEC_LC_PEND => ⟨.SEC_LC, 6, 6, .ro, 0⟩
  | .SEC_LC_NEXT => ⟨.SEC_LC, 5, 3, .ro, 0⟩
  | .SEC_LC_STATE => ⟨.SEC_LC, 2, 0, .ro, 0⟩
  | .SEC_MEAS_VAL => ⟨.SEC_MEAS, 63, 0, .ro, 0⟩
  | .SEC_EXT_D_VAL => ⟨.SEC_EXT_D, 63, 0, .wo, 0⟩
  | .SEC_EXT_CTL_GO => ⟨.SEC_EXT_CTL, 3, 3, .wo, 0⟩
  | .SEC_EXT_CTL_SLOT => ⟨.SEC_EXT_CTL, 2, 0, .wo, 0⟩
  | .SEC_AUTH_STAT_VALID => ⟨.SEC_AUTH_STAT, 3, 3, .ro, 0⟩
  | .SEC_AUTH_STAT_GRANTS => ⟨.SEC_AUTH_STAT, 2, 0, .ro, 0⟩
  | .CLK_STAT_HANG => ⟨.CLK_STAT, 16, 12, .w1c, 0⟩
  | .CLK_STAT_COAST => ⟨.CLK_STAT, 11, 8, .ro, 0⟩
  | .CLK_STAT_LOCK => ⟨.CLK_STAT, 7, 4, .ro, 0⟩
  | .CLK_STAT_RCOK => ⟨.CLK_STAT, 3, 3, .w1c, 0⟩
  | .CLK_STAT_RCLOSS => ⟨.CLK_STAT, 2, 2, .w1c, 0⟩
  | .CLK_STAT_XOOK => ⟨.CLK_STAT, 1, 1, .w1c, 0⟩
  | .CLK_STAT_XOLOSS => ⟨.CLK_STAT, 0, 0, .w1c, 0⟩
  | .CLK_PLL_CFG_ERR => ⟨.CLK_PLL_CFG, 31, 31, .w1c, 0⟩
  | .CLK_PLL_CFG_RELOCK => ⟨.CLK_PLL_CFG, 30, 30, .wo, 0⟩
  | .CLK_PLL_CFG_REF => ⟨.CLK_PLL_CFG, 29, 29, .rw, 0⟩
  | .CLK_PLL_CFG_POSTDIV => ⟨.CLK_PLL_CFG, 12, 8, .rw, 2⟩
  | .CLK_PLL_CFG_FBDIV => ⟨.CLK_PLL_CFG, 7, 0, .rw, 144⟩
  | .CLK_SSC_RATE => ⟨.CLK_SSC, 13, 8, .rw, 32⟩
  | .CLK_SSC_DEPTH => ⟨.CLK_SSC, 4, 0, .rw, 0⟩
  | .CLK_MUX_ERR => ⟨.CLK_MUX, 4, 4, .w1c, 0⟩
  | .CLK_MUX_BUSY => ⟨.CLK_MUX, 3, 3, .ro, 0⟩
  | .CLK_MUX_FORCE => ⟨.CLK_MUX, 2, 2, .wo, 0⟩
  | .CLK_MUX_SEL => ⟨.CLK_MUX, 1, 0, .rw, 0⟩
  | .CLK_FMON_CTL_GO => ⟨.CLK_FMON_CTL, 4, 4, .wo, 0⟩
  | .CLK_FMON_CTL_BASE => ⟨.CLK_FMON_CTL, 3, 3, .rw, 0⟩
  | .CLK_FMON_CTL_TARGET => ⟨.CLK_FMON_CTL, 2, 0, .rw, 0⟩
  | .CLK_FMON_STAT_DONE => ⟨.CLK_FMON_STAT, 31, 31, .w1c, 0⟩
  | .CLK_FMON_STAT_BUSY => ⟨.CLK_FMON_STAT, 30, 30, .ro, 0⟩
  | .CLK_FMON_STAT_COUNT => ⟨.CLK_FMON_STAT, 23, 0, .ro, 0⟩
  | .PWR_CTL_OP => ⟨.PWR_CTL, 8, 8, .wo, 0⟩
  | .PWR_CTL_GROVE => ⟨.PWR_CTL, 7, 7, .wo, 0⟩
  | .PWR_CTL_UNIT => ⟨.PWR_CTL, 5, 0, .wo, 0⟩
  | .PWR_OFF_GROVES => ⟨.PWR_OFF, 44, 40, .ro, 0⟩
  | .PWR_OFF_CORES => ⟨.PWR_OFF, 39, 0, .ro, 0⟩
  | .PWR_STAT_REFUSED => ⟨.PWR_STAT, 8, 8, .w1c, 0⟩
  | .PWR_STAT_QUEUED => ⟨.PWR_STAT, 7, 4, .ro, 0⟩
  | .PWR_STAT_RAMPING => ⟨.PWR_STAT, 3, 0, .ro, 0⟩
  | .PWR_DOM_RST_HOLD => ⟨.PWR_DOM_RST, 4, 0, .rw, 0⟩
  | .PWR_RAIL_MEAS => ⟨.PWR_RAIL, 31, 16, .ro, 0⟩
  | .PWR_RAIL_SET => ⟨.PWR_RAIL, 15, 0, .rw, 850⟩
  | .AGE_GAUGE_DRIFT => ⟨.AGE_GAUGE, 63, 48, .ro, 0⟩
  | .AGE_GAUGE_UCNT => ⟨.AGE_GAUGE, 47, 24, .ro, 0⟩
  | .AGE_GAUGE_SCNT => ⟨.AGE_GAUGE, 23, 0, .ro, 0⟩
  | .AGE_CTL_BUSY => ⟨.AGE_CTL, 1, 1, .ro, 0⟩
  | .AGE_CTL_GO => ⟨.AGE_CTL, 0, 0, .wo, 0⟩
  | .AGE_STAT_WORST => ⟨.AGE_STAT, 31, 16, .ro, 0⟩
  | .AGE_STAT_IDX => ⟨.AGE_STAT, 15, 10, .ro, 0⟩
  | .AGE_STAT_RUNS => ⟨.AGE_STAT, 9, 0, .ro, 0⟩
  | .HLF_LEAD_STAT_BRIDGE => ⟨.HLF_LEAD_STAT, 5, 5, .w1c, 0⟩
  | .HLF_LEAD_STAT_PEERLOST => ⟨.HLF_LEAD_STAT, 4, 4, .ro, 0⟩
  | .HLF_LEAD_STAT_FENCED => ⟨.HLF_LEAD_STAT, 3, 3, .ro, 0⟩
  | .HLF_LEAD_STAT_MINE => ⟨.HLF_LEAD_STAT, 2, 2, .ro, 0⟩
  | .HLF_LEAD_STAT_LEAD => ⟨.HLF_LEAD_STAT, 1, 1, .ro, 0⟩
  | .HLF_LEAD_STAT_STRAP => ⟨.HLF_LEAD_STAT, 0, 0, .ro, 0⟩
  | .PMC_CNT_EN => ⟨.PMC_CNT, 63, 63, .rw, 0⟩
  | .PMC_CNT_OVF => ⟨.PMC_CNT, 62, 62, .w1c, 0⟩
  | .PMC_CNT_EVENT => ⟨.PMC_CNT, 57, 48, .rw, 0⟩
  | .PMC_CNT_COUNT => ⟨.PMC_CNT, 47, 0, .rw, 0⟩
  | .PMC_GLD_CNT_EN => ⟨.PMC_GLD_CNT, 63, 63, .rw, 0⟩
  | .PMC_GLD_CNT_OVF => ⟨.PMC_GLD_CNT, 62, 62, .w1c, 0⟩
  | .PMC_GLD_CNT_EVENT => ⟨.PMC_GLD_CNT, 57, 48, .rw, 0⟩
  | .PMC_GLD_CNT_COUNT => ⟨.PMC_GLD_CNT, 47, 0, .rw, 0⟩
  | .PMC_MEM_CNT_EN => ⟨.PMC_MEM_CNT, 63, 63, .rw, 0⟩
  | .PMC_MEM_CNT_OVF => ⟨.PMC_MEM_CNT, 62, 62, .w1c, 0⟩
  | .PMC_MEM_CNT_EVENT => ⟨.PMC_MEM_CNT, 57, 48, .rw, 0⟩
  | .PMC_MEM_CNT_COUNT => ⟨.PMC_MEM_CNT, 47, 0, .rw, 0⟩
  | .PMC_FAB_CNT_EN => ⟨.PMC_FAB_CNT, 63, 63, .rw, 0⟩
  | .PMC_FAB_CNT_OVF => ⟨.PMC_FAB_CNT, 62, 62, .w1c, 0⟩
  | .PMC_FAB_CNT_EVENT => ⟨.PMC_FAB_CNT, 57, 48, .rw, 0⟩
  | .PMC_FAB_CNT_COUNT => ⟨.PMC_FAB_CNT, 47, 0, .rw, 0⟩
  | .PMC_COL_CNT_EN => ⟨.PMC_COL_CNT, 63, 63, .rw, 0⟩
  | .PMC_COL_CNT_OVF => ⟨.PMC_COL_CNT, 62, 62, .w1c, 0⟩
  | .PMC_COL_CNT_EVENT => ⟨.PMC_COL_CNT, 57, 48, .rw, 0⟩
  | .PMC_COL_CNT_COUNT => ⟨.PMC_COL_CNT, 47, 0, .rw, 0⟩
  | .PMC_CFG_USER_EN => ⟨.PMC_CFG, 17, 17, .rw, 0⟩
  | .PMC_CFG_FLAGEN => ⟨.PMC_CFG, 16, 16, .rw, 0⟩
  | .PMC_CFG_FLAG => ⟨.PMC_CFG, 14, 0, .rw, 0⟩
  | .PMC_RING_BASE_ADDR => ⟨.PMC_RING_BASE, 63, 0, .rw, 0⟩
  | .PMC_RING_IDX_SIZE => ⟨.PMC_RING_IDX, 31, 16, .rw, 256⟩
  | .PMC_RING_IDX_NEXT => ⟨.PMC_RING_IDX, 15, 0, .ro, 0⟩
  | .PMC_STAT_DROPS => ⟨.PMC_STAT, 31, 16, .rc, 0⟩
  | .PMC_STAT_BUSY => ⟨.PMC_STAT, 0, 0, .ro, 0⟩
  | .TST_SEED_SEED => ⟨.TST_SEED, 63, 0, .rw, 0⟩
  | .TST_SCOPE_CORES => ⟨.TST_SCOPE, 39, 0, .rw, 0⟩
  | .TST_CREDIT_EN => ⟨.TST_CREDIT, 63, 63, .rw, 0⟩
  | .TST_CREDIT_PROB => ⟨.TST_CREDIT, 55, 48, .rw, 0⟩
  | .TST_CREDIT_CYCLES => ⟨.TST_CREDIT, 47, 32, .rw, 0⟩
  | .TST_CREDIT_TARGET => ⟨.TST_CREDIT, 31, 0, .rw, 0⟩
  | .TST_BP_EN => ⟨.TST_BP, 63, 63, .rw, 0⟩
  | .TST_BP_PROB => ⟨.TST_BP, 55, 48, .rw, 0⟩
  | .TST_BP_CYCLES => ⟨.TST_BP, 47, 32, .rw, 0⟩
  | .TST_BP_TARGET => ⟨.TST_BP, 31, 0, .rw, 0⟩
  | .TST_BANK_EN => ⟨.TST_BANK, 63, 63, .rw, 0⟩
  | .TST_BANK_PROB => ⟨.TST_BANK, 55, 48, .rw, 0⟩
  | .TST_BANK_CYCLES => ⟨.TST_BANK, 47, 32, .rw, 0⟩
  | .TST_BANK_TARGET => ⟨.TST_BANK, 31, 0, .rw, 0⟩
  | .TST_QDLY_EN => ⟨.TST_QDLY, 63, 63, .rw, 0⟩
  | .TST_QDLY_PROB => ⟨.TST_QDLY, 55, 48, .rw, 0⟩
  | .TST_QDLY_CYCLES => ⟨.TST_QDLY, 47, 32, .rw, 0⟩
  | .TST_QDLY_TARGET => ⟨.TST_QDLY, 31, 0, .rw, 0⟩
  | .TST_INJ_ARM => ⟨.TST_INJ, 63, 63, .wo, 0⟩
  | .TST_INJ_ARMED => ⟨.TST_INJ, 62, 62, .ro, 0⟩
  | .TST_INJ_KIND => ⟨.TST_INJ, 61, 59, .rw, 0⟩
  | .TST_INJ_COUNT => ⟨.TST_INJ, 58, 56, .rw, 0⟩
  | .TST_INJ_UNIT => ⟨.TST_INJ, 55, 51, .rw, 0⟩
  | .TST_INJ_BLOCK => ⟨.TST_INJ, 49, 11, .rw, 0⟩
  | .TST_STAT_APPLIED => ⟨.TST_STAT, 63, 32, .rc, 0⟩
  | .TST_STAT_INJECTED => ⟨.TST_STAT, 31, 16, .rc, 0⟩
  | .TST_STAT_ERR => ⟨.TST_STAT, 0, 0, .w1c, 0⟩
  | .MOD_PWR_AVG => ⟨.MOD_PWR, 47, 32, .ro, 0⟩
  | .MOD_PWR_NOW => ⟨.MOD_PWR, 31, 16, .ro, 0⟩
  | .MOD_PWR_VIN => ⟨.MOD_PWR, 15, 0, .ro, 0⟩
  | .MOD_THERM_INLET => ⟨.MOD_THERM, 23, 16, .ro, 0⟩
  | .MOD_THERM_HALF1 => ⟨.MOD_THERM, 15, 8, .ro, 0⟩
  | .MOD_THERM_HALF0 => ⟨.MOD_THERM, 7, 0, .ro, 0⟩
  | .MOD_ALERT_EN => ⟨.MOD_ALERT, 19, 16, .rw, 0⟩
  | .MOD_ALERT_SELFFAIL => ⟨.MOD_ALERT, 3, 3, .w1c, 0⟩
  | .MOD_ALERT_THROTTLE => ⟨.MOD_ALERT, 2, 2, .w1c, 0⟩
  | .MOD_ALERT_POWER => ⟨.MOD_ALERT, 1, 1, .w1c, 0⟩
  | .MOD_ALERT_HOT => ⟨.MOD_ALERT, 0, 0, .w1c, 0⟩
  | .MOD_CAD_CLOSES => ⟨.MOD_CAD, 17, 2, .rc, 0⟩
  | .MOD_CAD_OPEN => ⟨.MOD_CAD, 1, 1, .ro, 0⟩
  | .MOD_CAD_REGEN => ⟨.MOD_CAD, 0, 0, .rw, 0⟩

/-- The fields of a register, highest first. -/
def Reg.fields (r : Reg) : List Fld :=
  match r with
  | .HLF_NODE_ID => [.HLF_NODE_ID_LOCK, .HLF_NODE_ID_GROUP, .HLF_NODE_ID_ROW, .HLF_NODE_ID_COL, .HLF_NODE_ID_HALF]
  | .COL_ARM_ADDR => [.COL_ARM_ADDR_ADDR]
  | .COL_ARM_EPOCH => [.COL_ARM_EPOCH_PENDING, .COL_ARM_EPOCH_CURRENT]
  | .COL_ARM_STAT => [.COL_ARM_STAT_TARGET, .COL_ARM_STAT_CANCEL, .COL_ARM_STAT_ARMED]
  | .ACC_SPILL_STAT => [.ACC_SPILL_STAT_HIGH, .ACC_SPILL_STAT_FULL, .ACC_SPILL_STAT_USED]
  | .ACC_TILE_STAT => [.ACC_TILE_STAT_EXH0, .ACC_TILE_STAT_EXH1, .ACC_TILE_STAT_EXH2, .ACC_TILE_STAT_FAR0, .ACC_TILE_STAT_FAR1, .ACC_TILE_STAT_FAR2, .ACC_TILE_STAT_SHADOW0, .ACC_TILE_STAT_SHADOW1, .ACC_TILE_STAT_SHADOW2, .ACC_TILE_STAT_ORD0, .ACC_TILE_STAT_ORD1, .ACC_TILE_STAT_ORD2]
  | .ACC_OVF_BASE => [.ACC_OVF_BASE_BASE]
  | .ACC_OVF_CFG => [.ACC_OVF_CFG_TIMEOUT, .ACC_OVF_CFG_SLOTS]
  | .ACC_OVF_STAT => [.ACC_OVF_STAT_EXHAUST, .ACC_OVF_STAT_HIGH, .ACC_OVF_STAT_USED]
  | .MAT_STAT => [.MAT_STAT_OPS, .MAT_STAT_SWEEP, .MAT_STAT_HOLD, .MAT_STAT_XFILL, .MAT_STAT_PAIRED, .MAT_STAT_LOADING, .MAT_STAT_STREAM]
  | .MAT_TAG => [.MAT_TAG_K_1, .MAT_TAG_N_1, .MAT_TAG_VALID, .MAT_TAG_BTRANS, .MAT_TAG_BFMT, .MAT_TAG_LDB, .MAT_TAG_BADDR]
  | .MAT_CTL => [.MAT_CTL_TAG_CLR]
  | .GRV_PAIR_CFG => [.GRV_PAIR_CFG_ERR, .GRV_PAIR_CFG_ACT, .GRV_PAIR_CFG_EN]
  | .VEC_STAT => [.VEC_STAT_OPS, .VEC_STAT_MERGE, .VEC_STAT_OPT, .VEC_STAT_LONG, .VEC_STAT_BUSY]
  | .VEC_RNG_SEED => [.VEC_RNG_SEED_SEED]
  | .VEC_RNG_STEP => [.VEC_RNG_STEP_STEP]
  | .CORE_CTX_STAT => [.CORE_CTX_STAT_RUNAHEAD, .CORE_CTX_STAT_SPEC, .CORE_CTX_STAT_STATE, .CORE_CTX_STAT_RPTR, .CORE_CTX_STAT_OPS, .CORE_CTX_STAT_PTR]
  | .CORE_CTX_CFG => [.CORE_CTX_CFG_GATE_EN, .CORE_CTX_CFG_LIMIT]
  | .CORE_TRK_STAT => [.CORE_TRK_STAT_FULL, .CORE_TRK_STAT_HIGH, .CORE_TRK_STAT_USED]
  | .CORE_SPEC_CFG => [.CORE_SPEC_CFG_PART]
  | .CORE_SPEC_STAT => [.CORE_SPEC_STAT_STATE, .CORE_SPEC_STAT_TARGET, .CORE_SPEC_STAT_SHADOW, .CORE_SPEC_STAT_TAG]
  | .HLF_SPEC_CFG => [.HLF_SPEC_CFG_LIFE]
  | .CORE_DIS_CTL => [.CORE_DIS_CTL_DRAIN, .CORE_DIS_CTL_STORE, .CORE_DIS_CTL_LOAD, .CORE_DIS_CTL_VEC, .CORE_DIS_CTL_MAT, .CORE_DIS_CTL_CORE]
  | .GRV_DIS_CTL => [.GRV_DIS_CTL_DRAIN, .GRV_DIS_CTL_GROVE]
  | .CORE_DIS_STAT => [.CORE_DIS_STAT_DONE, .CORE_DIS_STAT_ABORTS, .CORE_DIS_STAT_PHASE]
  | .FLG_WAKE => [.FLG_WAKE_SRCDEV, .FLG_WAKE_SRCCTX, .FLG_WAKE_WAIT, .FLG_WAKE_VALID, .FLG_WAKE_CAUSE, .FLG_WAKE_POISON, .FLG_WAKE_FLAG]
  | .FLG_HALF_STAT => [.FLG_HALF_STAT_POISONED, .FLG_HALF_STAT_DEADSET, .FLG_HALF_STAT_ABSORB]
  | .CORE_BIST_CFG => [.CORE_BIST_CFG_GAP, .CORE_BIST_CFG_WINDOW, .CORE_BIST_CFG_FORCE, .CORE_BIST_CFG_EN]
  | .GLD_BIST_CFG => [.GLD_BIST_CFG_GAP, .GLD_BIST_CFG_WINDOW, .GLD_BIST_CFG_FORCE, .GLD_BIST_CFG_EN]
  | .CORE_BIST_STAT => [.CORE_BIST_STAT_STOLEN, .CORE_BIST_STAT_FWORD, .CORE_BIST_STAT_FAIL, .CORE_BIST_STAT_FAILDATA, .CORE_BIST_STAT_ACTIVE, .CORE_BIST_STAT_PAT, .CORE_BIST_STAT_SWEEPS, .CORE_BIST_STAT_REGION]
  | .GLD_BIST_STAT => [.GLD_BIST_STAT_STOLEN, .GLD_BIST_STAT_FWORD, .GLD_BIST_STAT_FAIL, .GLD_BIST_STAT_FAILDATA, .GLD_BIST_STAT_ACTIVE, .GLD_BIST_STAT_PAT, .GLD_BIST_STAT_SWEEPS, .GLD_BIST_STAT_REGION]
  | .CORE_WAKE_STAT => [.CORE_WAKE_STAT_VFAIL, .CORE_WAKE_STAT_WAKES]
  | .GLD_CLR_CTL => [.GLD_CLR_CTL_BUSY, .GLD_CLR_CTL_GO]
  | .HBM_STK => [.HBM_STK_CORR, .HBM_STK_SENSOR_ERR, .HBM_STK_LEVEL, .HBM_STK_TEMP]
  | .HBM_THR_CFG => [.HBM_THR_CFG_EN, .HBM_THR_CFG_HYST, .HBM_THR_CFG_STEP, .HBM_THR_CFG_THRESH]
  | .HBM_THR_TIME => [.HBM_THR_TIME_L4, .HBM_THR_TIME_L3, .HBM_THR_TIME_L2, .HBM_THR_TIME_L1]
  | .HBM_ERR_STAT => [.HBM_ERR_STAT_CRC1, .HBM_ERR_STAT_CRC2, .HBM_ERR_STAT_PARR, .HBM_ERR_STAT_DROP]
  | .LPX_ERR_STAT => [.LPX_ERR_STAT_CRC1, .LPX_ERR_STAT_CRC2, .LPX_ERR_STAT_PARR, .LPX_ERR_STAT_DROP]
  | .HBM_ERR_LOG => [.HBM_ERR_LOG_VALID, .HBM_ERR_LOG_PRIV, .HBM_ERR_LOG_UNIT, .HBM_ERR_LOG_BLOCK]
  | .LPX_ERR_LOG => [.LPX_ERR_LOG_VALID, .LPX_ERR_LOG_PRIV, .LPX_ERR_LOG_UNIT, .LPX_ERR_LOG_BLOCK]
  | .HBM_PRIV_STAT => [.HBM_PRIV_STAT_FAIL]
  | .HBM_INIT_CTL => [.HBM_INIT_CTL_DONE, .HBM_INIT_CTL_BUSY, .HBM_INIT_CTL_GO]
  | .LPX_INIT_CTL => [.LPX_INIT_CTL_DONE, .LPX_INIT_CTL_BUSY, .LPX_INIT_CTL_GO]
  | .FAB_PORT_STAT => [.FAB_PORT_STAT_RETRAINS, .FAB_PORT_STAT_VER, .FAB_PORT_STAT_QCAUSE, .FAB_PORT_STAT_WIDTH, .FAB_PORT_STAT_DIS, .FAB_PORT_STAT_STATE]
  | .FAB_PORT_EXP => [.FAB_PORT_EXP_VALID, .FAB_PORT_EXP_PORT, .FAB_PORT_EXP_DEV]
  | .FAB_PORT_PEER => [.FAB_PORT_PEER_VMAX, .FAB_PORT_PEER_VMIN, .FAB_PORT_PEER_MODE, .FAB_PORT_PEER_PORT, .FAB_PORT_PEER_DEV]
  | .FAB_PORT_SER => [.FAB_PORT_SER_SERIAL]
  | .FAB_PORT_ERR => [.FAB_PORT_ERR_FECUNC, .FAB_PORT_ERR_FECCOR, .FAB_PORT_ERR_LCRC, .FAB_PORT_ERR_REPLAY]
  | .FAB_CFG => [.FAB_CFG_TMO, .FAB_CFG_ERRLIM, .FAB_CFG_RTLIM, .FAB_CFG_VMAX, .FAB_CFG_VMIN, .FAB_CFG_MODE]
  | .FAB_QCLR => [.FAB_QCLR_PORT]
  | .FAB_DIS_CTL => [.FAB_DIS_CTL_DRAIN, .FAB_DIS_CTL_PORT]
  | .FAB_DROP => [.FAB_DROP_NAKRO, .FAB_DROP_DUP, .FAB_DROP_BADTYPE, .FAB_DROP_JOBMIS]
  | .FAB_RSV => [.FAB_RSV_VALID, .FAB_RSV_SHARE, .FAB_RSV_TC, .FAB_RSV_JOB]
  | .FAB_RSV_ERR => [.FAB_RSV_ERR_OVER]
  | .FAB_TRK_STAT => [.FAB_TRK_STAT_FULL, .FAB_TRK_STAT_HIGH, .FAB_TRK_STAT_USED]
  | .FAB_GRT => [.FAB_GRT_VALID, .FAB_GRT_VIA, .FAB_GRT_DEV, .FAB_GRT_PORT]
  | .COL_UND_CFG => [.COL_UND_CFG_BASE, .COL_UND_CFG_SIZE]
  | .COL_UND_OCC => [.COL_UND_OCC_KEYS, .COL_UND_OCC_USED]
  | .COL_UND_EVT => [.COL_UND_EVT_EXPIRED, .COL_UND_EVT_UNKNOWN, .COL_UND_EVT_DOUBLE, .COL_UND_EVT_FULL]
  | .COL_TPL_BASE => [.COL_TPL_BASE_ADDR]
  | .COL_FWD_STAT => [.COL_FWD_STAT_FWD, .COL_FWD_STAT_STALE, .COL_FWD_STAT_HELD]
  | .COL_SEQ_STAT => [.COL_SEQ_STAT_ACTIVE, .COL_SEQ_STAT_LATE]
  | .BEAT_CFG => [.BEAT_CFG_EN, .BEAT_CFG_ROLE, .BEAT_CFG_LATEMAX, .BEAT_CFG_HOLD, .BEAT_CFG_PERIOD]
  | .BEAT_NOW => [.BEAT_NOW_BEAT]
  | .BEAT_SUB => [.BEAT_SUB_NS]
  | .BEAT_OFS => [.BEAT_OFS_OFFSET, .BEAT_OFS_RATE]
  | .BEAT_CAD => [.BEAT_CAD_DELAY, .BEAT_CAD_ERR]
  | .BEAT_STAT => [.BEAT_STAT_DECIDE_ERR, .BEAT_STAT_MISCOUNT, .BEAT_STAT_CADSTEP, .BEAT_STAT_ALIGN_ERR, .BEAT_STAT_LOST, .BEAT_STAT_SRC]
  | .BEAT_SCHED => [.BEAT_SCHED_ADDR]
  | .BEAT_STEP => [.BEAT_STEP_START, .BEAT_STEP_STEP, .BEAT_STEP_EXT, .BEAT_STEP_POS]
  | .BEAT_LOG_BASE => [.BEAT_LOG_BASE_ADDR]
  | .BEAT_LOG_IDX => [.BEAT_LOG_IDX_SIZE, .BEAT_LOG_IDX_NEXT]
  | .MOD_FEED => [.MOD_FEED_FEED]
  | .HLF_HB_CFG => [.HLF_HB_CFG_EN, .HLF_HB_CFG_WDOG]
  | .HLF_HB_CTL => [.HLF_HB_CTL_SELFFAIL, .HLF_HB_CTL_KICK]
  | .HLF_HB_STAT => [.HLF_HB_STAT_ZOMBIE, .HLF_HB_STAT_FALSE, .HLF_HB_STAT_REPAIR, .HLF_HB_STAT_WDOG_EXP]
  | .HLF_FAILSET => [.HLF_FAILSET_FAILED]
  | .HLF_FO_CFG => [.HLF_FO_CFG_FOEXT, .HLF_FO_CFG_STRAGMAX, .HLF_FO_CFG_PROBE]
  | .HLF_FO_CTL => [.HLF_FO_CTL_CLR]
  | .HLF_PCOPY_STAT => [.HLF_PCOPY_STAT_PSTEP, .HLF_PCOPY_STAT_WARDS, .HLF_PCOPY_STAT_BARE]
  | .HLF_ECHO_CFG => [.HLF_ECHO_CFG_RATE, .HLF_ECHO_CFG_SLOTS, .HLF_ECHO_CFG_EN]
  | .HLF_ECHO_BASE => [.HLF_ECHO_BASE_BASE]
  | .HLF_ECHO_STAT => [.HLF_ECHO_STAT_MISMATCH, .HLF_ECHO_STAT_SKIP, .HLF_ECHO_STAT_PASS]
  | .HLF_ECHO_LOG => [.HLF_ECHO_LOG_VALID, .HLF_ECHO_LOG_VERDICT, .HLF_ECHO_LOG_COL, .HLF_ECHO_LOG_SRC, .HLF_ECHO_LOG_CHK, .HLF_ECHO_LOG_ARB, .HLF_ECHO_LOG_STEP]
  | .HLF_SURV_CFG => [.HLF_SURV_CFG_EN, .HLF_SURV_CFG_PERIOD, .HLF_SURV_CFG_DEADLINE, .HLF_SURV_CFG_SLICE, .HLF_SURV_CFG_STRIKES]
  | .HLF_SURV_STAT => [.HLF_SURV_STAT_MISSED, .HLF_SURV_STAT_FAILS, .HLF_SURV_STAT_DELAYS, .HLF_SURV_STAT_ROTATIONS]
  | .CORE_SURV_STAT => [.CORE_SURV_STAT_STRIKES, .CORE_SURV_STAT_SUSPECT, .CORE_SURV_STAT_STATE, .CORE_SURV_STAT_AGE]
  | .HLF_REPL_CFG => [.HLF_REPL_CFG_EVERY, .HLF_REPL_CFG_COPIES, .HLF_REPL_CFG_TIE]
  | .MBX_IN_WR => [.MBX_IN_WR_WORD]
  | .MBX_OUT_WR => [.MBX_OUT_WR_WORD]
  | .MBX_IN_RD => [.MBX_IN_RD_WORD]
  | .MBX_OUT_RD => [.MBX_OUT_RD_WORD]
  | .MBX_IN_STAT => [.MBX_IN_STAT_COLL, .MBX_IN_STAT_UNDER, .MBX_IN_STAT_BADLEN, .MBX_IN_STAT_OVF, .MBX_IN_STAT_LOCK, .MBX_IN_STAT_MSGS, .MBX_IN_STAT_FREE, .MBX_IN_STAT_USED]
  | .MBX_OUT_STAT => [.MBX_OUT_STAT_COLL, .MBX_OUT_STAT_UNDER, .MBX_OUT_STAT_BADLEN, .MBX_OUT_STAT_OVF, .MBX_OUT_STAT_LOCK, .MBX_OUT_STAT_MSGS, .MBX_OUT_STAT_FREE, .MBX_OUT_STAT_USED]
  | .MBX_RX_SRC => [.MBX_RX_SRC_VALID, .MBX_RX_SRC_KIND, .MBX_RX_SRC_DEV, .MBX_RX_SRC_ID]
  | .MBX_CTL => [.MBX_CTL_FLUSH_OUT, .MBX_CTL_FLUSH_IN]
  | .IRQ_PEND => [.IRQ_PEND_PEND]
  | .IRQ_EN => [.IRQ_EN_EN]
  | .IRQ_WAKE => [.IRQ_WAKE_WAKE]
  | .IRQ_CLAIM => [.IRQ_CLAIM_NONE, .IRQ_CLAIM_SRC]
  | .IRQ_COAL => [.IRQ_COAL_TIME, .IRQ_COAL_COUNT]
  | .DXC_STR_SUB => [.DXC_STR_SUB_DESC]
  | .DXC_STR_STAT => [.DXC_STR_STAT_SEQ, .DXC_STR_STAT_ERR, .DXC_STR_STAT_STOP, .DXC_STR_STAT_OVF, .DXC_STR_STAT_WAIT, .DXC_STR_STAT_FREE]
  | .DXC_B2WIN => [.DXC_B2WIN_VALID, .DXC_B2WIN_BASE]
  | .DXC_HOST_STAT => [.DXC_HOST_STAT_B2REF, .DXC_HOST_STAT_BADACC]
  | .DXC_EVT_STAT => [.DXC_EVT_STAT_IN15, .DXC_EVT_STAT_LOST, .DXC_EVT_STAT_BACKLOG]
  | .SEC_BOOT_CTL => [.SEC_BOOT_CTL_GO]
  | .SEC_BOOT_STAT => [.SEC_BOOT_STAT_KEY, .SEC_BOOT_STAT_ATTEMPTS, .SEC_BOOT_STAT_CAUSE, .SEC_BOOT_STAT_LOCK, .SEC_BOOT_STAT_STAGE]
  | .SEC_LC => [.SEC_LC_REVOKED, .SEC_LC_MINSVN, .SEC_LC_PEND, .SEC_LC_NEXT, .SEC_LC_STATE]
  | .SEC_MEAS => [.SEC_MEAS_VAL]
  | .SEC_EXT_D => [.SEC_EXT_D_VAL]
  | .SEC_EXT_CTL => [.SEC_EXT_CTL_GO, .SEC_EXT_CTL_SLOT]
  | .SEC_AUTH_STAT => [.SEC_AUTH_STAT_VALID, .SEC_AUTH_STAT_GRANTS]
  | .CLK_STAT => [.CLK_STAT_HANG, .CLK_STAT_COAST, .CLK_STAT_LOCK, .CLK_STAT_RCOK, .CLK_STAT_RCLOSS, .CLK_STAT_XOOK, .CLK_STAT_XOLOSS]
  | .CLK_PLL_CFG => [.CLK_PLL_CFG_ERR, .CLK_PLL_CFG_RELOCK, .CLK_PLL_CFG_REF, .CLK_PLL_CFG_POSTDIV, .CLK_PLL_CFG_FBDIV]
  | .CLK_SSC => [.CLK_SSC_RATE, .CLK_SSC_DEPTH]
  | .CLK_MUX => [.CLK_MUX_ERR, .CLK_MUX_BUSY, .CLK_MUX_FORCE, .CLK_MUX_SEL]
  | .CLK_FMON_CTL => [.CLK_FMON_CTL_GO, .CLK_FMON_CTL_BASE, .CLK_FMON_CTL_TARGET]
  | .CLK_FMON_STAT => [.CLK_FMON_STAT_DONE, .CLK_FMON_STAT_BUSY, .CLK_FMON_STAT_COUNT]
  | .PWR_CTL => [.PWR_CTL_OP, .PWR_CTL_GROVE, .PWR_CTL_UNIT]
  | .PWR_OFF => [.PWR_OFF_GROVES, .PWR_OFF_CORES]
  | .PWR_STAT => [.PWR_STAT_REFUSED, .PWR_STAT_QUEUED, .PWR_STAT_RAMPING]
  | .PWR_DOM_RST => [.PWR_DOM_RST_HOLD]
  | .PWR_RAIL => [.PWR_RAIL_MEAS, .PWR_RAIL_SET]
  | .AGE_GAUGE => [.AGE_GAUGE_DRIFT, .AGE_GAUGE_UCNT, .AGE_GAUGE_SCNT]
  | .AGE_CTL => [.AGE_CTL_BUSY, .AGE_CTL_GO]
  | .AGE_STAT => [.AGE_STAT_WORST, .AGE_STAT_IDX, .AGE_STAT_RUNS]
  | .HLF_LEAD_STAT => [.HLF_LEAD_STAT_BRIDGE, .HLF_LEAD_STAT_PEERLOST, .HLF_LEAD_STAT_FENCED, .HLF_LEAD_STAT_MINE, .HLF_LEAD_STAT_LEAD, .HLF_LEAD_STAT_STRAP]
  | .PMC_CNT => [.PMC_CNT_EN, .PMC_CNT_OVF, .PMC_CNT_EVENT, .PMC_CNT_COUNT]
  | .PMC_GLD_CNT => [.PMC_GLD_CNT_EN, .PMC_GLD_CNT_OVF, .PMC_GLD_CNT_EVENT, .PMC_GLD_CNT_COUNT]
  | .PMC_MEM_CNT => [.PMC_MEM_CNT_EN, .PMC_MEM_CNT_OVF, .PMC_MEM_CNT_EVENT, .PMC_MEM_CNT_COUNT]
  | .PMC_FAB_CNT => [.PMC_FAB_CNT_EN, .PMC_FAB_CNT_OVF, .PMC_FAB_CNT_EVENT, .PMC_FAB_CNT_COUNT]
  | .PMC_COL_CNT => [.PMC_COL_CNT_EN, .PMC_COL_CNT_OVF, .PMC_COL_CNT_EVENT, .PMC_COL_CNT_COUNT]
  | .PMC_CFG => [.PMC_CFG_USER_EN, .PMC_CFG_FLAGEN, .PMC_CFG_FLAG]
  | .PMC_RING_BASE => [.PMC_RING_BASE_ADDR]
  | .PMC_RING_IDX => [.PMC_RING_IDX_SIZE, .PMC_RING_IDX_NEXT]
  | .PMC_STAT => [.PMC_STAT_DROPS, .PMC_STAT_BUSY]
  | .TST_SEED => [.TST_SEED_SEED]
  | .TST_SCOPE => [.TST_SCOPE_CORES]
  | .TST_CREDIT => [.TST_CREDIT_EN, .TST_CREDIT_PROB, .TST_CREDIT_CYCLES, .TST_CREDIT_TARGET]
  | .TST_BP => [.TST_BP_EN, .TST_BP_PROB, .TST_BP_CYCLES, .TST_BP_TARGET]
  | .TST_BANK => [.TST_BANK_EN, .TST_BANK_PROB, .TST_BANK_CYCLES, .TST_BANK_TARGET]
  | .TST_QDLY => [.TST_QDLY_EN, .TST_QDLY_PROB, .TST_QDLY_CYCLES, .TST_QDLY_TARGET]
  | .TST_INJ => [.TST_INJ_ARM, .TST_INJ_ARMED, .TST_INJ_KIND, .TST_INJ_COUNT, .TST_INJ_UNIT, .TST_INJ_BLOCK]
  | .TST_STAT => [.TST_STAT_APPLIED, .TST_STAT_INJECTED, .TST_STAT_ERR]
  | .MOD_PWR => [.MOD_PWR_AVG, .MOD_PWR_NOW, .MOD_PWR_VIN]
  | .MOD_THERM => [.MOD_THERM_INLET, .MOD_THERM_HALF1, .MOD_THERM_HALF0]
  | .MOD_ALERT => [.MOD_ALERT_EN, .MOD_ALERT_SELFFAIL, .MOD_ALERT_THROTTLE, .MOD_ALERT_POWER, .MOD_ALERT_HOT]
  | .MOD_CAD => [.MOD_CAD_CLOSES, .MOD_CAD_OPEN, .MOD_CAD_REGEN]

/-- A register's scope, the count of its family, its writer, the offset of its first slot within its block or half
region, and the bytes from one slot to the next. -/
structure RegInfo where
  scope : RScope
  count : Nat
  writer : RWriter
  offset : Nat
  stride : Nat
  deriving DecidableEq, Repr

/-- The layout of R419, R420, R437, R438, R439 and R526. A half's register counts from the start of its half region,
a core's, grove's, device's and module's from the start of its block. -/
def Reg.info (r : Reg) : RegInfo :=
  match r with
  | .HLF_NODE_ID => ⟨.half, 1, .dexca, 0x0, 8⟩
  | .COL_ARM_ADDR => ⟨.half, 1, .dexca, 0x10000, 8⟩
  | .COL_ARM_EPOCH => ⟨.half, 1, .dexca, 0x10008, 8⟩
  | .COL_ARM_STAT => ⟨.half, 1, .dexca, 0x10010, 8⟩
  | .ACC_SPILL_STAT => ⟨.core, 1, .any, 0x0, 8⟩
  | .ACC_TILE_STAT => ⟨.core, 1, .any, 0x8, 8⟩
  | .ACC_OVF_BASE => ⟨.half, 1, .dexca, 0x20000, 8⟩
  | .ACC_OVF_CFG => ⟨.half, 1, .dexca, 0x20008, 8⟩
  | .ACC_OVF_STAT => ⟨.half, 1, .any, 0x20010, 8⟩
  | .MAT_STAT => ⟨.core, 1, .any, 0x10, 8⟩
  | .MAT_TAG => ⟨.core, 1, .any, 0x18, 8⟩
  | .MAT_CTL => ⟨.core, 1, .any, 0x20, 8⟩
  | .GRV_PAIR_CFG => ⟨.grove, 1, .dexca, 0x0, 8⟩
  | .VEC_STAT => ⟨.core, 1, .any, 0x28, 8⟩
  | .VEC_RNG_SEED => ⟨.half, 1, .dexca, 0x30000, 8⟩
  | .VEC_RNG_STEP => ⟨.half, 1, .dexca, 0x30008, 8⟩
  | .CORE_CTX_STAT => ⟨.core, 8, .any, 0x30, 8⟩
  | .CORE_CTX_CFG => ⟨.core, 1, .dexca, 0x70, 8⟩
  | .CORE_TRK_STAT => ⟨.core, 1, .any, 0x78, 8⟩
  | .CORE_SPEC_CFG => ⟨.core, 1, .dexca, 0x80, 8⟩
  | .CORE_SPEC_STAT => ⟨.core, 1, .any, 0x88, 8⟩
  | .HLF_SPEC_CFG => ⟨.half, 1, .dexca, 0x8, 8⟩
  | .CORE_DIS_CTL => ⟨.core, 1, .dexca, 0x90, 8⟩
  | .GRV_DIS_CTL => ⟨.grove, 1, .dexca, 0x8, 8⟩
  | .CORE_DIS_STAT => ⟨.core, 1, .any, 0x98, 8⟩
  | .FLG_WAKE => ⟨.core, 8, .any, 0xa0, 8⟩
  | .FLG_HALF_STAT => ⟨.half, 1, .any, 0x40000, 8⟩
  | .CORE_BIST_CFG => ⟨.core, 1, .dexca, 0xe0, 8⟩
  | .GLD_BIST_CFG => ⟨.half, 1, .dexca, 0x50000, 8⟩
  | .CORE_BIST_STAT => ⟨.core, 1, .any, 0xe8, 8⟩
  | .GLD_BIST_STAT => ⟨.half, 1, .any, 0x50008, 8⟩
  | .CORE_WAKE_STAT => ⟨.core, 1, .any, 0xf0, 8⟩
  | .GLD_CLR_CTL => ⟨.half, 1, .dexca, 0x50010, 8⟩
  | .HBM_STK => ⟨.half, 6, .any, 0x60000, 8⟩
  | .HBM_THR_CFG => ⟨.half, 1, .dexca, 0x60030, 8⟩
  | .HBM_THR_TIME => ⟨.half, 1, .any, 0x60038, 8⟩
  | .HBM_ERR_STAT => ⟨.half, 1, .any, 0x60040, 8⟩
  | .LPX_ERR_STAT => ⟨.half, 1, .any, 0x70000, 8⟩
  | .HBM_ERR_LOG => ⟨.half, 1, .any, 0x60048, 8⟩
  | .LPX_ERR_LOG => ⟨.half, 1, .any, 0x70008, 8⟩
  | .HBM_PRIV_STAT => ⟨.half, 1, .any, 0x60050, 8⟩
  | .HBM_INIT_CTL => ⟨.half, 1, .dexca, 0x60058, 8⟩
  | .LPX_INIT_CTL => ⟨.half, 1, .dexca, 0x70010, 8⟩
  | .FAB_PORT_STAT => ⟨.half, 9, .any, 0x80000, 8⟩
  | .FAB_PORT_EXP => ⟨.half, 9, .dexca, 0x80048, 8⟩
  | .FAB_PORT_PEER => ⟨.half, 9, .any, 0x80090, 8⟩
  | .FAB_PORT_SER => ⟨.half, 9, .any, 0x800d8, 8⟩
  | .FAB_PORT_ERR => ⟨.half, 9, .any, 0x80120, 8⟩
  | .FAB_CFG => ⟨.half, 1, .dexca, 0x80168, 8⟩
  | .FAB_QCLR => ⟨.half, 1, .dexca, 0x80170, 8⟩
  | .FAB_DIS_CTL => ⟨.half, 1, .dexca, 0x80178, 8⟩
  | .FAB_DROP => ⟨.half, 1, .any, 0x80180, 8⟩
  | .FAB_RSV => ⟨.half, 8, .dexca, 0x80188, 8⟩
  | .FAB_RSV_ERR => ⟨.half, 1, .any, 0x801c8, 8⟩
  | .FAB_TRK_STAT => ⟨.half, 1, .any, 0x801d0, 8⟩
  | .FAB_GRT => ⟨.half, 256, .dexca, 0x801d8, 8⟩
  | .COL_UND_CFG => ⟨.half, 1, .dexca, 0x10018, 8⟩
  | .COL_UND_OCC => ⟨.half, 1, .any, 0x10020, 8⟩
  | .COL_UND_EVT => ⟨.half, 1, .any, 0x10028, 8⟩
  | .COL_TPL_BASE => ⟨.half, 1, .dexca, 0x10030, 8⟩
  | .COL_FWD_STAT => ⟨.half, 1, .any, 0x10038, 8⟩
  | .COL_SEQ_STAT => ⟨.half, 1, .any, 0x10040, 8⟩
  | .BEAT_CFG => ⟨.half, 1, .dexca, 0x90000, 8⟩
  | .BEAT_NOW => ⟨.half, 1, .dexca, 0x90008, 8⟩
  | .BEAT_SUB => ⟨.half, 1, .dexca, 0x90010, 8⟩
  | .BEAT_OFS => ⟨.half, 1, .dexca, 0x90018, 8⟩
  | .BEAT_CAD => ⟨.half, 1, .dexca, 0x90020, 8⟩
  | .BEAT_STAT => ⟨.half, 1, .dexca, 0x90028, 8⟩
  | .BEAT_SCHED => ⟨.half, 1, .dexca, 0x90030, 8⟩
  | .BEAT_STEP => ⟨.half, 1, .dexca, 0x90038, 16⟩
  | .BEAT_LOG_BASE => ⟨.half, 1, .dexca, 0x90048, 8⟩
  | .BEAT_LOG_IDX => ⟨.half, 1, .dexca, 0x90050, 8⟩
  | .MOD_FEED => ⟨.module, 1, .dexca, 0x0, 8⟩
  | .HLF_HB_CFG => ⟨.half, 1, .dexca, 0x10, 8⟩
  | .HLF_HB_CTL => ⟨.half, 1, .dexca, 0x18, 8⟩
  | .HLF_HB_STAT => ⟨.half, 1, .dexca, 0x20, 8⟩
  | .HLF_FAILSET => ⟨.half, 256, .dexca, 0x28, 8⟩
  | .HLF_FO_CFG => ⟨.half, 1, .dexca, 0x828, 8⟩
  | .HLF_FO_CTL => ⟨.half, 1, .dexca, 0x830, 8⟩
  | .HLF_PCOPY_STAT => ⟨.half, 1, .dexca, 0x838, 8⟩
  | .HLF_ECHO_CFG => ⟨.half, 1, .dexca, 0x840, 8⟩
  | .HLF_ECHO_BASE => ⟨.half, 1, .dexca, 0x848, 8⟩
  | .HLF_ECHO_STAT => ⟨.half, 1, .any, 0x850, 8⟩
  | .HLF_ECHO_LOG => ⟨.half, 1, .any, 0x858, 8⟩
  | .HLF_SURV_CFG => ⟨.half, 1, .dexca, 0x860, 8⟩
  | .HLF_SURV_STAT => ⟨.half, 1, .any, 0x868, 8⟩
  | .CORE_SURV_STAT => ⟨.core, 1, .any, 0xf8, 8⟩
  | .HLF_REPL_CFG => ⟨.half, 1, .dexca, 0x870, 8⟩
  | .MBX_IN_WR => ⟨.half, 16, .any, 0xa0000, 64⟩
  | .MBX_OUT_WR => ⟨.half, 16, .ranger, 0xa0020, 64⟩
  | .MBX_IN_RD => ⟨.half, 16, .ranger, 0xa0008, 64⟩
  | .MBX_OUT_RD => ⟨.half, 16, .any, 0xa0028, 64⟩
  | .MBX_IN_STAT => ⟨.half, 16, .any, 0xa0010, 64⟩
  | .MBX_OUT_STAT => ⟨.half, 16, .any, 0xa0030, 64⟩
  | .MBX_RX_SRC => ⟨.half, 16, .any, 0xa0018, 64⟩
  | .MBX_CTL => ⟨.half, 16, .any, 0xa0038, 64⟩
  | .IRQ_PEND => ⟨.half, 8, .ranger, 0xb0000, 8⟩
  | .IRQ_EN => ⟨.half, 8, .ranger, 0xb0040, 8⟩
  | .IRQ_WAKE => ⟨.half, 8, .ranger, 0xb0080, 8⟩
  | .IRQ_CLAIM => ⟨.half, 1, .ranger, 0xb00c0, 8⟩
  | .IRQ_COAL => ⟨.half, 1, .ranger, 0xb00c8, 8⟩
  | .DXC_STR_SUB => ⟨.device, 256, .any, 0x0, 64⟩
  | .DXC_STR_STAT => ⟨.device, 256, .any, 0x4000, 8⟩
  | .DXC_B2WIN => ⟨.device, 16, .dexca, 0x4800, 8⟩
  | .DXC_HOST_STAT => ⟨.device, 1, .any, 0x4880, 8⟩
  | .DXC_EVT_STAT => ⟨.half, 1, .dexca, 0xc0000, 8⟩
  | .SEC_BOOT_CTL => ⟨.half, 1, .bootHost, 0xd0000, 8⟩
  | .SEC_BOOT_STAT => ⟨.half, 1, .any, 0xd0008, 8⟩
  | .SEC_LC => ⟨.half, 1, .any, 0xd0010, 8⟩
  | .SEC_MEAS => ⟨.half, 32, .any, 0xd0018, 8⟩
  | .SEC_EXT_D => ⟨.half, 4, .ranger, 0xd0118, 8⟩
  | .SEC_EXT_CTL => ⟨.half, 1, .ranger, 0xd0138, 8⟩
  | .SEC_AUTH_STAT => ⟨.half, 1, .any, 0xd0140, 8⟩
  | .CLK_STAT => ⟨.half, 1, .dexca, 0xe0000, 8⟩
  | .CLK_PLL_CFG => ⟨.half, 4, .dexca, 0xe0008, 8⟩
  | .CLK_SSC => ⟨.half, 4, .dexca, 0xe0028, 8⟩
  | .CLK_MUX => ⟨.half, 5, .dexcaOrPeer, 0xe0048, 8⟩
  | .CLK_FMON_CTL => ⟨.half, 1, .dexca, 0xe0070, 8⟩
  | .CLK_FMON_STAT => ⟨.half, 1, .dexca, 0xe0078, 8⟩
  | .PWR_CTL => ⟨.half, 1, .dexca, 0xf0000, 8⟩
  | .PWR_OFF => ⟨.half, 1, .dexca, 0xf0008, 8⟩
  | .PWR_STAT => ⟨.half, 1, .dexca, 0xf0010, 8⟩
  | .PWR_DOM_RST => ⟨.half, 1, .dexcaOrPeer, 0xf0018, 8⟩
  | .PWR_RAIL => ⟨.half, 1, .dexca, 0xf0020, 8⟩
  | .AGE_GAUGE => ⟨.half, 64, .dexca, 0x100000, 8⟩
  | .AGE_CTL => ⟨.half, 1, .dexca, 0x100200, 8⟩
  | .AGE_STAT => ⟨.half, 1, .dexca, 0x100208, 8⟩
  | .HLF_LEAD_STAT => ⟨.half, 1, .dexca, 0x878, 8⟩
  | .PMC_CNT => ⟨.core, 8, .dexca, 0x100, 8⟩
  | .PMC_GLD_CNT => ⟨.half, 8, .dexca, 0x110000, 8⟩
  | .PMC_MEM_CNT => ⟨.half, 8, .dexca, 0x110040, 8⟩
  | .PMC_FAB_CNT => ⟨.half, 8, .dexca, 0x110080, 8⟩
  | .PMC_COL_CNT => ⟨.half, 8, .dexca, 0x1100c0, 8⟩
  | .PMC_CFG => ⟨.half, 1, .dexca, 0x110100, 8⟩
  | .PMC_RING_BASE => ⟨.half, 1, .dexca, 0x110108, 8⟩
  | .PMC_RING_IDX => ⟨.half, 1, .dexca, 0x110110, 8⟩
  | .PMC_STAT => ⟨.half, 1, .dexca, 0x110118, 8⟩
  | .TST_SEED => ⟨.half, 1, .test, 0x120000, 8⟩
  | .TST_SCOPE => ⟨.half, 1, .test, 0x120008, 8⟩
  | .TST_CREDIT => ⟨.half, 1, .test, 0x120010, 8⟩
  | .TST_BP => ⟨.half, 1, .test, 0x120018, 8⟩
  | .TST_BANK => ⟨.half, 1, .test, 0x120020, 8⟩
  | .TST_QDLY => ⟨.half, 1, .test, 0x120028, 8⟩
  | .TST_INJ => ⟨.half, 1, .test, 0x120030, 8⟩
  | .TST_STAT => ⟨.half, 1, .test, 0x120038, 8⟩
  | .MOD_PWR => ⟨.module, 1, .dexca, 0x8, 8⟩
  | .MOD_THERM => ⟨.module, 1, .dexca, 0x10, 8⟩
  | .MOD_ALERT => ⟨.module, 1, .dexca, 0x18, 8⟩
  | .MOD_CAD => ⟨.module, 1, .dexca, 0x20, 8⟩

/-- Every register, in the order of the spec. -/
def Reg.all : List Reg :=
  [.HLF_NODE_ID, .COL_ARM_ADDR, .COL_ARM_EPOCH, .COL_ARM_STAT, .ACC_SPILL_STAT, .ACC_TILE_STAT, .ACC_OVF_BASE, .ACC_OVF_CFG, .ACC_OVF_STAT, .MAT_STAT, .MAT_TAG, .MAT_CTL, .GRV_PAIR_CFG, .VEC_STAT, .VEC_RNG_SEED, .VEC_RNG_STEP, .CORE_CTX_STAT, .CORE_CTX_CFG, .CORE_TRK_STAT, .CORE_SPEC_CFG, .CORE_SPEC_STAT, .HLF_SPEC_CFG, .CORE_DIS_CTL, .GRV_DIS_CTL, .CORE_DIS_STAT, .FLG_WAKE, .FLG_HALF_STAT, .CORE_BIST_CFG, .GLD_BIST_CFG, .CORE_BIST_STAT] ++
  [.GLD_BIST_STAT, .CORE_WAKE_STAT, .GLD_CLR_CTL, .HBM_STK, .HBM_THR_CFG, .HBM_THR_TIME, .HBM_ERR_STAT, .LPX_ERR_STAT, .HBM_ERR_LOG, .LPX_ERR_LOG, .HBM_PRIV_STAT, .HBM_INIT_CTL, .LPX_INIT_CTL, .FAB_PORT_STAT, .FAB_PORT_EXP, .FAB_PORT_PEER, .FAB_PORT_SER, .FAB_PORT_ERR, .FAB_CFG, .FAB_QCLR, .FAB_DIS_CTL, .FAB_DROP, .FAB_RSV, .FAB_RSV_ERR, .FAB_TRK_STAT, .FAB_GRT, .COL_UND_CFG, .COL_UND_OCC, .COL_UND_EVT, .COL_TPL_BASE] ++
  [.COL_FWD_STAT, .COL_SEQ_STAT, .BEAT_CFG, .BEAT_NOW, .BEAT_SUB, .BEAT_OFS, .BEAT_CAD, .BEAT_STAT, .BEAT_SCHED, .BEAT_STEP, .BEAT_LOG_BASE, .BEAT_LOG_IDX, .MOD_FEED, .HLF_HB_CFG, .HLF_HB_CTL, .HLF_HB_STAT, .HLF_FAILSET, .HLF_FO_CFG, .HLF_FO_CTL, .HLF_PCOPY_STAT, .HLF_ECHO_CFG, .HLF_ECHO_BASE, .HLF_ECHO_STAT, .HLF_ECHO_LOG, .HLF_SURV_CFG, .HLF_SURV_STAT, .CORE_SURV_STAT, .HLF_REPL_CFG, .MBX_IN_WR, .MBX_OUT_WR] ++
  [.MBX_IN_RD, .MBX_OUT_RD, .MBX_IN_STAT, .MBX_OUT_STAT, .MBX_RX_SRC, .MBX_CTL, .IRQ_PEND, .IRQ_EN, .IRQ_WAKE, .IRQ_CLAIM, .IRQ_COAL, .DXC_STR_SUB, .DXC_STR_STAT, .DXC_B2WIN, .DXC_HOST_STAT, .DXC_EVT_STAT, .SEC_BOOT_CTL, .SEC_BOOT_STAT, .SEC_LC, .SEC_MEAS, .SEC_EXT_D, .SEC_EXT_CTL, .SEC_AUTH_STAT, .CLK_STAT, .CLK_PLL_CFG, .CLK_SSC, .CLK_MUX, .CLK_FMON_CTL, .CLK_FMON_STAT, .PWR_CTL] ++
  [.PWR_OFF, .PWR_STAT, .PWR_DOM_RST, .PWR_RAIL, .AGE_GAUGE, .AGE_CTL, .AGE_STAT, .HLF_LEAD_STAT, .PMC_CNT, .PMC_GLD_CNT, .PMC_MEM_CNT, .PMC_FAB_CNT, .PMC_COL_CNT, .PMC_CFG, .PMC_RING_BASE, .PMC_RING_IDX, .PMC_STAT, .TST_SEED, .TST_SCOPE, .TST_CREDIT, .TST_BP, .TST_BANK, .TST_QDLY, .TST_INJ, .TST_STAT, .MOD_PWR, .MOD_THERM, .MOD_ALERT, .MOD_CAD]

end Sys2Proof.Machine
end

