-- ==== Sys2Proof/Machine/State.lean ====
section
/-!
DEFINITION. The state of one device and its module as plain data, and the state after power-on.
-/

namespace Sys2Proof.Machine

/-! ### Flags (R214 to R238) -/

/-- Who waits on a flag: a context (R224), or a stream (R424). -/
inductive Waiter where
  | ctx (c : CoreId) (n : CtxId)
  | stream (m : StreamId)
  deriving DecidableEq, Repr

/-- A flag (R216): SET, POISON, the owning context if a context owns it (R217), those who wait on it in the order in
which they began (R221), and the source and cause that its next wake record will name (R226, R227). -/
structure Flag where
  set : Bool
  poison : Bool
  owner : Option (CoreId × CtxId)
  waiters : List Waiter
  src : Src
  cause : Nat
  deriving DecidableEq, Repr

/-- A flag after reset (R218). -/
def Flag.reset : Flag := ⟨false, false, none, [], ⟨0, 0⟩, 0⟩

/-! ### Nodes (R33 to R40) -/

/-- The node states of R34. -/
inductive NodeSt where
  | absent | active | spare | closing | off | disabled | paired
  deriving DecidableEq, Repr

/-- SSTATE of a slot (R36). -/
inductive SState where
  | empty | active | closing
  deriving DecidableEq, Repr

/-- A slot of a distribution table: the physical node reference of its child, and SSTATE (R36). -/
structure Slot where
  child : Nat
  sstate : SState
  deriving DecidableEq, Repr

/-- A distribution table (R36). -/
structure DistTable where
  version : Nat
  beat : Nat
  slots : List Slot
  deriving DecidableEq, Repr

/-! ### Work entries and parts (R178 to R181, R551) -/

/-- A part of an entry: its number, its core if it reaches one, and its status once it has completed. -/
structure PartRec where
  k : Nat
  core : Option CoreId
  status : Option Nat
  deriving DecidableEq, Repr

/-- An exception record (R91, R92): the first invalid product as (k, row, column), the exact counts, and SATD. -/
structure Exc where
  first : Option (Nat × Nat × Nat)
  inv : Nat
  inf : Nat
  nan : Nat
  div : Nat
  satd : Bool
  deriving DecidableEq, Repr

/-- An entry that a node has accepted: the 128 bytes of R178, the parts it was spread over, the combined exception
records that its parts have handed to the dispatcher (R179), and the ends recorded for speculation (R201 to R208). -/
structure Entry where
  raw : List Byte
  node : NodeId
  parts : List PartRec
  excs : List Exc
  accepted : Nat
  deriving DecidableEq, Repr

/-- A part that waits in a grove dispatcher for a context of its core (R182): its entry, its number, and for an OP
entry its patched descriptor. -/
structure WaitingPart where
  entry : Nat
  k : Nat
  core : CoreId
  desc : Option (List Byte)
  deriving DecidableEq, Repr

/-! ### Contexts and the tracker (R182 to R193) -/

/-- The states of a context (R182). -/
inductive CtxSt where
  | idle | ready | blocked | waiting | stopping
  deriving DecidableEq, Repr

/-- The COND of a context that has been accepted and has not read its flag (R197). -/
structure CondSt where
  flag : FlagId
  polarity : Bool
  skip : Nat
  deriving DecidableEq, Repr

/-- A hardware context: the part it runs, its ring, and what it has accepted. `opDesc` is the patched descriptor of an
OP entry, `prev` the identity of the last command accepted, `fail` the ring index and status of the failed command
nearest the start of the ring (R188), `depMet` holds after a wake until the command is accepted, and `ended` holds once
END was accepted or the context stopped. -/
structure Ctx where
  st : CtxSt
  entry : Nat
  k : Nat
  ring : Nat
  plen : Nat
  ptr : Nat
  rptr : Nat
  crec : Nat
  mb : Nat
  stopErr : Bool
  spec : Bool
  opCls : Nat
  opTag : Nat
  opDesc : Option (List Byte)
  prev : Option Nat
  fail : Option (Nat × Nat)
  depMet : Bool
  ended : Bool
  cond : Option CondSt
  waitStart : Nat
  deriving DecidableEq, Repr

/-- A context that holds no part. -/
def Ctx.reset : Ctx :=
  ⟨.idle, 0, 0, 0, 0, 0, 0, 0, 0, false, false, 0, 0, none, none, none, false, false, none, 0⟩

/-- An accepted command in a core's tracker (R189): the command word's fields, the descriptor read at acceptance
(R185), and the status that the checks at acceptance, or its run, have already decided, if any. `num` is the ordinal of
the acceptance; `step` is VEC_RNG_STEP captured then; `merge` is the record merge that a vector operation makes at its
completion (R168), with its address. -/
structure Op where
  num : Nat
  ctx : CtxId
  idx : Nat
  cls : Nat
  desc : List Byte
  reco : Bool
  setf : Bool
  dflag : Nat
  tag : Nat
  mb : Nat
  k : Nat
  entry : Nat
  spec : Bool
  step : Nat
  pre : Option Nat
  started : Bool
  result : Nat
  merge : Option (Nat × MergeOp)
  deriving DecidableEq, Repr

/-- A LOAD read ahead behind an unresolved COND (R199): its context and ring index, its descriptor, the source bytes,
and the blocks that mismatched (R200). -/
structure RunAhead where
  ctx : CtxId
  idx : Nat
  desc : List Byte
  data : List (List Byte)
  bad : List Nat
  deriving DecidableEq, Repr

/-- The speculation that a core holds (R201 to R208). `resolved` is the confirm (true) or cancel (false) that has
reached the half; `dead` holds where a later confirm commits nothing; `excs` are the exception records that wait for the commit,
each with its address, or with none where the dispatcher combines them (R91, R204). -/
structure SpecSt where
  key : Nat × Nat
  ctx : CtxId
  entry : Nat
  k : Nat
  shadow : Nat
  target : Nat
  partDone : Option Nat
  resolved : Option Bool
  dead : Bool
  excs : List (Option Nat × Exc)
  deriving DecidableEq, Repr

/-! ### Mailboxes, interrupts, streams (R423 to R436) -/

/-- A word of a mailbox queue; a header carries the stamp of its writer (R428). -/
structure MWord where
  word : Nat
  hdr : Bool
  stamp : Agent
  deriving DecidableEq, Repr

/-- One direction of a mailbox channel: its words, the writer that holds the lock with the argument words still to
come (R427), and whether a word of the message being written was lost. -/
structure MQueue where
  words : List MWord
  lock : Option (Agent × Nat)
  broken : Bool
  deriving DecidableEq, Repr

/-- An empty, unlocked queue (R429). -/
def MQueue.reset : MQueue := ⟨[], none, false⟩

/-- A stream (R423 to R425): the base of its ring in the privileged region, its size in descriptors, the ring index of
its oldest descriptor, the descriptors held, and the flag it waits on. -/
structure Stream where
  base : Nat
  size : Nat
  head : Nat
  count : Nat
  flag : Option FlagId
  woken : Bool
  deriving DecidableEq, Repr

/-- A stream that Dexca has given no ring. -/
def Stream.reset : Stream := ⟨0, 0, 0, 0, none, false⟩

/-- What a read answers (the model's own field `State.reply`). -/
inductive Reply where
  | none
  | value (v : Nat)
  | bytes (bs : List Byte)
  | completerAbort
  | status (st : Nat)
  deriving DecidableEq, Repr


/-! ### Accumulators (R95 to R110) -/

/-- An accumulator element (R97, R98, R101): its ANCHOR byte, its sidecar, W of a near element, and LOC and INDEX of a far
shell. Elements are numbered (tile × 128 + row) × 128 + column (R120). -/
structure AccElem where
  anchor : Nat
  sc : Nat
  w : Int
  loc : Bool
  idx : Nat
  deriving DecidableEq, Repr

/-- An element that holds +0 (R98). -/
def AccElem.zero : AccElem := ⟨0, 0, 0, false, 0⟩

/-- An allocated entry of the spill table (R103). -/
structure SpillEntry where
  l : Int
  sc : Nat
  owner : Nat
  deriving DecidableEq, Repr

/-- A deposit on its way to an element (R86, R100): the number of the operation that makes it, or none for a commit or an
external deposit. -/
structure Dep where
  op : Option Nat
  elem : Nat
  d : Int
  sc : Nat
  deriving DecidableEq, Repr

/-- A tile: whether it is released, whether it went through ACC_EXHAUSTED, and whether it is a shadow tile. -/
structure TileSt where
  released : Bool
  exh : Bool
  shadow : Bool
  deriving DecidableEq, Repr

/-- A tile after reset. -/
def TileSt.reset : TileSt := ⟨true, false, false⟩

/-- A matrix operation in the array (R131 to R137): whether its clear point has passed, the k-blocks streamed and the
k-block held loaded for it, whether it has made a deposit, its exception counts, and whether it is refused to finish
because an element was corrupt or its tile exhausted. -/
structure MatRun where
  num : Nat
  cleared : Bool
  streamed : Nat
  loaded : Nat
  deposited : Bool
  exc : Exc
  failed : Option Nat
  deriving DecidableEq, Repr

/-- A stationary buffer (R131): the matrix operation and k-block it was loaded for, and its bytes as read from the
scratchpad: one list of element codes and scale bytes a column; `xa` is the transpose buffer with the same k-block of A, a list
of element codes a row, empty unless ATRANS = 1 (R134). -/
structure StatBuf where
  num : Nat
  block : Nat
  cols : List (List Nat)
  xa : List (List Nat)
  deriving DecidableEq, Repr

/-- The accumulator unit of a core: its elements and spill table, its tiles, the deposits on their way, the residue queues
of its columns with the diverted products that wait to enter them, the far queue and the glade path. -/
structure AccUnit where
  elems : AMap Nat AccElem
  spill : AMap Nat SpillEntry
  tiles : AMap Nat TileSt
  depQ : List Dep
  residue : AMap (Fin 128) (List Dep)
  farQ : List Dep
  gladeQ : List Dep
  deriving DecidableEq, Repr

/-- The accumulator unit after reset. -/
def AccUnit.reset : AccUnit := ⟨[], [], [], [], [], [], []⟩

/-! ### The fabric (R280 to R309) -/

/-- Who issued a fabric operation: a command of a context, a dispatcher, a stream, a ranger, a collective (for contributor
work on owner `j`'s chunk, or with `own` for the owner's delivery of it), or the forwarder of a request that the port of
half `h` received (R333). -/
inductive FabOwner where
  | core (c : CoreId) (n : CtxId) (num : Nat)
  | dispatcher
  | stream (m : StreamId)
  | dexca (h : HalfId)
  | coll (id j : Nat) (own : Bool)
  | fwd (h : HalfId) (req : Packet)
  deriving DecidableEq, Repr

/-- A fabric operation that has left its issuer (R313 to R315): its owner, its code of R311 (0 for a flag set), its
addresses and length, how many packets have no answer yet, the failed packets as (target address, status), and the old
value that an ATOMIC returned. -/
structure FabOp where
  owner : FabOwner
  code : Nat
  chk : Bool
  laddr : Nat
  raddr : Nat
  len : Nat
  openPkts : Nat
  fails : List (Nat × Nat)
  old : Nat
  deriving DecidableEq, Repr

/-- An entry of the fabric tracker (R290), named by its TAG: the operation, the destination device, the OSEQ, and the
target address of its packet. -/
structure FabEntry where
  op : Nat
  dev : Nat
  oseq : Nat
  addr : Nat
  deriving DecidableEq, Repr

/-- A packet built at acceptance that waits for a tracker entry: its operation, and its target address. -/
structure Unsent where
  op : Nat
  addr : Nat
  pkt : Packet
  deriving DecidableEq, Repr

/-- The link state of a port (R285, R299, R306): the next FSEQ it sends and the next that the peer has to acknowledge, the next it
expects, the packets not acknowledged with the FSEQ of their last flit, the packets queued for the replay buffer, the credits
returned by the peer less the flits sent on each virtual channel (R292), the FSEQ from which it has asked for replay, whether it
has passed CHECK, whether it came up in discover mode, whether it is closing, whether its equalisation has failed, and the
corrected codewords that FECCOR does not count yet. -/
structure Port where
  txSeq : Nat
  txAck : Nat
  rxSeq : Nat
  unacked : List (Nat × Packet)
  queue : List Packet
  credit : AMap Nat Int
  replayFrom : Option Nat
  pass : Bool
  discover : Bool
  closing : Bool
  eqFailed : Bool
  fecRem : Nat
  deriving DecidableEq, Repr

/-- A port after reset. -/
def Port.reset : Port := ⟨0, 0, 0, [], [], [], none, false, false, false, false, 0⟩

/-- What the epoch of a request decides when it arrives (R332). -/
inductive EpochRes where
  | apply
  | hold
  | forward (dev addr : Nat)
  | stale
  deriving DecidableEq, Repr

/-- A part that a permute moves (R327): the old device and base, the new ones, its offset within COUNT, and its bytes. -/
structure PermPart where
  oldDev : Nat
  oldBase : Nat
  newDev : Nat
  newBase : Nat
  off : Nat
  len : Nat
  deriving DecidableEq, Repr

/-- A collective in progress, or closed and kept for late contributions (R317 to R328): its number, the command that
issued it, its descriptor, its epoch, the phase it runs in if any (R322), whether its sequencer has started it (R344), the
contributors and owners by device bits, the contributions included and those answered as (owner, contributor), the owner
chunks closed and the owner chunks received, whether its part as contributor is closed, the counts of R328, the failed
deliveries as (owner, status), the owner's failures, whether it has completed, and the standby staging areas of the chunks
that this device took over (R380), the parts of a permute (R327), and the bytes of owner chunks that have arrived and wait for
their RFLAG (R326). -/
structure Coll where
  id : Nat
  core : CoreId
  ctx : CtxId
  num : Nat
  desc : List Byte
  epoch : Nat
  phase : Option Nat
  running : Bool
  contribs : List Nat
  owners : List Nat
  step : Nat
  mb : Nat
  incl : List (Nat × Nat)
  seen : List (Nat × Nat)
  closed : List Nat
  got : List Nat
  recvClosed : Bool
  nlate : Nat
  ndigest : Nat
  nmismatch : Nat
  cfails : List (Nat × Nat)
  ofails : List Nat
  ended : Bool
  moved : AMap Nat Nat
  perm : List PermPart
  parts : List (Nat × List Byte)
  deriving DecidableEq, Repr

/-- The state of the fabric block: its ports, operations and tracker, packets not yet sent, the next OSEQ to each
device, the last path to each (its port and VIA), the OSEQ expected from each device, the answers given, the packets in the reorder stores (R289), the collectives
with the contributions that came before their collective was issued (R320), the copies that a permute leaves to the fence
(R327), the packets sent, each with its port, the identity records that its ports sent (R299, R300), whether only
management traffic is left to a device that has stopped or was declared failed (R379, R385), and the packets of this
device to itself that have not been taken yet, oldest first (R293, R295; log 69), and what the epochs of stored packets decided
at their arrival, by device and OSEQ (R332). -/
structure Fab where
  ports : AMap PortId Port
  ops : AMap Nat FabOp
  nextOp : Nat
  tracker : AMap Nat FabEntry
  unsent : List Unsent
  oseqOut : AMap Nat Nat
  lastPath : AMap Nat (PortId × Nat × Bool)
  oseqIn : AMap Nat Nat
  answered : AMap (Nat × Nat) (Nat × Nat)
  store : List (HalfId × PortId × Packet)
  colls : List Coll
  collEarly : List (HalfId × Packet)
  permCopies : List (Nat × Nat × Nat)
  sent : List (PortId × Packet)
  beacons : List (PortId × List Byte)
  mgmtOnly : Bool
  selfQ : List Packet
  verdicts : AMap (Nat × Nat) EpochRes
  deriving DecidableEq, Repr

/-- The fabric block after reset. -/
def Fab.reset : Fab := ⟨[], [], 0, [], [], [], [], [], [], [], [], [], [], [], [], false, [], []⟩
/-! ### The understory (R334 to R339) -/

/-- A key that a half holds (R336): the sender and its tag, the local handle, the records received whole, the granules
they take, whether the record with LAST = 1 was written, whether the key is void (R338) or can commit nothing (R201 to
R203), the beat of its latest record, whether a core has copied its records, and the resolution recorded before one
did. -/
structure UKey where
  sender : Nat
  tag : Nat
  handle : Nat
  recs : List (List Byte)
  granules : Nat
  last : Bool
  void : Bool
  dead : Bool
  beat : Nat
  started : Bool
  resolved : Option Bool
  deriving DecidableEq, Repr


/-! ### The beat (R346 to R365) -/

/-- A phase of the current step (R354 to R363): its entry's fields, its opening and deadline beats, the extensions granted,
whether it is open, closed, or awaits its DECIDE, whether this device takes part, the nanoseconds to its done set, whether
that counted at the opening, whether the device was late at the first deadline, whether its record is written, and the
deadline that has been processed. -/
structure PhaseRun where
  phase : Nat
  policy : Nat
  extMax : Nat
  dflag : FlagId
  lflag : FlagId
  shares : Nat × Nat × Nat
  part : Bool
  openBeat : Nat
  deadline : Nat
  ext : Nat
  opened : Bool
  closed : Bool
  deciding : Bool
  done : Option Nat
  early : Bool
  late : Bool
  inExt : Bool
  logged : Bool
  passed : Option Nat
  deriving DecidableEq, Repr

/-- The beat unit and failover: the schedule in force, the phases of the step, whether the first step has started, the beat
at which the next starts, the phases whose done set came before their opening, the consecutive late steps of each phase,
the late devices reported for each phase (R358), the collectives' owners that close at the next fence, the mark and
exchange history (R352), the beats of failover extension in this step and the beat f whose SHIFT is awaited (R381), the
highest heartbeat of each watched device with the beat from which it is watched (R374), those noted, the probes sent with
their causes (R376), the declarations awaiting their fence and those being taken over (R379, R380), the tables being
assembled (R375), the acknowledgements gathered, the armature armed as (address, beat), the mark frames driven on the cadence output (R349), the
consecutive late steps of devices that report to this one as (last step, count) by device and phase, and the digests that a
judge has gathered as (device, step, epoch, digest) (R404), and the devices declared as replica outliers (R405). -/
structure Beat where
  sched : Nat
  phases : List PhaseRun
  started : Bool
  nextStep : Nat
  preDone : List Nat
  streak : AMap Nat Nat
  lateRep : AMap Nat Nat
  foBeats : Nat
  shiftDue : Option Nat
  cadStep : Bool
  lastErr : Option Int
  lastStamp : Option Nat
  lastOfs : Option Int
  sentT1 : Option Nat
  watch : AMap Nat Nat
  watchFrom : Nat
  noted : List Nat
  probes : AMap Nat Nat
  declares : List (Nat × Nat)
  takeovers : List (Nat × Nat)
  tables : AMap (Nat × Nat × Nat) (List (Nat × List Byte))
  acks : AMap Nat (List Nat)
  armed : Option (Nat × Nat)
  ackDue : Option (Nat × Nat × Nat)
  marks : List Nat
  strag : AMap (Nat × Nat) (Nat × Nat)
  notes : List (Nat × Nat × Nat × Nat)
  outliers : List Nat
  deriving DecidableEq, Repr

/-- The beat unit after reset. -/
def Beat.reset : Beat := ⟨0, [], false, 0, [], [], [], 0, none, false, none, none, none, none, [], 0, [], [], [], [], [], [], none, none, [], [], [], []⟩

/-! ### Dexca (R440 to R468) and its watch over the cores (R397 to R412) -/

/-- A long command in progress (R443): its opcode as CLASS × 256 + low byte, its arguments, the half that took it, the bytes
copied from its parameter block (R447), the units done and in all (R450), and the status word it will end with once that
is decided. -/
structure LongOp where
  cmd : Nat
  args : List Nat
  half : HalfId
  block : List Byte
  done : Nat
  total : Nat
  status : Option Nat
  deriving DecidableEq, Repr

/-- A FLAG_SET that waits for the fabric (R460): its half, channel and tag, and the fabric operation. -/
structure FlagWait where
  half : HalfId
  chan : ChanId
  tag : Nat
  op : Nat
  deriving DecidableEq, Repr

/-- The survey of a core (R408 to R410): the next program of the package, whether the package runs whole, whether a program
is running, whether one of this pass has failed, the core and result of a random program that this
core runs once more, and the µs of the slice used. -/
structure Survey where
  next : Nat
  whole : Bool
  running : Bool
  failed : Bool
  first : Option (CoreId × Nat)
  used : Nat
  deriving DecidableEq, Repr

/-- No survey under way. -/
def Survey.reset : Survey := ⟨0, false, false, false, none, 0⟩

/-- A slot of a half's echo area in use (R398): the source core, its operation and k-block, MB, STEP, ID and n of the draws,
whether it is a pair's, the checker chosen (R401), and the checker once it has found a mismatch, with the lowest column that
differs. -/
structure EchoSlot where
  src : CoreId
  num : Nat
  block : Nat
  mb : Nat
  step : Nat
  id : Nat
  n : Nat
  pair : Bool
  chk : Option CoreId
  bad : Option (CoreId × Nat)
  deriving DecidableEq, Repr

/-- What Dexca holds outside registers: the job state (R449), the long commands and the handles that have ended with their
units, the events that wait and those lost since the last LOST (R465), the requests executed on each channel (R450),
the checkpoint bounds and weights (R386, R388), the device scores, the job level, the pair reported and how long a lower level has held, the step
of the last checkpoint, the shard set and takeover entry that the job registered, FEEDOVR, the tables of the next
beat fences, the replies that wait on the fabric, the echo slots, the surveys with their package, the blocks repaired, each
with its beat, whether an OPTSTEP has completed since the last committed refresh (R378), the places of the hyperparameter
records of the shard sets (R403), the devices whose shards this one has taken over, those whose shard held here has no
committed copy elsewhere (R382, R391), and the complete messages of the inbound queues with their opcodes, in the order in which
they became complete (R445). -/
structure Dexca where
  job : Nat
  long : AMap Nat LongOp
  ended : AMap Nat (Nat × Nat)
  events : AMap HalfId (List (List Nat))
  lost : AMap HalfId Nat
  log : AMap (HalfId × ChanId) (List Nat)
  iBase : Nat
  iMin : Nat
  weights : List Nat
  scores : AMap Nat Nat
  level : Nat
  topPair : Nat × Nat
  topScore : Nat
  ckptStep : Nat
  shards : List (Nat × Nat)
  takeover : List Byte
  feedOvr : Bool
  flagWaits : List FlagWait
  echo : AMap (HalfId × Nat) EchoSlot
  surveys : AMap CoreId Survey
  package : List Byte
  repaired : AMap Nat Nat
  spares : Nat
  optSince : Bool
  hyper : AMap Nat (List Nat)
  held : List Nat
  bare : List Nat
  order : List (HalfId × ChanId × Nat)
  deriving DecidableEq, Repr

/-- Dexca before it starts: the defaults of R386 and R388. -/
def Dexca.reset : Dexca :=
  ⟨0, [], [], [], [], [], 3600, 300, [16, 16, 16, 16, 16], [], 0, (0, 0), 0, 0, [], [], false, [], [], [], [], [], 0, false, [], [], [], []⟩

/-! ### The aggregator (R516 to R519) -/

/-- The aggregator's state beyond registers: the last copy of each counter and the node counts, by (set, counter), where a
set is numbered 64 × half + its number of R517, and 128 + device bits stands for another device's set; the records
dropped since the job loaded; and the device or group sets that a principal has gathered, by (beat, sender),
and the counters that have wrapped since the last copy. The half blocks have the numbers 50 to 53 here. -/
structure Pmc where
  prev : AMap (Nat × Nat) Nat
  node : AMap (Nat × Nat) Nat
  drops : AMap HalfId Nat
  gather : AMap (Nat × Nat) (List Nat)
  wraps : List (Nat × Nat)
  deriving DecidableEq, Repr

/-- The aggregator after reset. -/
def Pmc.reset : Pmc := ⟨[], [], [], [], []⟩

/-- A half's state that no register field holds: its mailbox channels (R425), the replies that Dexca has not yet been
able to place in an outbound queue, the request line of its interrupt controller with the enabled events since it last
fell (R434), the edges latched while the controller's clock is stopped (R435), whether it is stopped, whether the ranger
is (R273), the glade overflow slots allocated with the core and element that own each (R104), and the packages' own
corrections with the refresh above the base rate (R276, R277; log 16), the keys of its understory, the bytes of a
token record not yet received whole, by source device (R314), and the accesses left to an armed injection (R524). -/
structure Half where
  inQ : AMap ChanId MQueue
  outQ : AMap ChanId MQueue
  replyQ : AMap ChanId (List (List Nat))
  irqLine : Bool
  irqCount : Nat
  irqLatched : List Nat
  irqClockStopped : Bool
  rangerStopped : Bool
  ovf : AMap Nat (CoreId × Nat)
  lpxCorr : Nat
  und : List UKey
  undRx : AMap Nat (List Byte)
  injLeft : Nat
  deriving DecidableEq, Repr

/-- A half after reset. -/
def Half.reset : Half := ⟨[], [], [], false, 0, [], false, false, [], 0, [], [], 0⟩

/-- The host side (R417, R436): the configuration space bytes written, the MSI-X table bytes written, the pending bit
array, and the vectors whose messages have been sent, oldest first. -/
structure HostSide where
  cfg : AMap Nat Byte
  msixTable : AMap Nat Byte
  msixPending : List Nat
  msixSent : List Nat
  deriving DecidableEq, Repr

/-- The host side after reset. -/
def HostSide.reset : HostSide := ⟨[], [], [], []⟩

/-- An access held until the initialisation or clear of its memory ends (R251, R266, R422): the host's, with its local address,
its length, and what it writes, if it writes; a write by a unit of half `h`, with whether the CRCs of its blocks go with it; an
atomic; a merge; or a record of the aggregator of half `h` (R518). -/
inductive HeldAccess where
  | host (addr len : Nat) (data : Option (List Byte))
  | write (h : HalfId) (addr : Nat) (bs : List Byte) (crc : Bool)
  | atomic (code addr operand : Nat)
  | merge (addr : Nat) (m : MergeOp)
  | record (h : HalfId) (addr : Nat) (bs : List Byte)
  deriving DecidableEq, Repr


/-! ### Boot and fuses (R469 to R485) -/

/-- An extension of a measurement slot that is in progress or waits (R485): its half, its slot, and the 32 bytes. -/
structure MeasExt where
  half : HalfId
  slot : Nat
  value : List Byte
  deriving DecidableEq, Repr

/-- The SEC engine and the fuses (R475): the revoked slots, MINSVN and lifecycle state that are burned, whether the identity
key is destroyed (R481), the BOOTNONCE drawn at this reset (R478), the extensions in progress in order, and the SVN and VERSION
of the running image. -/
structure Sec where
  revoked : Nat
  minsvn : Nat
  lc : Nat
  keyGone : Bool
  bootNonce : List Byte
  exts : List MeasExt
  svn : Nat
  version : Nat
  deriving DecidableEq, Repr

/-- The SEC engine of a device that has never been started: in PRODUCTION (R480). -/
def Sec.reset : Sec := ⟨0, 0, 2, false, [], [], 0, 0⟩

/-! ### Clocks and power (R486 to R511) -/

/-- A PLL (R488 to R493): whether it has been started and awaits its lock, the starts that have failed since reset, the FBDIV
of its present output, and the spread in force with whether a new one waits for the next period. -/
structure Pll where
  locking : Bool
  fails : Nat
  cur : Nat
  depth : Nat
  rate : Nat
  sscWaits : Bool
  deriving DecidableEq, Repr

/-- A PLL after reset. -/
def Pll.reset : Pll := ⟨false, 0, 144, 0, 32, false⟩

/-- The clocks, the power states and the lead token: the oscillator cycles counted (R486), the references lost (R487), the PLLs,
the source that each multiplexer passes (R494), the units powering down, ramping, waiting for a ramp and clearing (R500, R501),
the token heartbeats of the other half on their way to each half (R503), and Dexca's frequency plan of R508, R528 and R534: the
top FBDIV, the FBDIV steps lowered for heat and for power, the worst drift in force as ⌈w⌉, whether a lower frequency waits
for the next step start (R509), and whether the bridge data link has failed (R506). -/
structure Clk where
  oscCount : Nat
  lost : List (HalfId × RefClk)
  plls : AMap (HalfId × PllId) Pll
  mux : AMap (HalfId × MuxId) Nat
  pdown : List (HalfId × PowerUnit)
  ramp : List (HalfId × PowerUnit)
  wakeQ : List (HalfId × PowerUnit)
  clearing : List (HalfId × PowerUnit)
  relay : AMap HalfId Nat
  top : Nat
  heat : Nat
  power : Nat
  margin : Nat
  slowDue : Bool
  bridgeDown : Bool
  deriving DecidableEq, Repr

/-- The clocks after reset. -/
def Clk.reset : Clk := ⟨0, [], [], [], [], [], [], [], [], 144, 0, 0, 0, false, false⟩

/-! ### The module (R527 to R548) -/

/-- The supplies and the standby domain: whether the main input and the auxiliary input are in range, the main stages enabled,
the rails good, the power controller tripped (R528), PERST_N high, module reset asserted (R529), the last shutdown cause (R538),
and whether the auxiliary input failed while the main stages were on. -/
structure Module where
  mainIn : Bool
  auxIn : Bool
  stages : Bool
  rails : Bool
  tripped : Bool
  perst : Bool
  inReset : Bool
  cause : Nat
  auxFailed : Bool
  deriving DecidableEq, Repr

/-- The module as the auxiliary input has come up for the first time: no main input, and module reset asserted. -/
def Module.reset : Module := ⟨false, true, false, false, false, false, true, 0, false⟩


/-- A core's state that no register field holds; `shadow` is its shadow counter set, by event number (R204, R514), and `kStarted` the
k-blocks started since the fence of the step's first beat (R397). -/
structure CoreSt where
  node : NodeSt
  gated : Bool
  lastCtx : Nat
  nextNum : Nat
  ctxs : AMap CtxId Ctx
  ops : List Op
  runAhead : List RunAhead
  spec : Option SpecSt
  acc : AccUnit
  mats : List MatRun
  bufs : List StatBuf
  shadow : AMap Nat Nat
  kStarted : Nat
  doneDrops : Nat
  deriving DecidableEq, Repr

/-- A core after reset, without the spares of R35. -/
def CoreSt.reset : CoreSt := ⟨.active, false, 7, 0, [], [], [], none, AccUnit.reset, [], [], [], 0, 0⟩

/-- The reasons a step can stop for good. None is raised: every command of the table has a next state. -/
inductive Fault where
  /-- Raised by no command of this model; it is safe, because it is never reached. -/
  | unreachable
  deriving DecidableEq, Repr

/-- The reasons a command can have no meaning. -/
inductive Refusal where
  /-- Raised only by an arm of `exec` whose command has no meaning yet; safe, because no claim then says what it does. -/
  | notModelled (mnemonic : String)
  deriving DecidableEq, Repr

/-- The state of the device and its module. -/
structure State where
  pending : List Instr
  fresh : Nat
  reply : Reply
  regs : AMap (Fld × Nat × Nat) Nat
  mem : Memory
  crc : AMap Nat Nat
  flags : AMap FlagId Flag
  tables : AMap NodeId DistTable
  nextTables : List (NodeId × DistTable)
  groveSt : AMap GroveId NodeSt
  nodeQ : AMap (NodeId × Fin 8) (List (List Byte))
  qDepth : Nat
  entries : AMap Nat Entry
  nextEntry : Nat
  waiting : AMap GroveId (List WaitingPart)
  cores : AMap CoreId CoreSt
  halves : AMap HalfId Half
  streams : AMap StreamId Stream
  host : HostSide
  held : List HeldAccess
  fab : Fab
  privFaults : Nat
  fence : Nat
  beat : Beat
  dx : Dexca
  pmc : Pmc
  sec : Sec
  clk : Clk
  mod : Module
  deriving DecidableEq, Repr

/-- The state after power-on: every register at its reset value (R14), memory with nothing listed, no work anywhere. -/
def State.reset : State where
  pending := []
  fresh := 0
  reply := .none
  regs := []
  mem := []
  crc := []
  flags := []
  tables := []
  nextTables := []
  groveSt := []
  nodeQ := []
  qDepth := 64
  entries := []
  nextEntry := 0
  waiting := []
  cores := []
  halves := []
  streams := []
  host := HostSide.reset
  held := []
  fab := Fab.reset
  privFaults := 0
  fence := 0
  beat := Beat.reset
  dx := Dexca.reset
  pmc := Pmc.reset
  sec := Sec.reset
  clk := Clk.reset
  mod := Module.reset

end Sys2Proof.Machine
end

