-- ==== Sys2Proof/Machine/Ops.lean ====
section
/-!
DEFINITION. The named operations that the meanings share: access to the parts of the state, register fields, free
values, interrupts, node references, the local address map and its blocks.
-/

namespace Sys2Proof.Machine

/-! ### Completion statuses (R192, R291, R316) -/

abbrev stOK : Nat := 0x00
abbrev stAbortedDisable : Nat := 0x01
abbrev stInvalidNode : Nat := 0x02
abbrev stNodePaired : Nat := 0x03
abbrev stNotActive : Nat := 0x04
abbrev stNodeEmpty : Nat := 0x05
abbrev stInvalidFormat : Nat := 0x06
abbrev stInvalidShape : Nat := 0x07
abbrev stInvalidTile : Nat := 0x08
abbrev stInvalidAddress : Nat := 0x09
abbrev stInvalidOp : Nat := 0x0A
abbrev stBadExchange : Nat := 0x0B
abbrev stEscOverflow : Nat := 0x0C
abbrev stAccCorrupt : Nat := 0x0D
abbrev stAccExhausted : Nat := 0x0E
abbrev stAccRaw : Nat := 0x0F
abbrev stOptNonfinite : Nat := 0x10
abbrev stScaleNonfinite : Nat := 0x11
abbrev stChecksum : Nat := 0x12
abbrev stPrivFault : Nat := 0x13
abbrev stSlotMismatch : Nat := 0x14
abbrev stSpecForbidden : Nat := 0x15
abbrev stSpecCancelled : Nat := 0x16
abbrev stSpecHidden : Nat := 0x17

/-! ### Fields of descriptors -/

/-- Bits `hi` to `lo` of the little-endian 64-bit word at byte `off` of a descriptor (R12, R16). -/
def dfld (d : List Byte) (off hi lo : Nat) : Nat := bits (leNat ((d.drop off).take 8)) hi lo

/-- One bit of a descriptor. -/
def dbit (d : List Byte) (off i : Nat) : Bool := dfld d off i i == 1

/-! ### Cores, halves, flags -/

/-- The half of a core. -/
def halfOfCore (c : CoreId) : HalfId := Fin.ofNat 2 (c.val / 40)
/-- The grove of a core. -/
def groveOfCore (c : CoreId) : GroveId := Fin.ofNat 10 (c.val / 8)
/-- The half of a grove. -/
def halfOfGrove (g : GroveId) : HalfId := Fin.ofNat 2 (g.val / 5)
/-- Core number `c` of half `h`, 0 to 39 (R259). -/
def coreOf (h : HalfId) (c : Nat) : CoreId := Fin.ofNat 80 (h.val * 40 + c % 40)
/-- Grove number `g` of half `h`, 0 to 4. -/
def groveOf (h : HalfId) (g : Nat) : GroveId := Fin.ofNat 10 (h.val * 5 + g % 5)
/-- The cores of a grove. -/
def coresOfGrove (g : GroveId) : List CoreId := (List.range 8).map (fun i => Fin.ofNat 80 (g.val * 8 + i))
/-- The core is one of an active pair (R143). -/
def inPair (s : State) (c : CoreId) : Bool :=
  bit (aget s.regs (.GRV_PAIR_CFG_ACT, (groveOfCore c).val, 0) 0) (c.val % 8 / 2)
/-- The other core of a core's pair, numbered alike whether or not the pair is active. -/
def pairMate (c : CoreId) : CoreId := if c.val % 2 = 0 then Fin.ofNat 80 (c.val + 1) else Fin.ofNat 80 (c.val - 1)
/-- The other half. -/
def otherHalf (h : HalfId) : HalfId := if h = 0 then 1 else 0

/-- A core's state. -/
def State.core (s : State) (c : CoreId) : CoreSt := aget s.cores c CoreSt.reset
/-- The state with a core replaced. -/
def State.setCore (s : State) (c : CoreId) (x : CoreSt) : State := { s with cores := aset s.cores c x }
/-- A context of a core. -/
def State.ctx (s : State) (c : CoreId) (n : CtxId) : Ctx := aget (s.core c).ctxs n Ctx.reset
/-- The state with a context replaced. -/
def State.setCtx (s : State) (c : CoreId) (n : CtxId) (x : Ctx) : State :=
  s.setCore c { s.core c with ctxs := aset (s.core c).ctxs n x }
/-- A half's state. -/
def State.half (s : State) (h : HalfId) : Half := aget s.halves h Half.reset
/-- The state with a half replaced. -/
def State.setHalf (s : State) (h : HalfId) (x : Half) : State := { s with halves := aset s.halves h x }
/-- A flag. -/
def State.flag (s : State) (f : FlagId) : Flag := aget s.flags f Flag.reset
/-- The state with a flag replaced. -/
def State.setFlagSt (s : State) (f : FlagId) (x : Flag) : State := { s with flags := aset s.flags f x }

/-! ### Register fields -/

/-- The base of the staging window, aperture 0's reset value (R421, R470). -/
abbrev stagingBase : Nat := 0x1000000000000

/-- The reset value of a field in unit `u`, index `i`: that of its table, or the value the spec gives by half or
index. -/
def fldReset (f : Fld) (u i : Nat) : Nat :=
  match f with
  | .HLF_NODE_ID_HALF => u % 2
  | .DXC_B2WIN_VALID => if i = 0 then 1 else 0
  | .DXC_B2WIN_BASE => if i = 0 then stagingBase else 0
  | .SEC_LC_NEXT => 2
  | .SEC_LC_STATE => 2
  | _ => f.info.reset

/-- The width of a field. -/
def Fld.width (f : Fld) : Nat := f.info.hi + 1 - f.info.lo

/-- Field `f` of unit `u` (core, grove or half number), index `i` of its family. -/
def State.rf (s : State) (f : Fld) (u : Nat := 0) (i : Nat := 0) : Nat := aget s.regs (f, u, i) (fldReset f u i)

/-- The state with a field set by the hardware, cut to the field's width. -/
def State.wf (s : State) (f : Fld) (v : Nat) (u : Nat := 0) (i : Nat := 0) : State :=
  { s with regs := aset s.regs (f, u, i) (v % 2 ^ f.width) }

/-- A one-bit field as a Bool. -/
def State.rb (s : State) (f : Fld) (u : Nat := 0) (i : Nat := 0) : Bool := s.rf f u i != 0

/-- The state with a saturating counter field advanced by `n`. -/
def State.incSat (s : State) (f : Fld) (n : Nat := 1) (u : Nat := 0) (i : Nat := 0) : State :=
  s.wf f (satAdd f.width (s.rf f u i) n) u i

/-- The state with a wrapping counter field advanced by `n`. -/
def State.incWrap (s : State) (f : Fld) (n : Nat := 1) (u : Nat := 0) (i : Nat := 0) : State :=
  s.wf f (s.rf f u i + n) u i

/-- Every register of the unit back at its reset value. -/
def State.resetRegs (s : State) (p : Fld → Nat → Nat → Bool) : State :=
  { s with regs := adrop s.regs (fun k => p k.1 k.2.1 k.2.2) }

/-! ### Free values -/

/-- The next free value (log 3). -/
def State.freeVal (s : State) : Nat := Config.free s.fresh
/-- The state after a free value was used. -/
def State.used (s : State) (n : Nat := 1) : State := { s with fresh := s.fresh + n }

/-! ### The frequency plan (R492, R508, R509) -/

/-- A PLL of a half. -/
def State.pll (s : State) (h : HalfId) (n : PllId) : Pll := aget s.clk.plls (h, n) Pll.reset
/-- A PLL of a half replaced. -/
def State.setPll (s : State) (h : HalfId) (n : PllId) (x : Pll) : State :=
  { s with clk := { s.clk with plls := aset s.clk.plls (h, n) x } }

/-- The FBDIV that Dexca's plan gives the core PLLs: the top less what heat and power take, within the range of the VCO
(R488). -/
def plannedFb (s : State) : Nat := max 128 (s.clk.top - s.clk.heat - s.clk.power)

/-- Both core PLLs slew to the plan (R492). -/
def slewToPlan (s : State) : State :=
  (s.wf .CLK_PLL_CFG_FBDIV (plannedFb s) 0 0).wf .CLK_PLL_CFG_FBDIV (plannedFb s) 1 0

/-- A lower frequency that waits for a step start is taken up (R509). -/
def takeSlow (s : State) : State :=
  if s.clk.slowDue then slewToPlan { s with clk := { s.clk with slowDue := false } } else s

/-- The boot stages of R484. -/
abbrev bsReset : Nat := 0
abbrev bsSelftest : Nat := 1
abbrev bsWait : Nat := 2
abbrev bsCheck : Nat := 3
abbrev bsRun : Nat := 4
abbrev bsHalt : Nat := 5

/-- STAGE of a half. -/
def bootStage (s : State) (h : HalfId) : Nat := s.rf .SEC_BOOT_STAT_STAGE h.val
/-- The boot lock of a half is set (R472). -/
def bootLocked (s : State) (h : HalfId) : Bool := s.rb .SEC_BOOT_STAT_LOCK h.val

/-! ### The bridge between the halves (R9, R504 to R506) -/

/-- The bridge carries traffic: neither half is fenced or has lost the other, and the bridge data link has not failed since
the module left reset. -/
def bridgeUp (s : State) : Bool :=
  !s.clk.bridgeDown && !s.rb .HLF_LEAD_STAT_FENCED 0 && !s.rb .HLF_LEAD_STAT_FENCED 1 && !s.rb .HLF_LEAD_STAT_PEERLOST 0 &&
    !s.rb .HLF_LEAD_STAT_PEERLOST 1

/-- What an agent asks of a half is lost: the host's traffic to half 1 crosses the bridge (R9; log 131). -/
def outOfReach (s : State) (a : Agent) (h : HalfId) : Bool := a == .host && h == 1 && !bridgeUp s

/-! ### Privilege -/

/-- Count a privilege fault (R49, R261). -/
def State.privFault (s : State) : State := { s with privFaults := s.privFaults + 1 }

/-- Whether the agent is Dexca, on either ranger (R2, R10). -/
def isDexca (a : Agent) : Bool :=
  match a with
  | .dexca _ => true
  | _ => false

/-- Whether the agent is the ranger of half `h`: Dexca, or the plinth before it. -/
def isRanger (a : Agent) (h : HalfId) : Bool := a == .dexca h || a == .plinth h

/-! ### Interrupts -/

/-- COUNT of IRQ_COAL as R438 takes it. -/
def coalCount (s : State) (h : HalfId) : Nat := max 1 (s.rf .IRQ_COAL_COUNT h.val)

/-- Source `src` is enabled in half `h`. -/
def irqEnabled (s : State) (h : HalfId) (src : Nat) : Bool := bit (s.rf .IRQ_EN_EN h.val (src / 64)) (src % 64)

/-- Source `src` is pending in half `h`. -/
def irqPending (s : State) (h : HalfId) (src : Nat) : Bool := bit (s.rf .IRQ_PEND_PEND h.val (src / 64)) (src % 64)

/-- The pending bit of a source set, and the coalescing count of an enabled one advanced (R432, R434). -/
def irqSetPending (s : State) (h : HalfId) (src : Nat) : State :=
  let n := src / 64
  let s := s.wf .IRQ_PEND_PEND (setBit (s.rf .IRQ_PEND_PEND h.val n) (src % 64) true) h.val n
  if irqEnabled s h src then
    let x := s.half h
    let cnt := x.irqCount + 1
    s.setHalf h { x with irqCount := cnt, irqLine := x.irqLine || decide (coalCount s h ≤ cnt) }
  else s

/-- Latched edges set their pending bits once the controller's clock runs again (R435). -/
def irqSetAll (s : State) (h : HalfId) (srcs : List Nat) : State :=
  match srcs with
  | [] => s
  | x :: rest => irqSetAll (irqSetPending s h x) h rest

/-- A reference of a half is lost (R487). -/
def refLost (s : State) (h : HalfId) (r : RefClk) : Bool := s.clk.lost.contains (h, r)

/-- The source that a multiplexer passes. -/
def muxCur (s : State) (h : HalfId) (d : MuxId) : Nat := aget s.clk.mux (h, d) 0

/-- A source runs: a PLL never stops (R490, R496). -/
def srcRuns (s : State) (h : HalfId) (sel : Nat) : Bool :=
  match sel with
  | 0 => !refLost s h .osc
  | 1 => !refLost s h .pcie
  | _ => true

/-- A domain of a half gets no clock (R496): the source passed has stopped, or a switch hangs on the new one (log 159). -/
def clockDead (s : State) (h : HalfId) (d : MuxId) : Bool :=
  !srcRuns s h (muxCur s h d) || (s.rb .CLK_MUX_BUSY h.val d.val && !srcRuns s h (s.rf .CLK_MUX_SEL h.val d.val))

/-- The interrupt controller of a half has no clock: its ranger's clocks are gated, or the RANGER domain gets none (R435, R496). -/
def irqStopped (s : State) (h : HalfId) : Bool := (s.half h).irqClockStopped || clockDead s h 1

/-- An event of a source (R432, R435): while the controller's clock is stopped the latch holds it, and an enabled source
whose WAKE bit is set restarts the ranger's gated clocks. -/
def raiseIrq (s : State) (h : HalfId) (src : Nat) : State :=
  let x := s.half h
  if irqStopped s h then
    let l := if x.irqLatched.contains src then x.irqLatched else x.irqLatched ++ [src]
    if !clockDead s h 1 && irqEnabled s h src && bit (s.rf .IRQ_WAKE_WAKE h.val (src / 64)) (src % 64) then
      irqSetAll (s.setHalf h { x with irqLatched := [], irqClockStopped := false }) h l
    else s.setHalf h { x with irqLatched := l }
  else irqSetPending s h src

/-- The clock of a half's interrupt controller may run again: its latched edges then become pending (R435). -/
def clockBack (s : State) (h : HalfId) : State :=
  if irqStopped s h then s else irqSetAll (s.setHalf h { s.half h with irqLatched := [] }) h (s.half h).irqLatched

/-! ### Counters (R512 to R515) -/

/-- The counting blocks of a device (R512). -/
inductive Block where
  | core (c : CoreId)
  | gld (h : HalfId)
  | mem (h : HalfId)
  | fab (h : HalfId)
  | col (h : HalfId)
  deriving DecidableEq, Repr

/-- The half of a block. -/
def blockHalf (b : Block) : HalfId :=
  match b with
  | .core c => halfOfCore c
  | .gld h => h
  | .mem h => h
  | .fab h => h
  | .col h => h

/-- The unit number of a block's counters. -/
def blockUnit (b : Block) : Nat :=
  match b with
  | .core c => c.val
  | .gld h => h.val
  | .mem h => h.val
  | .fab h => h.val
  | .col h => h.val

/-- The field of a block's counters that stands for one of PMC_CNTk (R526). -/
def blockFld (b : Block) (core gld mem fab col : Fld) : Fld :=
  match b with
  | .core _ => core
  | .gld _ => gld
  | .mem _ => mem
  | .fab _ => fab
  | .col _ => col

/-- EN of counter `k` of a block. -/
def cntEn (s : State) (b : Block) (k : Nat) : Bool :=
  s.rb (blockFld b .PMC_CNT_EN .PMC_GLD_CNT_EN .PMC_MEM_CNT_EN .PMC_FAB_CNT_EN .PMC_COL_CNT_EN) (blockUnit b) k
/-- EVENT of counter `k` of a block. -/
def cntEvent (s : State) (b : Block) (k : Nat) : Nat :=
  s.rf (blockFld b .PMC_CNT_EVENT .PMC_GLD_CNT_EVENT .PMC_MEM_CNT_EVENT .PMC_FAB_CNT_EVENT .PMC_COL_CNT_EVENT) (blockUnit b) k
/-- The COUNT field of a block. -/
def cntField (b : Block) : Fld :=
  blockFld b .PMC_CNT_COUNT .PMC_GLD_CNT_COUNT .PMC_MEM_CNT_COUNT .PMC_FAB_CNT_COUNT .PMC_COL_CNT_COUNT
/-- The OVF field of a block. -/
def cntOvf (b : Block) : Fld :=
  blockFld b .PMC_CNT_OVF .PMC_GLD_CNT_OVF .PMC_MEM_CNT_OVF .PMC_FAB_CNT_OVF .PMC_COL_CNT_OVF

/-- The number under which the aggregator keeps a block's counters: 64 × half + the set number of R517 for a core, 50 to 53
for GLD, MEM, FAB and COL. -/
def blockKey (b : Block) : Nat :=
  match b with
  | .core c => 64 * (c.val / 40) + c.val % 40
  | .gld h => 64 * h.val + 50
  | .mem h => 64 * h.val + 51
  | .fab h => 64 * h.val + 52
  | .col h => 64 * h.val + 53

/-- Counter `k` of a block advanced by `n`; a wrap sets OVF and makes source 32 pending (R513, R520). -/
def advanceCnt (s : State) (b : Block) (k n : Nat) : State :=
  let v := s.rf (cntField b) (blockUnit b) k + n
  let s := s.wf (cntField b) v (blockUnit b) k
  if 2 ^ 48 ≤ v then
    let s := s.wf (cntOvf b) 1 (blockUnit b) k
    raiseIrq { s with pmc := { s.pmc with wraps := (blockKey b, k) :: s.pmc.wraps } } (blockHalf b) 32
  else s

/-- `n` occurrences of an event counted by the counters of a block that select it, from counter `k` on (R513). -/
def countFrom (s : State) (b : Block) (ev n : Nat) (ks : List Nat) : State :=
  match ks with
  | [] => s
  | k :: rest => countFrom (if cntEn s b k && cntEvent s b k == ev then advanceCnt s b k n else s) b ev n rest

/-- `n` occurrences of an event of a block (R513, R515). -/
def countEv (s : State) (b : Block) (ev : Nat) (n : Nat := 1) : State :=
  if n = 0 then s else countFrom s b ev n (List.range 8)

/-- `n` occurrences of an event of a core, of a context in speculative mode if `spec`: those go to the shadow set (R204,
R514). A paired core counts at its even partner (R143). -/
def countCore (s : State) (c : CoreId) (ev : Nat) (n : Nat := 1) (spec : Bool := false) : State :=
  if spec then
    let x := s.core c
    s.setCore c { x with shadow := aset x.shadow ev (aget x.shadow ev 0 + n) }
  else countEv s (.core (if inPair s c then (if c.val % 2 = 0 then c else pairMate c) else c)) ev n

/-- The shadow set of a core added into its counters (R206, R514). -/
def commitShadow (s : State) (c : CoreId) : State :=
  let x := s.core c
  x.shadow.foldl (fun s e => countCore s c e.1 e.2) (s.setCore c { x with shadow := [] })

/-- The shadow set of a core discarded (R207). -/
def dropShadow (s : State) (c : CoreId) : State := s.setCore c { s.core c with shadow := [] }

/-! ### Injection (R524) -/

/-- The accesses that an armed injection of kind `kind` still takes at half `h`, if `hit` says that this access matches. -/
def injLeft (s : State) (h : HalfId) (kind : Nat) (hit : Bool) : Nat :=
  if hit && s.rb .TST_INJ_ARMED h.val && s.rf .TST_INJ_KIND h.val == kind then (s.half h).injLeft else 0

/-- `n` matching accesses taken by the armed injection of a half: counted, and disarmed with the last. -/
def takeInj (s : State) (h : HalfId) (n : Nat) : State :=
  if n = 0 then s
  else
    let s := (s.setHalf h { s.half h with injLeft := (s.half h).injLeft - n }).incSat .TST_STAT_INJECTED n h.val
    if (s.half h).injLeft = 0 then s.wf .TST_INJ_ARMED 0 h.val else s

/-! ### Surveys and samples (R398, R409, R416) -/

/-- A survey slice runs on a core (R409). -/
def surveying (s : State) (c : CoreId) : Bool := (aget s.dx.surveys c Survey.reset).running

/-- The samples of a matrix operation whose deposits are incomplete are dropped, and counted in SKIP (R416). -/
def dropSamples (s : State) (c : CoreId) (num : Nat) : State :=
  let gone := s.dx.echo.filter (fun e => e.2.src == c && e.2.num == num)
  let s := { s with dx := { s.dx with echo := s.dx.echo.filter (fun e => !(e.2.src == c && e.2.num == num)) } }
  s.incSat .HLF_ECHO_STAT_SKIP gone.length (halfOfCore c).val

/-! ### Beat and time -/

/-- The beat number of half `h` (R364). -/
def beatNow (s : State) (h : HalfId := 0) : Nat := s.rf .BEAT_NOW_BEAT h.val

/-! ### Node references -/

/-- The 14 device bits of this device (R24): GROUP, ROW and COL of HLF_NODE_ID of half 0. -/
def ownDev (s : State) : Nat :=
  (s.rf .HLF_NODE_ID_GROUP * 8 + s.rf .HLF_NODE_ID_ROW) * 8 + s.rf .HLF_NODE_ID_COL

/-- The physical node reference of a node of this device (R22, R25). -/
def nodeRefOf (s : State) (nd : NodeId) : Nat :=
  let dev := ownDev s
  match nd with
  | .core c => dev * 128 + c.val / 40 * 64 + c.val % 40 / 8 * 8 + c.val % 8
  | .grove g => 1 * 2 ^ 24 + dev * 128 + g.val / 5 * 64 + g.val % 5 * 8
  | .half h => 2 * 2 ^ 24 + dev * 128 + h.val * 64
  | .device => 3 * 2 ^ 24 + dev * 128
  | .group => 4 * 2 ^ 24 + dev / 64 * 2 ^ 13
  | .hall => 5 * 2 ^ 24

/-- The slots that a node's table holds before Dexca writes one: every child in physical order, Active. Group and hall
tables hold nothing. DESIGN CHOICE (log 8). -/
def defaultSlots (s : State) (nd : NodeId) : List Slot :=
  match nd with
  | .core _ => []
  | .grove g => (coresOfGrove g).map (fun c => ⟨nodeRefOf s (.core c), .active⟩)
  | .half h => (List.range 5).map (fun i => ⟨nodeRefOf s (.grove (groveOf h i)), .active⟩)
  | .device => [⟨nodeRefOf s (.half 0), .active⟩, ⟨nodeRefOf s (.half 1), .active⟩]
  | .group => []
  | .hall => []

/-- The distribution table in force at a node (R36, R40). -/
def State.table (s : State) (nd : NodeId) : DistTable := aget s.tables nd ⟨0, 0, defaultSlots s nd⟩

/-- The code of SSTATE (R36). -/
def sstateCode (x : SState) : Nat :=
  match x with
  | .empty => 0
  | .active => 1
  | .closing => 3

/-- The bytes of a distribution table: the header of 16 bytes, and 8 bytes a slot (R36). -/
def DistTable.bytes (t : DistTable) : List Byte :=
  natLE 4 t.version ++ natLE 4 (t.slots.length % 512) ++ natLE 8 t.beat ++
    t.slots.flatMap (fun x => natLE 4 x.child ++ natLE 4 (sstateCode x.sstate))

/-- The number under which a node's tables are kept. -/
def nodeNumber (nd : NodeId) : Nat :=
  match nd with
  | .core c => c.val
  | .grove g => 80 + g.val
  | .half h => 90 + h.val
  | .device => 92
  | .group => 93
  | .hall => 94

/-- The local address of version `v` of a node's table, in the privileged region: two buffers, so that a new version never
overwrites the one in force (R40, R265; log 37). -/
def tablePlace (nd : NodeId) (v : Nat) : Nat := 0x7038000000 + nodeNumber nd * 0x2000 + v % 2 * 0x1000

/-- A distribution table put in force: Dexca writes its bytes to its buffer, and DT_ADDR and DT_VERSION follow (R40). -/
def State.setTable (s : State) (nd : NodeId) (t : DistTable) : State :=
  { s with tables := aset s.tables nd t, mem := s.mem.setBytes (tablePlace nd t.version) t.bytes }

/-- The level of a node reference (R25). -/
def refLevel (r : Nat) : Nat := bits r 26 24
/-- The SLOT bit of a node reference. -/
def refSlot (r : Nat) : Bool := bit r 27
/-- The device bits of a node reference. -/
def refDev (r : Nat) : Nat := bits r 20 7

/-- The form of a node reference is valid (R20, R23, R26, R27). -/
def refValid (r : Nat) : Bool :=
  let lv := refLevel r
  let grove := bits r 5 3
  decide (lv ≤ 5) &&
  (decide (2 ≤ lv) || decide (grove ≤ 4)) &&
  (match lv with
    | 0 => true
    | 1 => bits r 2 0 == 0
    | 2 => bits r 5 0 == 0
    | 3 => bits r 6 0 == 0
    | 4 => bits r 12 0 == 0
    | _ => bits r 20 0 == 0 && !refSlot r)

/-- This device is the principal device of its group, or of the hall (R32): DEV bits recorded with the armature. -/
def isPrincipal (s : State) (grp hall : Nat) (nd : NodeId) : Bool :=
  match nd with
  | .group => grp == ownDev s
  | .hall => hall == ownDev s
  | _ => true

/-- The node of this device that a physical reference names; none where it names another device's (R22). -/
def localNode (s : State) (r : Nat) : Option NodeId :=
  let h := bits r 6 6
  match refLevel r with
  | 0 => if refDev r = ownDev s then some (.core (Fin.ofNat 80 (h * 40 + bits r 5 3 * 8 + bits r 2 0))) else none
  | 1 => if refDev r = ownDev s then some (.grove (Fin.ofNat 10 (h * 5 + bits r 5 3))) else none
  | 2 => if refDev r = ownDev s then some (.half (Fin.ofNat 2 h)) else none
  | 3 => if refDev r = ownDev s then some .device else none
  | 4 => if bits r 20 13 = ownDev s / 64 then some .group else none
  | _ => some .hall

/-- The parent of the node that a slot reference names, and its slot index (R25, R28). -/
def slotParent (s : State) (r : Nat) : Option (NodeId × Nat) :=
  let h := bits r 6 6
  match refLevel r with
  | 0 => if refDev r = ownDev s then some (.grove (Fin.ofNat 10 (h * 5 + bits r 5 3)), bits r 2 0) else none
  | 1 => if refDev r = ownDev s then some (.half (Fin.ofNat 2 h), bits r 5 3) else none
  | 2 => if refDev r = ownDev s then some (.device, h) else none
  | 3 => if bits r 20 13 = ownDev s / 64 then some (.group, bits r 12 7) else none
  | 4 => some (.hall, bits r 20 13)
  | _ => none

/-- The state of a node of this device (R34): halves, the device, groups and halls are Active. -/
def nodeState (s : State) (nd : NodeId) : NodeSt :=
  match nd with
  | .core c => (s.core c).node
  | .grove g => aget s.groveSt g .active
  | _ => .active

/-- A slot counts toward its node's work: it is Active, and its child is not the odd core of an active pair, which the even
core stands for (R20, R21, R38). DEDUCED (log 127). -/
def slotCounts (s : State) (x : Slot) : Bool :=
  x.sstate == .active &&
    (match localNode s x.child with
      | some nd => nodeState s nd != .paired
      | none => true)

/-- The Active slots of a node, in slot order (R38). -/
def activeSlots (s : State) (nd : NodeId) : List Slot := (s.table nd).slots.filter (slotCounts s)

/-- A reference resolved at dispatch (R20 to R29): the physical reference, or the status that rejects it. -/
def resolveRef (s : State) (r : Nat) : Except Nat Nat :=
  if !refValid r then .error stInvalidNode
  else if refSlot r then
    match slotParent s r with
    | none => .error stInvalidNode
    | some (p, i) =>
      match (s.table p).slots[i]? with
      | none => .error stInvalidNode
      | some sl => if sl.sstate = .active then .ok sl.child else .error stNotActive
  else .ok (r % 2 ^ 27)

/-- A reference resolved to a node of this device that accepts work (R21, R29). -/
def resolveLocal (s : State) (r : Nat) : Except Nat NodeId :=
  match resolveRef s r with
  | .error e => .error e
  | .ok p =>
    match localNode s p with
    | none => .error stInvalidNode
    | some nd =>
      match nodeState s nd with
      | .active => .ok nd
      | .paired => .error stNodePaired
      | _ => .error stNotActive

/-- The share of Active slot `k` of `n` when `total` items are split (R38): its first item and the one past its last. -/
def shareOf (k n total : Nat) : Nat × Nat := (k * total / n, (k + 1) * total / n)

/-! ### The local address map (R258 to R264) -/

/-- What a row of R258 or R259 holds. -/
inductive Region where
  | hbm
  | priv
  | lpddr
  | glade (h : HalfId)
  | scratch (c : CoreId)
  | acc (c : CoreId)
  | regs
  deriving DecidableEq, Repr

abbrev hbmSize : Nat := 432000000000
abbrev privBase : Nat := 0x7000000000
abbrev privSize : Nat := 0x300000000
abbrev lpddrBase : Nat := 0x8000000000
abbrev lpddrSize : Nat := 512000000000
abbrev sramBase : Nat := 0x1000000000000
abbrev halfStride : Nat := 0x20000000
abbrev gladeSize : Nat := 0x4000000
abbrev coreStride : Nat := 0x800000
abbrev scratchSize : Nat := 0x300000
abbrev accSize : Nat := 0x180000
abbrev regBase : Nat := 0x2000000000000
abbrev regSize : Nat := 0x4000000

/-- The local base of a half's glade (R259). -/
def gladeBase (h : HalfId) : Nat := sramBase + h.val * halfStride
/-- The local base of a core's scratchpad (R259). -/
def scratchBase (c : CoreId) : Nat := sramBase + c.val / 40 * halfStride + 0x4000000 + c.val % 40 * coreStride
/-- The local base of a core's accumulator window (R259). -/
def accBase (c : CoreId) : Nat := sramBase + c.val / 40 * halfStride + 0x4400000 + c.val % 40 * coreStride

/-- The row of the on-die windows that an offset from a half's base lies in, with its base and size (R259). -/
def sramRow (h : HalfId) (o : Nat) : Option (Region × Nat × Nat) :=
  if o < gladeSize then some (.glade h, gladeBase h, gladeSize)
  else
    let c := (o - 0x4000000) / coreStride
    let y := (o - 0x4000000) % coreStride
    if 40 ≤ c then none
    else if y < scratchSize then some (.scratch (coreOf h c), scratchBase (coreOf h c), scratchSize)
    else if 0x400000 ≤ y ∧ y < 0x400000 + accSize then some (.acc (coreOf h c), accBase (coreOf h c), accSize)
    else none

/-- The row of R258 or R259 that an address lies in, with its base and size. -/
def rowOf (a : Nat) : Option (Region × Nat × Nat) :=
  if a < hbmSize then some (.hbm, 0, hbmSize)
  else if privBase ≤ a ∧ a < privBase + privSize then some (.priv, privBase, privSize)
  else if lpddrBase ≤ a ∧ a < lpddrBase + lpddrSize then some (.lpddr, lpddrBase, lpddrSize)
  else if sramBase ≤ a ∧ a < sramBase + 2 * halfStride then
    sramRow (Fin.ofNat 2 ((a - sramBase) / halfStride)) ((a - sramBase) % halfStride)
  else if regBase ≤ a ∧ a < regBase + regSize then some (.regs, regBase, regSize)
  else none

/-- The region of an access of `len` bytes, if it lies within one row (R260). -/
def regionOf (a len : Nat) : Option Region :=
  match rowOf a with
  | none => none
  | some (r, b, n) => if a + len ≤ b + n then some r else none

/-- The stack that holds a page of HBM user space or of the privileged region (R262). -/
def stackOf (a : Nat) : StackId :=
  if privBase ≤ a then Fin.ofNat 12 ((a - privBase) / 4096) else Fin.ofNat 12 (a / 4096)
/-- The bus that holds a page of LPDDR user space (R264). -/
def busOf (a : Nat) : BusId := Fin.ofNat 8 ((a - lpddrBase) / 4096)
/-- The half whose controllers hold an address of a tier (R262, R264). -/
def tierHalf (a : Nat) : HalfId :=
  if lpddrBase ≤ a then Fin.ofNat 2 ((busOf a).val / 4) else Fin.ofNat 2 ((stackOf a).val / 6)

/-- An address in the understory of a half (R248, R334): COL_UND_CFG.BASE and SIZE in units of 64 KiB of glade. -/
def inUnderstory (s : State) (h : HalfId) (a : Nat) : Bool :=
  let u := (a - gladeBase h) / 65536
  decide (s.rf .COL_UND_CFG_BASE h.val ≤ u) && decide (u < s.rf .COL_UND_CFG_BASE h.val + s.rf .COL_UND_CFG_SIZE h.val)

/-- Some byte of a range lies in the understory of a half; units past the end of the glade hold nothing (R344). -/
def touchesUnderstory (s : State) (h : HalfId) (a len : Nat) : Bool :=
  let lo := gladeBase h + s.rf .COL_UND_CFG_BASE h.val * 65536
  let hi := min (lo + s.rf .COL_UND_CFG_SIZE h.val * 65536) (gladeBase h + gladeSize)
  decide (a < hi) && decide (lo < a + len)

/-- The bytes of CORE_SPEC_CFG.PART × 64 KiB at the top of a scratchpad (R201); PART above 16 is taken as 16. -/
def partBase (s : State) (c : CoreId) : Nat := scratchBase c + scratchSize - min 16 (s.rf .CORE_SPEC_CFG_PART c.val) * 65536

/-- Some byte of a range lies in the speculative partition of a core (R195, R201). -/
def inPartition (s : State) (c : CoreId) (a len : Nat) : Bool :=
  decide (partBase s c < a + len) && decide (a < scratchBase c + scratchSize)

/-- Some byte of a range lies in the speculative partition of a core that holds a speculation (R204). -/
def touchesPartition (s : State) (c : CoreId) (a len : Nat) : Bool := (s.core c).spec.isSome && inPartition s c a len

/-- Some byte of a range lies in the speculative partition of any core that holds a speculation, or in an understory
(R204, R248). -/
def touchesHidden (s : State) (r : Nat × Nat) : Bool :=
  touchesUnderstory s 0 r.1 r.2 || touchesUnderstory s 1 r.1 r.2 ||
  (s.cores.map Prod.fst).any (fun c => touchesPartition s c r.1 r.2)

/-- Every core of the device. -/
def allCores : List CoreId := (List.range 80).map (Fin.ofNat 80)

/-- The global address of a local one (R24). -/
def globalAddr (dev a : Nat) : Nat := dev * 2 ^ 50 + a % 2 ^ 50
/-- The device bits of a global address. -/
def addrDev (a : Nat) : Nat := bits a 63 50
/-- The local part of a global address. -/
def addrLocal (a : Nat) : Nat := a % 2 ^ 50

/-! ### Bytes of memory -/

/-- Read `n` bytes of memory. -/
def State.read (s : State) (a n : Nat) : List Byte := s.mem.getBytes a n
/-- Write bytes to memory. -/
def State.write (s : State) (a : Nat) (bs : List Byte) : State := { s with mem := s.mem.setBytes a bs }
/-- Read a little-endian number of `n` bytes. -/
def State.readN (s : State) (a n : Nat) : Nat := leNat (s.read a n)
/-- Clear a range of memory. -/
def State.clearMem (s : State) (lo hi : Nat) : State := { s with mem := s.mem.clear lo hi }
/-- What memory holds at the addresses that `p` holds of is no longer guaranteed: every byte written there is free (R490, R498;
log 46). -/
def State.loseMem (s : State) (p : Nat → Bool) : State := { s.used with mem := s.mem.loseIf p (Config.lostByte s.fresh) }

/-! ### Block checksums (R267 to R271) -/

/-- Eight steps of CRC-32C on the low bit, reflected (R267). -/
def crcBits (n c : Nat) : Nat :=
  match n with
  | 0 => c
  | n + 1 => crcBits n (if c % 2 = 1 then (c / 2) ^^^ 0x82F63B78 else c / 2)

/-- CRC-32C of bytes, from the register value `c`. -/
def crcFrom (bs : List Byte) (c : Nat) : Nat :=
  match bs with
  | [] => c
  | b :: rest => crcFrom rest (crcBits 8 (c ^^^ b.toNat))

/-- CRC-32C (R267). -/
def crc32c (bs : List Byte) : Nat := crcFrom bs 0xFFFFFFFF ^^^ 0xFFFFFFFF

/-- CRC-32C of 2,048 zero bytes. -/
abbrev crcZeroBlock : Nat := 0xA489834F

/-- The base of the tier that holds an address of user space. -/
def tierBase (a : Nat) : Nat := if lpddrBase ≤ a then lpddrBase else 0
/-- The local address of the 2 KiB block that holds an address of a tier (R267). -/
def blockOf (a : Nat) : Nat := tierBase a + (a - tierBase a) / 2048 * 2048
/-- The blocks that a range of a tier touches. -/
def blocksOf (a len : Nat) : List Nat :=
  if len = 0 then []
  else (List.range ((blockOf (a + len - 1) - blockOf a) / 2048 + 1)).map (fun i => blockOf a + 2048 * i)

/-- The stored CRC of a block; a block that nothing has written holds the CRC of zero bytes (log 2). -/
def State.crcOf (s : State) (blk : Nat) : Nat := aget s.crc blk crcZeroBlock
/-- A block's stored CRC is the CRC of its bytes. -/
def blockGood (s : State) (blk : Nat) : Bool := crc32c (s.read blk 2048) == s.crcOf blk
/-- The state with a block's CRC stored. -/
def State.setCrc (s : State) (blk v : Nat) : State := { s with crc := aset s.crc blk v }
/-- The state with the CRC of each block that a range covers written from its bytes (R268). -/
def writeCrcs (s : State) (blks : List Nat) : State :=
  match blks with
  | [] => s
  | b :: rest => writeCrcs (s.setCrc b (crc32c (s.read b 2048))) rest

/-- Whether an address lies in either tier's user space. -/
def inTier (a len : Nat) : Bool :=
  match regionOf a len with
  | some .hbm => true
  | some .lpddr => true
  | _ => false

/-- A first mismatch counted (R271, step 1). -/
def countCrc1 (s : State) (blk : Nat) : State :=
  let s := countEv s (.mem (tierHalf blk)) 0x104
  if lpddrBase ≤ blk then s.incSat .LPX_ERR_STAT_CRC1 1 (tierHalf blk).val
  else s.incSat .HBM_ERR_STAT_CRC1 1 (tierHalf blk).val

/-- A second mismatch escalated (R271, step 3; R278): counted, logged if the log is empty, and the ranger of the half
that holds the block interrupted. -/
def escalate (s : State) (blk : Nat) : State :=
  let h := tierHalf blk
  if lpddrBase ≤ blk then
    let s := s.incSat .LPX_ERR_STAT_CRC2 1 h.val
    let s := if s.rb .LPX_ERR_LOG_VALID h.val then s
      else (((s.wf .LPX_ERR_LOG_VALID 1 h.val).wf .LPX_ERR_LOG_PRIV 0 h.val).wf .LPX_ERR_LOG_UNIT (busOf blk).val h.val).wf
        .LPX_ERR_LOG_BLOCK (blk / 2048) h.val
    raiseIrq s h (134 + (busOf blk).val % 4)
  else
    let s := s.incSat .HBM_ERR_STAT_CRC2 1 h.val
    let s := if s.rb .HBM_ERR_LOG_VALID h.val then s
      else (((s.wf .HBM_ERR_LOG_VALID 1 h.val).wf .HBM_ERR_LOG_PRIV 0 h.val).wf .HBM_ERR_LOG_UNIT (stackOf blk).val h.val).wf
        .HBM_ERR_LOG_BLOCK (blk / 2048) h.val
    raiseIrq s h (128 + (stackOf blk).val % 6)

/-- The reads of a block that the armed injection of its half inverts, at most the two reads of a check (R271, R524). -/
def blockInj (s : State) (blk : Nat) : Nat :=
  let h := tierHalf blk
  min 2 (injLeft s h (if lpddrBase ≤ blk then 2 else 1) (s.rf .TST_INJ_BLOCK h.val == blk / 2048))

/-- One block verified by a consumer (R271). `transient` says that its first read mismatches although the block is good.
The answer says whether it escalated. -/
def verifyBlock (s : State) (b : Nat) (transient : Bool) : State × Bool :=
  let n := blockInj s b
  let s := takeInj s (tierHalf b) n
  if blockGood s b && n != 2 then (if transient || n == 1 then countCrc1 s b else s, false)
  else (escalate (countCrc1 s b) b, true)

/-- Blocks verified by a consumer (R271). `transient` of them, from the first on, mismatch at their first read although
the block is good. The answer says whether any block escalated. -/
def verifyBlocks (s : State) (blks : List Nat) (transient : Nat) : State × Bool :=
  match blks with
  | [] => (s, false)
  | b :: rest =>
    let r := verifyBlock s b (0 < transient)
    let q := verifyBlocks r.1 rest (transient - 1)
    (q.1, r.2 || q.2)

/-- Some byte of a range lies in the half other than `h`. -/
def farFrom (h : HalfId) (a len : Nat) : Bool :=
  match regionOf a len with
  | some (.glade g) => g != h
  | some (.scratch c) => halfOfCore c != h
  | some (.acc c) => halfOfCore c != h
  | some .hbm => (blocksOf a len).any (fun b => tierHalf b != h)
  | some .lpddr => (blocksOf a len).any (fun b => tierHalf b != h)
  | _ => false

/-- The bridge that an access of half `h` would cross carries no traffic (R504 to R506). -/
def bridgeCut (s : State) (h : HalfId) (a len : Nat) : Bool := !bridgeUp s && farFrom h a len

/-- The part of a tier that a half is initialising (R266), or whose controllers issue no command because its PLL coasts
(R490). -/
def tierBusy (s : State) (a : Nat) : Bool :=
  let h := (tierHalf a).val
  if lpddrBase ≤ a then s.rb .LPX_INIT_CTL_BUSY h || bit (s.rf .CLK_STAT_COAST h) 3
  else s.rb .HBM_INIT_CTL_BUSY h || bit (s.rf .CLK_STAT_COAST h) 2

/-- Some page of a range of a tier is under initialisation. -/
def rangeBusy (s : State) (a len : Nat) : Bool :=
  match regionOf a len with
  | some .hbm => (blocksOf a len).any (fun b => tierBusy s b)
  | some .lpddr => (blocksOf a len).any (fun b => tierBusy s b)
  | some (.glade h) => s.rb .GLD_CLR_CTL_BUSY h.val
  | _ => false

/-- An access of half `h` waits: its memory is under initialisation or clear (R251, R266), or lies behind a bridge that carries
no traffic (R504 to R506; log 161). -/
def memWaits (s : State) (h : HalfId) (a len : Nat) : Bool := rangeBusy s a len || bridgeCut s h a len

/-- Bytes written, with the CRC of each block of a tier that they touch where `crc` says so (R268). -/
def State.writeBlocks (s : State) (a : Nat) (bs : List Byte) (crc : Bool) : State :=
  if crc && inTier a bs.length then writeCrcs (s.write a bs) (blocksOf a bs.length) else s.write a bs

/-- A write by a unit of half `h`, held while its memory cannot take it (R251, R266). -/
def State.post (s : State) (h : HalfId) (a : Nat) (bs : List Byte) (crc : Bool := false) : State :=
  if memWaits s h a bs.length then { s with held := s.held ++ [.write h a bs crc] } else s.writeBlocks a bs crc

/-- A record of a half's aggregator is still being written (R518). -/
def recordBusy (s : State) (h : HalfId) : Bool :=
  s.held.any (fun x => match x with
    | .record k _ _ => k == h
    | _ => false)

/-- The grants that SEC_AUTH_STAT shows: all in DEBUG and RETURNED (R483). -/
def shownGrants (s : State) (h : HalfId) : Nat :=
  if s.rf .SEC_LC_STATE h.val = 1 ∨ s.rf .SEC_LC_STATE h.val = 3 then 7 else s.rf .SEC_AUTH_STAT_GRANTS h.val

end Sys2Proof.Machine
end

