-- ==== Sys2Proof/Machine/Mailbox.lean ====
section
/-!
DEFINITION. MSI-X (R436), mailboxes (R426 to R431, R437), the interrupt controller's claims (R433, R434), and Dexca's
events (R464, R465).
-/

namespace Sys2Proof.Machine

/-! ### MSI-X (R436) -/

/-- A byte of the MSI-X table; every vector is masked after reset (log 26). -/
def msixByte (s : State) (o : Nat) : Byte := aget s.host.msixTable o (if o % 16 = 12 then 1 else 0)

/-- The function sends messages: MSI-X is enabled and not masked as a whole (log 26). -/
def msixOn (s : State) : Bool :=
  let c := aget s.host.cfg (Config.msixControl + 1) 0
  bit c.toNat 7 && !bit c.toNat 6

/-- A vector is masked. -/
def msixMasked (s : State) (v : Nat) : Bool := !msixOn s || bit (msixByte s (16 * v + 12)).toNat 0

/-- MSIX_RAISE: a vector raised sends its message, or becomes pending while it is masked. -/
def msixRaise (s : State) (v : Nat) : State :=
  let x := s.host
  if msixMasked s v then
    (if x.msixPending.contains v then s else { s with host := { x with msixPending := x.msixPending ++ [v] } })
  else { s with host := { x with msixSent := x.msixSent ++ [v] } }

/-- Pending vectors that are no longer masked send their messages. -/
def msixFlush (s : State) : State :=
  let go := s.host.msixPending.filter (fun v => !msixMasked s v)
  { s with host := { s.host with
    msixPending := s.host.msixPending.filter (fun v => !go.contains v), msixSent := s.host.msixSent ++ go } }

/-! ### Queues (R426, R427) -/

/-- The inbound queue of a channel. -/
def inQueue (s : State) (h : HalfId) (ch : ChanId) : MQueue := aget (s.half h).inQ ch MQueue.reset
/-- The outbound queue of a channel. -/
def outQueue (s : State) (h : HalfId) (ch : ChanId) : MQueue := aget (s.half h).outQ ch MQueue.reset
/-- The inbound queue of a channel replaced. -/
def setInQueue (s : State) (h : HalfId) (ch : ChanId) (q : MQueue) : State :=
  s.setHalf h { s.half h with inQ := aset (s.half h).inQ ch q }
/-- The outbound queue of a channel replaced. -/
def setOutQueue (s : State) (h : HalfId) (ch : ChanId) (q : MQueue) : State :=
  s.setHalf h { s.half h with outQ := aset (s.half h).outQ ch q }

/-- LEN of a header word (R426). -/
abbrev hdrLen (w : Nat) : Nat := bits w 23 16
/-- TAG of a header word. -/
abbrev hdrTag (w : Nat) : Nat := bits w 31 24
/-- CLASS and low byte of a header word: the 16-bit opcode (R440). -/
abbrev hdrOp (w : Nat) : Nat := bits w 15 0

/-- MSGS of a queue: its complete messages. -/
def mqMsgs (q : MQueue) : Nat :=
  let n := (q.words.filter MWord.hdr).length
  if q.lock.isSome && n != 0 then n - 1 else n

/-- What a word written to a queue meets. -/
inductive PushRes where
  | collision
  | overflow
  | badLen
  | taken (complete : Bool)
  deriving DecidableEq, Repr

/-- A word written to a queue by an agent (R426, R427): a message that lost a word to a full queue stays incomplete until a
flush (log 27). -/
def mqPush (q : MQueue) (a : Agent) (w : Nat) : MQueue × PushRes :=
  match q.lock with
  | some (b, left) =>
    if a ≠ b then (q, .collision)
    else if q.broken ∨ 8 ≤ q.words.length then ({ q with broken := true }, .overflow)
    else
      let done := decide (left ≤ 1)
      ({ q with words := q.words ++ [⟨w, false, a⟩], lock := if done then none else some (b, left - 1) }, .taken done)
  | none =>
    if 7 < hdrLen w then (q, .badLen)
    else if 8 ≤ q.words.length then (q, .overflow)
    else
      let n := hdrLen w
      ({ q with words := q.words ++ [⟨w, true, a⟩], lock := if n = 0 then none else some (a, n) }, .taken (n == 0))

/-- The counters and bits of a status register that a write changes (R426, R427). -/
def pushStat (s : State) (r : PushRes) (coll badLen ovf : Fld) (h : HalfId) (ch : ChanId) : State :=
  match r with
  | .collision => s.incSat coll 1 h.val ch.val
  | .overflow => s.wf ovf 1 h.val ch.val
  | .badLen => s.wf badLen 1 h.val ch.val
  | .taken _ => s

/-- Messages that are complete in an inbound queue, in the order in which they became complete (R445), after one more on a channel:
its header is the newest of the queue. -/
def noteMessage (s : State) (h : HalfId) (ch : ChanId) : State :=
  let op := (((inQueue s h ch).words.filter MWord.hdr).getLast?.map (fun w => hdrOp w.word)).getD 0
  { s with dx := { s.dx with order := s.dx.order ++ [(h, ch, op)] } }

/-- The oldest complete message of a channel leaves its queue. -/
def forgetMessage (s : State) (h : HalfId) (ch : ChanId) : State :=
  { s with dx := { s.dx with order := s.dx.order.eraseP (fun x => x.1 == h && x.2.1 == ch) } }

/-- MBX_IN_WR (R426 to R428): INBOUND_MESSAGE_COMPLETE sets the channel's source. -/
def pushIn (s : State) (a : Agent) (h : HalfId) (ch : ChanId) (w : Nat) : State :=
  let r := mqPush (inQueue s h ch) a (w % 2 ^ 32)
  let s := pushStat (setInQueue s h ch r.1) r.2 .MBX_IN_STAT_COLL .MBX_IN_STAT_BADLEN .MBX_IN_STAT_OVF h ch
  if r.2 = .taken true then raiseIrq (noteMessage s h ch) h ch.val else s

/-- A word written to an outbound queue; a complete message raises the channel's vector (R436). -/
def pushOut (s : State) (a : Agent) (h : HalfId) (ch : ChanId) (w : Nat) : State :=
  let r := mqPush (outQueue s h ch) a (w % 2 ^ 32)
  let s := pushStat (setOutQueue s h ch r.1) r.2 .MBX_OUT_STAT_COLL .MBX_OUT_STAT_BADLEN .MBX_OUT_STAT_OVF h ch
  if r.2 = .taken true then msixRaise s ch.val else s

/-- Words written in turn by the ranger. -/
def pushOutAll (s : State) (h : HalfId) (ch : ChanId) (ws : List Nat) : State :=
  match ws with
  | [] => s
  | w :: rest => pushOutAll (pushOut s (.dexca h) h ch w) h ch rest

/-- Free words of an outbound queue that no writer locks. -/
def outRoom (s : State) (h : HalfId) (ch : ChanId) : Nat :=
  let q := outQueue s h ch
  if q.lock.isSome then 0 else 8 - q.words.length

/-- Replies that wait are placed while the outbound queue has room, in order (R448). -/
def placeReplies (s : State) (h : HalfId) (ch : ChanId) (rs : List (List Nat)) : State :=
  match rs with
  | [] => s.setHalf h { s.half h with replyQ := aset (s.half h).replyQ ch [] }
  | r :: rest =>
    if r.length ≤ outRoom s h ch then placeReplies (pushOutAll s h ch r) h ch rest
    else s.setHalf h { s.half h with replyQ := aset (s.half h).replyQ ch (r :: rest) }

/-- Waiting replies of a channel tried. -/
def flushReplies (s : State) (h : HalfId) (ch : ChanId) : State := placeReplies s h ch (aget (s.half h).replyQ ch [])

/-- A message that Dexca sends on a channel. -/
def sendMessage (s : State) (h : HalfId) (ch : ChanId) (ws : List Nat) : State :=
  flushReplies (s.setHalf h { s.half h with replyQ := aset (s.half h).replyQ ch (aget (s.half h).replyQ ch [] ++ [ws]) }) h ch

/-- The stamp of a writer as MBX_RX_SRC shows it (R428, R437): KIND, DEV, ID. The host's PCIe requester ID is free (log 28);
an agent of this device that no KIND names shows as a remote device with this device's bits. -/
def stampOf (s : State) (a : Agent) : Nat × Nat × Nat :=
  match a with
  | .host => (0, 0, s.freeVal % 2 ^ 14)
  | .dexca _ => (1, 0, 0)
  | .plinth _ => (1, 0, 0)
  | .smbus addr => (2, 0, addr % 128)
  | .debug => (3, 0, 0)
  | .remote dev => (4, dev, 0)
  | .core _ => (4, ownDev s, 0)

/-- MBX_RX_SRC after a header of `a` was popped (R428). -/
def showStamp (s : State) (h : HalfId) (ch : ChanId) (a : Agent) : State :=
  let (k, d, i) := stampOf s a
  (((s.used.wf .MBX_RX_SRC_VALID 1 h.val ch.val).wf .MBX_RX_SRC_KIND k h.val ch.val).wf .MBX_RX_SRC_DEV d h.val ch.val).wf
    .MBX_RX_SRC_ID i h.val ch.val

/-- The head word of an inbound queue popped (R428, R431). -/
def popIn (s : State) (h : HalfId) (ch : ChanId) : State × Nat :=
  let q := inQueue s h ch
  match q.words with
  | [] => (s.wf .MBX_IN_STAT_UNDER 1 h.val ch.val, 0)
  | w :: rest =>
    let t := setInQueue s h ch { q with words := rest }
    let t := if mqMsgs (inQueue t h ch) < mqMsgs q then forgetMessage t h ch else t
    (if w.hdr then showStamp t h ch w.stamp else t, w.word)

/-- The head word of an outbound queue popped: one that empties it sets its source (R432), and waiting replies follow. -/
def popOut (s : State) (h : HalfId) (ch : ChanId) : State × Nat :=
  let q := outQueue s h ch
  match q.words with
  | [] => (s.wf .MBX_OUT_STAT_UNDER 1 h.val ch.val, 0)
  | w :: rest =>
    let s := setOutQueue s h ch { q with words := rest }
    (flushReplies (if rest.isEmpty then raiseIrq s h (16 + ch.val) else s) h ch, w.word)

/-- MBX_IN_WR (R9, R426). -/
def execMbxInWr (a : Agent) (h : HalfId) (ch : ChanId) (word : Nat) (s : State) : Host.Outcome State Fault Refusal :=
  if outOfReach s a h then .next s else .next (pushIn s a h ch word)

/-- MBX_OUT_WR (R426, R437): the ranger's alone. -/
def execMbxOutWr (a : Agent) (h : HalfId) (ch : ChanId) (word : Nat) (s : State) : Host.Outcome State Fault Refusal :=
  if isRanger a h then .next (pushOut s a h ch word) else .next s.privFault

/-- MBX_IN_RD (R431, R437): the ranger's alone; any other agent reads zero. -/
def execMbxInRd (a : Agent) (h : HalfId) (ch : ChanId) (s : State) : Host.Outcome State Fault Refusal :=
  if isRanger a h then
    match popIn s h ch with
    | (s, w) => .next { s with reply := .value w }
  else .next { s.privFault with reply := .value 0 }

/-- MBX_OUT_RD (R9, R431). -/
def execMbxOutRd (a : Agent) (h : HalfId) (ch : ChanId) (s : State) : Host.Outcome State Fault Refusal :=
  if outOfReach s a h then .next { s with reply := .none }
  else match popOut s h ch with
  | (s, w) => .next { s with reply := .value w }

/-- FLUSH_IN (R428, R431): the queue is emptied, its lock released, and no stamp is shown. -/
def execFlushIn (h : HalfId) (ch : ChanId) (s : State) : Host.Outcome State Fault Refusal :=
  let s := { s with dx := { s.dx with order := s.dx.order.filter (fun x => !(x.1 == h && x.2.1 == ch)) } }
  .next ((setInQueue s h ch MQueue.reset).wf .MBX_RX_SRC_VALID 0 h.val ch.val)

/-- FLUSH_OUT (R431). -/
def execFlushOut (h : HalfId) (ch : ChanId) (s : State) : Host.Outcome State Fault Refusal :=
  let s' := setOutQueue s h ch MQueue.reset
  .next (flushReplies (if (outQueue s h ch).words.isEmpty then s' else raiseIrq s' h (16 + ch.val)) h ch)

/-! ### Claims (R433, R434) -/

/-- The sources of a half that are pending and enabled, lowest first. -/
def irqReady (s : State) (h : HalfId) : List Nat := (List.range 512).filter (fun i => irqPending s h i && irqEnabled s h i)

/-- The request line after a change of the pending bits (R434). -/
def irqSettle (s : State) (h : HalfId) : State :=
  if (irqReady s h).isEmpty then s.setHalf h { s.half h with irqLine := false, irqCount := 0 } else s

/-- IRQ_CLAIM (R9, R433): the answer is IRQ_CLAIM as read. -/
def execIrqClaim (a : Agent) (h : HalfId) (s : State) : Host.Outcome State Fault Refusal :=
  if outOfReach s a h then .next { s with reply := .none }
  else match (irqReady s h).getLast? with
  | none => .next { s with reply := .value (2 ^ 31) }
  | some i =>
    let s := s.wf .IRQ_PEND_PEND (setBit (s.rf .IRQ_PEND_PEND h.val (i / 64)) (i % 64) false) h.val (i / 64)
    .next { irqSettle s h with reply := .value i }

/-- IRQ_COALESCE_TIMEOUT (R434): the time limit of IRQ_COAL ends while an enabled source is pending. -/
def execIrqCoalesceTimeout (h : HalfId) (s : State) : Host.Outcome State Fault Refusal :=
  if s.rf .IRQ_COAL_TIME h.val ≠ 0 ∧ (s.half h).irqCount ≠ 0 ∧ !(irqReady s h).isEmpty then
    .next (s.setHalf h { s.half h with irqLine := true })
  else .next s

/-! ### Events (R464, R465) -/

abbrev evOpDone : Nat := 1
abbrev evJobStopped : Nat := 2
abbrev evDeclared : Nat := 3
abbrev evRiskLevel : Nat := 4
abbrev evUnitOut : Nat := 5
abbrev evGladeFail : Nat := 6
abbrev evStreamStop : Nat := 7
abbrev evCkptDue : Nat := 8
abbrev evMemError : Nat := 9
abbrev evLost : Nat := 10

/-- The events of a half that wait. -/
def eventsOf (s : State) (h : HalfId) : List (List Nat) := aget s.dx.events h []

/-- The events of a half replaced, with BACKLOG. -/
def setEvents (s : State) (h : HalfId) (es : List (List Nat)) : State :=
  { s with dx := { s.dx with events := aset s.dx.events h es } }.wf .DXC_EVT_STAT_BACKLOG (min 255 es.length) h.val

/-- An event held for channel 15 (R465): dropped and counted where the backlog is full; LOST stands before the first held
after a loss. Vector 17 is raised as the backlog passes 192. -/
def postEvent (s : State) (h : HalfId) (kind : Nat) (words : List Nat) : State :=
  let es := eventsOf s h
  let n := aget s.dx.lost h 0
  let new := if n = 0 then [kind :: words] else [[evLost, n], kind :: words]
  if 256 < es.length + new.length then
    { s with dx := { s.dx with lost := aset s.dx.lost h (n + 1) } }.incSat .DXC_EVT_STAT_LOST 1 h.val
  else
    let s := setEvents { s with dx := { s.dx with lost := aset s.dx.lost h 0 } } h (es ++ new)
    if es.length ≤ 192 ∧ 192 < es.length + new.length then msixRaise s 17 else s

/-- A stream that stops (R424, R464): ERR and STOP, and STREAM_STOP to the host. -/
def stopStream (s : State) (m : StreamId) (st : Nat) : State :=
  let s := ((s.wf .DXC_STR_STAT_STOP 1 0 m.val).wf .DXC_STR_STAT_ERR st 0 m.val).wf .DXC_STR_STAT_WAIT 0 0 m.val
  postEvent s (Fin.ofNat 2 (s.rf .HLF_LEAD_STAT_LEAD)) evStreamStop [m.val, st]

/-- The message of an event: TAG 0, CLASS 0b0000_0111. -/
def eventMessage (e : List Nat) : List Nat := ((e.length - 1) * 2 ^ 16 + 7 * 2 ^ 8 + e.headD 0) :: e.drop 1

/-- Vector 16: JOB_STOPPED, or DECLARED naming this device, has been posted (R465). -/
def eventVector (s : State) (e : List Nat) : State :=
  if e.headD 0 = evJobStopped ∨ (e.headD 0 = evDeclared ∧ e.getD 1 0 = ownDev s) then msixRaise s 16 else s

/-- EVENT_POST (R465): the oldest held event of a half goes out when channel 15 has room. -/
def execEventPost (h : HalfId) (s : State) : Host.Outcome State Fault Refusal :=
  match eventsOf s h with
  | [] => .next s
  | e :: rest =>
    let m := eventMessage e
    if m.length ≤ outRoom s h 15 then .next (eventVector (pushOutAll (setEvents s h rest) h 15 m) e) else .next s

end Sys2Proof.Machine
end

