-- ==== Sys2Proof/Machine/Phases.lean ====
section
/-!
DEFINITION. Phases as a done set finds them (R357), and the phase record (R363).
-/

namespace Sys2Proof.Machine

/-- The half that leads the device, whose beat unit keeps the count (R346, R503). -/
def leadHalf (s : State) : HalfId := Fin.ofNat 2 (s.rf .HLF_LEAD_STAT_LEAD)

/-- PERIOD as R364 takes it. -/
def beatPeriod (s : State) : Nat := max 4 (s.rf .BEAT_CFG_PERIOD)

/-- Nanoseconds of a beat. -/
def beatNs (s : State) : Nat := 1000 * beatPeriod s

/-- A BEAT or other field that both halves hold alike (R364). -/
def State.wfBoth (s : State) (f : Fld) (v : Nat) (i : Nat := 0) : State := (s.wf f v 0 i).wf f v 1 i

/-- A phase replaced. -/
def putPhase (s : State) (p : PhaseRun) : State :=
  { s with beat := { s.beat with phases := s.beat.phases.map (fun q => if q.phase = p.phase then p else q) } }

/-- A phase of the step by its number. -/
def findPhase (s : State) (ph : Nat) : Option PhaseRun := s.beat.phases.find? (fun p => p.phase == ph)

/-- OUTCOME of a phase record (R363): under record only, a device that finishes late counts as dropped. -/
def outcome (s : State) (p : PhaseRun) : Nat :=
  match p.done with
  | none => 3
  | some ns =>
    if (p.deadline - p.openBeat) * beatNs s ≤ ns then 2 else if p.late then 1 else 0

/-- The 16 bytes of a phase record (R363). -/
def phaseBytes (s : State) (p : PhaseRun) : List Byte :=
  let w := p.phase + b2n p.early * 2 ^ 6 + b2n p.late * 2 ^ 7 + outcome s p * 2 ^ 8 + min 255 p.ext * 2 ^ 10
  natLE 4 (s.rf .BEAT_STEP_STEP) ++ natLE 4 w ++ natLE 4 p.openBeat ++
    natLE 4 (match p.done with
      | none => 0xFFFFFFFF
      | some ns => min ns 0xFFFFFFFE)

/-- PHASE_RECORD (R363): the record of a phase that this device takes part in is written to the ring, once. -/
def writePhase (s : State) (p : PhaseRun) : State :=
  if !p.part ∨ p.logged then s
  else
    let base := s.rf .BEAT_LOG_BASE_ADDR
    let size := max 1 (s.rf .BEAT_LOG_IDX_SIZE)
    let i := s.rf .BEAT_LOG_IDX_NEXT
    let s := putPhase s { p with logged := true }
    if base = 0 then s
    else
      let s := if regionOf (base + 16 * i) 16 = some .hbm then s.post (leadHalf s) (base + 16 * i) (phaseBytes s p) else s
      s.wfBoth .BEAT_LOG_IDX_NEXT ((i + 1) % size)

/-- What a set of its DFLAG does to one phase (R357): the first while the phase runs counts, with its place in the beat free
(log 5); one before the opening, or after the deadline of a phase already done, counts at the next opening. -/
def phaseSet (s : State) (p : PhaseRun) : State :=
  if !p.part then s
  else if p.opened ∧ p.done.isNone then
    let ns := (beatNow s - p.openBeat) * beatNs s + s.freeVal % beatNs s
    let p := { p with done := some ns }
    let s := putPhase s.used p
    if p.closed then writePhase s p else s
  else if !p.opened ∨ p.closed then
    { s with beat := { s.beat with preDone := p.phase :: s.beat.preDone.filter (fun q => q != p.phase) } }
  else s

/-- PHASE_DONE (R357): a set has reached a flag; the phases whose DFLAG it is observe it. -/
def phasesSet (s : State) (f : FlagId) (ps : List PhaseRun) : State :=
  match ps with
  | [] => s
  | p :: rest => phasesSet (if p.dflag = f then phaseSet s p else s) f rest

end Sys2Proof.Machine
end

