-- ==== Sys2Proof/Machine/Flags.lean ====
section
/-!
DEFINITION. Flags: sets, waits, clears, ownership and poison (R214 to R228), and the index arithmetic of a flag
descriptor (R223).
-/

namespace Sys2Proof.Machine

/-- The half that holds a flag (R214). -/
def flagHalf (f : FlagId) : HalfId :=
  if f.val < 20480 then Fin.ofNat 2 (f.val / 256 / 40) else if f.val < 26624 then 0 else 1

/-- The core that holds a core flag. -/
def flagCore (f : FlagId) : Option CoreId := if f.val < 20480 then some (Fin.ofNat 80 (f.val / 256)) else none

/-- The grove whose range a glade flag lies in (R31). -/
def flagGrove (f : FlagId) : Option GroveId :=
  if f.val < 20480 then none
  else
    let h := if f.val < 26624 then 0 else 1
    let g := f.val - 20480 - 6144 * h
    if g < 5120 then some (Fin.ofNat 10 (h * 5 + g / 1024)) else none

/-- The cause with which a flag reads as set and poisoned because its core is Off or Disabled, or its grove Off
(R228, R500); none where it does not. -/
def flagDead (s : State) (f : FlagId) : Option Nat :=
  match flagCore f with
  | some c =>
    if aget s.groveSt (groveOfCore c) .active = .off then some 5
    else match (s.core c).node with
      | .disabled => some 3
      | .off => some 5
      | _ => none
  | none =>
    match flagGrove f with
    | some g => if aget s.groveSt g .active = .off then some 5 else none
    | none => none

/-- SET as a reader of the flag sees it. -/
def flagIsSet (s : State) (f : FlagId) : Bool := (flagDead s f).isSome || (s.flag f).set
/-- POISON as a reader of the flag sees it. -/
def flagIsPoisoned (s : State) (f : FlagId) : Bool := (flagDead s f).isSome || (s.flag f).poison

/-- The context number of R217. -/
def ctxNumber (c : CoreId) (n : CtxId) : Nat := 8 * c.val + n.val

/-- The source of a set made by a context of this device. -/
def srcOfCtx (s : State) (c : CoreId) (n : CtxId) : Src := ⟨ownDev s, ctxNumber c n⟩
/-- The source of a set made by a dispatcher. -/
def srcDispatcher (s : State) : Src := ⟨ownDev s, 0x3FC⟩
/-- The source of a set made by the ranger of a half. -/
def srcRanger (s : State) (h : HalfId) : Src := ⟨ownDev s, 0x3FD + h.val⟩
/-- The source of a set made by the host. -/
def srcHost (s : State) : Src := ⟨ownDev s, 0x3FF⟩

/-- The waiter is a context, which WAITING tells of; a stream is none (R216, R424). -/
def Waiter.isCtx (w : Waiter) : Bool :=
  match w with
  | .ctx _ _ => true
  | .stream _ => false

/-- The flag word that a load or get of a flag's address returns (R216). -/
def flagWord (s : State) (f : FlagId) : Nat :=
  let x := s.flag f
  let owner := match x.owner with
    | some (c, n) => ctxNumber c n
    | none => 0x3FF
  owner * 2 ^ 22 + b2n (x.waiters.any Waiter.isCtx) * 4 + b2n (flagIsPoisoned s f) * 2 + b2n (flagIsSet s f)

/-- The wake record of a context (R226, R237). -/
def wakeRecord (s : State) (c : CoreId) (n : CtxId) (f : FlagId) (src : Src) (wait : Nat) (poison : Bool) (cause : Nat) :
    State :=
  ((((((s.wf .FLG_WAKE_SRCDEV src.dev c.val n.val).wf .FLG_WAKE_SRCCTX src.ctx c.val n.val).wf
    .FLG_WAKE_WAIT (min wait 0xFFFFF) c.val n.val).wf .FLG_WAKE_VALID 1 c.val n.val).wf
    .FLG_WAKE_CAUSE cause c.val n.val).wf .FLG_WAKE_POISON (b2n poison) c.val n.val).wf .FLG_WAKE_FLAG f.val c.val n.val

/-- A failed command recorded for the part's status: the one nearest the start of the ring counts (R188). -/
def Ctx.addFail (x : Ctx) (idx st : Nat) : Ctx :=
  match x.fail with
  | some (i, _) => if idx < i then { x with fail := some (idx, st) } else x
  | none => { x with fail := some (idx, st) }

/-- A context that a poison stops (R228): Stopping, as if STOPERR were 1, with ABORTED_DISABLE. -/
def Ctx.poisonStop (x : Ctx) : Ctx := { x.addFail x.ptr stAbortedDisable with st := .stopping, ended := true }

/-- A waiter woken (R221, R225, R228): a context writes its wake record, with the cycles waited free (log 5); its core's
clocks restart; it becomes Ready, or stops on poison. -/
def wakeWaiter (s : State) (w : Waiter) (f : FlagId) (src : Src) (poison : Bool) (cause : Nat) : State :=
  match w with
  | .ctx c n =>
    let s := (wakeRecord s c n f src (s.freeVal % 2 ^ 20) poison cause).used
    let x := s.ctx c n
    let x := if poison then x.poisonStop else { x with st := .ready, depMet := true }
    let s := s.setCtx c n x
    s.setCore c { s.core c with gated := false }
  | .stream m =>
    let x := aget s.streams m Stream.reset
    if poison then stopStream { s with streams := aset s.streams m { x with flag := none } } m stAbortedDisable
    else { s with streams := aset s.streams m { x with flag := none, woken := true } }.wf .DXC_STR_STAT_WAIT 0 0 m.val

/-- Every waiter of a list woken on poison (R227). -/
def wakeAll (s : State) (ws : List Waiter) (f : FlagId) (src : Src) (cause : Nat) : State :=
  match ws with
  | [] => s
  | w :: rest => wakeAll (wakeWaiter s w f src true cause) rest f src cause

/-- A set that no flag state takes: absorbed and counted (R221, R228). -/
def absorbSet (s : State) (f : FlagId) : State :=
  if (flagDead s f).isSome then s.incSat .FLG_HALF_STAT_DEADSET 1 (flagHalf f).val
  else s.incSat .FLG_HALF_STAT_ABSORB 1 (flagHalf f).val

/-- A set reaches a flag (R221, R228, R357): the beat unit observes it, and SET becomes 1, or the set is absorbed, or it
wakes the earliest waiter. -/
def setFlag (s : State) (f : FlagId) (src : Src) : State :=
  let s := phasesSet s f s.beat.phases
  let x := s.flag f
  if (flagDead s f).isSome || x.set then absorbSet s f
  else match x.waiters with
    | [] => s.setFlagSt f { x with set := true, src := src, cause := 0 }
    | w :: rest => wakeWaiter (s.setFlagSt f { x with waiters := rest }) w f src false 0

/-- A CLEAR of one flag (R220, R221, R228): SET and POISON become 0; a flag of a dead unit ignores it. -/
def clearFlag (s : State) (f : FlagId) : State :=
  if (flagDead s f).isSome then s
  else
    let x := s.flag f
    if x.set || x.poison then s.setFlagSt f { x with set := false, poison := false, cause := 0 } else s

/-- A flag forced set with poison (R227): every waiter wakes. -/
def poisonFlag (s : State) (f : FlagId) (src : Src) (cause : Nat) : State :=
  let x := s.flag f
  let s := s.incSat .FLG_HALF_STAT_POISONED 1 (flagHalf f).val
  let s := s.setFlagSt f { x with set := true, poison := true, waiters := [], src := src, cause := cause }
  wakeAll s x.waiters f src cause

/-- Every flag of a list poisoned. -/
def poisonFlags (s : State) (fs : List FlagId) (src : Src) (cause : Nat) : State :=
  match fs with
  | [] => s
  | f :: rest => poisonFlags (poisonFlag s f src cause) rest src cause

/-- The waiters of flags whose unit is Off or Disabled wake, as on poison, with the cause (R228, R500). -/
def wakeDead (s : State) (h : HalfId) (fs : List FlagId) (cause : Nat) : State :=
  match fs with
  | [] => s
  | f :: rest =>
    let x := s.flag f
    if x.waiters.isEmpty then wakeDead s h rest cause
    else wakeDead (wakeAll (s.setFlagSt f { x with waiters := [] }) x.waiters f (srcRanger s h) cause) h rest cause

/-- The outcome of the start of a wait. -/
inductive WaitRes where
  | passed
  | poisoned
  | waits
  deriving DecidableEq, Repr

/-- A context begins to wait on a flag (R221, R226, R228): it passes at once and consumes the set, or stops on poison, or
joins the waiters. -/
def beginWait (s : State) (c : CoreId) (n : CtxId) (f : FlagId) : State × WaitRes :=
  let x := s.flag f
  match flagDead s f with
  | some cause =>
    (wakeRecord s c n f (srcRanger s (flagHalf f)) 0 true cause, .poisoned)
  | none =>
    if x.poison then (wakeRecord s c n f x.src 0 true x.cause, .poisoned)
    else if x.set then (wakeRecord (s.setFlagSt f { x with set := false }) c n f x.src 0 false 0, .passed)
    else (s.setFlagSt f { x with waiters := x.waiters ++ [.ctx c n] }, .waits)

/-- A context of a core waits on no flag any more. -/
def leaveFlags (s : State) (c : CoreId) (n : CtxId) : State :=
  { s with flags := s.flags.map (fun kv => (kv.1, { kv.2 with waiters := kv.2.waiters.filter (fun w => w != .ctx c n) })) }

/-- Flag indexes from `i`, `k` of them. -/
def flagRange (i k : Nat) : List FlagId := (List.range k).map (fun j => Fin.ofNat 32768 (i + j))

/-- Every flag of a list cleared. -/
def clearFlags (s : State) (fs : List FlagId) : State :=
  match fs with
  | [] => s
  | f :: rest => clearFlags (clearFlag s f) rest

/-- CLAIM of flags by a context (R217, R220). -/
def claimFlags (s : State) (fs : List FlagId) (c : CoreId) (n : CtxId) : State :=
  match fs with
  | [] => s
  | f :: rest => claimFlags (s.setFlagSt f { s.flag f with owner := some (c, n) }) rest c n

/-- UNCLAIM of flags that the context owns (R220). -/
def unclaimFlags (s : State) (fs : List FlagId) (c : CoreId) (n : CtxId) : State :=
  match fs with
  | [] => s
  | f :: rest =>
    unclaimFlags (if (s.flag f).owner = some (c, n) then s.setFlagSt f { s.flag f with owner := none } else s) rest c n

/-- Every flag that a context owns goes back to its unit (R217). -/
def releaseOwned (s : State) (c : CoreId) (n : CtxId) : State :=
  unclaimFlags s ((s.flags.filter (fun kv => kv.2.owner == some (c, n))).map Prod.fst) c n

/-- The flags that a context owns. -/
def ownedBy (s : State) (c : CoreId) (n : CtxId) : List FlagId :=
  (s.flags.filter (fun kv => kv.2.owner == some (c, n))).map Prod.fst

/-- Flags back in the state of R218. -/
def resetFlags (s : State) (p : FlagId → Bool) : State := { s with flags := adrop s.flags p }

/-- The index arithmetic of R223. -/
def flagIndex (i n stride imod : Nat) : Nat :=
  (i + n * stride % (if imod = 0 then 32768 else imod)) % 32768

/-- The index of a local flag address, if it is one (R215). -/
def flagOfLocal (a : Nat) : Option FlagId :=
  if a % 8 = 0 ∧ regBase ≤ a ∧ a < regBase + 0x40000 then some (Fin.ofNat 32768 ((a - regBase) / 8)) else none

/-- The global address of a flag of this device. -/
def flagAddr (s : State) (f : FlagId) : Nat := globalAddr (ownDev s) (regBase + 8 * f.val)

end Sys2Proof.Machine
end

