-- ==== Sys2Proof/Machine/FabricTx.lean ====
section
/-!
DEFINITION. The sending side of the fabric: ports and routes (R281, R293, R294, R308), packet numbering, the tracker and
the start of operations (R286 to R290), and flag sets to any device (R220, R229).
-/

namespace Sys2Proof.Machine

/-! ### Ports -/

/-- The half of a port (R281). -/
def portHalf (p : PortId) : HalfId :=
  if p.val ≤ 3 ∨ (7 ≤ p.val ∧ p.val ≤ 9) ∨ p.val = 14 ∨ p.val = 15 then 0 else 1

/-- A port's place among the nine of its half, in port order (R307). -/
def portIdx (p : PortId) : Nat :=
  let v := p.val
  if v ≤ 3 then v else if v ≤ 6 then v - 4 else if v ≤ 9 then v - 3 else if v ≤ 13 then v - 7
  else if v ≤ 15 then v - 7 else v - 9

/-- The ports of a half in port order. -/
def portsOfHalf (h : HalfId) : List PortId := if h = 0 then [0, 1, 2, 3, 7, 8, 9, 14, 15] else [4, 5, 6, 10, 11, 12, 13, 16, 17]

/-- A FAB_PORTp field of a port. -/
def State.pf (s : State) (f : Fld) (p : PortId) : Nat := s.rf f (portHalf p).val (portIdx p)
/-- A FAB_PORTp field of a port set. -/
def State.setPf (s : State) (f : Fld) (p : PortId) (v : Nat) : State := s.wf f v (portHalf p).val (portIdx p)
/-- A saturating FAB_PORTp counter advanced. -/
def State.incPf (s : State) (f : Fld) (p : PortId) (n : Nat) : State := s.incSat f n (portHalf p).val (portIdx p)

/-- A port's link state. -/
def State.port (s : State) (p : PortId) : Port := aget s.fab.ports p Port.reset
/-- The state with a port's link state replaced. -/
def State.setPort (s : State) (p : PortId) (x : Port) : State :=
  { s with fab := { s.fab with ports := aset s.fab.ports p x } }

/-- The training states of R299. -/
abbrev psDown : Nat := 0
abbrev psDetect : Nat := 1
abbrev psEqualise : Nat := 2
abbrev psIdent : Nat := 3
abbrev psCheck : Nat := 4
abbrev psActive : Nat := 5
abbrev psQuarantine : Nat := 6
abbrev psRetrain : Nat := 7

/-- Routing may choose the port (R294, R306). -/
def portUp (s : State) (p : PortId) : Bool :=
  s.pf .FAB_PORT_STAT_STATE p == psActive && s.pf .FAB_PORT_STAT_DIS p == 0 && !(s.port p).closing

/-- The type codes of R287. -/
abbrev ptPut : Nat := 0x01
abbrev ptGet : Nat := 0x02
abbrev ptGetData : Nat := 0x03
abbrev ptExadd : Nat := 0x04
abbrev ptFlagSet : Nat := 0x05
abbrev ptToken : Nat := 0x06
abbrev ptAtomic : Nat := 0x07
abbrev ptConfirm : Nat := 0x08
abbrev ptCancel : Nat := 0x09
abbrev ptDone : Nat := 0x0A
abbrev ptBeatMark : Nat := 0x10
abbrev ptHeartbeat : Nat := 0x11
abbrev ptMgmt : Nat := 0x20

/-- A request packet type (R287). -/
def isRequest (t : Nat) : Bool := [ptPut, ptGet, ptExadd, ptFlagSet, ptToken, ptAtomic, ptConfirm, ptCancel].contains t

/-! ### Routes -/

/-- The row port to a column (R281). -/
def rowPort (s : State) (col : Nat) : PortId := Fin.ofNat 18 ((col + 7 - s.rf .HLF_NODE_ID_COL) % 8 % 7)
/-- The column port to a row (R281). -/
def colPort (s : State) (row : Nat) : PortId := Fin.ofNat 18 (7 + (row + 7 - s.rf .HLF_NODE_ID_ROW) % 8 % 7)

/-- The link from device `i` of the shared row or column to a detour's target is up: free (log 72). -/
def farLink (s : State) (i : Nat) : Bool := bit s.freeVal (8 + i)

/-- The ports that lead toward device `t` of the own group, best first (R293, R294): the direct link or the two orders
of the grid; then, for a target directly linked whose link is out, the devices of the shared row or column, lowest
first. Whether the far link of such a detour is up is free: the spec gives this device nothing that tells it (log 72). -/
def gridPorts (s : State) (t : Nat) (colFirst : Bool) : List PortId :=
  let row := t / 8 % 8
  let col := t % 8
  let hr := s.rf .HLF_NODE_ID_ROW
  let hc := s.rf .HLF_NODE_ID_COL
  if row = hr then
    rowPort s col :: ((List.range 8).filter (fun c => c != hc && c != col && farLink s c)).map (rowPort s)
  else if col = hc then
    colPort s row :: ((List.range 8).filter (fun r => r != hr && r != row && farLink s r)).map (colPort s)
  else if colFirst then [colPort s row, rowPort s col]
  else [rowPort s col, colPort s row]

/-- Entry `g` of the group route table: the device and port of a usable link (R308). -/
def routeEntry (s : State) (g : Nat) : Option (Nat × PortId) :=
  if s.rb .FAB_GRT_VALID 0 g ∧ 14 ≤ s.rf .FAB_GRT_PORT 0 g ∧ s.rf .FAB_GRT_PORT 0 g ≤ 17 then
    some (s.rf .FAB_GRT_DEV 0 g, Fin.ofNat 18 (s.rf .FAB_GRT_PORT 0 g))
  else none

/-- The usable intermediate group of an unlinked entry (R308). -/
def routeVia (s : State) (g : Nat) : Option Nat :=
  let v := s.rf .FAB_GRT_VIA 0 g
  if v ≠ g ∧ v ≠ s.rf .HLF_NODE_ID_GROUP ∧ (routeEntry s v).isSome then some v else none

/-- The ports that lead toward a group, best first. -/
def groupPorts (s : State) (g : Nat) (colFirst : Bool) : List PortId :=
  match routeEntry s g with
  | none => []
  | some (dev, port) => if dev = ownDev s % 64 then [port] else gridPorts s dev colFirst

/-- A port can carry a packet: a link at version 0x02 carries no packet with VIAV (R303), and a port that came up in discover mode
only control packets (R302), which are all that a failed device sends (R379). -/
def linkCarries (s : State) (x : Packet) (p : PortId) : Bool :=
  portUp s p && (!s.fab.mgmtOnly || decide (ptBeatMark ≤ x.ptype)) && (!x.viaValid || s.pf .FAB_PORT_STAT_VER p != 2) &&
    (!(s.port p).discover || decide (ptBeatMark ≤ x.ptype))

/-- The next port of a packet, with VIA brought up to date (R293, R294); none where no path is left or a ninth hop would
be needed. -/
def nextPort (s : State) (pkt : Packet) (colFirst : Bool) : Option (PortId × Packet) :=
  let here := s.rf .HLF_NODE_ID_GROUP
  let pkt := if pkt.viaValid ∧ here = pkt.via then { pkt with viaValid := false } else pkt
  let tg := addrDev pkt.dst / 64
  let pick := fun (x : Packet) (ps : List PortId) => (ps.find? (linkCarries s x)).map (fun p => (p, x))
  if 8 ≤ pkt.hops then none
  else if tg = here then pick pkt (gridPorts s (addrDev pkt.dst % 64) colFirst)
  else if pkt.viaValid then pick pkt (groupPorts s pkt.via colFirst)
  else
    match pick pkt (groupPorts s tg colFirst) with
    | some r => some r
    | none =>
      match routeVia s tg with
      | none => none
      | some v => pick { pkt with via := v, viaValid := true } (groupPorts s v colFirst)

/-- The header of a packet as it travels (R286). -/
def packetHeader (pkt : Packet) : List Byte :=
  natLE 1 pkt.ptype ++ natLE 1 (pkt.pclass % 4 + pkt.tc % 4 * 4 + b2n pkt.chk * 16) ++ natLE 2 pkt.payload.length ++
    natLE 4 (pkt.srcAgent % 1024 + pkt.srcDev % 2 ^ 14 * 2 ^ 10 + pkt.hops % 16 * 2 ^ 24) ++ natLE 8 pkt.dst ++ natLE 4 pkt.job ++
    natLE 4 pkt.epoch ++ natLE 2 pkt.oseq ++ natLE 2 (pkt.tag % 1024) ++ natLE 4 (pkt.via % 256 + b2n pkt.viaValid * 256)

/-- A packet as it travels: its header, its payload, and the 16-byte trailer of CRCs that CHK = 1 adds (R286, R288). -/
def packetBytes (pkt : Packet) : List Byte :=
  packetHeader pkt ++ pkt.payload ++ (if pkt.trailer.isEmpty then [] else padTo 16 (pkt.trailer.flatMap (natLE 4)))

/-- The flits of a packet (R284, R288), each 248 bytes of payload; log 11. -/
def flitsOf (pkt : Packet) : Nat := (32 + pkt.payload.length + (if pkt.trailer.isEmpty then 0 else 16) + 247) / 248

/-- A flit (R284): its fields, 248 bytes of packets, and the LCRC over bytes 0 to 251. -/
def flitBytes (fseq ack cvc cred : Nat) (payload : List Byte) : List Byte :=
  let b := natLE 4 (fseq % 4096 + ack % 4096 * 2 ^ 12 + cvc % 32 * 2 ^ 24 + cred % 8 * 2 ^ 29) ++ padTo 248 payload
  b ++ natLE 4 (crc32c b)

/-- The virtual channel of a packet that a port sends, its hop counted (R292). -/
def vcOf (pkt : Packet) : Nat :=
  if ptBeatMark ≤ pkt.ptype then 16 else (if isRequest pkt.ptype then 0 else 8) + (pkt.hops - 1) % 8

/-- The flits of a packet that an armed link injection of the port inverts: each costs one replay that the peer requests
(R285, R524). -/
def injectFlits (s : State) (p : PortId) (n : Nat) : State :=
  let h := portHalf p
  let k := min n (injLeft s h 4 (s.rf .TST_INJ_UNIT h.val == portIdx p))
  if k = 0 then s else (takeInj s h k).incPf .FAB_PORT_ERR_REPLAY p k

/-- Flits sent on a port that its peer has not acknowledged (R285). -/
def Port.outstanding (x : Port) : Nat := (x.txSeq + 4096 - x.txAck) % 4096

/-- A packet has room in the replay buffer of a port, which holds 1,024 flits (R285). -/
def replayRoom (x : Port) (pkt : Packet) : Bool := decide (x.outstanding + flitsOf pkt ≤ 1024)

/-- A packet sent on a port: the replay buffer keeps it until it is acknowledged (R285), and its flits use credits of its virtual
channel (R292; log 137). -/
def transmit (s : State) (p : PortId) (pkt : Packet) : State :=
  let s := injectFlits s p (flitsOf pkt)
  let x := s.port p
  let n := flitsOf pkt
  let s := s.setPort p { x with
    txSeq := (x.txSeq + n) % 4096, unacked := x.unacked ++ [((x.txSeq + n - 1) % 4096, pkt)],
    credit := aset x.credit (vcOf pkt) (aget x.credit (vcOf pkt) 0 - n) }
  { s with fab := { s.fab with sent := s.fab.sent ++ [(p, pkt)] } }

/-- A packet put on a port: HOPS rises by one (R292), and it is sent, or queued while the replay buffer lacks room. -/
def putOnPort (s : State) (p : PortId) (pkt : Packet) : State :=
  let pkt := { pkt with hops := pkt.hops + 1 }
  let x := s.port p
  if x.queue.isEmpty && replayRoom x pkt then transmit s p pkt else s.setPort p { x with queue := x.queue ++ [pkt] }

/-- The packet that a port sends next of those queued: one of VC 16 first (R292), else the oldest. -/
def nextQueued (q : List Packet) : Option Packet :=
  match q.find? (fun k => vcOf k == 16) with
  | some k => some k
  | none => q.head?

/-- Queued packets sent while the replay buffer has room (R285). -/
def pumpPort (s : State) (p : PortId) (fuel : Nat) : State :=
  match fuel with
  | 0 => s
  | fuel + 1 =>
    let x := s.port p
    match nextQueued x.queue with
    | none => s
    | some k => if replayRoom x k then pumpPort (transmit (s.setPort p { x with queue := x.queue.erase k }) p k) p fuel else s

/-- The statuses of R291. -/
abbrev stUnreachable : Nat := 0x40
abbrev stJobMismatch : Nat := 0x41
abbrev stDestFault : Nat := 0x42
abbrev stFabTimeout : Nat := 0x43
/-- The statuses of R316. -/
abbrev stEpochStale : Nat := 0x50
abbrev stUnderstoryFull : Nat := 0x51
abbrev stCollLate : Nat := 0x52
abbrev stCollMismatch : Nat := 0x53
abbrev stDigestMismatch : Nat := 0x54
abbrev stStageShort : Nat := 0x55
abbrev stNoTemplate : Nat := 0x56
abbrev stTagBusy : Nat := 0x57

/-! ### Job and epoch of this device -/

/-- The epoch in force (R49). -/
def epochNow (s : State) : Nat := s.rf .COL_ARM_EPOCH_CURRENT
/-- The local address of the armature in force. -/
def armAddr (s : State) : Nat := s.rf .COL_ARM_ADDR_ADDR
/-- The job tag of the armature in force (R43); zero before the first installation. -/
def jobTag (s : State) : Nat := if epochNow s = 0 then 0 else s.readN (armAddr s + 0x14) 4

/-! ### Operations -/

/-- The next OSEQ to a device, and the state after taking it (R289). -/
def takeOseq (s : State) (dev : Nat) : Nat × State :=
  let n := aget s.fab.oseqOut dev 0
  (n, { s with fab := { s.fab with oseqOut := aset s.fab.oseqOut dev ((n + 1) % 65536) } })

/-- A request packet of this device without its OSEQ and TAG (R286). -/
def mkPacket (s : State) (ptype tc agent dst : Nat) (adapt chk : Bool) (payload : List Byte) (trailer : List Nat) :
    Packet where
  ptype := ptype
  pclass := b2n adapt
  tc := tc
  chk := chk
  srcDev := ownDev s
  srcAgent := agent
  hops := 0
  dst := dst
  job := jobTag s
  epoch := epochNow s
  oseq := 0
  tag := 0
  via := 0
  viaValid := false
  payload := payload
  trailer := trailer

/-- The lowest free TAG of the fabric tracker, searched from `n` on (R290). -/
def freeTag (s : State) (fuel n : Nat) : Option Nat :=
  match fuel with
  | 0 => none
  | fuel + 1 => if (aget? s.fab.tracker n).isNone then some n else freeTag s fuel (n + 1)

/-- The fabric tracker's occupancy kept in FAB_TRK_STAT of both halves (R307). -/
def trackerStat (s : State) : State :=
  let u := s.fab.tracker.length
  let s := (s.wf .FAB_TRK_STAT_USED u 0).wf .FAB_TRK_STAT_USED u 1
  let s := (s.wf .FAB_TRK_STAT_FULL (b2n (u == 1024)) 0).wf .FAB_TRK_STAT_FULL (b2n (u == 1024)) 1
  let s := s.wf .FAB_TRK_STAT_HIGH (max (s.rf .FAB_TRK_STAT_HIGH 0) u) 0
  s.wf .FAB_TRK_STAT_HIGH (max (s.rf .FAB_TRK_STAT_HIGH 1) u) 1

/-- A failed packet recorded with its operation, one packet of which is answered. -/
def answerPacket (s : State) (op addr st : Nat) : State :=
  match aget? s.fab.ops op with
  | none => s
  | some x =>
    let fails := if st = stOK then x.fails else x.fails ++ [(addr, st)]
    { s with fab := { s.fab with ops := aset s.fab.ops op { x with openPkts := x.openPkts - 1, fails := fails } } }

/-- The port and VIA of a request of this device (R289, R293, R294): the last path to its device while a packet to it is in
flight and that path can carry it; otherwise a path chosen now. The adaptive choice between row and column first is free
(log 12). -/
def choosePath (s : State) (pkt : Packet) : Option (PortId × Packet) :=
  let dev := addrDev pkt.dst
  let last := if s.fab.tracker.any (fun e => e.2.dev == dev) then aget? s.fab.lastPath dev else none
  match last with
  | some (p, v, b) =>
    if linkCarries s { pkt with via := v, viaValid := b } p then some (p, { pkt with via := v, viaValid := b })
    else nextPort s pkt (pkt.pclass == 1 && s.freeVal % 2 == 1)
  | none => nextPort s pkt (pkt.pclass == 1 && s.freeVal % 2 == 1)

/-- A request or response addressed to this device itself: no port leads there (R293), and R295 delivers it (log 69). A
device left with management traffic sends none. -/
def toSelf (s : State) (pkt : Packet) : Bool :=
  addrDev pkt.dst == ownDev s && decide (pkt.ptype < ptBeatMark) && !s.fab.mgmtOnly

/-- A packet of this device to itself appended to those not taken yet (log 69). -/
def putSelf (s : State) (pkt : Packet) : State := { s with fab := { s.fab with selfQ := s.fab.selfQ ++ [pkt] } }

/-- A device that is declared failed (R379). -/
def failedDev (s : State) (dev : Nat) : Bool := bit (s.rf .HLF_FAILSET_FAILED 0 (dev / 64)) (dev % 64)

/-- One packet sent with its TAG, or its operation told that no path is left (R290, R294), or that its device is declared
failed (R379). -/
def sendRequest (s : State) (u : Unsent) (tag : Nat) : State :=
  if failedDev s (addrDev u.pkt.dst) then answerPacket s u.op u.addr stDestFault
  else if toSelf s u.pkt then
    let e : FabEntry := ⟨u.op, addrDev u.pkt.dst, u.pkt.oseq, u.addr⟩
    putSelf (trackerStat { s with fab := { s.fab with tracker := aset s.fab.tracker tag e } }) { u.pkt with tag := tag }
  else match choosePath s u.pkt with
  | none => answerPacket s.used u.op u.addr stUnreachable
  | some (p, pkt) =>
    let e : FabEntry := ⟨u.op, addrDev pkt.dst, pkt.oseq, u.addr⟩
    let s := trackerStat { s.used with fab := { s.fab with
      tracker := aset s.fab.tracker tag e,
      lastPath := aset s.fab.lastPath (addrDev pkt.dst) (p, pkt.via, pkt.viaValid) } }
    putOnPort s p { pkt with tag := tag }

/-- Packets that wait are sent in acceptance order while the tracker has room. -/
def pumpUnsent (s : State) (us : List Unsent) : State :=
  match us with
  | [] => { s with fab := { s.fab with unsent := [] } }
  | u :: rest =>
    match freeTag s 1024 0 with
    | none => { s with fab := { s.fab with unsent := u :: rest } }
    | some t => pumpUnsent (sendRequest s u t) rest

/-- Packets of one operation numbered and appended to those that wait (R289). -/
def numberPackets (s : State) (op : Nat) (ps : List (Nat × Packet)) : State :=
  match ps with
  | [] => s
  | (a, p) :: rest =>
    let (n, s) := takeOseq s (addrDev p.dst)
    numberPackets { s with fab := { s.fab with unsent := s.fab.unsent ++ [⟨op, a, { p with oseq := n }⟩] } } op rest

/-- An operation started: its packets, each with its target address, are numbered and sent as the tracker has room. -/
def startFabOp (s : State) (x : FabOp) (ps : List (Nat × Packet)) : State :=
  let id := s.fab.nextOp
  let s := { s with fab := { s.fab with
    nextOp := id + 1, ops := aset s.fab.ops id { x with openPkts := ps.length } } }
  let s := numberPackets s id ps
  pumpUnsent s s.fab.unsent

/-- A tracker entry freed, and a waiting packet sent in its place. -/
def freeEntry (s : State) (tag : Nat) : State :=
  let s := { s with fab := { s.fab with tracker := adrop s.fab.tracker (fun t => t == tag) } }
  let s := trackerStat s
  pumpUnsent s s.fab.unsent

/-- A flag set to another device as a fabric operation of its source (R220, R229); TC 0b10 (R296). -/
def sendFlagSet (s : State) (owner : FabOwner) (agent addr : Nat) : State :=
  startFabOp s ⟨owner, 0, false, 0, addr, 0, 0, [], 0⟩
    [(addr, mkPacket s ptFlagSet 2 agent addr false false [] [])]

/-- A set of a flag named by a global address, on this device or another (R220). An address that is no flag sets
nothing. -/
def setGlobal (s : State) (addr : Nat) (src : Src) (owner : FabOwner) : State :=
  match flagOfLocal (addrLocal addr) with
  | none => s
  | some f => if addrDev addr = ownDev s then setFlag s f src else sendFlagSet s owner src.ctx addr

/-- A response packet sent back to a source device (R290), or dropped without a path and counted (R294). -/
def sendResponse (s : State) (h : HalfId) (pkt : Packet) : State :=
  if toSelf s pkt then putSelf s pkt
  else match nextPort s pkt false with
  | none => s.used.incSat .FAB_DROP_BADTYPE 1 h.val
  | some (p, pkt) => putOnPort s.used p pkt

/-- The DONE that answers a request (R287, R290). -/
def sendDone (s : State) (h : HalfId) (req : Packet) (status old : Nat) : State :=
  let pl := [BitVec.ofNat 8 status] ++ natLE 2 req.oseq ++ natLE 5 0 ++ natLE 8 old
  sendResponse s h { mkPacket s ptDone req.tc 0x3FD (globalAddr req.srcDev 0) false false pl [] with
    tag := req.tag, oseq := req.oseq, job := req.job, epoch := req.epoch }

end Sys2Proof.Machine
end

