-- ==== Sys2Proof/Machine/Contexts.lean ====
section
/-!
DEFINITION. Contexts, command rings, acceptance, the tracker, completion of commands, parts and entries (R178 to R193,
R198, R551).
-/

namespace Sys2Proof.Machine

/-! ### Work entry fields (R178) -/

abbrev weKind (e : List Byte) : Nat := dfld e 0x00 3 0
abbrev weSplit (e : List Byte) : Nat := dfld e 0x00 5 4
abbrev weStopErr (e : List Byte) : Bool := dbit e 0x00 6
abbrev weClass (e : List Byte) : Nat := dfld e 0x00 11 8
abbrev weAdv (e : List Byte) : Nat := dfld e 0x00 16 12
abbrev weNItems (e : List Byte) : Nat := dfld e 0x04 31 0
abbrev weMb (e : List Byte) : Nat := dfld e 0x08 15 0
abbrev weGrain (e : List Byte) : Nat := dfld e 0x08 31 16
abbrev weSpec (e : List Byte) : Nat := dfld e 0x0C 15 0
abbrev weShadow (e : List Byte) : Nat := dfld e 0x0C 17 16
abbrev weTarget (e : List Byte) : Nat := dfld e 0x0C 19 18
abbrev weProg (e : List Byte) : Nat := dfld e 0x10 63 0
abbrev wePlen (e : List Byte) : Nat := dfld e 0x18 15 0
abbrev wePStride (e : List Byte) : Nat := dfld e 0x18 31 16
abbrev weNSlotExp (e : List Byte) : Nat := dfld e 0x1C 8 0
abbrev weAdvBytes (e : List Byte) : Nat := dfld e 0x20 31 0
abbrev weTag (e : List Byte) : Nat := dfld e 0x24 15 0
abbrev weDoneFlag (e : List Byte) : Nat := dfld e 0x28 63 0
abbrev weRec (e : List Byte) : Nat := dfld e 0x30 63 0
abbrev weCRec (e : List Byte) : Nat := dfld e 0x38 63 0
/-- The embedded descriptor of an OP entry. -/
def weDesc (e : List Byte) : List Byte := padTo 64 (e.drop 0x40)

/-! ### Commands (R183, R184) -/

/-- The classes of R184. -/
abbrev clEnd : Nat := 0
abbrev clMat : Nat := 1
abbrev clDrain : Nat := 2
abbrev clVec : Nat := 3
abbrev clLoad : Nat := 4
abbrev clStore : Nat := 5
abbrev clFabric : Nat := 6
abbrev clFlag : Nat := 7
abbrev clCond : Nat := 8

/-- The next command of a context as fetched: the fields of its command word, and its descriptor. -/
structure Cmd where
  cls : Nat
  dep : Nat
  reco : Bool
  setf : Bool
  wflag : FlagId
  dflag : Nat
  tag : Nat
  descAddr : Nat
  desc : List Byte
  deriving DecidableEq, Repr

/-- A command word and the descriptor it names (R183). -/
def cmdOfWord (s : State) (w : List Byte) : Cmd where
  cls := dfld w 0 3 0
  dep := dfld w 0 5 4
  reco := dbit w 0 6
  setf := dbit w 0 7
  wflag := Fin.ofNat 32768 (dfld w 0 22 8)
  dflag := dfld w 4 14 0
  tag := dfld w 4 31 16
  descAddr := dfld w 8 63 0
  desc := s.read (dfld w 8 63 0) 64

/-- The next command of a context: the one command of an OP entry, or the word of its ring at PTR (R183, R198). -/
def nextCmd (s : State) (x : Ctx) : Option Cmd :=
  match x.opDesc with
  | some d => if x.ptr = 0 then some ⟨x.opCls, 0, false, false, 0, 0, x.opTag, 0, d⟩ else none
  | none => if x.ptr < x.plen then some (cmdOfWord s (s.read (x.ring + 16 * x.ptr) 16)) else none

/-- Operations of a core that hold a tracker entry: a FABRIC command frees its entry when the fabric tracker takes it
(R189). -/
def holdsEntry (o : Op) : Bool := !(o.cls == clFabric && o.started)

/-- Tracker entries in use in a core. -/
def trkUsed (x : CoreSt) : Nat := (x.ops.filter holdsEntry).length
/-- Tracker entries of one context. -/
def ctxOps (x : CoreSt) (n : CtxId) : Nat := (x.ops.filter (fun o => holdsEntry o && o.ctx == n)).length

/-- The queue depth of a class (R189); FLAG and COND share one. -/
def queueDepth (cls : Nat) : Nat :=
  match cls with
  | 1 => 32
  | 2 => 8
  | 3 => 32
  | 4 => 64
  | 5 => 64
  | 6 => 32
  | 7 => 4
  | 8 => 4
  | _ => 1

/-- FLAG and COND, the one row of R189 for two classes. -/
def flagRow (a : Nat) : Bool := a == clFlag || a == clCond

/-- Two classes are one row of R189: one class, or FLAG and COND. -/
def sameRow (a b : Nat) : Bool := a == b || (flagRow a && flagRow b)

/-- The operations of a class that its engine's queue holds: those not started, and every FLAG and COND command until it
completes (R189; log 15). -/
def queued (x : CoreSt) (cls : Nat) : Nat :=
  (x.ops.filter (fun o => sameRow cls o.cls && (7 ≤ o.cls || !o.started))).length

/-- LIMIT as R212 takes it. -/
def ctxLimit (s : State) (c : CoreId) : Nat := max 1 (min 192 (s.rf .CORE_CTX_CFG_LIMIT c.val))

/-- Tracker and queue room for a command of a class (R185, R189). -/
def hasRoom (s : State) (c : CoreId) (n : CtxId) (cls : Nat) : Bool :=
  let x := s.core c
  decide (ctxOps x n < ctxLimit s c) && decide (trkUsed x < 192) && decide (queued x cls < queueDepth cls)

/-- DEP 0b00 to 0b10 of a command (R183). -/
def depMet (x : CoreSt) (n : CtxId) (y : Ctx) (dep : Nat) : Bool :=
  match dep with
  | 1 => match y.prev with
    | none => true
    | some p => x.ops.all (fun o => !(o.num == p && o.ctx == n))
  | 2 => x.ops.all (fun o => !(o.ctx == n))
  | _ => true

/-- The core takes commands: not Closing, Disabled, Off, Absent or Paired (R209). A Spare core runs survey work (R34). -/
def coreTakes (x : CoreSt) : Bool := x.node == .active || x.node == .spare

/-- A context can go on: it holds a part, has not ended, has no unresolved COND and does not wait (R182, R197). -/
def ctxRuns (y : Ctx) : Bool := y.st == .ready && !y.ended && y.cond.isNone

/-- OP of a flag descriptor, and the beat that its FENCE waits for (R219). -/
abbrev fdOp (d : List Byte) : Nat := dfld d 0x00 3 0
abbrev fdBeat (d : List Byte) : Nat := dfld d 0x18 63 0

/-- A FENCE of a context has not completed: the context accepts no further command (R235). -/
def fenced (x : CoreSt) (n : CtxId) : Bool :=
  x.ops.any (fun o => o.ctx == n && o.cls == clFlag && fdOp o.desc == 5)

/-- The DEP that a command has to meet: none for a LOAD that was read ahead (R199). -/
def depOf (x : CoreSt) (n : CtxId) (y : Ctx) (k : Cmd) : Nat :=
  if k.cls = clLoad ∧ x.runAhead.any (fun r => r.ctx == n && r.idx == y.ptr) then 0 else k.dep

/-- A context goes on to its next command: it runs, no FENCE holds it, and its core takes commands (R182, R209, R235). -/
def goesOn (s : State) (c : CoreId) (n : CtxId) : Bool :=
  ctxRuns (s.ctx c n) && !fenced (s.core c) n && coreTakes (s.core c)

/-- The next command of a context has still to wait on its flag (R183, R221). -/
def mustWait (s : State) (c : CoreId) (n : CtxId) (k : Cmd) : Bool :=
  depOf (s.core c) n (s.ctx c n) k == 3 && !(s.ctx c n).depMet

/-- The other conditions of R185: room, and a DEP on earlier commands. -/
def canEnter (s : State) (c : CoreId) (n : CtxId) (k : Cmd) : Bool :=
  hasRoom s c n k.cls && depMet (s.core c) n (s.ctx c n) (depOf (s.core c) n (s.ctx c n) k)

/-- What a wait that has not begun would meet (R221, R228): the context goes on, stops, or waits. -/
def waitState (s : State) (f : FlagId) : CtxSt :=
  if flagIsPoisoned s f then .stopping else if flagIsSet s f then .ready else .waiting

/-- STATE of a context as CORE_CTX_STATn reports it (R182, R185): Ready where its next command can be accepted, Waiting where that
waits on a flag, and Blocked where it waits on anything else. -/
def ctxState (s : State) (c : CoreId) (n : CtxId) : CtxSt :=
  match (s.ctx c n).st with
  | .ready =>
    match nextCmd s (s.ctx c n) with
    | none => .blocked
    | some k =>
      if !goesOn s c n then .blocked
      else
        let w := if mustWait s c n k then waitState s k.wflag else .ready
        if w = .ready ∧ !canEnter s c n k then .blocked else w
  | t => t

/-- The contexts of a core in the order in which it chooses among the Ready ones: round-robin, starting after the one that it
accepted from last (R186). -/
def turnOrder (x : CoreSt) : List CtxId := (List.range 8).map (fun i => Fin.ofNat 8 (x.lastCtx + 1 + i))

/-- The core's next acceptance is this context's: the first Ready one in its order (R186). -/
def itsTurn (s : State) (c : CoreId) (n : CtxId) : Bool :=
  (turnOrder (s.core c)).find? (fun m => ctxState s c m == .ready) == some n

/-- The wait of a command with DEP = 0b11 begun (R221, R228): it passes and the context goes on to accept, or the context stops on
poison, or is Waiting. -/
def startWait (s : State) (c : CoreId) (n : CtxId) (f : FlagId) : State :=
  match beginWait s c n f with
  | (s, .passed) => s.setCtx c n { s.ctx c n with depMet := true }
  | (s, .poisoned) => s.setCtx c n (s.ctx c n).poisonStop
  | (s, .waits) => s.setCtx c n { s.ctx c n with st := .waiting }

/-- The attempt to accept the next command of a context, if it is one that `p` names (R185, R186): it begins the wait that the
command has still to make, and accepts the command where the context is Ready and its turn has come (log 158). -/
def tryAccept (s : State) (c : CoreId) (n : CtxId) (p : Cmd → Bool) : State × Option Cmd :=
  match nextCmd s (s.ctx c n) with
  | none => (s, none)
  | some k =>
    if p k ∧ goesOn s c n then
      let s := if mustWait s c n k then startWait s c n k.wflag else s
      (s, if itsTurn s c n then some k else none)
    else (s, none)

/-- The context after one command: at the end of its ring without END it stops with INVALID_OP (R198); an OP entry's
part has ended after its one command. -/
def advanceCtx (y : Ctx) (num : Nat) : Ctx :=
  let y := { y with ptr := y.ptr + 1, prev := some num, depMet := false }
  if y.opDesc.isSome then { y with ended := true, st := .stopping }
  else if y.plen ≤ y.ptr then { y.addFail y.plen stInvalidOp with ended := true, st := .stopping }
  else y

/-- HIGH of CORE_TRK_STAT, USED and FULL after a change of the tracker (R212). -/
def trkStat (s : State) (c : CoreId) : State :=
  let u := trkUsed (s.core c)
  ((s.wf .CORE_TRK_STAT_USED u c.val).wf .CORE_TRK_STAT_FULL (b2n (u == 192)) c.val).wf .CORE_TRK_STAT_HIGH
    (max (s.rf .CORE_TRK_STAT_HIGH c.val) u) c.val

/-- The operation that a command becomes at acceptance; `pre` is a status already decided. -/
def opOf (s : State) (c : CoreId) (n : CtxId) (k : Cmd) (pre : Option Nat) : Op :=
  let x := s.core c
  let y := s.ctx c n
  { num := x.nextNum, ctx := n, idx := y.ptr, cls := k.cls, desc := padTo 64 k.desc, reco := k.reco, setf := k.setf,
    dflag := k.dflag, tag := k.tag, mb := y.mb, k := y.k, entry := y.entry, spec := y.spec,
    step := s.rf .VEC_RNG_STEP_STEP (halfOfCore c).val, pre := pre, started := false, result := 0,
    merge := none }

/-- A command accepted: its operation enters the tracker, and its context becomes `y` (R185, R189). -/
def enterAs (s : State) (c : CoreId) (n : CtxId) (o : Op) (y : Ctx) : State :=
  let s := countCore (s.setCtx c n y) c 0x002 1 o.spec
  let x := s.core c
  trkStat (s.setCore c { x with ops := x.ops ++ [o], nextNum := x.nextNum + 1, lastCtx := n.val, gated := false }) c

/-- A command accepted whose context goes on to the next of its ring. -/
def enterOp (s : State) (c : CoreId) (n : CtxId) (o : Op) : State := enterAs s c n o (advanceCtx (s.ctx c n) o.num)

/-- The operation of a core with a number, if it is still there. -/
def findOp (x : CoreSt) (num : Nat) : Option Op := x.ops.find? (fun o => o.num == num)

/-- An operation replaced. -/
def putOp (x : CoreSt) (o : Op) : CoreSt := { x with ops := x.ops.map (fun p => if p.num = o.num then o else p) }

/-! ### Completion (R188, R191) -/

/-- A place where the device writes a record: user space of a tier, a glade or a scratchpad (log 14). -/
def recordPlace (a len : Nat) : Bool :=
  match regionOf a len with
  | some .hbm => true
  | some .lpddr => true
  | some (.glade _) => true
  | some (.scratch _) => true
  | _ => false

/-- The 16 bytes of a completion record (R191); CYCLES is free (log 5). -/
def recordBytes (status ctx cls tag result beat cycles : Nat) : List Byte :=
  natLE 4 (status + ctx * 2 ^ 8 + cls * 2 ^ 11 + tag * 2 ^ 16) ++ natLE 4 result ++ natLE 4 beat ++ natLE 4 cycles

/-- A record written by a unit of half `h` where a record may lie and the understory does not (R191, R248); an attempt on the
privileged region is counted (R261; log 160). -/
def putRecord (s : State) (h : HalfId) (a : Nat) (bs : List Byte) : State :=
  if regionOf a bs.length = some .priv then s.privFault
  else if recordPlace a bs.length && !touchesHidden s (a, bs.length) then s.post h a bs else s

/-- The completion record of a command with REC = 1, written to the ring of its part; none in speculative mode
(R191, R204). -/
def writeRecord (s : State) (c : CoreId) (o : Op) (status result : Nat) : State :=
  let y := s.ctx c o.ctx
  if o.reco ∧ y.crec ≠ 0 ∧ !o.spec then
    let a := y.crec + 4096 * y.k + 16 * y.rptr
    let b := recordBytes status o.ctx.val o.cls o.tag result (beatNow s (halfOfCore c)) (s.freeVal % 2 ^ 32)
    ((putRecord s (halfOfCore c) a b).setCtx c o.ctx { y with rptr := (y.rptr + 1) % 256 }).used
  else s

/-- A put, exact-add, flag set or token send of an agent to its own device has not taken effect (R229). -/
def selfPending (s : State) (agent : Nat) : Bool :=
  (s.fab.selfQ ++ s.fab.unsent.map Unsent.pkt).any (fun p =>
    p.srcDev == ownDev s && p.srcAgent == agent && addrDev p.dst == ownDev s && [ptPut, ptExadd, ptFlagSet, ptToken].contains p.ptype)

/-- A set of a flag of this device by a context: it takes effect after the context's earlier fabric operations to this device
(R229, R231), so behind one that is under way it follows as a fabric flag set. -/
def setOwn (s : State) (c : CoreId) (n : CtxId) (f : FlagId) : State :=
  if selfPending s (ctxNumber c n) then sendFlagSet s .dispatcher (ctxNumber c n) (flagAddr s f)
  else setFlag s f (srcOfCtx s c n)

/-- SETF of a command: set when its effects are complete, but not for an aborted one, nor in speculative mode (R183, R204,
R209). -/
def doSetf (s : State) (c : CoreId) (o : Op) (aborted : Bool) : State :=
  if o.setf ∧ !aborted ∧ !o.spec then setOwn s c o.ctx (Fin.ofNat 32768 o.dflag) else s

/-- A context stops (R188): it accepts nothing more, and the command that waits on a flag is given up, so that a later set finds
no waiter. A COND that it has accepted is in flight and still resolves. -/
def stopCtx (s : State) (c : CoreId) (n : CtxId) : State :=
  let y := s.ctx c n
  let s := if y.st = .waiting then leaveFlags s c n else s
  s.setCtx c n { y with st := .stopping, ended := true }

/-- A command completes with a status (R188, R191, R231): it leaves the tracker, writes its record, sets DFLAG, and a
status other than OK is recorded for the part and stops a context with STOPERR. `stop` stops it whatever STOPERR is
(R202, R228). -/
def completeOp (s : State) (c : CoreId) (o : Op) (status result : Nat) (stop : Bool := false) : State :=
  let s := if o.cls = clMat ∧ (status = stAbortedDisable ∨ status = stAccExhausted) then dropSamples s c o.num else s
  let x := s.core c
  let s := trkStat (s.setCore c { x with ops := x.ops.filter (fun p => p.num != o.num), gated := false }) c
  let s := writeRecord (if status = stOK then s else countCore s c 0x003 1 o.spec) c o status result
  let y := s.ctx c o.ctx
  let s := if status = stOK then s
    else
      let y := y.addFail o.idx status
      let s := s.setCtx c o.ctx (if o.cls = clCond ∧ o.pre = none then { y with cond := none } else y)
      if y.stopErr || stop then stopCtx s c o.ctx else s
  doSetf s c o (status == stAbortedDisable)

/-- A command refused at acceptance completes at once (R188). -/
def refuseCmd (s : State) (c : CoreId) (n : CtxId) (k : Cmd) (status : Nat) (stop : Bool := false) : State :=
  let o := opOf s c n k none
  completeOp (enterOp s c n o) c o status 0 stop

/-- A row of R189 whose commands complete in acceptance order. -/
def rowOrdered (cls : Nat) : Bool := cls == clMat || cls == clDrain || cls == clVec || cls == clFlag || cls == clCond

/-- A command refused at acceptance: where R189 orders its row it completes after the earlier commands of that row (log 15);
every other at once. `stop` ends its context's acceptance now (R202). -/
def refuseInOrder (s : State) (c : CoreId) (n : CtxId) (k : Cmd) (status : Nat) (stop : Bool := false) : State :=
  if rowOrdered k.cls ∧ (s.core c).ops.any (fun o => sameRow k.cls o.cls) then
    let o := opOf s c n k (some status)
    let s := enterOp s c n o
    if stop then stopCtx (s.setCtx c n ((s.ctx c n).addFail o.idx status)) c n else s
  else refuseCmd s c n k status stop

/-- A speculation that may commit nothing any more (R202). -/
def killSpec (s : State) (c : CoreId) : State :=
  match (s.core c).spec with
  | some z => s.setCore c { s.core c with spec := some { z with dead := true } }
  | none => s

/-- A command that speculative mode does not admit: it ends the speculative part, and a later confirm commits nothing (R202). -/
def refuseSpec (s : State) (c : CoreId) (n : CtxId) (k : Cmd) : State :=
  refuseInOrder (killSpec s c) c n k stSpecForbidden true

/-- A FLAG or COND command has nothing left to wait for but its turn: its status is known, or the fence of its beat has passed
(R189, R235). -/
def flagDone (s : State) (o : Op) : Bool :=
  o.pre.isSome || (o.cls == clFlag && fdOp o.desc == 5 && decide (fdBeat o.desc ≤ s.fence))

/-- FLAG and COND commands of a core complete in acceptance order, up to one that is not done (R189). -/
def drainFlags (s : State) (c : CoreId) (fuel : Nat) : State :=
  match fuel with
  | 0 => s
  | fuel + 1 =>
    match (s.core c).ops.find? (fun o => sameRow clFlag o.cls) with
    | none => s
    | some o => if flagDone s o then drainFlags (completeOp s c o (o.pre.getD stOK) o.result) c fuel else s

/-- The status of a FLAG or COND command noted, and those whose turn has come complete. -/
def endFlagOp (s : State) (c : CoreId) (o : Op) (status result : Nat) : State :=
  let s := s.setCore c (putOp (s.core c) { o with started := true, pre := some status, result := result })
  drainFlags s c (s.core c).ops.length

/-- The descriptor of a command lies in the core's scratchpad or its half's glade, outside the understory and, for a command
that is not speculative, outside a partition that a speculation holds (R183, R204, R248; log 14); the status otherwise. -/
def descCheck (s : State) (c : CoreId) (k : Cmd) (fromRing spec : Bool) : Option Nat :=
  if !fromRing then none
  else match regionOf k.descAddr 64 with
    | some (.scratch d) =>
      if d ≠ c then some stInvalidAddress else if !spec ∧ touchesPartition s c k.descAddr 64 then some stSpecHidden else none
    | some (.glade h) =>
      if h ≠ halfOfCore c then some stInvalidAddress
      else if touchesUnderstory s h k.descAddr 64 then some stSpecHidden else none
    | some .priv => some stPrivFault
    | _ => some stInvalidAddress

/-! ### Entries (R181) -/

/-- The status of an entry: that of the failed part with the lowest k, or OK. -/
def entryStatus (ps : List PartRec) : Nat :=
  let bad := ps.filter (fun p => p.status.getD 0 != stOK)
  match bad with
  | [] => stOK
  | p :: rest => ((rest.foldl (fun m q => if q.k < m.k then q else m) p).status).getD stOK

/-- The key of the earlier invalid product of two (R92, R93). -/
def excFirst (a b : Option (Nat × Nat × Nat)) : Option (Nat × Nat × Nat) :=
  match a, b with
  | none, y => y
  | x, none => x
  | some (k, r, c), some (k', r', c') =>
    if k < k' ∨ (k = k' ∧ (r < r' ∨ (r = r' ∧ c ≤ c'))) then some (k, r, c) else some (k', r', c')

/-- Two exception records combined (R93). -/
def excAdd (a b : Exc) : Exc where
  first := excFirst a.first b.first
  inv := a.inv + b.inv
  inf := a.inf + b.inf
  nan := a.nan + b.nan
  div := a.div + b.div
  satd := a.satd || b.satd

/-- The record of an operation that found nothing. -/
def excZero : Exc := ⟨none, 0, 0, 0, 0, false⟩

/-- A count as the record holds it (R92). -/
def satCount (w v : Nat) : Nat := min v (2 ^ w - 1)

/-- The 32 bytes of an exception record, with the saturation of R92; of a coordinate beyond its field the low bits: DESIGN CHOICE
(log 150). -/
def excBytes (e : Exc) : List Byte :=
  let ovr := decide (2 ^ 32 ≤ e.inv) || decide (2 ^ 32 ≤ e.inf) || decide (2 ^ 32 ≤ e.nan) || decide (2 ^ 64 ≤ e.div)
  let (k, r, c) := e.first.getD (0xFFFFFFFF, 0xFFFF, 0xFFFF)
  natLE 4 k ++ natLE 2 r ++ natLE 2 c ++ natLE 4 (satCount 32 e.inv) ++ natLE 4 (satCount 32 e.inf) ++
    natLE 4 (satCount 32 e.nan) ++
    natLE 4 (b2n (e.inv != 0) + 2 * b2n (e.inf != 0) + 4 * b2n (e.nan != 0) + 8 * b2n (e.satd || ovr)) ++
    natLE 8 (satCount 64 e.div)

/-- EXC_ADDR of a matrix descriptor (R124). -/
abbrev mdExcAddr (d : List Byte) : Nat := dfld d 0x28 63 0

/-- The half whose beat number an entry's record carries. -/
def entryHalf (nd : NodeId) : HalfId :=
  match nd with
  | .core c => halfOfCore c
  | .grove g => halfOfGrove g
  | .half h => h
  | _ => 0

/-- The combined exception record of a MAT entry that was spread, written at the EXC_ADDR of its DESC (R93, R179). -/
def writeCombinedExc (s : State) (e : Entry) : State :=
  let a := mdExcAddr (weDesc e.raw)
  if weKind e.raw = 1 ∧ weClass e.raw = clMat ∧ a ≠ 0 ∧ !e.excs.isEmpty then
    putRecord s (entryHalf e.node) a (excBytes (e.excs.foldl excAdd excZero))
  else s

/-- An entry completes: its completion record with CLASS 0b1111 is written at REC, then DONE_FLAG is set (R181). -/
def completeEntry (s : State) (id : Nat) (e : Entry) : State :=
  let a := weRec e.raw
  let b := recordBytes (entryStatus e.parts) 0 15 (weTag e.raw) e.parts.length (beatNow s (entryHalf e.node)) (s.freeVal % 2 ^ 32)
  let s := if a ≠ 0 then putRecord s (entryHalf e.node) a b else s
  let s := writeCombinedExc { s.used with entries := adrop s.entries (fun k => k == id) } e
  if weDoneFlag e.raw = 0 then s else setGlobal s (weDoneFlag e.raw) (srcDispatcher s) .dispatcher

/-- A part's status recorded, and the entry completed with its last part (R181). -/
def finishPart (s : State) (id k status : Nat) : State :=
  match aget? s.entries id with
  | none => s
  | some e =>
    let ps := e.parts.map (fun p => if p.k = k then { p with status := some status } else p)
    let e := { e with parts := ps }
    if ps.all (fun p => p.status.isSome) then completeEntry s id e
    else { s with entries := aset s.entries id e }

/-- A context's part ends with its status (R181): the flags it claimed return to their units (R217), and the context is
Idle. -/
def endPart (s : State) (c : CoreId) (n : CtxId) (status : Nat) : State :=
  let y := s.ctx c n
  let s := releaseOwned s c n
  finishPart (s.setCtx c n Ctx.reset) y.entry y.k status

/-- The status of a context's part: that of its failed command nearest the start of the ring (R188). -/
def partStatus (y : Ctx) : Nat :=
  match y.fail with
  | some (_, st) => st
  | none => stOK

end Sys2Proof.Machine
end

