-- ==== Sys2Proof/Machine/Work.lean ====
section
/-!
DEFINITION. Work entries: how a node spreads one over its Active slots and patches its descriptor (R178 to R180, R551),
how parts start and complete (R181, R182), and the ends of a ring (R184, R198).
-/

namespace Sys2Proof.Machine

/-- A share of an entry that reaches one core, or an empty child (none), or a device of a group or hall that is not this
one (R551). -/
inductive Share where
  | core (c : CoreId) (lo hi : Nat)
  | empty
  | away
  deriving DecidableEq, Repr

/-- The parts that another device or group forms of its share (R551): its own tables decide, so their number is free, at least one and
at most one for each of its cores (log 66). -/
def awayParts (s : State) (nd : NodeId) (i : Nat) : Nat :=
  1 + Config.free (s.fresh + i) % (if nd = .hall then 64 * 80 else 80)

/-- The shares of an entry below a node, in depth-first slot order (R551): items `lo` to `hi − 1` are split over the
Active slots, or each slot receives them all where the entry replicates. A child of another device or group is as many shares as
it forms parts. -/
def spread (s : State) (split : Bool) (fuel : Nat) (nd : NodeId) (lo hi : Nat) : List Share :=
  match fuel with
  | 0 => []
  | fuel + 1 =>
    match nd with
    | .core c => [.core c lo hi]
    | _ =>
      let sl := activeSlots s nd
      if sl.isEmpty then [.empty]
      else sl.zipIdx.flatMap (fun x =>
        let sh := if split then shareOf x.2 sl.length (hi - lo) else (0, hi - lo)
        match localNode s x.1.child with
        | none => List.replicate (awayParts s nd (512 * fuel + x.2)) .away
        | some ch => spread s split fuel ch (lo + sh.1) (lo + sh.2))

/-- A field of a descriptor replaced: bits `hi` to `lo` of the word of `n` bytes at `off`. -/
def setDfld (d : List Byte) (off n hi lo v : Nat) : List Byte :=
  d.take off ++ natLE n (setBits (leNat ((d.drop off).take n)) hi lo v) ++ d.drop (off + n)

/-- The places of the address fields that ADV advances (R179): (ADV bit, offset, bytes, width). -/
def advFields (cls : Nat) : List (Nat × Nat × Nat × Nat) :=
  match cls with
  | 1 => [(0, 0x0C, 4, 22), (1, 0x10, 4, 22), (2, 0x1C, 4, 22), (3, 0x20, 4, 22)]
  | 3 => [(0, 0x08, 8, 64), (1, 0x10, 8, 64), (2, 0x18, 8, 64), (3, 0x20, 8, 64), (4, 0x28, 8, 64)]
  | _ => [(0, 0x10, 8, 64), (1, 0x18, 8, 64)]

/-- The scratchpads that a core's load and store engines reach: its own, and in a pair both (R143, R195). -/
def ownScratch (s : State) (c d : CoreId) : Bool := d == c || (inPair s c && d == pairMate c)

/-- The source of a LOAD, or the destination of a STORE (R195). -/
def outerPlace (a : Nat) : Bool :=
  match regionOf a 1 with
  | some .hbm => true
  | some .lpddr => true
  | some (.glade _) => true
  | _ => false

/-- The near end of a transfer (R195). -/
def innerPlace (s : State) (c : CoreId) (a : Nat) : Bool :=
  match regionOf a 1 with
  | some (.scratch d) => ownScratch s c d
  | _ => false

/-- A place of a vector operand (R158, R159): the core's scratchpad, its half's glade, or for a DST its accumulator window. -/
def vectorPlace (c : CoreId) (b a : Nat) : Bool :=
  match regionOf a 1 with
  | some (.scratch d) => d == c
  | some (.glade h) => h == halfOfCore c
  | some (.acc d) => b == 3 && d == c
  | _ => false

/-- The address field of an ADV bit may hold an address (R129, R158, R159, R195). -/
def fieldPlaced (s : State) (c : CoreId) (cls b a : Nat) : Bool :=
  match cls, b with
  | 1, _ => decide (a < scratchSize)
  | 3, b => vectorPlace c b a
  | 4, 0 => outerPlace a || innerPlace s c a
  | 4, _ => innerPlace s c a
  | _, 0 => innerPlace s c a
  | _, _ => outerPlace a

/-- Address fields advanced by `lo` units (R179): one that passes its width, or leaves the range that its chapter allows, fails with
INVALID_ADDRESS (log 157). -/
def advance (s : State) (c : CoreId) (cls : Nat) (d : List Byte) (adv amount : Nat) (fs : List (Nat × Nat × Nat × Nat)) :
    Except Nat (List Byte) :=
  match fs with
  | [] => .ok d
  | (b, off, n, w) :: rest =>
    if bit adv b then
      let a := dfld d off (w - 1) 0
      let v := a + amount
      if 2 ^ w ≤ v ∨ (fieldPlaced s c cls b a ∧ !fieldPlaced s c cls b v) then .error stInvalidAddress
      else advance s c cls (setDfld d off n (w - 1) 0 v) adv amount rest
    else advance s c cls d adv amount rest

/-- A count or an offset written into its field, or INVALID_SHAPE where it does not fit (R179). -/
def putCount (d : List Byte) (off n hi lo v : Nat) : Except Nat (List Byte) :=
  if 2 ^ (hi + 1 - lo) ≤ v then .error stInvalidShape else .ok (setDfld d off n hi lo v)

/-- The descriptor of a part that receives units `lo` to `lo + n − 1`, patched as its SPLIT lays down (R179). -/
def patchDesc (s : State) (c : CoreId) (cls split adv advBytes : Nat) (d : List Byte) (lo n : Nat) : Except Nat (List Byte) :=
  match advance s c cls d adv (lo * advBytes) (advFields cls) with
  | .error e => .error e
  | .ok d =>
    match split, cls with
    | 0, _ => .ok d
    | 1, 1 => do
      let d ← putCount d 0x34 4 31 0 (dfld d 0x34 31 0 + lo)
      putCount d 0x04 2 6 0 (n - 1)
    | 1, 4 => putCount d 0x04 2 15 0 n
    | 1, 5 => putCount d 0x04 2 15 0 n
    | 2, 1 => do
      let d ← putCount d 0x38 4 31 0 (dfld d 0x38 31 0 + lo)
      putCount d 0x04 2 15 8 (n - 1)
    | 3, 1 => do
      let d ← putCount d 0x30 4 31 0 (dfld d 0x30 31 0 + lo)
      putCount d 0x08 4 23 0 n
    | 3, 3 => do
      let d ← putCount d 0x34 4 31 0 (dfld d 0x34 31 0 + lo)
      putCount d 0x04 4 23 0 n
    | _, _ => .error stInvalidShape

/-- The part that a share forms: its record, and what waits for a context (R179, R180, R551). -/
def partOf (s : State) (e : List Byte) (id k : Nat) (sh : Share) : PartRec × Option WaitingPart :=
  match sh with
  | .empty => (⟨k, none, some stNodeEmpty⟩, none)
  | .away => (⟨k, none, none⟩, none)
  | .core c lo hi =>
    if weKind e = 2 then (⟨k, some c, none⟩, some ⟨id, k, c, none⟩)
    else
      let u := lo * weGrain e
      let n := (hi - lo) * weGrain e
      if n = 0 then (⟨k, some c, some stOK⟩, none)
      else match patchDesc s c (weClass e) (weSplit e) (weAdv e) (weAdvBytes e) (weDesc e) u n with
        | .error st => (⟨k, some c, some st⟩, none)
        | .ok d => (⟨k, some c, none⟩, some ⟨id, k, c, some d⟩)

/-- Parts put in the dispatcher of the grove of their core (R182). -/
def queueParts (s : State) (ws : List WaitingPart) : State :=
  match ws with
  | [] => s
  | w :: rest =>
    let g := groveOfCore w.core
    let s := s.setCore w.core { s.core w.core with gated := false }
    let s := if surveying s w.core then s.incSat .HLF_SURV_STAT_DELAYS 1 (halfOfCore w.core).val else s
    queueParts { s with waiting := aset s.waiting g (aget s.waiting g [] ++ [w]) } rest

/-- An entry that completes at once with a status, running nothing: one part of that status if it has none. -/
def refuseEntry (s : State) (e : List Byte) (nd : NodeId) (status : Nat) : State :=
  completeEntry s s.nextEntry ⟨e, nd, [⟨0, none, some status⟩], [], s.fresh⟩

/-- The status with which a node refuses an entry at acceptance (R178, R180, R39), before it is spread. -/
def entryCheck (e : List Byte) : Option Nat :=
  if weKind e = 1 then
    if [clMat, clVec, clLoad, clStore].contains (weClass e) = false then some stInvalidOp
    else if weGrain e = 0 then some stInvalidShape
    else none
  else if weKind e = 2 then none
  else some stInvalidOp

/-- A node accepts an entry and spreads it (R38, R39, R179, R180, R551). -/
def acceptEntry (s : State) (nd : NodeId) (e : List Byte) : State :=
  match entryCheck e with
  | some st => refuseEntry s e nd st
  | none =>
    match nodeState s nd with
    | .active =>
      let split := weKind e == 1 && weSplit e != 0
      let shs := spread s split 6 nd 0 (weNItems e)
      if (match nd with | .core _ => false | _ => (activeSlots s nd).isEmpty) then refuseEntry s e nd stNodeEmpty
      else if weKind e = 2 ∧ shs.length ≠ weNSlotExp e then refuseEntry s e nd stSlotMismatch
      else
        let id := s.nextEntry
        let ps := shs.zipIdx.map (fun x => partOf s e id x.2 x.1)
        let en : Entry := ⟨e, nd, ps.map Prod.fst, [], s.fresh⟩
        let s := { (if shs.contains .away then s.used 4096 else s) with nextEntry := id + 1, entries := aset s.entries id en }
        let s := queueParts s (ps.filterMap Prod.snd)
        if en.parts.all (fun p => p.status.isSome) then completeEntry s id en else s
    | .paired => refuseEntry s e nd stNodePaired
    | _ => refuseEntry s e nd stNotActive

/-- The queue of a node. -/
def nodeQueue (s : State) (nd : NodeId) (q : Fin 8) : List (List Byte) := aget s.nodeQ (nd, q) []

/-- The half that serves the queues of a node (R30). -/
def servingHalf (s : State) (nd : NodeId) : HalfId :=
  match nd with
  | .core c => halfOfCore c
  | .grove g => halfOfGrove g
  | .half h => h
  | _ => Fin.ofNat 2 (s.rf .HLF_LEAD_STAT_LEAD)

/-- The entry at the front of a node's queue is accepted, if `p` holds of it; a fenced half accepts none at its nodes (R504). -/
def acceptFront (s : State) (nd : NodeId) (q : Fin 8) (p : List Byte → Bool) : State :=
  match nodeQueue s nd q with
  | [] => s
  | e :: rest => if p e ∧ !s.rb .HLF_LEAD_STAT_FENCED (servingHalf s nd).val then acceptEntry { s with nodeQ := aset s.nodeQ (nd, q) rest } nd e else s

/-- WORK_ENTRY_OP (R178, R179): an OP entry, or one whose KIND is refused with INVALID_OP. -/
def execWorkEntryOp (nd : NodeId) (q : Fin 8) (s : State) : Host.Outcome State Fault Refusal :=
  .next (acceptFront s nd q (fun e => weKind e != 2))

/-- WORK_ENTRY_PROG (R180). -/
def execWorkEntryProg (nd : NodeId) (q : Fin 8) (s : State) : Host.Outcome State Fault Refusal :=
  .next (acceptFront s nd q (fun e => weKind e == 2))

/-! ### Parts on contexts -/

/-- The lowest-numbered Idle context of a core (R182). -/
def idleCtx (x : CoreSt) : Option CtxId :=
  ((List.range 8).map (Fin.ofNat 8)).find? (fun n => (aget x.ctxs n Ctx.reset).st == .idle)

/-- A ring lies wholly in the core's scratchpad, or wholly in the glade of its half (R180). -/
def ringOk (c : CoreId) (a plen : Nat) : Bool :=
  match regionOf a (16 * plen) with
  | some (.scratch d) => d == c
  | some (.glade h) => h == halfOfCore c
  | _ => false

/-- The context that a part gives its core's context. -/
def ctxOfPart (e : List Byte) (w : WaitingPart) (spec : Bool) : Ctx :=
  { Ctx.reset with
    st := .ready, entry := w.entry, k := w.k, ring := weProg e + 64 * wePStride e * w.k, plen := wePlen e,
    crec := weCRec e, mb := weMb e, stopErr := weStopErr e, spec := spec, opCls := weClass e, opTag := weTag e,
    opDesc := w.desc }

/-- A part put on a context: a ring that fails R180 makes the part complete at once with INVALID_ADDRESS, and a ring of no
commands ends at index PLEN (R198). -/
def startOnCtx (s : State) (c : CoreId) (n : CtxId) (e : List Byte) (w : WaitingPart) (spec : Bool) : State :=
  let y := ctxOfPart e w spec
  if w.desc.isNone ∧ !ringOk c y.ring y.plen then finishPart s w.entry w.k stInvalidAddress
  else
    let y := if w.desc.isNone ∧ y.plen = 0 then { y.addFail 0 stInvalidOp with st := .stopping, ended := true } else y
    let s := s.setCtx c n y
    s.setCore c { s.core c with gated := false }

/-- A part of a core removed from its grove's dispatcher. -/
def dropWaiting (s : State) (c : CoreId) (w : WaitingPart) : State :=
  let g := groveOfCore c
  { s with waiting := aset s.waiting g ((aget s.waiting g []).filter (fun x => !(x.entry == w.entry && x.k == w.k))) }

/-- END and an invalid class name a command of the ring, not of an OP entry. -/
def fromRing (y : Ctx) : Bool := y.opDesc.isNone

/-- A command of a context that SETF makes inadmissible in speculative mode (R202). -/
def specSetf (y : Ctx) (k : Cmd) : Bool := y.spec && k.setf

/-- A context that has accepted END (R184): its part ends when its commands in flight have completed. -/
def endCtx (y : Ctx) (num : Nat) : Ctx := { y with ptr := y.ptr + 1, prev := some num, depMet := false, st := .stopping, ended := true }

/-- END (R184): the context's part ends; it waits for its commands in flight. END itself has no effect to wait for, so it completes at
once, with the record and the flag set that REC and SETF ask for (R183, R191; log 156). -/
def execEnd (c : CoreId) (n : CtxId) (s : State) : Host.Outcome State Fault Refusal :=
  match tryAccept s c n (fun k => k.cls == clEnd) with
  | (s, none) => .next s
  | (s, some k) =>
    if specSetf (s.ctx c n) k then .next (refuseSpec s c n k)
    else
      let o := opOf s c n k none
      .next (completeOp (enterAs s c n o (endCtx (s.ctx c n) o.num)) c o stOK 0)

/-- INVALID_CLASS (R184): a command of any other class completes with INVALID_OP. -/
def execInvalidClass (c : CoreId) (n : CtxId) (s : State) : Host.Outcome State Fault Refusal :=
  match tryAccept s c n (fun k => decide (8 < k.cls)) with
  | (s, none) => .next s
  | (s, some k) => .next (if specSetf (s.ctx c n) k then refuseSpec s c n k else refuseCmd s c n k stInvalidOp)

/-- CORE_CLOCK_GATE (R187): a core with GATE_EN, no Ready context and no engine holding work gates its clocks. An operation that the
fabric has taken is no engine's work: its completion wakes the core. -/
def execCoreClockGate (c : CoreId) (s : State) : Host.Outcome State Fault Refusal :=
  let x := s.core c
  let busy := ((List.range 8).map (Fin.ofNat 8)).any (fun n => ctxState s c n == .ready)
  if s.rb .CORE_CTX_CFG_GATE_EN c.val ∧ !busy ∧ trkUsed x = 0 then .next (s.setCore c { x with gated := true }) else .next s

end Sys2Proof.Machine
end

