-- ==== Sys2Proof/Machine/Transfers.lean ====
section
/-!
DEFINITION. LOAD and STORE (R194 to R196), and reading ahead behind a condition (R199, R200).
-/

namespace Sys2Proof.Machine

/-! ### The transfer descriptor (R194) -/

abbrev tdEsize (d : List Byte) : Nat := dfld d 0x00 1 0
abbrev tdTrans (d : List Byte) : Bool := dbit d 0x00 2
abbrev tdCheck (d : List Byte) : Bool := dbit d 0x00 3
abbrev tdRows (d : List Byte) : Nat := dfld d 0x04 15 0
abbrev tdRBytes (d : List Byte) : Nat := dfld d 0x08 23 0
abbrev tdSrc (d : List Byte) : Nat := dfld d 0x10 63 0
abbrev tdDst (d : List Byte) : Nat := dfld d 0x18 63 0
abbrev tdSStride (d : List Byte) : Nat := dfld d 0x20 31 0
abbrev tdDStride (d : List Byte) : Nat := dfld d 0x24 31 0

/-- The element size in bytes. -/
def tdElem (d : List Byte) : Nat := 2 ^ tdEsize d

/-- The source rows of a transfer: (address, bytes). -/
def srcRows (d : List Byte) : List (Nat × Nat) :=
  (List.range (tdRows d)).map (fun i => (tdSrc d + i * tdSStride d, tdRBytes d))

/-- The destination rows of a transfer; with TRANS = 1, one for each source column. -/
def dstRows (d : List Byte) : List (Nat × Nat) :=
  if tdTrans d then
    (List.range (tdRBytes d / tdElem d)).map (fun j => (tdDst d + j * tdDStride d, tdRows d * tdElem d))
  else (List.range (tdRows d)).map (fun i => (tdDst d + i * tdDStride d, tdRBytes d))

/-- Some byte of a range lies in the privileged region (R195, R261). -/
def touchesPriv (r : Nat × Nat) : Bool := decide (r.1 < privBase + privSize) && decide (privBase < r.1 + r.2)

/-- Some byte of a range lies in the shadow tile of a speculation, in either core of a pair (R96, R143, R204). -/
def touchesShadow (s : State) (r : Nat × Nat) : Bool :=
  allCores.any (fun c => match (s.core c).spec with
    | none => false
    | some z =>
      let meets := fun (d : CoreId) =>
        decide (r.1 < accBase d + (z.shadow + 1) * 524288) && decide (accBase d + z.shadow * 524288 < r.1 + r.2)
      meets c || (inPair s c && meets (pairMate c)))

/-- Some byte of a row of a transfer lies where the transfer may not reach: an understory (R248), or outside speculative work
any speculative partition (R195, check 3). -/
def transferHidden (s : State) (spec : Bool) (r : Nat × Nat) : Bool :=
  touchesUnderstory s 0 r.1 r.2 || touchesUnderstory s 1 r.1 r.2 || (!spec && allCores.any (fun x => inPartition s x r.1 r.2))

/-- The placement of a source row (R195). -/
def srcPlace (s : State) (c : CoreId) (store : Bool) (r : Nat × Nat) : Bool :=
  match regionOf r.1 r.2 with
  | some (.scratch d) => ownScratch s c d
  | some .hbm => !store
  | some .lpddr => !store
  | some (.glade _) => !store
  | _ => false

/-- The placement of a destination row (R195). -/
def dstPlace (s : State) (c : CoreId) (store : Bool) (r : Nat × Nat) : Bool :=
  match regionOf r.1 r.2 with
  | some (.scratch d) => !store && ownScratch s c d
  | some .hbm => store
  | some .lpddr => store
  | some (.glade _) => store
  | _ => false

/-- A block of a tier is covered whole by rows (R196). -/
def blockCovered (rows : List (Nat × Nat)) (blk : Nat) : Bool :=
  rows.any (fun r => decide (r.1 ≤ blk) && decide (blk + 2048 ≤ r.1 + r.2)) ||
  (List.range 2048).all (fun o => rows.any (fun r => decide (r.1 ≤ blk + o) && decide (blk + o < r.1 + r.2)))

/-- The blocks of the tiers that rows touch, each once. -/
def tierBlocks (rows : List (Nat × Nat)) : List Nat :=
  (rows.flatMap (fun r => if inTier r.1 r.2 then blocksOf r.1 r.2 else [])).eraseDups

/-- The checks of R195 at acceptance, in order. In speculative mode a LOAD writes only the partition (R202). -/
def transferCheck (s : State) (c : CoreId) (store spec : Bool) (d : List Byte) : Option Nat :=
  let rows := srcRows d ++ dstRows d
  if tdEsize d = 3 ∨ tdRows d = 0 ∨ tdRBytes d = 0 ∨ (tdTrans d ∧ tdRBytes d % tdElem d ≠ 0) then some stInvalidShape
  else if rows.any touchesPriv then some stPrivFault
  else if rows.any (transferHidden s spec) then some stSpecHidden
  else if !((srcRows d).all (srcPlace s c store)) ∨ !((dstRows d).all (dstPlace s c store)) then some stInvalidAddress
  else if spec ∧ !((dstRows d).all (fun r => decide (partBase s c ≤ r.1) && decide (r.1 + r.2 ≤ scratchBase c + scratchSize))) then
    some stSpecForbidden
  else if store ∧ tdCheck d ∧ !((tierBlocks (dstRows d)).all (blockCovered (dstRows d))) then some stInvalidAddress
  else none

/-- The bytes of a source row; bytes of an escalated block are free (R271, step 3; log 6). -/
def rowBytes (s : State) (bad : List Nat) (r : Nat × Nat) : List Byte :=
  let bs := s.read r.1 r.2
  if bad.isEmpty then bs
  else bs.zipIdx.map (fun x =>
    if inTier (r.1 + x.2) 1 && bad.contains (blockOf (r.1 + x.2)) then BitVec.ofNat 8 (Config.free (s.fresh + x.2)) else x.1)

/-- The transpose of rows of elements of `es` bytes: row `j` of the answer holds element `j` of every row. -/
def transposeRows (es cols : Nat) (rows : List (List Byte)) : List (List Byte) :=
  (List.range cols).map (fun j => rows.flatMap (fun r => (r.drop (j * es)).take es))

/-- Rows written at their addresses, in order. -/
def writeRows (s : State) (rows : List ((Nat × Nat) × List Byte)) : State :=
  match rows with
  | [] => s
  | (r, bs) :: rest => writeRows (s.write r.1 bs) rest

/-- The data of a transfer written to its destination. -/
def placeData (s : State) (d : List Byte) (data : List (List Byte)) : State :=
  let data := if tdTrans d then transposeRows (tdElem d) (tdRBytes d / tdElem d) data else data
  writeRows s ((dstRows d).zip data)

/-- An engine of a core that CORE_DIS_CTL has closed (R209). -/
def engineClosed (s : State) (c : CoreId) (cls : Nat) : Bool :=
  match cls with
  | 1 => s.rb .CORE_DIS_CTL_MAT c.val
  | 2 => s.rb .CORE_DIS_CTL_MAT c.val
  | 3 => s.rb .CORE_DIS_CTL_VEC c.val
  | 4 => s.rb .CORE_DIS_CTL_LOAD c.val
  | 5 => s.rb .CORE_DIS_CTL_STORE c.val
  | _ => false

/-- The refusal of a command in speculative mode (R202): its class, or SETF. -/
def specRefuses (y : Ctx) (k : Cmd) : Bool := y.spec && (k.setf || [clDrain, clStore, clFabric, clFlag].contains k.cls)

/-- The acceptance of a command whose descriptor `check` examines (R185, R202, R209): a refused one completes with its
status. `f` continues with the state and the operation that entered the tracker. -/
def acceptChecked (s : State) (c : CoreId) (n : CtxId) (p : Cmd → Bool) (check : State → Cmd → Option Nat)
    (f : State → Op → State) : State :=
  match tryAccept s c n p with
  | (s, none) => s
  | (s, some k) =>
    let y := s.ctx c n
    if specRefuses y k then refuseSpec s c n k
    else if engineClosed s c k.cls then refuseInOrder s c n k stAbortedDisable
    else match descCheck s c k (fromRing y) y.spec with
      | some st => refuseInOrder (if st = stPrivFault then s.privFault else s) c n k st
      | none => match check s k with
        | some st =>
          if y.spec ∧ st = stSpecForbidden then refuseSpec s c n k
          else refuseInOrder (if st = stPrivFault then s.privFault else s) c n k st
        | none =>
          let o := opOf s c n k none
          f (enterOp s c n o) o

/-- Commands refused at acceptance that now stand first of their class complete (R189). -/
def drainRefused (s : State) (c : CoreId) (cls fuel : Nat) : State :=
  match fuel with
  | 0 => s
  | fuel + 1 =>
    match (s.core c).ops.find? (fun o => o.cls == cls) with
    | none => s
    | some o => match o.pre with
      | none => s
      | some st => drainRefused (completeOp s c o st 0) c cls fuel

/-- LOAD (R195): checked and accepted; its bytes move at TRANSFER_COMPLETE. -/
def execLoad (c : CoreId) (n : CtxId) (s : State) : Host.Outcome State Fault Refusal :=
  .next (acceptChecked s c n (fun k => k.cls == clLoad) (fun s k => transferCheck s c false (s.ctx c n).spec k.desc)
    (fun s _ => s))

/-- STORE (R195). -/
def execStore (c : CoreId) (n : CtxId) (s : State) : Host.Outcome State Fault Refusal :=
  .next (acceptChecked s c n (fun k => k.cls == clStore) (fun s k => transferCheck s c true (s.ctx c n).spec k.desc)
    (fun s _ => s))

/-- The bad blocks of a list. -/
def badBlocks (s : State) (blks : List Nat) : List Nat := blks.filter (fun b => !blockGood s b || blockInj s b == 2)

/-- A row read ahead, its bytes of the re-read blocks taken from memory (R200); those of an escalated block are free. -/
def rereadRow (s : State) (again esc : List Nat) (r : Nat × Nat) (data : List Byte) : List Byte :=
  if again.isEmpty then data
  else ((rowBytes s esc r).zip data).zipIdx.map (fun x =>
    if again.any (fun b => decide (b ≤ r.1 + x.2) && decide (r.1 + x.2 < b + 2048)) then x.1.1 else x.1.2)

/-- The blocks that a LOAD read ahead re-reads, without speculation, are verified (R200): the first mismatch of each is counted,
and a second escalates. The answer is the escalated ones. -/
def reverify (s : State) (c : CoreId) (spec : Bool) (again : List Nat) : State × List Nat :=
  let esc := badBlocks s again
  let s := again.foldl countCrc1 s
  (esc.foldl escalate (if again.isEmpty then s else countCore s c 0x01F again.length spec), esc)

/-- A LOAD's rows: from the run-ahead buffer if it was read ahead, else from memory (R199, R200); `esc` are its escalated
blocks. -/
def loadData (s : State) (x : CoreSt) (o : Op) (esc : List Nat) : List (List Byte) :=
  match x.runAhead.find? (fun r => r.ctx == o.ctx && r.idx == o.idx) with
  | some r => List.zipWith (rereadRow s r.bad esc) (srcRows o.desc) r.data
  | none => (srcRows o.desc).map (rowBytes s esc)

/-- The blocks of a LOAD with CHECK = 1 verified as it completes, of one read ahead those that mismatched: whether any
escalated, and the escalated ones (R200, R271). -/
def loadVerify (s : State) (c : CoreId) (o : Op) (badReads : Nat) : State × Bool × List Nat :=
  let blks := if tdCheck o.desc then tierBlocks (srcRows o.desc) else []
  match (s.core c).runAhead.find? (fun r => r.ctx == o.ctx && r.idx == o.idx) with
  | some r =>
    let v := reverify s c o.spec r.bad
    (v.1, !v.2.isEmpty, v.2)
  | none =>
    let v := verifyBlocks s blks badReads
    (v.1, v.2, badBlocks s blks)

/-- A LOAD completes (R196, R200, R271): its blocks are verified with CHECK = 1, its bytes are written, and RESULT counts
the blocks verified (R193). -/
def completeLoad (s : State) (c : CoreId) (o : Op) (badReads : Nat) : State :=
  let blks := if tdCheck o.desc then tierBlocks (srcRows o.desc) else []
  let v := loadVerify s c o badReads
  let t := placeData v.1.used o.desc (loadData s (s.core c) o v.2.2)
  let x := t.core c
  let t := t.setCore c { x with runAhead := x.runAhead.filter (fun r => !(r.ctx == o.ctx && r.idx == o.idx)) }
  completeOp t c o (if v.2.1 then stChecksum else stOK) blks.length

/-- A STORE completes (R196, R268): its bytes are written, and with CHECK = 1 the CRC of each block. -/
def completeStore (s : State) (c : CoreId) (o : Op) : State :=
  let data := (srcRows o.desc).map (rowBytes s [])
  let blks := if tdCheck o.desc then tierBlocks (dstRows o.desc) else []
  let s := writeCrcs (placeData s o.desc data) blks
  completeOp s c o stOK blks.length

/-- TRANSFER_COMPLETE (R196): the LOAD or STORE numbered `id` in its core ends; it waits while a memory it touches is
being initialised or cleared (R251, R266). -/
def execTransferComplete (c : CoreId) (id badReads : Nat) (s : State) : Host.Outcome State Fault Refusal :=
  match findOp (s.core c) id with
  | none => .next s
  | some o =>
    if (srcRows o.desc ++ dstRows o.desc).any (fun r => rangeBusy s r.1 r.2) then .next s
    else if o.cls = clLoad then .next (completeLoad s c o badReads)
    else if o.cls = clStore then .next (completeStore s c o)
    else .next s

/-! ### Run-ahead (R199, R200) -/

/-- The command of a context's ring at an index, if the ring holds it (R198). -/
def cmdAt (s : State) (y : Ctx) (i : Nat) : Option Cmd :=
  if y.opDesc.isNone ∧ i < y.plen then some (cmdOfWord s (s.read (y.ring + 16 * i) 16)) else none

/-- Bytes held in the run-ahead buffer of a core. -/
def runAheadBytes (x : CoreSt) : Nat := x.runAhead.foldl (fun a r => a + tdRows r.desc * tdRBytes r.desc) 0

/-- A row may be read ahead: the local tiers and glades, outside understory and privileged region (R199). -/
def aheadPlace (s : State) (r : Nat × Nat) : Bool :=
  (match regionOf r.1 r.2 with
    | some .hbm => true
    | some .lpddr => true
    | some (.glade _) => true
    | _ => false) &&
  !(touchesUnderstory s 0 r.1 r.2 || touchesUnderstory s 1 r.1 r.2)

/-- RUN_AHEAD_READ (R199): the `k`-th command after an unresolved COND, a LOAD with only LOADs before it, is read into the
buffer of 128 KiB if its data fits, unless its memory is being initialised (R266). A CRC mismatch is deferred, and counted only
when the LOAD is skipped or goes ahead (R200, R271). -/
def execRunAheadRead (c : CoreId) (n : CtxId) (k : Fin 16) (badReads : Nat) (s : State) :
    Host.Outcome State Fault Refusal :=
  let x := s.core c
  let y := s.ctx c n
  let i := y.ptr + k.val
  let loads := (List.range (k.val + 1)).all (fun j =>
    match cmdAt s y (y.ptr + j) with
    | some q => q.cls == clLoad
    | none => false)
  match y.cond, cmdAt s y i with
  | some _, some q =>
    let bytes := tdRows q.desc * tdRBytes q.desc
    if loads ∧ transferCheck s c false y.spec q.desc = none ∧ (srcRows q.desc).all (aheadPlace s) ∧ (srcRows q.desc).all (fun r => !rangeBusy s r.1 r.2) ∧
        runAheadBytes x + bytes ≤ 131072 ∧ !(x.runAhead.any (fun r => r.ctx == n && r.idx == i)) then
      let blks := if tdCheck q.desc then tierBlocks (srcRows q.desc) else []
      let bad := badBlocks s blks
      let first := if bad.isEmpty then blks.take (min badReads 1) else bad
      let r : RunAhead := ⟨n, i, q.desc, (srcRows q.desc).map (rowBytes s []), first⟩
      .next (s.setCore c { x with runAhead := x.runAhead ++ [r] })
    else .next s
  | _, _ => .next s

/-- Mismatches that were deferred, and are dropped (R200, R271). -/
def dropDeferred (s : State) (b : Nat) : State :=
  if lpddrBase ≤ b then s.incSat .LPX_ERR_STAT_DROP 1 (tierHalf b).val else s.incSat .HBM_ERR_STAT_DROP 1 (tierHalf b).val

/-- A LOAD read ahead and skipped is discarded; mismatches that it deferred are dropped and counted (R199, R200). -/
def dropAhead (s : State) (c : CoreId) (n : CtxId) (lo hi : Nat) : State :=
  let x := s.core c
  let gone := x.runAhead.filter (fun r => r.ctx == n && decide (lo ≤ r.idx) && decide (r.idx < hi))
  let bad := gone.flatMap RunAhead.bad
  let spec := (s.ctx c n).spec
  let s := bad.foldl dropDeferred (countCore (countCore s c 0x01D gone.length spec) c 0x01E bad.length spec)
  s.setCore c { s.core c with
    runAhead := x.runAhead.filter (fun r => !(r.ctx == n && decide (lo ≤ r.idx) && decide (r.idx < hi))) }

end Sys2Proof.Machine
end

