-- ==== Sys2Proof/Machine/Accum.lean ====
section
/-!
DEFINITION. Long accumulators: deposits, promotion and far form (R97 to R106), begins and releases (R107, R108), the tile
scoreboard (R109, R205), and the values of elements.
-/

namespace Sys2Proof.Machine

/-- The number of element (row, column) of a tile (R120). -/
def elemIdx (t r c : Nat) : Nat := (t * 128 + r) * 128 + c
/-- The tile of an element. -/
def elemTile (i : Nat) : Nat := i / 16384
/-- OWNER of a far entry (R103): the element's number, which is tile, row and column in that order. -/
abbrev elemOwner (i : Nat) : Nat := i

/-- The accumulator unit of a core. -/
def State.acc (s : State) (c : CoreId) : AccUnit := (s.core c).acc
/-- The state with the accumulator unit of a core replaced. -/
def State.setAcc (s : State) (c : CoreId) (a : AccUnit) : State := s.setCore c { s.core c with acc := a }
/-- An element of a core. -/
def State.elem (s : State) (c : CoreId) (i : Nat) : AccElem := aget (s.acc c).elems i AccElem.zero
/-- The state with an element replaced. -/
def State.setElem (s : State) (c : CoreId) (i : Nat) (e : AccElem) : State :=
  s.setAcc c { s.acc c with elems := aset (s.acc c).elems i e }
/-- A tile of a core. -/
def State.tile (s : State) (c : CoreId) (t : Nat) : TileSt := aget (s.acc c).tiles t TileSt.reset
/-- The state with a tile replaced. -/
def State.setTile (s : State) (c : CoreId) (t : Nat) (x : TileSt) : State :=
  s.setAcc c { s.acc c with tiles := aset (s.acc c).tiles t x }

/-- Bits [639 : top] of V are all equal. -/
def topEqual (v : Int) (top : Nat) : Bool := decide (-(2 ^ top : Int) ≤ v) && decide (v < 2 ^ top)
/-- V fits anchor a (R99). -/
def fitsAnchor (v : Int) (a : Nat) : Bool := topEqual v (32 * a + 239) && v % 2 ^ (32 * a) == 0
/-- V fits anchor a with headroom (R99). -/
def fitsHeadroom (v : Int) (a : Nat) : Bool := fitsAnchor v a && topEqual v (32 * a + 207)

/-- The anchor that the placement steps of R100 choose, if any fits. -/
def placeAnchor (v : Int) : Option Nat :=
  match (List.range 13).find? (fitsHeadroom v) with
  | some a => some a
  | none => (List.range 13).find? (fitsAnchor v)

/-- The local address of glade overflow slot `i` of a half (R121). -/
def ovfSlot (s : State) (h : HalfId) (i : Nat) : Nat := s.rf .ACC_OVF_BASE_BASE h.val + 128 * i

/-- The slots of the glade overflow region that can be used: none unless BASE is 128-byte aligned inside the glade, and of SLOTS
those that lie inside it (R104, R121; log 132). -/
def ovfSlots (s : State) (h : HalfId) : Nat :=
  let b := s.rf .ACC_OVF_BASE_BASE h.val
  if b % 128 = 0 ∧ regionOf b 128 = some (.glade h) then
    min (s.rf .ACC_OVF_CFG_SLOTS h.val) ((gladeBase h + gladeSize - b) / 128)
  else 0

/-- The lowest-numbered free glade overflow slot of a half (R104). -/
def freeSlot (s : State) (h : HalfId) : Option Nat :=
  let used := (s.half h).ovf
  (List.range (min (ovfSlots s h) (used.length + 1))).find? (fun i => (aget? used i).isNone)

/-- The lowest-numbered free entry of a core's spill table (R101). -/
def freeSpill (a : AccUnit) : Option Nat :=
  (List.range (min 1024 (a.spill.length + 1))).find? (fun i => (aget? a.spill i).isNone)

/-- ACC_SPILL_STAT after a change of the spill table. -/
def spillStat (s : State) (c : CoreId) : State :=
  let u := (s.acc c).spill.length
  ((s.wf .ACC_SPILL_STAT_USED u c.val).wf .ACC_SPILL_STAT_FULL (b2n (u == 1024)) c.val).wf .ACC_SPILL_STAT_HIGH
    (max (s.rf .ACC_SPILL_STAT_HIGH c.val) u) c.val

/-- ACC_OVF_STAT after a change of the overflow region. -/
def ovfStat (s : State) (h : HalfId) : State :=
  let u := (s.half h).ovf.length
  (s.wf .ACC_OVF_STAT_USED u h.val).wf .ACC_OVF_STAT_HIGH (max (s.rf .ACC_OVF_STAT_HIGH h.val) u) h.val

/-- The 128 bytes of a glade overflow slot (R103). -/
def slotBytes (v : LVal) (owner : Nat) : List Byte :=
  natLE 80 (ofSigned 640 v.l) ++ natLE 1 v.sc ++ natLE 2 owner ++ natLE 1 1 ++ natLE 44 0

/-- The value that a glade overflow slot holds. -/
def slotValue (s : State) (a : Nat) : LVal := ⟨s.readN (a + 0x50) 1, toSigned 640 (s.readN a 80)⟩

/-- The value of an element (R97, R101). -/
def elemValue (s : State) (c : CoreId) (i : Nat) : LVal :=
  let e := s.elem c i
  if e.anchor = 255 then
    if e.loc then ⟨e.sc, (slotValue s (ovfSlot s (halfOfCore c) e.idx)).l⟩
    else ⟨e.sc, (aget (s.acc c).spill e.idx ⟨0, 0, 0⟩).l⟩
  else ⟨e.sc, e.w * 2 ^ (32 * e.anchor)⟩

/-- An ANCHOR value that no operation produces (R98). -/
def elemCorrupt (e : AccElem) : Bool := decide (13 ≤ e.anchor) && decide (e.anchor ≤ 254)

/-- A hardware error of a core (R98, R250, R255): source 256 + c of its half, c being the core's number there. -/
def coreError (s : State) (c : CoreId) : State := raiseIrq s (halfOfCore c) (256 + c.val % 40)

/-- What a deposit came to. -/
inductive DepRes where
  | done
  | exhausted
  | corrupt
  deriving DecidableEq, Repr

/-- An event of an element counted; those of a shadow tile are a speculation's (R204, R514). -/
def countElem (s : State) (c : CoreId) (i ev : Nat) : State := countCore s c ev 1 (s.tile c (elemTile i)).shadow

/-- A far value written to the entry of an element (R103). -/
def writeFar (s : State) (c : CoreId) (i : Nat) (v : LVal) : State :=
  let e := s.elem c i
  if e.loc then s.write (ovfSlot s (halfOfCore c) e.idx) (slotBytes v (elemOwner i))
  else s.setAcc c { s.acc c with spill := aset (s.acc c).spill e.idx ⟨v.l, v.sc, elemOwner i⟩ }

/-- A far element's exact sum written to its entry (R103); outside the range of R62 OVF is set and the value bits are free
(R63; log 7). -/
def farAdd (s : State) (c : CoreId) (i : Nat) (d : Int) (sc : Nat) : State :=
  let e := s.elem c i
  let v := (elemValue s c i).add ⟨sc, d⟩ (toSigned 640 (s.freeVal % 2 ^ 640))
  writeFar (countElem (s.used.setElem c i { e with sc := v.sc }) c i (if e.loc then 0x00C else 0x00A)) c i v

/-- Promotion of an element whose new value is `v` (R101, R104). -/
def promote (s : State) (c : CoreId) (i : Nat) (v : LVal) : State × DepRes :=
  match freeSpill (s.acc c) with
  | some j =>
    let a := s.acc c
    let s := s.setAcc c { a with
      spill := aset a.spill j ⟨v.l, v.sc, elemOwner i⟩, elems := aset a.elems i ⟨255, v.sc, 0, false, j⟩ }
    (spillStat (countElem s c i 0x008) c, .done)
  | none =>
    let h := halfOfCore c
    match freeSlot s h with
    | none => (s, .exhausted)
    | some j =>
      let s := s.setElem c i ⟨255, v.sc, 0, true, j⟩
      let s := s.setHalf h { s.half h with ovf := aset (s.half h).ovf j (c, i) }
      (ovfStat ((countElem s c i 0x009).write (ovfSlot s h j) (slotBytes v (elemOwner i))) h, .done)

/-- A deposit of D with sidecar bits into an element (R100). -/
def deposit (s : State) (c : CoreId) (i : Nat) (d : Int) (sc : Nat) : State × DepRes :=
  let e := s.elem c i
  if elemCorrupt e then (coreError s c, .corrupt)
  else if e.anchor = 255 then
    (farAdd s c i d sc, .done)
  else if d = 0 then (s.setElem c i { e with sc := e.sc ||| sc }, .done)
  else
    let v := (elemValue s c i).add ⟨sc, d⟩ 0
    if !longInRange ((elemValue s c i).l + d) then
      -- R63: OVF, and the window bits are free (log 7)
      (s.used.setElem c i { e with sc := v.sc, w := toSigned 240 (s.freeVal % 2 ^ 240) }, .done)
    else if e.w ≠ 0 ∧ fitsAnchor v.l e.anchor then
      (s.setElem c i { e with sc := v.sc, w := v.l / 2 ^ (32 * e.anchor) }, .done)
    else match placeAnchor v.l with
      | some a =>
        let s := if e.w = 0 then s else countElem s c i 0x007
        (s.setElem c i ⟨a, v.sc, v.l / 2 ^ (32 * a), false, 0⟩, .done)
      | none => promote s c i v

/-- Far entries of a tile freed (R107): its spill entries, and its glade slots, whose VALID bits become 0. -/
def freeFar (s : State) (c : CoreId) (t : Nat) : State :=
  let h := halfOfCore c
  let a := s.acc c
  let s := s.setAcc c { a with spill := a.spill.filter (fun kv => elemTile kv.2.owner != t) }
  let gone := (s.half h).ovf.filter (fun kv => kv.2.1 == c && elemTile kv.2.2 == t)
  let s := gone.foldl (fun s kv => s.write (ovfSlot s h kv.1 + 0x53) [0]) s
  let s := s.setHalf h { s.half h with ovf := (s.half h).ovf.filter (fun kv => !(kv.2.1 == c && elemTile kv.2.2 == t)) }
  ovfStat (spillStat s c) h

/-- The core is the even core of an active pair. -/
def pairHead (s : State) (c : CoreId) : Bool := inPair s c && c.val % 2 == 0

/-- Every element of a tile at +0 with an empty sidecar, its far entries freed (R107, R108). -/
def clearTile (s : State) (c : CoreId) (t : Nat) : State :=
  let s := freeFar s c t
  let a := s.acc c
  let s := s.setAcc c { a with elems := adrop a.elems (fun i => elemTile i == t) }
  s.setTile c t { s.tile c t with exh := false }

/-- The part of a tile in one core released. -/
def releasePart (s : State) (c : CoreId) (t : Nat) : State :=
  let s := clearTile s c t
  s.setTile c t { s.tile c t with released := true, shadow := false }

/-- A tile released, with the part of it that the odd core of a pair holds (R108). -/
def releaseTile (s : State) (c : CoreId) (t : Nat) : State :=
  let s := releasePart s c t
  if pairHead s c then releasePart s (pairMate c) t else s

/-- NAN_IN set in an element whose value bits become undefined: its WIN, or the L of its far entry, is free, and it keeps its ANCHOR
(R549; log 7). -/
def poisonElem (s : State) (c : CoreId) (i : Nat) : State :=
  let e := s.elem c i
  let sc := e.sc ||| scNanIn
  let u := s.freeVal
  if e.anchor = 255 then writeFar (s.used.setElem c i { e with sc := sc }) c i ⟨sc, toSigned 640 (u % 2 ^ 640)⟩
  else s.used.setElem c i { e with sc := sc, w := toSigned 240 (u % 2 ^ 240) }

/-- The part of a tile in one core poisoned (R105, R210). -/
def poisonPart (s : State) (c : CoreId) (t : Nat) : State :=
  (List.range 16384).foldl (fun s j => poisonElem s c (t * 16384 + j)) s

/-- NAN_IN set in every element of a tile, of both cores of a pair (R105, R210). -/
def poisonTile (s : State) (c : CoreId) (t : Nat) : State :=
  let s := poisonPart s c t
  if inPair s c then poisonPart s (pairMate c) t else s

/-! ### The tile scoreboard (R108, R109) -/

/-- The classes of R108 that the scoreboard orders. -/
inductive TileClass where
  | add | begin | read | release
  deriving DecidableEq, Repr

abbrev mdTile (d : List Byte) : Nat := dfld d 0x00 1 0
abbrev mdBegin (d : List Byte) : Bool := dbit d 0x00 2
abbrev ddTile (d : List Byte) : Nat := dfld d 0x00 1 0
abbrev ddRelease (d : List Byte) : Bool := dbit d 0x00 2

/-- OP code of EXDEP (R153). -/
abbrev vopExdep : Nat := 0x80

/-- The tile and class of an operation, if it acts on a tile; an EXDEP deposits from DST on (R159). -/
def tileUse (c : CoreId) (o : Op) : Option (Nat × TileClass) :=
  if o.pre.isSome ∧ !o.started then none
  else if o.cls = clMat then some (mdTile o.desc, if mdBegin o.desc then .begin else .add)
  else if o.cls = clDrain then some (ddTile o.desc, if ddRelease o.desc then .release else .read)
  else if o.cls = clVec ∧ dfld o.desc 0 7 0 = vopExdep then
    some ((dfld o.desc 0x20 63 0 - accBase c) / (16384 * 32), .add)
  else none

/-- Whether a later operation of class `y` waits for an earlier one of class `x` (R109); `cleared` says that an earlier
begin has passed its clear point. -/
def tileWaits (x y : TileClass) (cleared : Bool) : Bool :=
  match x, y with
  | .add, .add => false
  | .begin, .add => !cleared
  | .read, .read => false
  | _, _ => true

/-- The run of a matrix operation in a core. -/
def findRun (x : CoreSt) (num : Nat) : Option MatRun := x.mats.find? (fun r => r.num == num)
/-- A run replaced. -/
def putRun (x : CoreSt) (r : MatRun) : CoreSt := { x with mats := x.mats.map (fun q => if q.num = r.num then r else q) }

/-- An earlier begin has passed its clear point. -/
def begunClear (x : CoreSt) (num : Nat) : Bool :=
  match findRun x num with
  | some r => r.cleared
  | none => false

/-- The scoreboard lets an operation start on its tile, or a begin take its clear point (R109); a Begin, Read or Release
of the TARGET of an unresolved speculation waits (R205). -/
def tileReady (s : State) (c : CoreId) (o : Op) : Bool :=
  let x := s.core c
  match tileUse c o with
  | none => true
  | some (t, y) =>
    x.ops.all (fun p => !decide (p.num < o.num) ||
      (match tileUse c p with
        | some (t', y') => !(t' == t && tileWaits y' y (begunClear x p.num))
        | none => true)) &&
    (y == .add || (match x.spec with
      | some z => !(z.target == t) || o.spec
      | none => true))

end Sys2Proof.Machine
end

