-- ==== Sys2Proof/Machine/Digest.lean ====
section
/-!
DEFINITION. SM3 (GB/T 32905; log 13) and the digests of R393.
-/

namespace Sys2Proof.Machine

/-- A 32-bit word rotated left by `k` below 32. -/
def rol32 (x k : Nat) : Nat := (x * 2 ^ k % 2 ^ 32) + x / 2 ^ (32 - k)

/-- P0 of SM3. -/
def sm3P0 (x : Nat) : Nat := x ^^^ rol32 x 9 ^^^ rol32 x 17
/-- P1 of SM3. -/
def sm3P1 (x : Nat) : Nat := x ^^^ rol32 x 15 ^^^ rol32 x 23

/-- The number that bytes spell in big-endian order. -/
def beNat (bs : List Byte) : Nat := bs.foldl (fun n b => n * 256 + b.toNat) 0
/-- The `n` bytes that spell `v` in big-endian order. -/
def natBE (n v : Nat) : List Byte := (natLE n v).reverse

/-- The message words of a block extended to `n` more, the last word first. -/
def sm3Words (n : Nat) (ws : List Nat) : List Nat :=
  match n with
  | 0 => ws
  | n + 1 =>
    let w := fun i => ws.getD (i - 1) 0
    sm3Words n ((sm3P1 (w 16 ^^^ w 9 ^^^ rol32 (w 3) 15) ^^^ rol32 (w 13) 7 ^^^ w 6) :: ws)

/-- The eight words of the chaining value. -/
structure Sm3 where
  a : Nat
  b : Nat
  c : Nat
  d : Nat
  e : Nat
  f : Nat
  g : Nat
  h : Nat
  deriving DecidableEq, Repr

/-- The initial value of SM3. -/
def sm3Init : Sm3 :=
  ⟨0x7380166F, 0x4914B2B9, 0x172442D7, 0xDA8A0600, 0xA96F30BC, 0x163138AA, 0xE38DEE4D, 0xB0FB0E4E⟩

/-- Round `j` of SM3 with words `w` and `w'`. -/
def sm3Round (j w w' : Nat) (v : Sm3) : Sm3 :=
  let t := if j < 16 then 0x79CC4519 else 0x7A879D8A
  let r := rol32 v.a 12
  let s1 := rol32 ((r + v.e + rol32 t (j % 32)) % 2 ^ 32) 7
  let ff := if j < 16 then v.a ^^^ v.b ^^^ v.c else (v.a &&& v.b) ||| (v.a &&& v.c) ||| (v.b &&& v.c)
  let gg := if j < 16 then v.e ^^^ v.f ^^^ v.g else (v.e &&& v.f) ||| ((0xFFFFFFFF ^^^ v.e) &&& v.g)
  let t1 := (ff + v.d + (s1 ^^^ r) + w') % 2 ^ 32
  let t2 := (gg + v.h + s1 + w) % 2 ^ 32
  ⟨t1, v.a, rol32 v.b 9, v.c, sm3P0 t2, v.e, rol32 v.f 19, v.g⟩

/-- The rounds of SM3 over the words of a block, from round `j` on. -/
def sm3Rounds (n j : Nat) (ws : List Nat) (v : Sm3) : Sm3 :=
  match n, ws with
  | n + 1, w :: rest => sm3Rounds n (j + 1) rest (sm3Round j w (w ^^^ rest.getD 3 0) v)
  | _, _ => v

/-- The 16 words of a block of 64 bytes. -/
def sm3Block (bs : List Byte) : List Nat := (List.range 16).map (fun i => beNat ((bs.drop (4 * i)).take 4))

/-- Compression of one block. -/
def sm3Compress (v : Sm3) (bs : List Byte) : Sm3 :=
  let ws := (sm3Words 52 (sm3Block bs).reverse).reverse
  let x := sm3Rounds 64 0 ws v
  ⟨x.a ^^^ v.a, x.b ^^^ v.b, x.c ^^^ v.c, x.d ^^^ v.d, x.e ^^^ v.e, x.f ^^^ v.f, x.g ^^^ v.g, x.h ^^^ v.h⟩

/-- Blocks compressed in turn. -/
def sm3Blocks (fuel : Nat) (v : Sm3) (bs : List Byte) : Sm3 :=
  match fuel with
  | 0 => v
  | fuel + 1 => if bs.isEmpty then v else sm3Blocks fuel (sm3Compress v (bs.take 64)) (bs.drop 64)

/-- SM3 of bytes: 32 bytes. -/
def sm3 (bs : List Byte) : List Byte :=
  let n := bs.length
  let pad := bs ++ [0x80] ++ List.replicate ((119 - n % 64) % 64) 0 ++ natBE 8 (8 * n)
  let v := sm3Blocks (n / 64 + 2) sm3Init pad
  [v.a, v.b, v.c, v.d, v.e, v.f, v.g, v.h].flatMap (natBE 4)

/-- `prefix` of R393. -/
def dgPrefix (kind level v : Nat) : List Byte := natLE 1 kind ++ natLE 1 level ++ natLE 6 0 ++ natLE 8 v

/-- Bytes cut into pieces of `k`. -/
def cutPieces (fuel k : Nat) (bs : List Byte) : List (List Byte) :=
  match fuel with
  | 0 => []
  | fuel + 1 => if bs.isEmpty then [] else bs.take k :: cutPieces fuel k (bs.drop k)

/-- DG of R393: 64 bits. -/
def digest (kind : Nat) (bs : List Byte) : Nat :=
  let n := bs.length
  let leaves := if n = 0 then [[]] else cutPieces (n / 4096 + 1) 4096 bs
  let h := leaves.zipIdx.flatMap (fun x => sm3 (dgPrefix kind 0 x.2 ++ x.1))
  let gs := (cutPieces (h.length / 8192 + 1) 8192 h).zipIdx.flatMap (fun x => sm3 (dgPrefix kind 1 x.2 ++ x.1))
  leNat ((sm3 (dgPrefix kind 2 n ++ gs)).take 8)

/-- 64-byte blocks that the digest engine hashes for `n` bytes of data (R395). -/
def digestBlocks (n : Nat) : Nat :=
  let leaf := fun k => (16 + k + 9 + 63) / 64
  let full := n / 4096
  full * leaf 4096 + (if n % 4096 = 0 ∧ n ≠ 0 then 0 else leaf (n % 4096))

end Sys2Proof.Machine
end

