-- ==== Sys2Proof/Machine/Draw.lean ====
section
/-!
DEFINITION. The random streams (R171 to R175) and the coordinates of vector elements (R152).
-/

namespace Sys2Proof.Machine

/-- `mix` of R171. -/
def mix (v : Nat) : Nat :=
  let v := (v ^^^ v / 2 ^ 29) * 0x9A3F61C5D28E4B17 % 2 ^ 64
  let v := (v ^^^ v / 2 ^ 32) * 0xE5B107A93C6DF2A3 % 2 ^ 64
  v ^^^ v / 2 ^ 29

/-- `draw` of R171: 32 bits. -/
def draw (seed stream step mb row col d : Nat) : Nat :=
  let h := mix (seed ^^^ stream * 2 ^ 48 % 2 ^ 64 ^^^ d * 2 ^ 40 % 2 ^ 64)
  let h := mix (h ^^^ step * 2 ^ 32 % 2 ^ 64 ^^^ mb)
  mix (h ^^^ row * 2 ^ 32 % 2 ^ 64 ^^^ col) / 2 ^ 32

/-- The draw of an operation of core `c` at a place: the seed is that of the core's half, STEP and MB those captured at
acceptance (R172). -/
def opDraw (s : State) (c : CoreId) (o : Op) (stream row col d : Nat) : Nat :=
  draw (s.rf .VEC_RNG_SEED_SEED (halfOfCore c).val) stream o.step o.mb (row % 2 ^ 32) (col % 2 ^ 32) d

/-- A place that a drain or a vector operation may name: the core's own scratchpad, or the glade of its half
(R112, R158). -/
def localPlace (c : CoreId) (a len : Nat) : Bool :=
  len == 0 || (match regionOf a len with
    | some (.scratch d) => d == c
    | some (.glade h) => h == halfOfCore c
    | _ => false)

/-- A range touches an understory (R248). -/
def hiddenRange (s : State) (a len : Nat) : Bool :=
  len != 0 && (touchesUnderstory s 0 a len || touchesUnderstory s 1 a len)

/-- A range that is read touches the speculative partition that this core holds (R204). -/
def partitionRead (s : State) (c : CoreId) (a len : Nat) : Bool := len != 0 && touchesPartition s c a len

end Sys2Proof.Machine
end

