-- ==== Sys2Proof/Machine/Matrix.lean ====
section
/-!
DEFINITION. The matrix array: descriptors and their checks (R123 to R129), stationary loading and the tag (R131 to R133,
R150), k-slices (R78 to R92, R139 to R141), pair mode (R143 to R147), and the events of a matrix operation.
-/

namespace Sys2Proof.Machine

/-! ### The matrix descriptor (R124) -/

abbrev mdAfmt (d : List Byte) : Nat := dfld d 0x00 5 3
abbrev mdBfmt (d : List Byte) : Nat := dfld d 0x00 8 6
abbrev mdFp32p (d : List Byte) : Nat := dfld d 0x00 10 9
abbrev mdATrans (d : List Byte) : Bool := dbit d 0x00 11
abbrev mdBTrans (d : List Byte) : Bool := dbit d 0x00 12
abbrev mdKeepB (d : List Byte) : Bool := dbit d 0x00 13
abbrev mdM (d : List Byte) : Nat := dfld d 0x04 6 0 + 1
abbrev mdN (d : List Byte) : Nat := dfld d 0x04 15 8 + 1
abbrev mdK (d : List Byte) : Nat := dfld d 0x08 23 0
abbrev mdAOff (d : List Byte) : Nat := dfld d 0x0C 21 0
abbrev mdBOff (d : List Byte) : Nat := dfld d 0x10 21 0
abbrev mdLda (d : List Byte) : Nat := dfld d 0x14 21 0
abbrev mdLdb (d : List Byte) : Nat := dfld d 0x18 21 0
abbrev mdAScl (d : List Byte) : Nat := dfld d 0x1C 21 0
abbrev mdBScl (d : List Byte) : Nat := dfld d 0x20 21 0
abbrev mdAss (d : List Byte) : Nat := dfld d 0x24 15 0
abbrev mdBss (d : List Byte) : Nat := dfld d 0x24 31 16
abbrev mdKOff (d : List Byte) : Nat := dfld d 0x30 31 0
abbrev mdRowOff (d : List Byte) : Nat := dfld d 0x34 31 0
abbrev mdColOff (d : List Byte) : Nat := dfld d 0x38 31 0

/-- The element size in bytes of a format; FP4 packs two to a byte and has none. -/
def elemBytes (code : Nat) : Nat :=
  match code with
  | 0 => 4
  | 1 => 2
  | 2 => 2
  | _ => 1

/-! ### Pairs (R143, R144) -/

/-- The core that issues for this one: the even core of its pair, or itself (R143). -/
def matHome (s : State) (c : CoreId) : CoreId := if inPair s c then Fin.ofNat 80 (c.val / 2 * 2) else c
/-- The core whose array and scratchpad serve a column: the odd core of a pair from column 128 on (R144). -/
def colCore (c : CoreId) (col : Nat) : CoreId := if 128 ≤ col then Fin.ofNat 80 (c.val + 1) else c

/-! ### Checks (R125, R126, R129) -/

/-- The formats break R125 or R126. -/
def matFormatsBad (d : List Byte) : Bool :=
  let a := mdAfmt d
  let b := mdBfmt d
  decide (6 ≤ a) || decide (6 ≤ b) ||
  !(a == b || (a == 3 && b == 4) || (a == 4 && b == 3)) ||
  (mdFp32p d != 0 && !(a == 0 && b == 0)) || mdFp32p d == 3

/-- The offset past the last byte of an operand of `rows` by `k` elements, or by `n` where it is stored with k down the
rows (R127). -/
def operandEnd (off ld code rows k : Nat) (kDown : Bool) : Nat :=
  let kb := if code = 5 then k / 2 else k
  if kDown then off + (kb - 1) * ld + rows * elemBytes code
  else off + (rows - 1) * ld + kb * elemBytes code

/-- The offset past the last byte of a scale array (R128). -/
def scaleEnd (off ss rows k : Nat) (kDown : Bool) : Nat :=
  if kDown then off + (k / 32 - 1) * ss + rows else off + (rows - 1) * ss + k / 32

/-- The largest offset that the operands of an operation reach, plus one (R127, R128, R144). -/
def matEnd (d : List Byte) : Nat :=
  let n := min 128 (mdN d)
  let a := operandEnd (mdAOff d) (mdLda d) (mdAfmt d) (mdM d) (mdK d) (mdATrans d)
  let b := operandEnd (mdBOff d) (mdLdb d) (mdBfmt d) n (mdK d) (!mdBTrans d)
  let sc := if mdAfmt d = 5 then
      max (scaleEnd (mdAScl d) (mdAss d) (mdM d) (mdK d) (mdATrans d))
        (scaleEnd (mdBScl d) (mdBss d) n (mdK d) (!mdBTrans d))
    else 0
  max (max a b) sc

/-- EXC_ADDR is placed as R129 asks. -/
def excPlace (c : CoreId) (a : Nat) : Bool :=
  a == 0 || (a % 32 == 0 && (match regionOf a 32 with
    | some (.scratch x) => x == c
    | some (.glade h) => h == halfOfCore c
    | _ => false))

/-- The checks of R126, in order; in speculative mode TILE must equal TARGET (R202), and outside it the operands lie
outside a speculative partition (R204). -/
def matCheck (s : State) (c : CoreId) (n : CtxId) (k : Cmd) : Option Nat :=
  let d := k.desc
  if mdTile d = 3 then some stInvalidTile
  else if matFormatsBad d then some stInvalidFormat
  else if mdK d = 0 ∨ (mdAfmt d = 5 ∧ mdK d % 32 ≠ 0) ∨ (128 < mdN d ∧ !pairHead s c) then some stInvalidShape
  else if mdAOff d % 64 ≠ 0 ∨ mdBOff d % 64 ≠ 0 ∨ mdLda d % 64 ≠ 0 ∨ mdLdb d % 64 ≠ 0 ∨
      !excPlace c (mdExcAddr d) ∨ scratchSize < matEnd d then some stInvalidAddress
  else match (s.core c).spec with
    | none => none
    | some z =>
      if (s.ctx c n).spec then (if mdTile d = z.target then none else some stSpecForbidden)
      else if partBase s c < scratchBase c + matEnd d then some stSpecHidden
      else none

/-! ### Operand elements (R127, R128, R139) -/

/-- The element code of an operand at row `i` (m or n) and contraction index `k`; FP4 codes carry their scale byte above
bit 32. -/
def operandCode (s : State) (c : CoreId) (code off ld scl ss : Nat) (kDown : Bool) (i k : Nat) : Nat :=
  let base := scratchBase c
  if code = 5 then
    let a := if kDown then off + k / 2 * ld + i else off + i * ld + k / 2
    let x := s.readN (base + a) 1
    let e := if k % 2 = 0 then x % 16 else x / 16
    let j := k / 32
    e + 2 ^ 32 * s.readN (base + (if kDown then scl + j * ss + i else scl + i * ss + j)) 1
  else
    let b := elemBytes code
    s.readN (base + (if kDown then off + k * ld + i * b else off + i * ld + k * b)) b

/-- The value of an element code. -/
def codeValue (code v : Nat) : FVal :=
  match fmtOf code with
  | none => .nan
  | some f => if code = 5 then fp4Scaled (v % 16) (v / 2 ^ 32) else f.decode v

/-- The pieces hi, mid and lo of a finite FP32 value (R139): M24 is the significand, and the value is M24 × 2^exp. -/
def fp32Piece (v : FVal) (i : Nat) : FVal :=
  match v with
  | .fin neg m e =>
    let w := match i with
      | 0 => m / 65536 % 256
      | 1 => m / 256 % 256
      | _ => m % 256
    .fin neg w (e + 16 - 8 * i)
  | _ => .fin false 0 0

/-- The sweeps of a k-block: the pieces of A and of B (R140); one whole sweep for other formats. -/
def sweeps (d : List Byte) : List (Nat × Nat) :=
  if mdAfmt d ≠ 0 then [(0, 0)]
  else match mdFp32p d with
    | 0 => [(0, 0)]
    | 1 => [(0, 0), (0, 1), (1, 0)]
    | _ => [(0, 0), (0, 1), (1, 0), (1, 1), (0, 2), (2, 0)]

/-! ### A k-slice (R82 to R86) -/

/-- The outcome of one product (R82). -/
inductive Prod where
  | nan
  | invalid
  | inf (neg : Bool)
  | zero
  | val (p : Int) (h q : Int)
  deriving DecidableEq, Repr

/-- The trailing zeros of a positive number, at most `fuel`. -/
def trailingZeros (fuel v : Nat) : Nat :=
  match fuel with
  | 0 => 0
  | fuel + 1 => if v % 2 = 1 then 0 else trailingZeros fuel (v / 2) + 1

/-- The product of two finite values, as a signed multiple of 2⁻³²⁰, with its leading and lowest set bits (R81). -/
def finProd (na : Bool) (ma : Nat) (ea : Int) (nb : Bool) (mb : Nat) (eb : Int) : Prod :=
  if ma = 0 ∨ mb = 0 then .zero
  else
    let p := ma * mb
    let pos := ea + eb + 320
    let v : Int := shiftInt p pos
    .val (if na != nb then -v else v) (pos + Nat.log2 p) (pos + trailingZeros 64 p)

/-- A pair of operands classified (R82). -/
def classify (a b : FVal) : Prod :=
  match a, b with
  | .nan, _ => .nan
  | _, .nan => .nan
  | .inf x, .inf y => .inf (x != y)
  | .inf x, .fin n m _ => if m = 0 then .invalid else .inf (x != n)
  | .fin n m _, .inf x => if m = 0 then .invalid else .inf (x != n)
  | .fin na ma ea, .fin nb mb eb => finProd na ma ea nb mb eb

/-- A product of one sweep (R139 to R141): NaN, infinite and zero FP32 operands are classified in the hi·HI sweep on the
values themselves, and every later sweep takes their pieces as zero. -/
def sweepProd (fp32 : Bool) (sw : Nat × Nat) (a b : FVal) : Prod :=
  if !fp32 then classify a b
  else match a, b with
    | .fin _ _ _, .fin _ _ _ => classify (fp32Piece a sw.1) (fp32Piece b sw.2)
    | _, _ => if sw = (0, 0) then classify a b else .zero

/-- What a k-slice gives: its sidecar bits, its window sum as a deposit, the diverted products, and whether it has an anchor
(R83, R84, R90). -/
structure Slice where
  sc : Nat
  d : Int
  diverted : List Int
  anchored : Bool
  deriving DecidableEq, Repr

/-- The sidecar bit of a product. -/
def prodSc (p : Prod) : Nat :=
  match p with
  | .nan => scNanIn
  | .invalid => scNanInv
  | .inf neg => if neg then scNInf else scPInf
  | _ => 0

/-- The anchor E of a slice (R83). -/
def sliceAnchor (ps : List Prod) : Option Int :=
  ps.foldl (fun m p => match p with
    | .val _ h _ => match m with
      | none => some h
      | some e => some (max e h)
    | _ => m) none

/-- A k-slice (R82 to R84, R86, R90). -/
def kSlice (ps : List Prod) : Slice :=
  let sc := ps.foldl (fun a p => a ||| prodSc p) 0
  match sliceAnchor ps with
  | none => ⟨sc, 0, [], false⟩
  | some e =>
    let d := ps.foldl (fun a p => match p with
      | .val v _ q => if e - 87 ≤ q then a + v else a
      | _ => a) 0
    ⟨sc, d, ps.filterMap (fun p => match p with
      | .val v _ q => if e - 87 ≤ q then none else some v
      | _ => none), true⟩

/-- The exceptions of a slice's products, for row `m`, column `n`, from contraction index `k` on (R92). -/
def sliceExc (d : List Byte) (ps : List Prod) (m n k : Nat) : Exc :=
  ps.zipIdx.foldl (fun e x => match x.1 with
    | .invalid => { e with
        first := excFirst e.first (some (k + x.2 + mdKOff d, m + mdRowOff d, n + mdColOff d)), inv := e.inv + 1 }
    | .inf _ => { e with inf := e.inf + 1 }
    | _ => e) excZero

/-! ### Acceptance (row MAT) -/

/-- TILE of a matrix operation in speculative mode is redirected to SHADOW (R202). -/
def redirectMat (s : State) (c : CoreId) (o : Op) : Op :=
  match (s.core c).spec with
  | some z => if o.spec then { o with desc := setDfld o.desc 0x00 4 1 0 z.shadow } else o
  | none => o

/-- OPS of MAT_STAT, and PAIRED (R149). -/
def matStat (s : State) (c : CoreId) : State :=
  (s.wf .MAT_STAT_OPS ((s.core c).ops.filter (fun o => o.cls == clMat)).length c.val).wf .MAT_STAT_PAIRED
    (b2n (pairHead s c)) c.val

/-- The class that a pending operation gives its tile: released no more once an Add or Begin is accepted (R108). -/
def useTile (s : State) (c : CoreId) (t : Nat) : State := s.setTile c t { s.tile c t with released := false }

/-- MAT (R126): checked and accepted. -/
def execMat (c : CoreId) (n : CtxId) (s : State) : Host.Outcome State Fault Refusal :=
  .next (acceptChecked s c n (fun k => k.cls == clMat) (fun s k => matCheck s c n k) (fun s o =>
    let o := redirectMat s c o
    let x := putOp (s.core c) o
    let s := s.setCore c { x with mats := x.mats ++ [⟨o.num, false, 0, 0, false, excZero, none⟩] }
    matStat (useTile s c (mdTile o.desc)) c))

/-- BEGIN_CLEAR_POINT (R107, R109): the first matrix operation with BEGIN = 1 that has not passed its clear point passes
it once the scoreboard allows; the tile becomes +0 and its far entries are freed, in both cores of a pair. -/
def beginClearPoint (c : CoreId) (s : State) : State :=
  let x := s.core c
  match x.ops.find? (fun o => o.cls == clMat && o.pre.isNone && mdBegin o.desc && !begunClear x o.num) with
  | none => s
  | some o =>
    if tileReady s c o then
      let t := mdTile o.desc
      let s := clearTile s c t
      let s := if pairHead s c then clearTile s (Fin.ofNat 80 (c.val + 1)) t else s
      match findRun (s.core c) o.num with
      | none => s
      | some r => (useTile (s.setCore c (putRun (s.core c) { r with cleared := true })) c t)
    else s

/-! ### Loading (R131 to R133) -/

/-- The k-blocks of an operation (R123). -/
def kBlocks (d : List Byte) : Nat := (mdK d + 127) / 128
/-- The contraction indices of k-block `i`. -/
def blockLen (d : List Byte) (i : Nat) : Nat := min 128 (mdK d - 128 * i)

/-- The next block to load: the first operation with one left, once every block loaded before has begun to stream. -/
def nextLoad (x : CoreSt) : Option (Op × MatRun) :=
  if x.mats.all (fun r => r.loaded == r.streamed) then
    (x.mats.filterMap (fun r => match findOp x r.num with
      | some o => if r.loaded < kBlocks o.desc then some (o, r) else none
      | none => none)).head?
  else none

/-- The offset of the first stored element of k-block `i` (R133). -/
def blockAddr (d : List Byte) (i : Nat) : Nat :=
  if mdBTrans d then mdBOff d + 128 * i * elemBytes (mdBfmt d) else mdBOff d + 128 * i * mdLdb d

/-- The tag matches a descriptor's first block (R133). -/
def tagMatches (s : State) (c : CoreId) (d : List Byte) : Bool :=
  let u := c.val
  mdBfmt d != 5 && s.rb .MAT_TAG_VALID u && s.rf .MAT_TAG_BADDR u == mdBOff d && s.rf .MAT_TAG_LDB u == mdLdb d &&
  s.rf .MAT_TAG_BFMT u == mdBfmt d && s.rf .MAT_TAG_BTRANS u == b2n (mdBTrans d) && s.rf .MAT_TAG_N_1 u == mdN d - 1 &&
  s.rf .MAT_TAG_K_1 u == min (mdK d) 128 - 1

/-- The tag after loading k-block `i`: FP4 loads leave none (R149), and a pair's load writes the even core's alone: DESIGN CHOICE
(log 154). -/
def setTag (s : State) (c : CoreId) (d : List Byte) (i : Nat) : State :=
  let u := c.val
  if mdBfmt d = 5 then s.wf .MAT_TAG_VALID 0 u
  else
    ((((((s.wf .MAT_TAG_K_1 (blockLen d i - 1) u).wf .MAT_TAG_N_1 (mdN d - 1) u).wf .MAT_TAG_VALID 1 u).wf
      .MAT_TAG_BTRANS (b2n (mdBTrans d)) u).wf .MAT_TAG_BFMT (mdBfmt d) u).wf .MAT_TAG_LDB (mdLdb d) u).wf
      .MAT_TAG_BADDR (blockAddr d i) u

/-- The stationary entries of k-block `i`: for each column, the codes of its contraction indices (R127, R144). -/
def loadCols (s : State) (c : CoreId) (d : List Byte) (i : Nat) : List (List Nat) :=
  (List.range (mdN d)).map (fun n =>
    (List.range (blockLen d i)).map (fun k =>
      operandCode s (colCore c n) (mdBfmt d) (mdBOff d) (mdLdb d) (mdBScl d) (mdBss d) (!mdBTrans d) (n % 128)
        (128 * i + k)))

/-- The element codes of the rows of A in k-block `i`. -/
def rowCodes (s : State) (c : CoreId) (d : List Byte) (i : Nat) : List (List Nat) :=
  (List.range (mdM d)).map (fun m => (List.range (blockLen d i)).map (fun k =>
    operandCode s c (mdAfmt d) (mdAOff d) (mdLda d) (mdAScl d) (mdAss d) (mdATrans d) m (128 * i + k)))

/-- What the transpose buffer takes of k-block `i` of A while the same block of B loads (R134). -/
def fillRows (s : State) (c : CoreId) (d : List Byte) (i : Nat) : List (List Nat) := if mdATrans d then rowCodes s c d i else []

/-- K_BLOCK_LOAD (R132 to R134): the loader captures the next k-block, or with KEEPB = 1 keeps the resident buffer where the
tag matches, and the transpose buffer takes the same block of A; all its bytes are read at this moment (log 133). -/
def execKBlockLoad (c : CoreId) (s : State) : Host.Outcome State Fault Refusal :=
  let x := s.core c
  match nextLoad x with
  | none => .next s
  | some (o, r) =>
    let i := r.loaded
    let kept := i == 0 && mdKeepB o.desc && tagMatches s c o.desc
    let buf : StatBuf :=
      if kept then { (x.bufs.getLast?.getD ⟨0, 0, [], []⟩) with num := o.num, block := 0, xa := fillRows s c o.desc i }
      else ⟨o.num, i, loadCols s c o.desc i, fillRows s c o.desc i⟩
    let s := s.setCore c (putRun { x with bufs := (x.bufs ++ [buf]).drop ((x.bufs.length + 1) - 2) } { r with loaded := i + 1 })
    let s := if i == 0 && mdKeepB o.desc && !kept && mdBfmt o.desc != 5 then countCore s c 0x011 1 o.spec else s
    .next (if kept then s else setTag s c o.desc i)

/-! ### Streaming (R83 to R90, R135, R136) -/

/-- A deposit may reach its tile: the first one of a matrix operation waits for the clear point of a begin, or for what the
scoreboard orders ahead of an add (R107, R109, R132). -/
def depReady (s : State) (c : CoreId) (d : Dep) : Bool :=
  match d.op with
  | none => true
  | some n =>
    let h := matHome s c
    match findOp (s.core h) n, findRun (s.core h) n with
    | some o, some r => if mdBegin o.desc then r.cleared else r.deposited || tileReady s h o
    | _, _ => true

/-- Entries of a column's residue queue (R86): of the diverted products on their way, the first ones stand in the queue and the
others wait at the array. -/
abbrev residueEntries : Nat := 16

/-- The array of a core may issue further rows: every diverted product has entered its queue, and no deposit waits for the
scoreboard (R87, R106, R132). -/
def arrayFree (s : State) (c : CoreId) : Bool :=
  (s.acc c).residue.all (fun kv => decide (kv.2.length ≤ residueEntries)) && (s.acc c).depQ.all (depReady s c)

/-- The next block to stream: the first operation with a loaded block, once the array, and that of the other core of a pair, may
issue rows (R87, R136, R145). -/
def nextStream (s : State) (c : CoreId) : Option (Op × MatRun × StatBuf) :=
  let x := s.core c
  match x.mats.find? (fun r => decide (r.streamed < r.loaded)) with
  | none => none
  | some r =>
    match findOp x r.num, x.bufs.find? (fun b => b.num == r.num && b.block == r.streamed) with
    | some o, some b => if arrayFree s c && (!pairHead s c || arrayFree s (pairMate c)) then some (o, r, b) else none
    | _, _ => none

/-- The products of one row and column in one sweep. -/
def slicePs (fp32 : Bool) (sw : Nat × Nat) (a b : List FVal) : List Prod := (a.zip b).map (fun x => sweepProd fp32 sw x.1 x.2)

/-- Rows per column per cycle (R78). -/
def rowsPerCycle (code : Nat) : Nat :=
  match code with
  | 3 => 2
  | 4 => 2
  | 5 => 4
  | _ => 1

/-- The order in which a block's rows and columns deposit: groups of rows of one cycle, and within a cycle ascending
column, then row (R106, R135). -/
def streamOrder (m n r : Nat) : List (Nat × Nat) :=
  (List.range ((m + r - 1) / r)).flatMap (fun g =>
    (List.range n).flatMap (fun c => ((List.range r).map (fun j => (g * r + j, c))).filter (fun x => decide (x.1 < m))))

/-- One slice's deposit and diverted products put on their way to the accumulator of its column's core (R84, R86): a slice with
no anchor and no sidecar bit deposits nothing (R83). -/
def queueSlice (s : State) (c : CoreId) (num t m n : Nat) (sl : Slice) : State :=
  let cc := colCore c n
  let i := elemIdx t m (n % 128)
  let a := s.acc cc
  let a := if sl.anchored = false ∧ sl.sc = 0 then a else { a with depQ := a.depQ ++ [⟨some num, i, sl.d, sl.sc⟩] }
  let col : Fin 128 := Fin.ofNat 128 n
  let a := if sl.diverted.isEmpty then a
    else { a with residue := aset a.residue col (aget a.residue col [] ++ sl.diverted.map (fun p => ⟨some num, i, p, 0⟩)) }
  s.setAcc cc a

/-- NaN elements of a list. -/
def countNan (vs : List FVal) : Nat := (vs.filter FVal.isNan).length

/-- The slices of a block from the values of its rows and columns, each with its row and column. -/
def slicesOf (d : List Byte) (i : Nat) (rows cols : List (List FVal)) : List (Nat × Nat × Slice × Exc) :=
  (sweeps d).flatMap (fun sw =>
    (streamOrder (mdM d) (mdN d) (rowsPerCycle (mdAfmt d))).map (fun x =>
      let ps := slicePs (mdAfmt d == 0) sw (rows.getD x.1 []) (cols.getD x.2 [])
      (x.1, x.2, kSlice ps, sliceExc d ps x.1 x.2 (128 * i))))

/-- The exceptions of a block: its slices' and its NaN elements (R92). -/
def excOf (d : List Byte) (rows cols : List (List FVal)) (sls : List (Nat × Nat × Slice × Exc)) : Exc :=
  let e := sls.foldl (fun e x => excAdd e { x.2.2.2 with div := x.2.2.1.diverted.length }) excZero
  let na := if mdColOff d = 0 then (rows.map countNan).sum else 0
  let nb := if mdRowOff d = 0 then (cols.map countNan).sum else 0
  { e with nan := na + nb }

/-- The codes of the rows of a k-block as the array takes them: from the transpose buffer, or from the scratchpad at this moment
(R130, R134; log 133). -/
def blockCodes (s : State) (c : CoreId) (d : List Byte) (i : Nat) (b : StatBuf) : List (List Nat) :=
  if mdATrans d then b.xa else rowCodes s c d i
/-- The values of the rows of a k-block. -/
def blockRows (s : State) (c : CoreId) (d : List Byte) (i : Nat) (b : StatBuf) : List (List FVal) :=
  (blockCodes s c d i b).map (fun row => row.map (codeValue (mdAfmt d)))
/-- The values of the columns of a stationary block. -/
def blockCols (d : List Byte) (b : StatBuf) : List (List FVal) := b.cols.map (fun col => col.map (codeValue (mdBfmt d)))

/-- A k-block streamed: its k-slices are formed, and their deposits and diverted products set on their way. -/
def streamBlock (s : State) (c : CoreId) (o : Op) (r : MatRun) (b : StatBuf) : State :=
  let d := o.desc
  let rows := blockRows s c d r.streamed b
  let cols := blockCols d b
  let sls := slicesOf d r.streamed rows cols
  let exc := excAdd r.exc (excOf d rows cols sls)
  let s := sls.foldl (fun s x => queueSlice s c o.num (mdTile d) x.1 x.2.1 x.2.2.1) s
  let s := countCore s c 0x005 (sls.foldl (fun n x => n + x.2.2.1.diverted.length) 0) o.spec
  let x := s.core c
  s.setCore c (putRun (putOp x { o with started := true }) { r with streamed := r.streamed + 1, exc := exc })

/-! ### Deposits (R86, R100, R103, R104) -/

/-- A run told that it has made a deposit, or that it fails. -/
def markRun (s : State) (c : CoreId) (num : Option Nat) (f : MatRun → MatRun) : State :=
  match num with
  | none => s
  | some n =>
    let h := matHome s c
    match findRun (s.core h) n with
    | none => s
    | some r => s.setCore h (putRun (s.core h) (f r))

/-- The operation of a deposit told that it ends with a status: a matrix operation's run, or an EXDEP. -/
def failOp (s : State) (c : CoreId) (num : Option Nat) (st : Nat) : State :=
  match num with
  | none => s
  | some n =>
    let h := matHome s c
    match findRun (s.core h) n, findOp (s.core h) n with
    | some r, _ => s.setCore h (putRun (s.core h) { r with failed := some st, deposited := true })
    | none, some o => s.setCore h (putOp (s.core h) { o with pre := some st })
    | none, none => s

/-- A deposit that has come to its element: far elements pass it to the far queue of 32 or to the glade path of four, and
it waits where they are full. The answer says whether it was taken. -/
def takeDeposit (s : State) (c : CoreId) (d : Dep) : State × Bool :=
  let e := s.elem c d.elem
  let a := s.acc c
  if e.anchor = 255 then
    if e.loc then (if a.gladeQ.length < 4 then (s.setAcc c { a with gladeQ := a.gladeQ ++ [d] }, true) else (s, false))
    else (if a.farQ.length < 32 then (s.setAcc c { a with farQ := a.farQ ++ [d] }, true) else (s, false))
  else match deposit s c d.elem d.d d.sc with
    | (s, .done) => (markRun s c d.op (fun r => { r with deposited := true }), true)
    | (s, .corrupt) => (failOp s c d.op stAccCorrupt, true)
    | (_, .exhausted) => (s, false)

/-- The first deposit of a list that may reach its tile, with the list without it. -/
def pickDep (s : State) (c : CoreId) (ds : List Dep) : Option (Dep × List Dep) :=
  match ds with
  | [] => none
  | d :: rest =>
    if depReady s c d then some (d, rest)
    else match pickDep s c rest with
      | none => none
      | some (x, r) => some (x, d :: r)

/-- DEPOSIT (R100): the next window deposit that may reach its tile reaches its element, or stalls. -/
def execDeposit (c : CoreId) (s : State) : Host.Outcome State Fault Refusal :=
  match pickDep s c (s.acc c).depQ with
  | none => .next s
  | some (d, rest) =>
    match takeDeposit s c d with
    | (s, true) => .next (s.setAcc c { s.acc c with depQ := rest })
    | (s, false) => .next s

/-- RESIDUE_DEPOSIT (R86): the residue port of a column deposits the next diverted product, or stalls. -/
def execResidueDeposit (c : CoreId) (col : Fin 128) (s : State) : Host.Outcome State Fault Refusal :=
  match pickDep s c (aget (s.acc c).residue col []) with
  | none => .next s
  | some (d, rest) =>
    match takeDeposit s c d with
    | (s, true) => .next (s.setAcc c { s.acc c with residue := aset (s.acc c).residue col rest })
    | (s, false) => .next s

/-- FAR_DEPOSIT (R103): the far adder adds the next deposit of the far queue. -/
def execFarDeposit (c : CoreId) (s : State) : Host.Outcome State Fault Refusal :=
  match (s.acc c).farQ with
  | [] => .next s
  | d :: rest =>
    let s := s.setAcc c { s.acc c with farQ := rest }
    .next (markRun (farAdd s c d.elem d.d d.sc) c d.op (fun r => { r with deposited := true }))

/-- GLADE_DEPOSIT (R104): the oldest deposit to a glade-held element completes, unless its glade is being cleared (R251). -/
def execGladeDeposit (c : CoreId) (s : State) : Host.Outcome State Fault Refusal :=
  match (s.acc c).gladeQ with
  | [] => .next s
  | d :: rest =>
    if s.rb .GLD_CLR_CTL_BUSY (halfOfCore c).val then .next s
    else
    let s := s.setAcc c { s.acc c with gladeQ := rest }
    .next (markRun (farAdd s c d.elem d.d d.sc) c d.op (fun r => { r with deposited := true }))

/-- The deposits of an operation dropped from every queue of a core. -/
def dropDeps (a : AccUnit) (num : Nat) : AccUnit :=
  let keep := fun (d : Dep) => !(d.op == some num)
  { a with
    depQ := a.depQ.filter keep, farQ := a.farQ.filter keep, gladeQ := a.gladeQ.filter keep,
    residue := a.residue.map (fun kv => (kv.1, kv.2.filter keep)) }

/-- The deposits of an operation dropped in its core, and in the odd core of a pair. -/
def dropOpDeps (s : State) (c : CoreId) (num : Nat) : State :=
  let s := s.setAcc c (dropDeps (s.acc c) num)
  if inPair s c then s.setAcc (pairMate c) (dropDeps (s.acc (pairMate c)) num) else s

/-- The deposit of a core that stalls for want of a glade slot (R105): the next one of the window deposits, or of a residue
queue. -/
def stalledDeposit (s : State) (c : CoreId) : Option Dep :=
  let next := fun (ds : List Dep) => ((pickDep s c ds).map Prod.fst).toList
  let fronts := next (s.acc c).depQ ++ (s.acc c).residue.flatMap (fun kv => next kv.2)
  fronts.find? (fun d => (s.elem c d.elem).anchor != 255 && (deposit s c d.elem d.d d.sc).2 == .exhausted)

/-- EXH of a tile, in both cores of a pair. -/
def setExh (s : State) (c : CoreId) (t : Nat) : State :=
  let s := s.setTile c t { s.tile c t with exh := true }
  if inPair s c then s.setTile (pairMate c) t { s.tile (pairMate c) t with exh := true } else s

/-- A deposit into a tile of a core is given up (R105): its operation fails with ACC_EXHAUSTED and its other deposits are dropped,
every element of the tile takes NAN_IN, and EXH and EXHAUST are set. -/
def exhaust (s : State) (c : CoreId) (op : Option Nat) (t : Nat) : State :=
  let s := match op with
    | none => s
    | some n => dropOpDeps s c n
  (setExh (poisonTile (failOp s c op stAccExhausted) c t) c t).wf .ACC_OVF_STAT_EXHAUST 1 (halfOfCore c).val

/-! ### Completion (R91, R136) -/

/-- No deposit of an operation is on its way in a core. -/
def depsDone (a : AccUnit) (num : Nat) : Bool :=
  let other := fun (d : Dep) => !(d.op == some num)
  a.depQ.all other && a.farQ.all other && a.gladeQ.all other && a.residue.all (fun kv => kv.2.all other)

/-- An exception record handed to the dispatcher of a split entry (R179). -/
def handExc (s : State) (entry : Nat) (e : Exc) : State :=
  match aget? s.entries entry with
  | some en => { s with entries := aset s.entries entry { en with excs := en.excs ++ [e] } }
  | none => s

/-- The entry of an operation is split, so that its dispatcher combines the exception records (R93, R179). -/
def combinesExc (s : State) (o : Op) : Bool :=
  match aget? s.entries o.entry with
  | some en => weKind en.raw == 1 && weSplit en.raw != 0
  | none => false

/-- The exception record of a completed operation: handed to the dispatcher where its entry was split, else written at EXC_ADDR
(R91, R179). That of a speculative operation goes to the partition at once, and anywhere else with the commit (R204; log 134). -/
def writeExc (s : State) (c : CoreId) (o : Op) (e : Exc) : State :=
  let a := mdExcAddr o.desc
  let split := combinesExc s o
  if !split ∧ a = 0 then s
  else if !o.spec ∨ (!split ∧ partBase s c ≤ a ∧ a + 32 ≤ scratchBase c + scratchSize) then
    (if split then handExc s o.entry e else s.post (halfOfCore c) a (excBytes e))
  else match (s.core c).spec with
    | some z => s.setCore c { s.core c with spec := some { z with excs := z.excs ++ [(if split then none else some a, e)] } }
    | none => s

/-- A matrix operation is done: every k-block streamed and every deposit made (R88, R136), or its tile exhausted (R105). One that
met a corrupt element makes its other deposits first (R98; log 135). -/
def matDone (s : State) (c : CoreId) (o : Op) (r : MatRun) : Bool :=
  r.failed == some stAccExhausted ||
  (r.streamed == kBlocks o.desc && depsDone (s.acc c) o.num &&
    (!pairHead s c || depsDone (s.acc (Fin.ofNat 80 (c.val + 1))) o.num))

/-- MAT_COMPLETE (R136): the first matrix operation of the core completes after its last deposit. The record of one that failed
counts the k-blocks streamed so far: DESIGN CHOICE (log 152). -/
def execMatComplete (c : CoreId) (s : State) : Host.Outcome State Fault Refusal :=
  let x := s.core c
  match x.ops.find? (fun o => o.cls == clMat) with
  | none => .next s
  | some o =>
    match o.pre, findRun x o.num with
    | some st, _ => .next (matStat (drainRefused (completeOp s c o st 0) c clMat 32) c)
    | none, none => .next s
    | none, some r =>
      if matDone s c o r then
        let s := dropOpDeps (writeExc s c o r.exc) c o.num
        let x := s.core c
        let s := s.setCore c { x with mats := x.mats.filter (fun q => q.num != o.num) }
        let s := completeOp s c o (r.failed.getD stOK) 0
        .next (matStat (drainRefused s c clMat 32) c)
      else .next s

/-- TAG_CLR (R149, R150): a write of MAT_CTL.TAG_CLR clears MAT_TAG.VALID. Any agent may make it. -/
def execTagClr (_a : Agent) (c : CoreId) (s : State) : Host.Outcome State Fault Refusal :=
  .next (s.wf .MAT_TAG_VALID 0 c.val)

/-- PAIR_CFG_WRITE (R147, R149): Dexca requests pairs; applied at the next beat boundary. -/
def execPairCfgWrite (a : Agent) (g : GroveId) (en : Fin 16) (s : State) : Host.Outcome State Fault Refusal :=
  if isDexca a then .next (s.wf .GRV_PAIR_CFG_EN en.val g.val) else .next s.privFault

/-- A pair's change can be applied: both cores Active or Paired with no operation in flight, all six tiles released
(R147). -/
def pairFree (s : State) (g : GroveId) (p : Nat) : Bool :=
  [2 * p, 2 * p + 1].all (fun i =>
    let c : CoreId := Fin.ofNat 80 (g.val * 8 + i)
    let x := s.core c
    (x.node == .active || x.node == .paired) && x.ops.isEmpty && [0, 1, 2].all (fun t => (s.tile c t).released))

/-- One pair's change applied: the odd core becomes Paired, or Active again with both tags cleared (R143, R147). -/
def applyPair (s : State) (g : GroveId) (en : Nat) (p : Nat) : State :=
  let e : CoreId := Fin.ofNat 80 (g.val * 8 + 2 * p)
  let o : CoreId := Fin.ofNat 80 (g.val * 8 + 2 * p + 1)
  if bit en p = bit (s.rf .GRV_PAIR_CFG_ACT g.val) p then s
  else if bit en p then (s.setCore o { s.core o with node := .paired }).wf .MAT_TAG_VALID 0 e.val |>.wf .MAT_TAG_VALID 0 o.val
  else ((s.setCore o { s.core o with node := .active }).wf .MAT_TAG_VALID 0 e.val).wf .MAT_TAG_VALID 0 o.val

/-- The pair requests of a grove applied at a beat boundary, or refused with ERR (R147). -/
def applyPairs (s : State) (g : GroveId) : State :=
  let en := s.rf .GRV_PAIR_CFG_EN g.val
  let act := s.rf .GRV_PAIR_CFG_ACT g.val
  if en = act then s
  else if (List.range 4).all (fun p => bit en p == bit act p || pairFree s g p) then
    ((List.range 4).foldl (fun s p => applyPair s g en p) s).wf .GRV_PAIR_CFG_ACT en g.val
  else (s.wf .GRV_PAIR_CFG_EN act g.val).wf .GRV_PAIR_CFG_ERR 1 g.val

end Sys2Proof.Machine
end

