-- ==== Sys2Proof/Machine/Drain.lean ====
section
/-!
DEFINITION. Draining a tile: the drain descriptor and its checks (R111, R112), output and escapes (R112 to R114), and row
statistics (R116 to R118).
-/

namespace Sys2Proof.Machine

/-! ### The drain descriptor (R111) -/

abbrev ddTrans (d : List Byte) : Bool := dbit d 0x00 3
abbrev ddOfmt (d : List Byte) : Nat := dfld d 0x00 6 4
abbrev ddRmode (d : List Byte) : Nat := dfld d 0x00 9 7
abbrev ddSat (d : List Byte) : Bool := dbit d 0x00 10
abbrev ddStat (d : List Byte) : Nat := dfld d 0x00 12 11
abbrev ddStatIn (d : List Byte) : Bool := dbit d 0x00 13
abbrev ddStride (d : List Byte) : Nat := dfld d 0x04 23 0
abbrev ddDst (d : List Byte) : Nat := dfld d 0x08 63 0
abbrev ddStatAddr (d : List Byte) : Nat := dfld d 0x10 63 0
abbrev ddEscAddr (d : List Byte) : Nat := dfld d 0x18 63 0
abbrev ddStatScale (d : List Byte) : Nat := dfld d 0x20 31 0
abbrev ddStream (d : List Byte) : Nat := dfld d 0x24 15 0
abbrev ddRowOff (d : List Byte) : Nat := dfld d 0x28 31 0
abbrev ddColOff (d : List Byte) : Nat := dfld d 0x2C 31 0
abbrev ddEscLimit (d : List Byte) : Nat := dfld d 0x30 31 0

/-- The size of an output element (R112). -/
def ddSize (d : List Byte) : Nat := if ddOfmt d = 6 then 16 else elemBytes (ddOfmt d)

/-- Columns of a tile: 256 in a pair (R96). -/
def tileCols (s : State) (c : CoreId) : Nat := if pairHead s c then 256 else 128

/-- Output rows of a drain, and elements in each. -/
def drainShape (s : State) (c : CoreId) (d : List Byte) : Nat × Nat :=
  if ddTrans d then (tileCols s c, 128) else (128, tileCols s c)

/-- The bytes from DST to the end of the last output row. -/
def drainSpan (s : State) (c : CoreId) (d : List Byte) : Nat :=
  ((drainShape s c d).1 - 1) * ddStride d + (drainShape s c d).2 * ddSize d

/-- Bytes of the statistics records, where used. -/
def statSpan (s : State) (c : CoreId) (d : List Byte) : Nat := if ddStat d = 0 then 0 else 8 * (drainShape s c d).1
/-- Bytes of the escape area, where used. -/
def escSpan (d : List Byte) : Nat := if ddOfmt d = 6 then 80 * ddEscLimit d else 0

/-- The checks of R112, in order; a tile that is the shadow of another's speculation, a partition that STAT_IN would read,
and an understory are hidden (R204, R248). -/
def drainCheck (s : State) (c : CoreId) (k : Cmd) : Option Nat :=
  let d := k.desc
  let z := ddSize d
  if ddTile d = 3 then some stInvalidTile
  else if ddOfmt d = 5 ∨ ddOfmt d = 7 ∨ 5 ≤ ddRmode d then some stInvalidFormat
  else if ddStride d < tileCols s c * z ∨ ddStride d % z ≠ 0 ∨ !localPlace c (ddDst d) (drainSpan s c d) ∨
      !localPlace c (ddStatAddr d) (statSpan s c d) ∨ !localPlace c (ddEscAddr d) (escSpan d) then some stInvalidAddress
  else if hiddenRange s (ddDst d) (drainSpan s c d) ∨ hiddenRange s (ddStatAddr d) (statSpan s c d) ∨
      hiddenRange s (ddEscAddr d) (escSpan d) then some stSpecHidden
  else if ddStat d = 2 ∧ ddStatIn d ∧ partitionRead s c (ddStatAddr d) (statSpan s c d) then some stSpecHidden
  else match (s.core c).spec with
    | some z => if ddTile d = z.shadow then some stSpecHidden else none
    | none => none

/-- DRAIN (R112): checked and accepted. -/
def execDrain (c : CoreId) (n : CtxId) (s : State) : Host.Outcome State Fault Refusal :=
  .next (acceptChecked s c n (fun k => k.cls == clDrain) (fun s k => drainCheck s c k) (fun s _ => s))

/-- DRAIN_START (R109): the next drain starts reading tile rows once the scoreboard allows. -/
def execDrainStart (c : CoreId) (s : State) : Host.Outcome State Fault Refusal :=
  match (s.core c).ops.find? (fun o => o.cls == clDrain && !o.started && o.pre.isNone) with
  | none => .next s
  | some o => if tileReady s c o then .next (s.setCore c (putOp (s.core c) { o with started := true })) else .next s

/-! ### Output (R112 to R114) -/

/-- An output element: its slot, the escape bytes of a long exchange, and the value as stored (R116). -/
structure OutElem where
  slot : List Byte
  esc : List Byte
  y : FVal
  deriving DecidableEq, Repr

/-- Element (r, c) of a tile converted (R72, R113). -/
def drainElem (s : State) (c : CoreId) (o : Op) (r col : Nat) : OutElem :=
  let d := o.desc
  let v := elemValue s (colCore c col) (elemIdx (ddTile d) r (col % 128))
  match fmtOf (ddOfmt d) with
  | none =>
    let b := exchEncode v
    ⟨b.take 16, b.drop 16, fp32.decode (fp32.ofLong .rne false v)⟩
  | some f =>
    let u := opDraw s c o (ddStream d) (ddRowOff d + r) (ddColOff d + col) 0
    let x := f.ofLong ((rmodeOf (ddRmode d) u).getD .rne) (ddSat d) v
    ⟨natLE (ddSize d) x, [], f.decode x⟩

/-- The output rows of a drain, in the layout of R112. -/
def drainRows (s : State) (c : CoreId) (o : Op) : List (List OutElem) :=
  let (n, m) := drainShape s c o.desc
  (List.range n).map (fun i => (List.range m).map (fun j =>
    if ddTrans o.desc then drainElem s c o j i else drainElem s c o i j))

/-- The escapes of a drain, in output order (R113). -/
def drainEscapes (rows : List (List OutElem)) : List (List Byte) :=
  rows.flatMap (fun r => (r.filter (fun e => !e.esc.isEmpty)).map OutElem.esc)

/-! ### Row statistics (R116 to R118) -/

/-- A value as FP32 bits. -/
def fp32Bits (v : FVal) : Nat := fp32.encode .rne false v

/-- The largest of values, +0 above −0, NaN if any is (R116). -/
def maxOf (vs : List FVal) : FVal :=
  match vs with
  | [] => .inf true
  | v :: rest => rest.foldl FVal.max v

/-- A sum of terms rounded once to FP32 (R116). -/
def sum32 (vs : List FVal) : Nat := fp32.ofLong .rne false (exactSum vs)

/-- The online-softmax pair of R118 after a row. -/
def softmaxPair (mp sp : FVal) (zs : List FVal) : Nat × Nat :=
  let mn := (maxOf zs).max mp
  if mn.isNan ∨ mn = .inf false then (fp32Bits mn, fp32.qnan)
  else
    let cf := if mp = mn then .fin false 1 0 else expE (rne32 (mp.add .rne mn.neg))
    let r := rne32 (sp.mul cf)
    let terms := zs.map (fun z => if z = .inf true then .fin false 0 0 else expE (rne32 (z.add .rne mn.neg)))
    (fp32Bits mn, sum32 (r :: terms))

/-- P and Q of a row (R116, R118). -/
def rowStats (stat : Nat) (prev : FVal × FVal) (zs : List FVal) : Nat × Nat :=
  match stat with
  | 1 => (fp32Bits (maxOf zs), sum32 zs)
  | 3 => (sum32 zs, sum32 (zs.map (fun z => z.mul z)))
  | _ => softmaxPair prev.1 prev.2 zs

/-- The statistics record of output row `i` written (R116). -/
def writeStats (s : State) (d : List Byte) (i : Nat) (row : List OutElem) : State :=
  let a := ddStatAddr d + 8 * i
  let zs := row.map (fun e => rne32 (e.y.mul (fp32.decode (ddStatScale d))))
  let prev := if ddStatIn d then (fp32.decode (s.readN a 4), fp32.decode (s.readN (a + 4) 4)) else (.inf true, .fin false 0 0)
  let pq := rowStats (ddStat d) prev zs
  s.write a (natLE 4 pq.1 ++ natLE 4 pq.2)

/-! ### Completion -/

/-- Some element that a drain reads is corrupt (R98). -/
def drainCorrupt (s : State) (c : CoreId) (t : Nat) : Bool :=
  let bad := fun (cc : CoreId) => (s.acc cc).elems.any (fun kv => elemTile kv.1 == t && elemCorrupt kv.2)
  bad c || (pairHead s c && bad (pairMate c))

/-- A drain's effect: output rows, escapes up to ESC_LIMIT, statistics, and the release of a drain that ends with OK
(R112 to R114). The answer is its status and the number of escapes it needed (R193). -/
def runDrain (s : State) (c : CoreId) (o : Op) : State × Nat × Nat :=
  let d := o.desc
  if drainCorrupt s c (ddTile d) then (coreError s c, stAccCorrupt, 0)
  else
    let rows := drainRows s c o
    let escs := drainEscapes rows
    let s := rows.zipIdx.foldl (fun s x => s.write (ddDst d + x.2 * ddStride d) (x.1.flatMap OutElem.slot)) s
    let s := if escs.isEmpty then s else s.write (ddEscAddr d) ((escs.take (ddEscLimit d)).flatten)
    let s := if ddStat d = 0 then s else rows.zipIdx.foldl (fun s x => writeStats s d x.2 x.1) s
    if ddEscLimit d < escs.length then (s, stEscOverflow, escs.length)
    else if ddRelease d then
      (releaseTile s c (ddTile d), stOK, escs.length)
    else (s, stOK, escs.length)

/-- The output of a drain waits for a glade that is being cleared (R251). -/
def drainWaits (s : State) (c : CoreId) (d : List Byte) : Bool :=
  rangeBusy s (ddDst d) (drainSpan s c d) || (ddStat d != 0 && rangeBusy s (ddStatAddr d) (statSpan s c d)) ||
  (ddOfmt d == 6 && rangeBusy s (ddEscAddr d) (escSpan d))

/-- DRAIN_COMPLETE (R114): the first drain of the core completes. -/
def drainComplete (c : CoreId) (s : State) : State :=
  match (s.core c).ops.find? (fun o => o.cls == clDrain) with
  | none => s
  | some o =>
    match o.pre with
    | some st => (drainRefused (completeOp s c o st 0) c clDrain 8)
    | none =>
      if o.started && !drainWaits s c o.desc then
        match runDrain s c o with
        | (s, st, res) => (drainRefused (completeOp s c o st res) c clDrain 8)
      else s

end Sys2Proof.Machine
end

