-- ==== Sys2Proof/Machine/VecElem.lean ====
section
/-!
DEFINITION. The vector engine's arithmetic: one function for each element-wise operation (R153 to R155), reductions, and
the elements of OPTSTEP (R164, R166).
-/

namespace Sys2Proof.Machine

/-- The shape of an element-wise result: format, rounding, saturation, the scalar of AUX, and the sources in order. -/
abbrev ElemOp := Fmt → RMode → Bool → FVal → FVal → FVal → FVal → Nat

/-- a + b. -/
def vaddElem : ElemOp := fun f rm sat _ a b _ => f.encode rm sat (a.add rm b)
/-- a − b. -/
def vsubElem : ElemOp := fun f rm sat _ a b _ => f.encode rm sat (a.add rm b.neg)
/-- a × b. -/
def vmulElem : ElemOp := fun f rm sat _ a b _ => f.encode rm sat (a.mul b)
/-- a × b + c, rounded once. -/
def vfmaElem : ElemOp := fun f rm sat _ a b c => f.encode rm sat ((a.mul b).add rm c)
/-- The larger of a and b. -/
def vmaxElem : ElemOp := fun f rm sat _ a b _ => f.encode rm sat (a.max b)
/-- The smaller of a and b. -/
def vminElem : ElemOp := fun f rm sat _ a b _ => f.encode rm sat (a.min b)
/-- s × a + b, rounded once. -/
def vaxpyElem : ElemOp := fun f rm sat k a b _ => f.encode rm sat ((k.mul a).add rm b)
/-- e^a. -/
def vexpElem : ElemOp := fun f rm sat _ a _ _ => f.exp rm sat a

/-- The natural logarithm. -/
def vlogElem : ElemOp := fun f rm sat _ a _ _ =>
  match a with
  | .nan => f.qnan
  | .inf false => f.ofInf sat false
  | .inf true => f.qnan
  | .fin neg m e =>
    if m = 0 then f.ofInf sat true
    else if neg then f.qnan
    else
      let b := Nat.log2 m
      if m = 2 ^ b ∧ e + b = 0 then f.signed false 0
      else
        let (n, g) := magLog m e
        f.round rm sat n g

/-- √(m × 2^e) as a magnitude. -/
def magSqrtBin (m : Nat) (e : Int) : Mag :=
  if 0 ≤ e then magSqrt (m * 2 ^ e.toNat) 1 else magSqrt m (2 ^ (-e).toNat)

/-- 1 ÷ √(m × 2^e) as a magnitude. -/
def magRsqBin (m : Nat) (e : Int) : Mag :=
  if 0 ≤ e then magSqrt 1 (m * 2 ^ e.toNat) else magSqrt (2 ^ (-e).toNat) m

/-- √a. -/
def vsqrtElem : ElemOp := fun f rm sat _ a _ _ =>
  match a with
  | .nan => f.qnan
  | .inf false => f.ofInf sat false
  | .inf true => f.qnan
  | .fin neg m e => if m = 0 then f.signed neg 0 else if neg then f.qnan else f.round rm sat false (magSqrtBin m e)

/-- 1 ÷ √a. -/
def vrsqElem : ElemOp := fun f rm sat _ a _ _ =>
  match a with
  | .nan => f.qnan
  | .inf false => f.signed false 0
  | .inf true => f.qnan
  | .fin neg m e => if m = 0 then f.ofInf sat neg else if neg then f.qnan else f.round rm sat false (magRsqBin m e)

/-- a ÷ b. -/
def vdivElem : ElemOp := fun f rm sat _ a b _ => f.div rm sat a b

/-- The absolute value. -/
def FVal.abs (v : FVal) : FVal :=
  match v with
  | .nan => .nan
  | .inf _ => .inf false
  | .fin _ m e => .fin false m e

/-- |a|. -/
def vabsElem : ElemOp := fun f rm sat _ a _ _ => f.encode rm sat a.abs

/-! ### Reductions (R154) -/

/-- A product as a term of a sum, classified as R82 does. -/
def prodTerm (a b : FVal) : LVal :=
  match classify a b with
  | .val p _ _ => ⟨0, p⟩
  | x => ⟨prodSc x, 0⟩

/-- The exact sum of terms. -/
def sumTerms (ts : List LVal) : LVal := LVal.sum ts

/-! ### OPTSTEP (R164, R166) -/

/-- The square root of a value plus an addend, rounded once to FP32 (den of R164): (√r + e) with r = n ÷ d exactly, and
e = ± a ÷ 2^j. -/
def rootPlus (n d : Nat) (eneg : Bool) (a j : Nat) : FVal :=
  -- √r is exactly |e| where n × 4^j = a² × d
  if eneg ∧ n * 4 ^ j = a * a * d then .fin false 0 0
  else
    let neg := eneg && decide (n * 4 ^ j < a * a * d)
    let g : Mag := fun k =>
      let kk := max k (j : Int)
      let r := magSqrt n d kk
      let w := a * 2 ^ (kk - j).toNat
      let t := if !eneg then r.1 + w else if neg then w - (if r.2 then r.1 else r.1 + 1) else r.1 - w
      let sh := (kk - k).toNat
      (t / 2 ^ sh, r.2 && t % 2 ^ sh == 0)
    fp32.decode (fp32.round .rne false neg g)

/-- den of R164: rne32(√vh + EPS). -/
def optDen (vh eps : FVal) : FVal :=
  match vh, eps with
  | .fin false (m + 1) e, .fin eneg em ee =>
    let n := if 0 ≤ e then (m + 1) * 2 ^ e.toNat else m + 1
    let d := if 0 ≤ e then 1 else 2 ^ (-e).toNat
    let a := if 0 ≤ ee then em * 2 ^ ee.toNat else em
    rootPlus n d eneg a (if 0 ≤ ee then 0 else (-ee).toNat)
  | .fin true (_ + 1) _, _ => .nan
  | .inf true, _ => .nan
  | v, _ => rne32 (v.add .rne eps)

/-- a ÷ b + c rounded once to FP32 (u of R164). -/
def quotPlus (a b c : FVal) : FVal :=
  match a, b, c with
  | .fin na (ma + 1) ea, .fin nb (mb + 1) eb, .fin nc mc ec =>
    -- (ma ÷ mb) × 2^(ea − eb) + mc × 2^ec over the denominator mb × 2^x
    let x := min (ea - eb) ec
    let p : Int := ((ma + 1) * 2 ^ (ea - eb - x).toNat : Nat)
    let q : Int := (mc * 2 ^ (ec - x).toNat * (mb + 1) : Nat)
    let s := (if na != nb then -p else p) + (if nc then -q else q)
    if s = 0 then .fin false 0 0
    else
      let n := if 0 ≤ x then s.natAbs * 2 ^ x.toNat else s.natAbs
      let d := if 0 ≤ x then mb + 1 else (mb + 1) * 2 ^ (-x).toNat
      fp32.decode (fp32.round .rne false (decide (s < 0)) (magRat n d))
  | .fin _ (_ + 1) _, .fin _ (_ + 1) _, c => c
  | _, _, _ => rne32 ((fp32.decode (fp32.div .rne false a b)).add .rne c)

/-- The hyperparameter record of R163, as values; `sigma` is σ. -/
structure Hyper where
  b1 : FVal
  b2 : FVal
  eps : FVal
  lr : FVal
  wd : FVal
  c1 : FVal
  c2 : FVal
  gscale : FVal
  sigma : Int
  deriving DecidableEq, Repr

/-- The power of two 2^k. -/
def pow2 (k : Int) : FVal := .fin false 1 k

/-- What one element of OPTSTEP gives: g, w, the new moments, and the new parameter's bits. -/
structure OptElem where
  g : FVal
  w : FVal
  m1 : FVal
  v1 : FVal
  p1 : Nat
  deriving DecidableEq, Repr

/-- One element of OPTSTEP (R164): parameter `p`, gradient `gr`, stored moments and their scales. -/
def optElem (h : Hyper) (f : Fmt) (rm : RMode) (sat : Bool) (p gr me ms ve vs : FVal) : OptElem :=
  let one := FVal.fin false 1 0
  let g := rne32 (gr.mul h.gscale)
  let m0 := rne32 (me.mul ms)
  let v0 := rne32 (ve.mul vs)
  let m1 := rne32 ((h.b1.mul m0).add .rne ((one.add .rne h.b1.neg).mul g))
  let v1 := rne32 ((h.b2.mul v0).add .rne (((one.add .rne h.b2.neg).mul g).mul g))
  let mh := rne32 (m1.mul h.c1)
  let vh := rne32 (v1.mul h.c2)
  let u := quotPlus mh (optDen vh h.eps) (h.wd.mul p)
  let w := rne32 ((u.mul h.lr).mul (pow2 h.sigma))
  let x := p.add rm (w.mul (pow2 (-h.sigma))).neg
  ⟨g, w, m1, v1, f.encode rm sat x⟩

/-- A moment block requantised (R166): its scale as FP32 bits, and the element codes. -/
def requant (ms : List FVal) : Nat × List Nat :=
  if ms.any FVal.nonFinite then (fp32.qnan, ms.map (fun _ => 0x7F))
  else
    let a := maxOf (ms.map FVal.abs)
    let sc := fp32.div .rne false a (.fin false 448 0)
    if (fp32.decode sc).isZero then (0, ms.map (fun _ => 0))
    else (sc, ms.map (fun m => e4m3.div .rne true m (fp32.decode sc)))

end Sys2Proof.Machine
end

