-- ==== Sys2Proof/Machine/Vector.lean ====
section
/-!
DEFINITION. The vector engine: descriptors and their checks (R151 to R160, R550), the run of each operation, record merges
(R168, R169), and completion.
-/

namespace Sys2Proof.Machine

/-! ### The vector descriptor (R151) -/

abbrev vdOp (d : List Byte) : Nat := dfld d 0x00 7 0
abbrev vdSfmt (d : List Byte) : Nat := dfld d 0x00 10 8
abbrev vdDfmt (d : List Byte) : Nat := dfld d 0x00 13 11
abbrev vdRmode (d : List Byte) : Nat := dfld d 0x00 16 14
abbrev vdSat (d : List Byte) : Bool := dbit d 0x00 17
abbrev vdSkipNf (d : List Byte) : Bool := dbit d 0x00 18
abbrev vdCount (d : List Byte) : Nat := dfld d 0x04 23 0
abbrev vdNsrc (d : List Byte) : Nat := dfld d 0x04 27 24
abbrev vdSrc0 (d : List Byte) : Nat := dfld d 0x08 63 0
abbrev vdSrc1 (d : List Byte) : Nat := dfld d 0x10 63 0
abbrev vdSrc2 (d : List Byte) : Nat := dfld d 0x18 63 0
abbrev vdDst (d : List Byte) : Nat := dfld d 0x20 63 0
abbrev vdAux (d : List Byte) : Nat := dfld d 0x28 63 0
abbrev vdRowOff (d : List Byte) : Nat := dfld d 0x30 31 0
abbrev vdColOff (d : List Byte) : Nat := dfld d 0x34 31 0
abbrev vdRowLen (d : List Byte) : Nat := dfld d 0x38 31 0
abbrev vdStream (d : List Byte) : Nat := dfld d 0x3C 15 0
abbrev vdDraw (d : List Byte) : Nat := dfld d 0x3C 23 16

/-- The coordinates of element `t` (R152). -/
def vdCoords (d : List Byte) (t : Nat) : Nat × Nat :=
  if vdRowLen d = 0 then (vdRowOff d, (vdColOff d + t) % 2 ^ 32)
  else (vdRowOff d + (vdColOff d + t) / vdRowLen d, (vdColOff d + t) % vdRowLen d)

/-- The draw of element `t` with draw index `k` (R172, R174). -/
def vdU (s : State) (c : CoreId) (o : Op) (t k : Nat) : Nat :=
  opDraw s c o (vdStream o.desc) (vdCoords o.desc t).1 (vdCoords o.desc t).2 (k % 256)

/-- The rounding mode of element `t` (R70, R154). -/
def vdRm (s : State) (c : CoreId) (o : Op) (t : Nat) : RMode :=
  (rmodeOf (vdRmode o.desc) (vdU s c o t (vdDraw o.desc))).getD .rne

/-! ### Operation codes (R153) -/

abbrev voCvt : Nat := 0x40
abbrev voQcvt : Nat := 0x41
abbrev voScupd : Nat := 0x42
abbrev voRsum : Nat := 0x60
abbrev voRsumsq : Nat := 0x61
abbrev voRdot : Nat := 0x62
abbrev voRamax : Nat := 0x63
abbrev voSmcomb : Nat := 0x64
abbrev voExred : Nat := 0x81
abbrev voOptstep : Nat := 0xA0
abbrev voRngu : Nat := 0xC0
abbrev voRngdrop : Nat := 0xC1

/-- The element-wise operations: their function and number of sources. -/
def elemOpOf (op : Nat) : Option (ElemOp × Nat) :=
  match op with
  | 0x00 => some (vaddElem, 2)
  | 0x01 => some (vsubElem, 2)
  | 0x02 => some (vmulElem, 2)
  | 0x03 => some (vfmaElem, 3)
  | 0x04 => some (vmaxElem, 2)
  | 0x05 => some (vminElem, 2)
  | 0x06 => some (vaxpyElem, 2)
  | 0x20 => some (vexpElem, 1)
  | 0x21 => some (vlogElem, 1)
  | 0x22 => some (vsqrtElem, 1)
  | 0x23 => some (vrsqElem, 1)
  | 0x24 => some (vdivElem, 2)
  | 0x25 => some (vabsElem, 1)
  | _ => none

/-- OP is in R153. -/
def vopKnown (op : Nat) : Bool :=
  (elemOpOf op).isSome ||
  [voCvt, voQcvt, voScupd, voRsum, voRsumsq, voRdot, voRamax, voSmcomb, vopExdep, voExred, voOptstep, voRngu,
    voRngdrop].contains op

/-- The fields that an operation uses (R151, R153, R157), in the order NSRC, SRC0, SRC1, SRC2, DST, AUX. -/
def vopUses (d : List Byte) : List Bool :=
  let op := vdOp d
  match elemOpOf op with
  | some (_, n) => [false, true, decide (2 ≤ n), decide (3 ≤ n), true, op == 0x06]
  | none =>
    if op = voCvt then [false, true, true, vdSfmt d == 5, true, false]
    else if op = voQcvt then [false, true, true, vdSfmt d == 5, true, true]
    else if op = voScupd then [false, false, false, false, false, true]
    else if op = voRdot then [false, true, true, false, true, false]
    else if op = voRsum ∨ op = voRsumsq ∨ op = voRamax then [false, true, false, false, true, false]
    else if op = voSmcomb then [true, true, true, false, true, false]
    else if op = vopExdep then [false, true, false, false, true, false]
    else if op = voExred then [true, true, true, false, true, true]
    else if op = voOptstep then [false, true, true, true, true, true]
    else if op = voRngu then [false, false, false, false, true, false]
    else [false, true, false, false, true, true]

/-- A field that the operation does not use is not zero (R550, check 1). -/
def vopUnusedSet (d : List Byte) : Bool :=
  ((vopUses d).zip [vdNsrc d, vdSrc0 d, vdSrc1 d, vdSrc2 d, vdDst d, vdAux d]).any (fun x => !x.1 && x.2 != 0)

/-- SFMT and DFMT are those of R156. -/
def vopFormats (d : List Byte) : Bool :=
  let op := vdOp d
  let sf := vdSfmt d
  let df := vdDfmt d
  if (elemOpOf op).isSome then decide (sf < 5) && decide (df < 5)
  else if op = voRsum ∨ op = voRsumsq ∨ op = voRdot then decide (sf < 5) && (decide (df < 5) || df == 6)
  else if op = voRamax then decide (sf < 5) && df == 0
  else if op = voCvt ∨ op = voQcvt then decide (sf < 6) && decide (df < 6)
  else if op = voScupd then df == 3 || df == 4 || df == 1 || df == 5
  else if op = vopExdep then sf == 6
  else if op = voExred then sf == 6 && (decide (df < 5) || df == 6)
  else if op = voSmcomb ∨ op = voRngdrop then sf == 0 && df == 0
  else if op = voOptstep then (sf == 0 || sf == 2) && (df == 0 || df == 2)
  else true

/-- Bytes of `n` elements of a format. -/
def arrayBytes (code n : Nat) : Nat := if code = 5 then (n + 1) / 2 else n * elemBytes code

/-- A region that an operation names: address, bytes, whether it is read and whether it is written. -/
structure VRegion where
  addr : Nat
  len : Nat
  rd : Bool
  wr : Bool
  deriving DecidableEq, Repr

/-- A region that is only read. -/
def vsrc (a n : Nat) : VRegion := ⟨a, n, true, false⟩
/-- A region that is only written. -/
def vdst (a n : Nat) : VRegion := ⟨a, n, false, true⟩

/-- The regions of an operation (R158); the DST of EXDEP is checked apart. -/
def vopRegions (d : List Byte) : List VRegion :=
  let op := vdOp d
  let n := vdCount d
  let sf := vdSfmt d
  let df := vdDfmt d
  match elemOpOf op with
  | some (_, k) =>
    ([vdSrc0 d, vdSrc1 d, vdSrc2 d].take k).map (fun a => vsrc a (arrayBytes sf n)) ++
      (if op = 0x06 then [vsrc (vdAux d) 4] else []) ++ [vdst (vdDst d) (arrayBytes df n)]
  | none =>
    if op = voCvt ∨ op = voQcvt then
      [vsrc (vdSrc0 d) (arrayBytes sf n), vdst (vdDst d) (arrayBytes df n)] ++
        (if sf = 5 then [vsrc (vdSrc2 d) (n / 32)] else []) ++ (if df = 5 then [vdst (vdSrc1 d) (n / 32)] else []) ++
        (if op = voQcvt then [⟨vdAux d, 32, true, true⟩] else [])
    else if op = voScupd then [⟨vdAux d, 32, true, true⟩]
    else if op = voRamax then [vsrc (vdSrc0 d) (arrayBytes sf n), vdst (vdDst d) 4]
    else if op = voRsum ∨ op = voRsumsq ∨ op = voRdot then
      [vsrc (vdSrc0 d) (arrayBytes sf n)] ++ (if op = voRdot then [vsrc (vdSrc1 d) (arrayBytes sf n)] else []) ++
        [vdst (vdDst d) (if df = 6 then 96 else arrayBytes df 1)]
    else if op = voSmcomb then
      (List.range (vdNsrc d + 1)).map (fun j => vsrc (vdSrc0 d + j * vdSrc1 d) (8 * n)) ++ [vdst (vdDst d) (8 * n)]
    else if op = vopExdep then [vsrc (vdSrc0 d) (16 * n)]
    else if op = voExred then
      (List.range (vdNsrc d + 1)).map (fun j => vsrc (vdSrc0 d + j * vdSrc1 d) (vdSrc1 d)) ++
        [vdst (vdDst d) (if df = 6 then 16 * n + 80 * vdAux d else arrayBytes df n)]
    else if op = voOptstep then
      let b := (n + 127) / 128
      [⟨vdSrc0 d, arrayBytes sf n, true, true⟩, vsrc (vdSrc1 d) (arrayBytes df n), ⟨vdSrc2 d, 256 * b, true, true⟩,
        ⟨vdDst d, 8 * b, true, true⟩, ⟨vdAux d, 64, true, true⟩]
    else if op = voRngu then [vdst (vdDst d) (4 * n)]
    else [vsrc (vdSrc0 d) (4 * n), vsrc (vdAux d) 16, vdst (vdDst d) (4 * n)]

/-- A source and a destination overlap without coinciding (R158). -/
def partialOverlap (x y : VRegion) : Bool :=
  ((x.rd && y.wr) || (x.wr && y.rd)) && decide (x.addr < y.addr + y.len) && decide (y.addr < x.addr + x.len) &&
  !(x.addr == y.addr && x.len == y.len)

/-- Some two regions of a list overlap in part. -/
def anyOverlap (rs : List VRegion) : Bool :=
  match rs with
  | [] => false
  | x :: rest => rest.any (partialOverlap x) || anyOverlap rest

/-- The conditions of R159 on the DST of EXDEP. -/
def exdepPlace (c : CoreId) (d : List Byte) : Bool :=
  let o := vdDst d - accBase c
  decide (accBase c ≤ vdDst d) && vdDst d % 32 == 0 && decide (o / 524288 < 3) &&
  (o + 32 * vdCount d - 1) / 524288 == o / 524288

/-- The placements of an operation meet R157 to R160. -/
def vopPlaced (c : CoreId) (d : List Byte) : Bool :=
  let rs := vopRegions d
  rs.all (fun r => localPlace c r.addr r.len) && !anyOverlap rs && (vdOp d != vopExdep || exdepPlace c d)

/-- The SCALE of QCVT (R169): the status that it is refused with. -/
def scaleCheck (s : State) (d : List Byte) : Option Nat :=
  let v := fp32.decode (s.readN (vdAux d + 4) 4)
  match v with
  | .fin false (m + 1) e =>
    if vdDfmt d = 5 then
      (if m + 1 = 2 ^ Nat.log2 (m + 1) ∧ -127 ≤ e + Nat.log2 (m + 1) ∧ e + Nat.log2 (m + 1) ≤ 127 then none
       else some stInvalidFormat)
    else none
  | _ => some stScaleNonfinite

/-- The tile that an EXDEP deposits into. -/
def exdepTile (c : CoreId) (d : List Byte) : Nat := (vdDst d - accBase c) / 524288

/-- The rules that speculation adds: outside it the partition is hidden; in it a vector operation writes only the
partition, and EXDEP deposits only into TARGET (R202, R204). -/
def vecSpecCheck (s : State) (c : CoreId) (spec : Bool) (d : List Byte) : Option Nat :=
  if (vopRegions d).any (fun r => hiddenRange s r.addr r.len) then some stSpecHidden
  else if !spec then
    (if (vopRegions d).any (fun r => r.rd && partitionRead s c r.addr r.len) then some stSpecHidden else none)
  else if (vopRegions d).any (fun r => r.wr && r.len != 0 && (decide (r.addr < partBase s c) ||
      decide (scratchBase c + scratchSize < r.addr + r.len))) then some stSpecForbidden
  else match (s.core c).spec with
    | some z => if vdOp d = vopExdep ∧ exdepTile c d ≠ z.target then some stSpecForbidden else none
    | none => none

/-- The checks of R550 at acceptance, in order. -/
def vecCheck (s : State) (c : CoreId) (spec : Bool) (d : List Byte) : Option Nat :=
  let op := vdOp d
  let n := vdCount d
  let fp4 := (op == voCvt || op == voQcvt) && (vdSfmt d == 5 || vdDfmt d == 5)
  if !vopKnown op ∨ vopUnusedSet d then some stInvalidOp
  else if !vopFormats d ∨ 5 ≤ vdRmode d then some stInvalidFormat
  else if n = 0 ∨ (op = voScupd ∧ n ≠ 1) ∨ (fp4 ∧ n % 32 ≠ 0) ∨
      (op = voExred ∧ (vdSrc1 d % 16 ≠ 0 ∨ vdSrc1 d < 16 * n)) then some stInvalidShape
  else if !vopPlaced c d then some stInvalidAddress
  else match vecSpecCheck s c spec d with
    | some st => some st
    | none => if op = voQcvt then scaleCheck s d else none

/-! ### Reading arrays -/

/-- The values of an array of `n` elements; FP4 elements under the scales at `scl` (R157). -/
def readVals (s : State) (code a n scl : Nat) : List FVal :=
  (List.range n).map (fun t =>
    if code = 5 then
      let b := s.readN (a + t / 2) 1
      fp4Scaled (if t % 2 = 0 then b % 16 else b / 16) (s.readN (scl + t / 32) 1)
    else codeValue code (s.readN (a + t * elemBytes code) (elemBytes code)))

/-- What the run of an operation gives: the state, its status, RESULT, and a record merge for its completion. -/
structure VecOut where
  st : State
  status : Nat
  result : Nat
  merge : Option (Nat × MergeOp)

/-- A run that ends with OK and RESULT 0. -/
def vecOK (s : State) : VecOut := ⟨s, stOK, 0, none⟩

/-- A run that ends with a status and no effect. -/
def vecBad (s : State) (st : Nat) : VecOut := ⟨s, st, 0, none⟩

/-- Elements written as an array of `z`-byte numbers. -/
def writeElems (s : State) (a z : Nat) (vs : List Nat) : State := s.write a (vs.flatMap (natLE z))

/-! ### Element-wise operations and conversions -/

/-- An element-wise operation of `k` sources (R153 to R155). -/
def runElem (g : ElemOp) (k : Nat) (s : State) (c : CoreId) (o : Op) : VecOut :=
  let d := o.desc
  match fmtOf (vdDfmt d) with
  | none => vecOK s
  | some f =>
    let n := vdCount d
    let zero := FVal.fin false 0 0
    let src := fun (i a : Nat) => if i < k then readVals s (vdSfmt d) a n 0 else []
    let (a, b, x) := (src 0 (vdSrc0 d), src 1 (vdSrc1 d), src 2 (vdSrc2 d))
    let sc := fp32.decode (s.readN (vdAux d) 4)
    vecOK (writeElems s (vdDst d) (elemBytes (vdDfmt d)) ((List.range n).map (fun t =>
      g f (vdRm s c o t) (vdSat d) sc (a.getD t zero) (b.getD t zero) (x.getD t zero))))

/-- Values cut into blocks of 32. -/
def blocks32 (fuel : Nat) (vs : List FVal) : List (List FVal) :=
  match fuel with
  | 0 => []
  | fuel + 1 => if vs.isEmpty then [] else vs.take 32 :: blocks32 fuel (vs.drop 32)

/-- FP4 blocks written: packed elements at DST and scales at SRC1 (R59, R77). -/
def writeFp4 (s : State) (d : List Byte) (bs : List (Nat × List Nat)) : State :=
  (s.write (vdSrc1 d) (bs.map (fun b => BitVec.ofNat 8 b.1))).write (vdDst d) (packNibbles (bs.flatMap Prod.snd))

/-- CVT (R153, R157, R77). -/
def runCvt (s : State) (c : CoreId) (o : Op) : VecOut :=
  let d := o.desc
  let n := vdCount d
  let vs := readVals s (vdSfmt d) (vdSrc0 d) n (vdSrc2 d)
  if vdDfmt d = 5 then
    vecOK (writeFp4 s d ((blocks32 (n / 32 + 1) vs).zipIdx.map (fun x => fp4Block (fun i => vdRm s c o (32 * x.2 + i)) x.1)))
  else match fmtOf (vdDfmt d) with
    | none => vecOK s
    | some f => vecOK (writeElems s (vdDst d) (elemBytes (vdDfmt d))
        (vs.zipIdx.map (fun x => f.encode (vdRm s c o x.2) (vdSat d) x.1)))

/-- An element overflows when it is rounded to a format (R169). -/
def overflows (f : Fmt) (rm : RMode) (v : FVal) : Bool :=
  match v with
  | .fin neg (m + 1) e => decide (f.maxCode < f.roundCode rm neg (magBin (m + 1) e))
  | _ => false

/-- QCVT (R169) with the SCALE read at acceptance, which `o.result` holds until the operation runs. NSAT counts the elements of an
FP4 block that holds a NaN too: DESIGN CHOICE (log 155). -/
def runQcvt (s : State) (c : CoreId) (o : Op) : VecOut :=
  let d := o.desc
  let n := vdCount d
  let sc := fp32.decode o.result
  let vs := readVals s (vdSfmt d) (vdSrc0 d) n (vdSrc2 d)
  let xs := vs.map (fun v => v.mul sc)
  let nonfin := (vs.filter FVal.nonFinite).length
  let amax := fp32.encode .rne true (maxOf (FVal.fin false 0 0 :: (vs.filter (fun v => !v.nonFinite)).map FVal.abs))
  match fmtOf (vdDfmt d) with
  | none => vecOK s
  | some f =>
    let nsat := (xs.zipIdx.filter (fun x => overflows f (vdRm s c o x.2) x.1)).length
    let s' :=
      if vdDfmt d = 5 then
        let xb := (127 - sc.log2).toNat
        writeFp4 s d ((blocks32 (n / 32 + 1) vs).zipIdx.map (fun x =>
          fp4BlockScaled (fun i => vdRm s c o (32 * x.2 + i)) xb x.1))
      else writeElems s (vdDst d) (elemBytes (vdDfmt d)) (xs.zipIdx.map (fun x => f.encode (vdRm s c o x.2) true x.1))
    ⟨s', stOK, 0, some (vdAux d + 0x10, .scale amax nsat nonfin)⟩

/-- The exponent f of R170 of a format. -/
def scaleFmtExp (code : Nat) : Int :=
  match code with
  | 3 => 8
  | 5 => 2
  | _ => 15

/-- ⌈log₂⌉ of a finite value above zero. -/
def ceilLog2 (m : Nat) (e : Int) : Int := if m = 2 ^ Nat.log2 m then e + Nat.log2 m else e + Nat.log2 m + 1

/-- SCUPD (R170). The spec states no SCALE for an estimate below zero: the word is free. -/
def runScupd (s : State) (_c : CoreId) (o : Op) : VecOut :=
  let d := o.desc
  let a := vdAux d
  let amax := fp32.decode (s.readN (a + 0x10) 4)
  let k := bits (s.readN (a + 8) 4) 12 8
  let h := bits (s.readN (a + 8) 4) 3 0
  let ovr := decide (0 < s.readN (a + 0x14) 4)
  let decay := rne32 ((fp32.decode (s.readN a 4)).mul ((FVal.fin false 1 0).add .rne (pow2 (-(k : Int))).neg))
  let est := if ovr ∨ k = 0 then amax else amax.max decay
  let ovf := s.readN (a + 0xC) 4
  match est with
  | .fin neg m e =>
    let f := scaleFmtExp (vdDfmt d)
    let scale :=
      if m = 0 then s.readN (a + 4) 4
      else if neg then s.freeVal % 2 ^ 32
      else fp32Bits (pow2 (max (-126) (min 127 (f - ceilLog2 m e - h))))
    let s := s.used.write a (natLE 4 (fp32Bits est) ++ natLE 4 scale)
    vecOK (s.write (a + 0xC) (natLE 4 (if ovr then min (ovf + 1) 0xFFFFFFFF else ovf) ++ natLE 12 0))
  | _ => vecBad s stScaleNonfinite

/-! ### Reductions -/

/-- An exact sum written to DST: one value in DFMT, rounded once, or its exchange form (R154, R156). -/
def writeSum (s : State) (c : CoreId) (o : Op) (v : LVal) : VecOut :=
  let d := o.desc
  match fmtOf (vdDfmt d) with
  | none => ⟨s.write (vdDst d) (exchEncode v), stOK, b2n (exchEscapes v), none⟩
  | some f => vecOK (writeElems s (vdDst d) (elemBytes (vdDfmt d)) [f.ofLong (vdRm s c o 0) (vdSat d) v])

/-- RSUM. -/
def runRsum (s : State) (c : CoreId) (o : Op) : VecOut :=
  let d := o.desc
  writeSum s c o (sumTerms ((readVals s (vdSfmt d) (vdSrc0 d) (vdCount d) 0).map FVal.toLong))

/-- RSUMSQ. -/
def runRsumsq (s : State) (c : CoreId) (o : Op) : VecOut :=
  let d := o.desc
  writeSum s c o (sumTerms ((readVals s (vdSfmt d) (vdSrc0 d) (vdCount d) 0).map (fun a => prodTerm a a)))

/-- RDOT. -/
def runRdot (s : State) (c : CoreId) (o : Op) : VecOut :=
  let d := o.desc
  let a := readVals s (vdSfmt d) (vdSrc0 d) (vdCount d) 0
  let b := readVals s (vdSfmt d) (vdSrc1 d) (vdCount d) 0
  writeSum s c o (sumTerms ((a.zip b).map (fun x => prodTerm x.1 x.2)))

/-- RAMAX. -/
def runRamax (s : State) (c : CoreId) (o : Op) : VecOut :=
  let d := o.desc
  let v := maxOf ((readVals s (vdSfmt d) (vdSrc0 d) (vdCount d) 0).map FVal.abs)
  vecOK (writeElems s (vdDst d) 4 [fp32.encode (vdRm s c o 0) (vdSat d) v])

/-- The pair that SMCOMB forms of the pairs of one row (R161). -/
def combinePairs (ps : List (FVal × FVal)) : Nat × Nat :=
  let m := maxOf (ps.map Prod.fst)
  if m.isNan ∨ m = .inf false then (fp32Bits m, fp32.qnan)
  else (fp32Bits m, sum32 (ps.map (fun p =>
    rne32 (p.2.mul (if p.1 = m then .fin false 1 0 else expE (rne32 (p.1.add .rne m.neg)))))))

/-- SMCOMB (R161). -/
def runSmcomb (s : State) (_c : CoreId) (o : Op) : VecOut :=
  let d := o.desc
  vecOK (s.write (vdDst d) ((List.range (vdCount d)).flatMap (fun t =>
    let ps := (List.range (vdNsrc d + 1)).map (fun j =>
      let a := vdSrc0 d + j * vdSrc1 d + 8 * t
      (fp32.decode (s.readN a 4), fp32.decode (s.readN (a + 4) 4)))
    let r := combinePairs ps
    natLE 4 r.1 ++ natLE 4 r.2)))

/-! ### Exchange arrays (R159, R160) -/

/-- The long slots among `n` slots at `a`. -/
def longSlots (s : State) (a n : Nat) : Nat :=
  ((List.range n).filter (fun t => exchIsLong (s.read (a + 16 * t) 1))).length

/-- A packed exchange array read: slots `t` on, with the escapes from `esc` on; none where a value is invalid (R67). -/
def readPacked (s : State) (a n : Nat) (esc : Nat) : Option (List LVal) :=
  match n with
  | 0 => some []
  | n + 1 =>
    let slot := s.read a 16
    let long := exchIsLong slot
    match exchDecode (if long then slot ++ s.read esc 80 else slot) with
    | none => none
    | some v =>
      match readPacked s (a + 16) n (if long then esc + 80 else esc) with
      | none => none
      | some vs => some (v :: vs)

/-- Non-canonical values among `n` packed values (R68, R69). -/
def nonCanon (s : State) (a n esc : Nat) : Nat :=
  match n with
  | 0 => 0
  | n + 1 =>
    let slot := s.read a 16
    let long := exchIsLong slot
    b2n (!exchCanonical (if long then slot ++ s.read esc 80 else slot)) +
      nonCanon s (a + 16) n (if long then esc + 80 else esc)

/-- EXDEP (R159): the deposits take the banks ahead of the array (R138), and are made one by one. -/
def runExdep (s : State) (c : CoreId) (o : Op) : VecOut :=
  let d := o.desc
  let n := vdCount d
  let l := longSlots s (vdSrc0 d) n
  match readPacked s (vdSrc0 d) n (vdSrc0 d + 16 * n) with
  | none => vecBad s stBadExchange
  | some vs =>
    if !localPlace c (vdSrc0 d + 16 * n) (80 * l) then vecBad s stInvalidAddress
    else
      let i := (vdDst d - accBase c) / 32
      let a := s.acc c
      let deps := vs.zipIdx.map (fun x => (⟨some o.num, i + x.2, x.1.l, x.1.sc⟩ : Dep))
      vecOK (countCore (s.setAcc c { a with depQ := deps ++ a.depQ }) c 0x01C (nonCanon s (vdSrc0 d) n (vdSrc0 d + 16 * n)) o.spec)

/-- The arrays of EXRED, or none where one is invalid or runs past its span (R160). -/
def exredArrays (s : State) (d : List Byte) (n : Nat) : Option (List (List LVal)) :=
  match n with
  | 0 => some []
  | k + 1 =>
    let a := vdSrc0 d + k * vdSrc1 d
    let m := vdCount d
    if vdSrc1 d < 16 * m + 80 * longSlots s a m then none
    else match readPacked s a m (a + 16 * m), exredArrays s d k with
      | some vs, some r => some (vs :: r)
      | _, _ => none

/-- EXRED (R160). -/
def runExred (s : State) (c : CoreId) (o : Op) : VecOut :=
  let d := o.desc
  match exredArrays s d (vdNsrc d + 1) with
  | none => vecBad s stBadExchange
  | some arrs =>
    let bad := (List.range (vdNsrc d + 1)).map (fun k =>
      nonCanon s (vdSrc0 d + k * vdSrc1 d) (vdCount d) (vdSrc0 d + k * vdSrc1 d + 16 * vdCount d))
    let s := countCore s c 0x01C bad.sum o.spec
    let sums := (List.range (vdCount d)).map (fun t => sumTerms (arrs.map (fun vs => vs.getD t LVal.zero)))
    match fmtOf (vdDfmt d) with
    | some f => vecOK (writeElems s (vdDst d) (elemBytes (vdDfmt d))
        (sums.zipIdx.map (fun x => f.ofLong (vdRm s c o x.2) (vdSat d) x.1)))
    | none =>
      let enc := sums.map exchEncode
      let escs := (enc.filter (fun b => decide (16 < b.length))).map (fun b => b.drop 16)
      let s := s.write (vdDst d) (enc.flatMap (fun b => b.take 16))
      let s := if escs.isEmpty then s else s.write (vdDst d + 16 * vdCount d) ((escs.take (vdAux d)).flatten)
      ⟨s, if vdAux d < escs.length then stEscOverflow else stOK, escs.length, none⟩

/-! ### OPTSTEP (R162 to R168) -/

/-- The hyperparameter record read (R163). -/
def readHyper (s : State) (a : Nat) : Hyper :=
  let f := fun o => fp32.decode (s.readN (a + o) 4)
  ⟨f 0x00, f 0x04, f 0x08, f 0x0C, f 0x10, f 0x14, f 0x18, f 0x1C, toSigned 8 (s.readN (a + 0x20) 1)⟩

/-- The elements of block `b` of OPTSTEP. -/
def optBlock (s : State) (c : CoreId) (o : Op) (h : Hyper) (f : Fmt) (b : Nat) : List OptElem :=
  let d := o.desc
  let ms := fp32.decode (s.readN (vdDst d + 8 * b) 4)
  let vs := fp32.decode (s.readN (vdDst d + 8 * b + 4) 4)
  (List.range (min 128 (vdCount d - 128 * b))).map (fun i =>
    let t := 128 * b + i
    let rd := fun code a => codeValue code (s.readN (a + t * elemBytes code) (elemBytes code))
    let mo := fun k => e4m3.decode (s.readN (vdSrc2 d + 256 * b + k + i) 1)
    optElem h f (vdRm s c o t) (vdSat d) (rd (vdSfmt d) (vdSrc0 d)) (rd (vdDfmt d) (vdSrc1 d)) (mo 0) ms (mo 128) vs)

/-- A block of OPTSTEP written: parameters, moments and moment scales (R164, R166). -/
def writeOptBlock (s : State) (d : List Byte) (b : Nat) (es : List OptElem) : State :=
  let m := requant (es.map OptElem.m1)
  let v := requant (es.map OptElem.v1)
  let z := elemBytes (vdSfmt d)
  let s := writeElems s (vdSrc0 d + 128 * b * z) z (es.map OptElem.p1)
  let s := writeElems s (vdSrc2 d + 256 * b) 1 m.2
  let s := writeElems s (vdSrc2 d + 256 * b + 128) 1 v.2
  s.write (vdDst d + 8 * b) (natLE 4 m.1 ++ natLE 4 v.1)

/-- OPTSTEP (R164 to R168). -/
def runOptstep (s : State) (c : CoreId) (o : Op) : VecOut :=
  let d := o.desc
  match fmtOf (vdSfmt d) with
  | none => vecOK s
  | some f =>
    let h := readHyper s (vdAux d)
    let bs := (List.range ((vdCount d + 127) / 128)).map (fun b => optBlock s c o h f b)
    let es := bs.flatten
    let bad := (es.filter (fun e => e.g.nonFinite || e.w.nonFinite)).length
    let umax := fp32Bits (maxOf (FVal.fin false 0 0 :: (es.filter (fun e => !e.w.nonFinite)).map (fun e => e.w.abs)))
    let sq := sumTerms (es.map (fun e => prodTerm e.g e.g))
    let mg := some (vdAux d + 0x30, MergeOp.opt umax bad sq.sc sq.l)
    if vdSkipNf d ∧ 0 < bad then ⟨s, stOptNonfinite, 0, mg⟩
    else ⟨bs.zipIdx.foldl (fun s x => writeOptBlock s d x.2 x.1) s, stOK, 0, mg⟩

/-! ### Random streams (R175) -/

/-- RNGU. -/
def runRngu (s : State) (c : CoreId) (o : Op) : VecOut :=
  let d := o.desc
  vecOK (writeElems s (vdDst d) 4 ((List.range (vdCount d)).map (fun t => vdU s c o t (vdDraw d))))

/-- RNGDROP. -/
def runRngdrop (s : State) (c : CoreId) (o : Op) : VecOut :=
  let d := o.desc
  let p := s.readN (vdAux d) 4
  let k := fp32.decode (s.readN (vdAux d + 4) 4)
  let vs := readVals s 0 (vdSrc0 d) (vdCount d) 0
  vecOK (writeElems s (vdDst d) 4 (vs.zipIdx.map (fun x =>
    if p ≤ vdU s c o x.2 (vdDraw d) then
      fp32.encode ((rmodeOf (vdRmode d) (vdU s c o x.2 (vdDraw d + 1))).getD .rne) (vdSat d) (x.1.mul k)
    else 0)))

/-! ### Record merges (R168, R169, R244) -/

/-- A record merged atomically: the 16 bytes at `a` are UMAX, NONFIN and SQ, or AMAX, NSAT and NNONFIN. -/
def mergeRecord (s : State) (a : Nat) (m : MergeOp) : State :=
  let w := fun i => s.readN (a + 4 * i) 4
  let cap := fun v => min v 0xFFFFFFFF
  match m with
  | .opt umax nonfin sc sq =>
    s.write a (natLE 4 (fp32Bits ((fp32.decode (w 0)).max (fp32.decode umax))) ++ natLE 4 (cap (w 1 + nonfin)) ++
      natLE 4 (fp32.ofLong .rne false ((fp32.decode (w 2)).toLong.add ⟨sc, sq⟩ 0)))
  | .scale amax nsat nnonfin =>
    s.write a (natLE 4 (fp32Bits ((fp32.decode (w 0)).max (fp32.decode amax))) ++ natLE 4 (cap (w 1 + nsat)) ++
      natLE 4 (cap (w 2 + nnonfin)))

/-! ### Acceptance, run and completion -/

/-- VEC_STAT (R176). -/
def vecStat (s : State) (c : CoreId) : State :=
  let ops := (s.core c).ops.filter (fun o => o.cls == clVec)
  let run := ops.filter (fun o => o.started)
  let long := fun (o : Op) => vdOp o.desc == vopExdep || vdOp o.desc == voExred
  (((s.wf .VEC_STAT_OPS ops.length c.val).wf .VEC_STAT_LONG (b2n (run.any long)) c.val).wf .VEC_STAT_OPT
    (b2n (run.any (fun o => vdOp o.desc == voOptstep))) c.val).wf .VEC_STAT_BUSY (b2n (run.any (fun o => !long o))) c.val

/-- The run of an operation by its code. -/
def vecRun (s : State) (c : CoreId) (o : Op) : VecOut :=
  let op := vdOp o.desc
  match elemOpOf op with
  | some (g, k) => runElem g k s c o
  | none =>
    if op = voCvt then runCvt s c o
    else if op = voQcvt then runQcvt s c o
    else if op = voScupd then runScupd s c o
    else if op = voRsum then runRsum s c o
    else if op = voRsumsq then runRsumsq s c o
    else if op = voRdot then runRdot s c o
    else if op = voRamax then runRamax s c o
    else if op = voSmcomb then runSmcomb s c o
    else if op = vopExdep then runExdep s c o
    else if op = voExred then runExred s c o
    else if op = voOptstep then runOptstep s c o
    else if op = voRngu then runRngu s c o
    else runRngdrop s c o

/-- The first vector operation of a core runs, if it has not, and the scoreboard lets it (R109, R189), once the glade that it reads or
writes is clear (R251). -/
def startVec (s : State) (c : CoreId) : State :=
  match (s.core c).ops.find? (fun o => o.cls == clVec) with
  | none => vecStat s c
  | some o =>
    if o.started ∨ o.pre.isSome ∨ !tileReady s c o ∨ (vopRegions o.desc).any (fun r => rangeBusy s r.addr r.len) then vecStat s c
    else
      let r := vecRun s c o
      let pre := if vdOp o.desc = vopExdep ∧ r.status = stOK then none else some r.status
      let s := r.st
      vecStat (s.setCore c (putOp (s.core c) { o with started := true, pre := pre, result := r.result, merge := r.merge })) c

/-- DST of an EXDEP in speculative mode is redirected to SHADOW (R202); QCVT captures SCALE (R169). -/
def captureVec (s : State) (c : CoreId) (o : Op) : Op :=
  let o := if vdOp o.desc = voQcvt then { o with result := s.readN (vdAux o.desc + 4) 4 } else o
  match (s.core c).spec with
  | some z =>
    if o.spec ∧ vdOp o.desc = vopExdep then
      { o with desc := setDfld o.desc 0x20 8 63 0 (vdDst o.desc + z.shadow * 524288 - z.target * 524288) }
    else o
  | none => o

/-- A vector operation of code `op` is accepted (R550); it runs at once where the engine is free. -/
def acceptVec (s : State) (c : CoreId) (n : CtxId) (p : Nat → Bool) : State :=
  acceptChecked s c n (fun k => k.cls == clVec && p (vdOp k.desc))
    (fun s k => vecCheck s c (s.ctx c n).spec k.desc) (fun s o =>
      let o := captureVec s c o
      let s := s.setCore c (putOp (s.core c) o)
      startVec (if vdOp o.desc = vopExdep then useTile s c (exdepTile c o.desc) else s) c)

/-- VADD. -/
def execVadd (c : CoreId) (n : CtxId) (s : State) : Host.Outcome State Fault Refusal := .next (acceptVec s c n (· == 0x00))
/-- VSUB. -/
def execVsub (c : CoreId) (n : CtxId) (s : State) : Host.Outcome State Fault Refusal := .next (acceptVec s c n (· == 0x01))
/-- VMUL. -/
def execVmul (c : CoreId) (n : CtxId) (s : State) : Host.Outcome State Fault Refusal := .next (acceptVec s c n (· == 0x02))
/-- VFMA. -/
def execVfma (c : CoreId) (n : CtxId) (s : State) : Host.Outcome State Fault Refusal := .next (acceptVec s c n (· == 0x03))
/-- VMAX. -/
def execVmax (c : CoreId) (n : CtxId) (s : State) : Host.Outcome State Fault Refusal := .next (acceptVec s c n (· == 0x04))
/-- VMIN. -/
def execVmin (c : CoreId) (n : CtxId) (s : State) : Host.Outcome State Fault Refusal := .next (acceptVec s c n (· == 0x05))
/-- VAXPY. -/
def execVaxpy (c : CoreId) (n : CtxId) (s : State) : Host.Outcome State Fault Refusal := .next (acceptVec s c n (· == 0x06))
/-- VEXP. -/
def execVexp (c : CoreId) (n : CtxId) (s : State) : Host.Outcome State Fault Refusal := .next (acceptVec s c n (· == 0x20))
/-- VLOG. -/
def execVlog (c : CoreId) (n : CtxId) (s : State) : Host.Outcome State Fault Refusal := .next (acceptVec s c n (· == 0x21))
/-- VSQRT. -/
def execVsqrt (c : CoreId) (n : CtxId) (s : State) : Host.Outcome State Fault Refusal := .next (acceptVec s c n (· == 0x22))
/-- VRSQ. -/
def execVrsq (c : CoreId) (n : CtxId) (s : State) : Host.Outcome State Fault Refusal := .next (acceptVec s c n (· == 0x23))
/-- VDIV. -/
def execVdiv (c : CoreId) (n : CtxId) (s : State) : Host.Outcome State Fault Refusal := .next (acceptVec s c n (· == 0x24))
/-- VABS. -/
def execVabs (c : CoreId) (n : CtxId) (s : State) : Host.Outcome State Fault Refusal := .next (acceptVec s c n (· == 0x25))
/-- CVT. -/
def execCvt (c : CoreId) (n : CtxId) (s : State) : Host.Outcome State Fault Refusal := .next (acceptVec s c n (· == voCvt))
/-- QCVT. -/
def execQcvt (c : CoreId) (n : CtxId) (s : State) : Host.Outcome State Fault Refusal := .next (acceptVec s c n (· == voQcvt))
/-- SCUPD. -/
def execScupd (c : CoreId) (n : CtxId) (s : State) : Host.Outcome State Fault Refusal := .next (acceptVec s c n (· == voScupd))
/-- RSUM. -/
def execRsum (c : CoreId) (n : CtxId) (s : State) : Host.Outcome State Fault Refusal := .next (acceptVec s c n (· == voRsum))
/-- RSUMSQ. -/
def execRsumsq (c : CoreId) (n : CtxId) (s : State) : Host.Outcome State Fault Refusal :=
  .next (acceptVec s c n (· == voRsumsq))
/-- RDOT. -/
def execRdot (c : CoreId) (n : CtxId) (s : State) : Host.Outcome State Fault Refusal := .next (acceptVec s c n (· == voRdot))
/-- RAMAX. -/
def execRamax (c : CoreId) (n : CtxId) (s : State) : Host.Outcome State Fault Refusal := .next (acceptVec s c n (· == voRamax))
/-- SMCOMB. -/
def execSmcomb (c : CoreId) (n : CtxId) (s : State) : Host.Outcome State Fault Refusal :=
  .next (acceptVec s c n (· == voSmcomb))
/-- EXDEP. -/
def execExdep (c : CoreId) (n : CtxId) (s : State) : Host.Outcome State Fault Refusal := .next (acceptVec s c n (· == vopExdep))
/-- EXRED. -/
def execExred (c : CoreId) (n : CtxId) (s : State) : Host.Outcome State Fault Refusal := .next (acceptVec s c n (· == voExred))
/-- OPTSTEP. -/
def execOptstep (c : CoreId) (n : CtxId) (s : State) : Host.Outcome State Fault Refusal :=
  .next (acceptVec s c n (· == voOptstep))
/-- RNGU. -/
def execRngu (c : CoreId) (n : CtxId) (s : State) : Host.Outcome State Fault Refusal := .next (acceptVec s c n (· == voRngu))
/-- RNGDROP. -/
def execRngdrop (c : CoreId) (n : CtxId) (s : State) : Host.Outcome State Fault Refusal :=
  .next (acceptVec s c n (· == voRngdrop))

/-- VEC_INVALID_OP (R550): an OP that R153 does not name completes with INVALID_OP. -/
def execVecInvalidOp (c : CoreId) (n : CtxId) (s : State) : Host.Outcome State Fault Refusal :=
  .next (acceptVec s c n (fun op => !vopKnown op))

/-- A vector operation can complete: one refused before it ran, or one that has run, an EXDEP once its deposits are made (R88). -/
def vecDone (s : State) (c : CoreId) (o : Op) : Bool := (!o.started && o.pre.isSome) || (o.started && depsDone (s.acc c) o.num)

/-- The oldest refused vector operations complete (R189), without running. -/
def drainVecRefused (s : State) (c : CoreId) (fuel : Nat) : State :=
  match fuel with
  | 0 => s
  | fuel + 1 =>
    match (s.core c).ops.find? (fun o => o.cls == clVec) with
    | none => s
    | some o =>
      match o.started, o.pre with
      | false, some st => drainVecRefused (completeOp s c o st 0) c fuel
      | _, _ => s

/-- VEC_COMPLETE (R168, R189): the oldest vector operation of the core merges its record fields and completes; the next
one starts. -/
def execVecComplete (c : CoreId) (s : State) : Host.Outcome State Fault Refusal :=
  match (s.core c).ops.find? (fun o => o.cls == clVec) with
  | none => .next s
  | some o =>
    if !vecDone s c o then .next (startVec s c)
    else
      let s := match o.merge with
        | some (a, .opt u n sc sq) => mergeRecord { s with dx := { s.dx with optSince := true } } a (.opt u n sc sq)
        | some (a, m) => mergeRecord s a m
        | none => s
      let s := s.setAcc c (dropDeps (s.acc c) o.num)
      let s := countCore s c 0x023 1 o.spec
      let s := completeOp s c o (o.pre.getD stOK) (if o.started then o.result else 0)
      .next (startVec (drainVecRefused s c 32) c)

end Sys2Proof.Machine
end

