-- ==== Sys2Proof/Machine/Banks.lean ====
section
/-!
DEFINITION. Atomics at a bank (R244, R245), the background test (R252 to R257), glade clears (R251), tier initialisation
(R266, R279), stack temperature and LPDDR refresh (R274 to R276).
-/

namespace Sys2Proof.Machine

/-! ### Banks (R239, R246) -/

/-- The word of a scratchpad that holds an offset (R239). -/
def scratchWord (x : Nat) : Nat := x / 64
/-- The bank of a scratchpad that holds an offset (R239). -/
def scratchBank (x : Nat) : Nat := scratchWord x % 24
/-- The row of its bank that holds an offset of a scratchpad (R239). -/
def scratchRow (x : Nat) : Nat := scratchWord x / 24
/-- The bank of a glade that holds an offset (R246). -/
def gladeBank (x : Nat) : Nat := bits x 11 6
/-- The row of its bank that holds an offset of a glade (R246). -/
def gladeRow (x : Nat) : Nat := bits x 25 12

/-! ### Atomics (R244, R245) -/

/-- The atomic operations of R244 on a word, by code; each gives the new word. -/
def atomicWord (code old operand : Nat) : Nat :=
  match code with
  | 0 => (old + operand) % 2 ^ 32
  | 1 => (old + operand) % 2 ^ 64
  | 2 => operand % 2 ^ 32
  | _ => operand % 2 ^ 64

/-- The bytes of an atomic's word. -/
def atomicBytes (code : Nat) : Nat := if code = 0 ∨ code = 2 then 4 else if code = 4 then 16 else 8

/-- The status that an atomic of `n` bytes at `a` ends with before it reaches its bank (R245, R248, R204), or none. -/
def atomicCheck (s : State) (a n : Nat) : Option Nat :=
  if a % n ≠ 0 then some stInvalidAddress
  else match regionOf a n with
    | some (.scratch c) => if touchesPartition s c a n then some stSpecHidden else none
    | some (.glade h) => if touchesUnderstory s h a n then some stSpecHidden else none
    | some (.acc _) => some stAccRaw
    | some .priv => some stPrivFault
    | _ => some stInvalidAddress

/-- An atomic at its bank (R244): the state, its status, and the old value. -/
def atomicAt (s : State) (code a operand : Nat) : State × Nat × Nat :=
  let n := atomicBytes code
  match atomicCheck s a n with
  | some st => (s, st, 0)
  | none =>
    let old := s.readN a n
    let s := match regionOf a n with
      | some (.glade h) => countEv s (.gld h) 0x082
      | _ => s
    (s.write a (natLE n (atomicWord code old operand)), stOK, old)

/-- The reply of an atomic: its old value, or its status. -/
def replyAtomic (r : State × Nat × Nat) : State :=
  { r.1 with reply := if r.2.1 = stOK then .value r.2.2 else .status r.2.1 }

/-- An atomic that was refused for the privileged region is counted (R261). -/
def countRefused (s : State) (st : Nat) : State := if st = stPrivFault then s.privFault else s

/-- An atomic command performed. -/
def doAtomic (s : State) (code a operand : Nat) : State :=
  let r := atomicAt s code a operand
  replyAtomic (countRefused r.1 r.2.1, r.2.1, r.2.2)

/-- An atomic command; one to a glade under a clear is held until the clear ends (R251). -/
def runAtomic (s : State) (code a operand : Nat) : State :=
  if rangeBusy s a (atomicBytes code) then { s with held := s.held ++ [.atomic code a operand] } else doAtomic s code a operand

/-- ADD32. -/
def execAdd32 (addr operand : Nat) (s : State) : Host.Outcome State Fault Refusal := .next (runAtomic s 0 addr operand)
/-- ADD64. -/
def execAdd64 (addr operand : Nat) (s : State) : Host.Outcome State Fault Refusal := .next (runAtomic s 1 addr operand)
/-- SWAP32. -/
def execSwap32 (addr operand : Nat) (s : State) : Host.Outcome State Fault Refusal := .next (runAtomic s 2 addr operand)
/-- SWAP64. -/
def execSwap64 (addr operand : Nat) (s : State) : Host.Outcome State Fault Refusal := .next (runAtomic s 3 addr operand)

/-- The locked read-modify-write of the 16 bytes of a record (R244). -/
def doMerge (s : State) (addr : Nat) (m : MergeOp) : State :=
  match atomicCheck s addr 16 with
  | some st => { countRefused s st with reply := .status st }
  | none => { mergeRecord s addr m with reply := .status stOK }

/-- MERGE (R244), held while its glade is cleared (R251). -/
def execMerge (addr : Nat) (m : MergeOp) (s : State) : Host.Outcome State Fault Refusal :=
  if rangeBusy s addr 16 then .next { s with held := s.held ++ [.merge addr m] } else .next (doMerge s addr m)

/-! ### The background test (R252 to R257) -/

/-- A field of the test of a unit: of CORE_BIST_CFG or CORE_BIST_STAT, or of their glade twins. -/
def bistField (u : BistUnit) (core glade : Fld) : Fld × Nat :=
  match u with
  | .core c => (core, c.val)
  | .glade h => (glade, h.val)

/-- A field of the test of a unit read. -/
def bistGet (s : State) (u : BistUnit) (core glade : Fld) : Nat :=
  s.rf (bistField u core glade).1 (bistField u core glade).2
/-- A field of the test of a unit written. -/
def bistSet (s : State) (u : BistUnit) (core glade : Fld) (v : Nat) : State :=
  s.wf (bistField u core glade).1 v (bistField u core glade).2

/-- Regions of a sweep. -/
def bistRegions (u : BistUnit) : Nat :=
  match u with
  | .core _ => 768
  | .glade _ => 16384

/-- The half of a unit under test. -/
def bistHalf (u : BistUnit) : HalfId :=
  match u with
  | .core c => halfOfCore c
  | .glade h => h

/-- The interrupt source of a failed test (R432). -/
def bistSource (u : BistUnit) : Nat :=
  match u with
  | .core c => 256 + c.val % 40
  | .glade _ => 296

/-- The base address of the memory under test. -/
def bistBase (u : BistUnit) : Nat :=
  match u with
  | .core c => scratchBase c
  | .glade h => gladeBase h

/-- The unit can be tested: a core that is Off or Disabled is not. -/
def bistRuns (s : State) (u : BistUnit) : Bool :=
  bistGet s u .CORE_BIST_CFG_EN .GLD_BIST_CFG_EN == 1 && bistGet s u .CORE_BIST_STAT_FAIL .GLD_BIST_STAT_FAIL == 0 &&
  bistGet s u .CORE_BIST_STAT_ACTIVE .GLD_BIST_STAT_ACTIVE == 0 &&
  (match u with
    | .core c => (s.core c).node != .off && (s.core c).node != .disabled && (s.core c).node != .absent
    | .glade _ => true)

/-- BIST_REGION_START (R252, R255): the test saves the next region; accesses see the same values (R253). A word that fails,
by its index in the region, sets FAIL and FWORD and raises the hardware-error interrupt. -/
def execBistRegionStart (u : BistUnit) (failWord : Option Nat) (s : State) : Host.Outcome State Fault Refusal :=
  if bistRuns s u then
    let s := bistSet s u .CORE_BIST_STAT_ACTIVE .GLD_BIST_STAT_ACTIVE 1
    match failWord with
    | none => .next s
    | some w =>
      let r := bistGet s u .CORE_BIST_STAT_REGION .GLD_BIST_STAT_REGION
      let s := bistSet s u .CORE_BIST_STAT_FAIL .GLD_BIST_STAT_FAIL 1
      let s := bistSet s u .CORE_BIST_STAT_FWORD .GLD_BIST_STAT_FWORD (64 * r + w % 64)
      .next (raiseIrq s (bistHalf u) (bistSource u))
  else .next s

/-- BIST_FORCE (R254): the window of the region under test has expired, and with FORCE = 1 the test steals cycles. -/
def execBistForce (u : BistUnit) (stolen : Nat) (s : State) : Host.Outcome State Fault Refusal :=
  if bistGet s u .CORE_BIST_STAT_ACTIVE .GLD_BIST_STAT_ACTIVE = 1 ∧ bistGet s u .CORE_BIST_CFG_FORCE .GLD_BIST_CFG_FORCE = 1 then
    let s := match u with
      | .core c => countCore s c 0x024 stolen
      | .glade h => countEv s (.gld h) 0x084 stolen
    .next (s.incSat (bistField u .CORE_BIST_STAT_STOLEN .GLD_BIST_STAT_STOLEN).1 stolen
      (bistField u .CORE_BIST_STAT_STOLEN .GLD_BIST_STAT_STOLEN).2)
  else .next s

/-- The next region of a sweep; at its end the sweep is counted and the patterns change (R252, R256). -/
def bistAdvance (s : State) (u : BistUnit) : State :=
  let r := bistGet s u .CORE_BIST_STAT_REGION .GLD_BIST_STAT_REGION + 1
  if r < bistRegions u then bistSet s u .CORE_BIST_STAT_REGION .GLD_BIST_STAT_REGION r
  else
    let n := bistGet s u .CORE_BIST_STAT_SWEEPS .GLD_BIST_STAT_SWEEPS + 1
    let s := bistSet s u .CORE_BIST_STAT_REGION .GLD_BIST_STAT_REGION 0
    let s := bistSet s u .CORE_BIST_STAT_SWEEPS .GLD_BIST_STAT_SWEEPS n
    bistSet s u .CORE_BIST_STAT_PAT .GLD_BIST_STAT_PAT (n % 2)

/-- The 64 bytes of the failed word, lost under R255: free. -/
def loseWord (s : State) (u : BistUnit) : State :=
  let w := bistGet s u .CORE_BIST_STAT_FWORD .GLD_BIST_STAT_FWORD
  s.used.write (bistBase u + 64 * w) (natLE 64 s.freeVal)

/-- The region under test is restored (R253, R255). After a failure the test stands still, and a read-back that differs
from the buffer sets FAILDATA and loses the data of the failed word. -/
def bistRegionEnd (u : BistUnit) (readBackBad : Bool) (s : State) : State :=
  if bistGet s u .CORE_BIST_STAT_ACTIVE .GLD_BIST_STAT_ACTIVE = 1 then
    let s := bistSet s u .CORE_BIST_STAT_ACTIVE .GLD_BIST_STAT_ACTIVE 0
    if bistGet s u .CORE_BIST_STAT_FAIL .GLD_BIST_STAT_FAIL = 1 then
      (if readBackBad then loseWord (bistSet s u .CORE_BIST_STAT_FAILDATA .GLD_BIST_STAT_FAILDATA 1) u else s)
    else bistAdvance s u
  else s

/-! ### Glade clears and tier initialisation (R251, R266, R279) -/

/-- GLADE_CLEAR (R251, R256): Dexca starts the clear of a half's glade; it is ignored while one is in progress. -/
def execGladeClear (a : Agent) (h : HalfId) (s : State) : Host.Outcome State Fault Refusal :=
  if !isDexca a then .next s.privFault
  else if s.rb .GLD_CLR_CTL_BUSY h.val then .next s
  else .next ((s.clearMem (gladeBase h) (gladeBase h + gladeSize)).wf .GLD_CLR_CTL_BUSY 1 h.val)

/-- GLADE_CLEAR_END (R251): the clear ends. -/
def gladeClearEnd (h : HalfId) (s : State) : State := (s.wf .GLD_CLR_CTL_BUSY 0 h.val)

/-- An address of HBM user space whose stack a half holds. -/
def inHbmHalf (h : HalfId) (a : Nat) : Bool := decide (a < hbmSize) && tierHalf a == h
/-- An address of LPDDR user space whose bus a half holds. -/
def inLpxHalf (h : HalfId) (a : Nat) : Bool := decide (lpddrBase ≤ a) && decide (a < lpddrBase + lpddrSize) && tierHalf a == h

/-- A part of a tier written with zero bytes and valid CRCs (R266). -/
def initPart (s : State) (p : Nat → Bool) : State := { s with mem := s.mem.clearIf p, crc := adrop s.crc p }

/-- HBM_INIT (R266). -/
def execHbmInit (a : Agent) (h : HalfId) (s : State) : Host.Outcome State Fault Refusal :=
  if !isDexca a then .next s.privFault
  else if s.rb .HBM_INIT_CTL_BUSY h.val then .next s
  else .next ((initPart s (inHbmHalf h)).wf .HBM_INIT_CTL_BUSY 1 h.val)

/-- LPX_INIT (R266). -/
def execLpxInit (a : Agent) (h : HalfId) (s : State) : Host.Outcome State Fault Refusal :=
  if !isDexca a then .next s.privFault
  else if s.rb .LPX_INIT_CTL_BUSY h.val then .next s
  else .next ((initPart s (inLpxHalf h)).wf .LPX_INIT_CTL_BUSY 1 h.val)

/-- INIT_END (R279): the initialisation of a half's part of a tier ends, and DONE is set. -/
def initEnd (h : HalfId) (lpx : Bool) (s : State) : State :=
  if lpx then
    (if s.rb .LPX_INIT_CTL_BUSY h.val then ((s.wf .LPX_INIT_CTL_BUSY 0 h.val).wf .LPX_INIT_CTL_DONE 1 h.val) else s)
  else if s.rb .HBM_INIT_CTL_BUSY h.val then ((s.wf .HBM_INIT_CTL_BUSY 0 h.val).wf .HBM_INIT_CTL_DONE 1 h.val)
  else s

/-! ### Temperature and refresh (R274 to R276) -/

/-- THRESH as R277 takes it. -/
def thrThresh (s : State) (h : HalfId) : Nat := max 40 (min 105 (s.rf .HBM_THR_CFG_THRESH h.val))
/-- STEP as R277 takes it. -/
def thrStep (s : State) (h : HalfId) : Nat := max 1 (s.rf .HBM_THR_CFG_STEP h.val)

/-- The level after a valid reading `t` at level `l` (R274): at most one step. -/
def nextLevel (s : State) (h : HalfId) (l t : Nat) : Nat :=
  let th := thrThresh s h
  let d := thrStep s h
  if l < 4 ∧ th + l * d ≤ t then l + 1
  else if 1 ≤ l ∧ t + s.rf .HBM_THR_CFG_HYST h.val < th + (l - 1) * d then l - 1
  else l

/-- A reading counted at its level (R275). -/
def countLevel (s : State) (h : HalfId) (l : Nat) : State :=
  match l with
  | 1 => s.incSat .HBM_THR_TIME_L1 1 h.val
  | 2 => s.incSat .HBM_THR_TIME_L2 1 h.val
  | 3 => s.incSat .HBM_THR_TIME_L3 1 h.val
  | 4 => s.incSat .HBM_THR_TIME_L4 1 h.val
  | _ => s

/-- HBM_TEMP_READING (R274, R275): a stack's temperature is read, or the reading fails; entry to level 3 or 4 raises the
thermal interrupt of the stack. -/
def execHbmTempReading (st : StackId) (reading : Option Nat) (corrected : Nat) (s : State) :
    Host.Outcome State Fault Refusal :=
  let h : HalfId := Fin.ofNat 2 (st.val / 6)
  let i := st.val % 6
  let l := s.rf .HBM_STK_LEVEL h.val i
  let s := s.incSat .HBM_STK_CORR corrected h.val i
  let en := s.rb .HBM_THR_CFG_EN h.val
  let (s, l') := match reading with
    | none => (s.wf .HBM_STK_SENSOR_ERR 1 h.val i, if en then 4 else 0)
    | some t => (s.wf .HBM_STK_TEMP t h.val i, if en then nextLevel s h l t else 0)
  let s := countLevel (s.wf .HBM_STK_LEVEL l' h.val i) h l'
  .next (if l < l' ∧ 3 ≤ l' then raiseIrq s h (80 + i) else s)

/-- LPDDR_REFRESH_READ (R276): refresh beyond the base rate, and the packages' own corrections, are counted
(R277; log 16). -/
def execLpddrRefreshRead (b : BusId) (extraRefresh corrected : Nat) (s : State) : Host.Outcome State Fault Refusal :=
  let h : HalfId := Fin.ofNat 2 (b.val / 4)
  .next (s.setHalf h { s.half h with lpxCorr := satAdd 16 (s.half h).lpxCorr (extraRefresh + corrected) })

end Sys2Proof.Machine
end

