-- ==== Sys2Proof/Machine/Spec.lean ====
section
/-!
DEFINITION. The understory (R334 to R339), parts and their start (R180 to R182), and speculation: start, commit, cancel and
expiry (R201 to R208).
-/

namespace Sys2Proof.Machine

/-! ### Token records (R335) -/

abbrev trSpec (r : List Byte) : Nat := dfld r 0x00 15 0
abbrev trSender (r : List Byte) : Nat := dfld r 0x00 29 16
abbrev trLast (r : List Byte) : Bool := dbit r 0x00 30
abbrev trExpert (r : List Byte) : Nat := dfld r 0x04 31 0
abbrev trTBytes (r : List Byte) : Nat := dfld r 0x0C 16 0
abbrev trMb (r : List Byte) : Nat := dfld r 0x14 15 0

/-! ### Keys (R336, R338) -/

/-- The granules that a half's understory has; units past the end of the glade are not used (R334, R344). -/
def undGranules (s : State) (h : HalfId) : Nat :=
  256 * min (s.rf .COL_UND_CFG_SIZE h.val) (1024 - s.rf .COL_UND_CFG_BASE h.val)

/-- Granules of a record (R334). -/
def recGranules (r : List Byte) : Nat := (32 + trTBytes r + 255) / 256

/-- Keys that count as held: not void, not resolved. -/
def heldKeys (s : State) (h : HalfId) : List UKey := (s.half h).und.filter (fun k => !k.void && k.resolved.isNone)

/-- COL_UND_OCC (R344). -/
def undStat (s : State) (h : HalfId) : State :=
  let ks := heldKeys s h
  (s.wf .COL_UND_OCC_KEYS ks.length h.val).wf .COL_UND_OCC_USED (ks.foldl (fun n k => n + k.granules) 0) h.val

/-- The understory of a half replaced. -/
def setUnd (s : State) (h : HalfId) (ks : List UKey) : State := undStat (s.setHalf h { s.half h with und := ks }) h

/-- Two keys of a half are the same key of its list. -/
def sameKey (k : UKey) (x : UKey) : Bool := x.sender == k.sender && x.tag == k.tag && x.handle == k.handle

/-- A key replaced in its half. -/
def putKey (s : State) (h : HalfId) (k : UKey) : State :=
  setUnd s h ((s.half h).und.map (fun x => if sameKey k x then k else x))

/-- A key removed from its half. -/
def dropKey (s : State) (h : HalfId) (k : UKey) : State := setUnd s h ((s.half h).und.filter (fun x => !sameKey k x))

/-- The unresolved key of a sender and tag. -/
def findKey (s : State) (h : HalfId) (sender tag : Nat) : Option UKey :=
  (s.half h).und.find? (fun k => k.sender == sender && k.tag == tag && k.resolved.isNone)

/-- The key with a local handle. -/
def keyOfHandle (s : State) (h : HalfId) (handle : Nat) : Option UKey :=
  (s.half h).und.find? (fun k => k.handle == handle && !k.void)

/-- The lowest handle that no key of the half holds (log 17). -/
def newHandle (s : State) (h : HalfId) : Nat :=
  ((List.range ((s.half h).und.length + 1)).find? (fun i => (s.half h).und.all (fun k => k.handle != i + 1))).getD 0 + 1

/-- An entry posted at the end of a node's queue. -/
def postEntry (s : State) (nd : NodeId) (q : Nat) (e : List Byte) : State :=
  let k := (nd, Fin.ofNat 8 q)
  { s with nodeQ := aset s.nodeQ k (aget s.nodeQ k [] ++ [e]) }

/-- The work entry of a key, from its template entry at `t` (R336, R337). -/
def keyEntry (s : State) (t : Nat) (k : UKey) : List Byte :=
  let e := s.read (s.readN t 8) 128
  let e := setDfld e 0x0C 4 15 0 k.handle
  let e := setDfld e 0x08 4 15 0 (trMb (k.recs.headD []))
  setDfld e 0x04 4 31 0 k.recs.length

/-- TOKEN_KEY_POST (R336 to R338): the LAST record of a key has been written. The answer is the status for the sender. -/
def postKey (s : State) (h : HalfId) (k : UKey) : State × Nat :=
  let base := s.rf .COL_TPL_BASE_ADDR h.val
  let t := base + 16 * (trExpert (k.recs.headD []) % 256)
  if base = 0 ∨ !bit (s.readN (t + 0x0C) 4) 3 then (dropKey s h k, stNoTemplate)
  else
    let e := keyEntry s t k
    let s := putKey s h { k with last := true }
    match resolveLocal s (s.readN (t + 0x08) 4) with
    | .ok nd => (postEntry s nd (s.readN (t + 0x0C) 4 % 8) e, stOK)
    | .error st => (refuseEntry s e (.half h) st, stOK)

/-- A whole record arrives (R336, R338): the status it is answered with. -/
def tokenRecord (s : State) (h : HalfId) (r : List Byte) : State × Nat :=
  let k := (findKey s h (trSender r) (trSpec r)).getD
    ⟨trSender r, trSpec r, newHandle s h, [], 0, false, false, false, 0, false, none⟩
  let isNew := (findKey s h (trSender r) (trSpec r)).isNone
  if k.void then (s, stUnderstoryFull)
  else if k.last then (s, stTagBusy)
  else
    let used := (heldKeys s h).foldl (fun n k => n + k.granules) 0
    if undGranules s h < used + recGranules r then
      let v := { k with recs := [], granules := 0, void := true }
      let s := if isNew then setUnd s h ((s.half h).und ++ [v]) else putKey s h v
      (s.incSat .COL_UND_EVT_FULL 1 h.val, stUnderstoryFull)
    else
      let k := { k with recs := k.recs ++ [r], granules := k.granules + recGranules r, beat := beatNow s h }
      let s := if isNew then setUnd s h ((s.half h).und ++ [k]) else putKey s h k
      if trLast r then postKey s h k else (s, stOK)

/-- The whole records at the front of a stream of bytes taken in turn (R314); the answer is the first status that is not
OK, and the bytes left. -/
def tokenBytes (s : State) (h : HalfId) (fuel : Nat) (bs : List Byte) (st : Nat) : State × List Byte × Nat :=
  match fuel with
  | 0 => (s, bs, st)
  | fuel + 1 =>
    let n := 32 + trTBytes bs
    if bs.length < 32 ∨ bs.length < n then (s, bs, st)
    else
      let r := tokenRecord (countEv s (.col h) 0x204) h (bs.take n)
      tokenBytes r.1 h fuel (bs.drop n) (if st = stOK then r.2 else st)

/-- The payload of a TOKEN packet of device `dev` received (R314, R338). -/
def receiveTokens (s : State) (h : HalfId) (dev : Nat) (payload : List Byte) : State × Nat :=
  let bs := aget (s.half h).undRx dev [] ++ payload
  let r := tokenBytes s h (bs.length / 32 + 1) bs stOK
  (r.1.setHalf h { r.1.half h with undRx := aset (r.1.half h).undRx dev r.2.1 }, r.2.2)

/-! ### Ending a speculation (R206, R207) -/

/-- CORE_SPEC_STAT (R212). -/
def specStat (s : State) (c : CoreId) (st : Nat) (z : SpecSt) (handle : Nat) : State :=
  (((s.wf .CORE_SPEC_STAT_STATE st c.val).wf .CORE_SPEC_STAT_TARGET z.target c.val).wf .CORE_SPEC_STAT_SHADOW z.shadow
    c.val).wf .CORE_SPEC_STAT_TAG handle c.val

/-- CORE_SPEC_STAT of a core that holds no speculation. -/
def specNone (s : State) (c : CoreId) : State :=
  (((s.wf .CORE_SPEC_STAT_STATE 0 c.val).wf .CORE_SPEC_STAT_TARGET 0 c.val).wf .CORE_SPEC_STAT_SHADOW 0 c.val).wf
    .CORE_SPEC_STAT_TAG 0 c.val

/-- The end that commits and cancels share: SHADOW is released, the partition cleared, and the part ends with a status
(R206, R207). -/
def endSpec (s : State) (c : CoreId) (z : SpecSt) (status : Nat) : State :=
  let s := releaseTile s c z.shadow
  let s := s.clearMem (partBase s c) (scratchBase c + scratchSize)
  let s := specNone (s.setCore c { s.core c with spec := none }) c
  finishPart s z.entry z.k status

/-- The operations of a speculative part dropped without completion (R207). -/
def dropSpecOps (s : State) (c : CoreId) (z : SpecSt) : State :=
  let x := s.core c
  let gone := (x.ops.filter Op.spec).map Op.num
  let s := gone.foldl (fun s n => dropOpDeps s c n) s
  let s := s.setCore c { s.core c with
    ops := x.ops.filter (fun o => !o.spec), mats := x.mats.filter (fun r => !gone.contains r.num),
    runAhead := x.runAhead.filter (fun r => !(r.ctx == z.ctx && z.partDone.isNone)) }
  let s := vecStat (matStat (trkStat s c) c) c
  if z.partDone.isNone then (leaveFlags s c z.ctx).setCtx c z.ctx Ctx.reset else s

/-- SPEC_CANCEL (R207): the speculation that a core holds is cancelled. -/
def cancelSpec (s : State) (c : CoreId) : State :=
  match (s.core c).spec with
  | none => s
  | some z =>
    let s := endSpec (countCore (dropShadow (dropSpecOps s c z) c) c 0x022) c z stSpecCancelled
    startVec (drainFlags s c (s.core c).ops.length) c

/-- The cores of a half that hold the speculation of a key. -/
def specCores (s : State) (h : HalfId) (sender tag : Nat) : List CoreId :=
  ((List.range 40).map (coreOf h)).filter (fun c => match (s.core c).spec with
    | some z => z.key == (sender, tag) && z.resolved.isNone
    | none => false)

/-- Every core of a list cancels its speculation. -/
def cancelAll (s : State) (cs : List CoreId) : State :=
  match cs with
  | [] => s
  | c :: rest => cancelAll (cancelSpec s c) rest

/-- Every core of a list records that its speculation is confirmed; one that commits nothing is kept until its part
ends. -/
def confirmAll (s : State) (cs : List CoreId) : State :=
  match cs with
  | [] => s
  | c :: rest =>
    let s := match (s.core c).spec with
      | some z => s.setCore c { s.core c with spec := some { z with resolved := some true } }
      | none => s
    confirmAll s rest

/-- A key whose LAST record was written is resolved (R207, R208): cores that run it confirm or cancel; one that no core
has copied keeps the resolution for its entry. -/
def resolveKey (s : State) (h : HalfId) (k : UKey) (confirm : Bool) : State :=
  let cs := specCores s h k.sender k.tag
  if k.dead then dropKey s h k
  else
    let s := if k.started then dropKey s h k
      else putKey s h { k with resolved := some confirm, recs := if confirm then k.recs else [], granules := if confirm then k.granules else 0 }
    if confirm then confirmAll s cs else cancelAll s cs

/-- Some key or speculation of a sender and tag is resolved already (R208). -/
def resolvedAlready (s : State) (h : HalfId) (sender tag : Nat) : Bool :=
  (s.half h).und.any (fun k => k.sender == sender && k.tag == tag && k.resolved.isSome) ||
  ((List.range 40).map (coreOf h)).any (fun c => match (s.core c).spec with
    | some z => z.key == (sender, tag) && z.resolved.isSome
    | none => false)

/-- A confirm or a cancel reaches a half (R208, R338). -/
def resolution (s : State) (h : HalfId) (sender tag : Nat) (confirm : Bool) : State :=
  match findKey s h sender tag with
  | none =>
    if resolvedAlready s h sender tag then s.incSat .COL_UND_EVT_DOUBLE 1 h.val else s.incSat .COL_UND_EVT_UNKNOWN 1 h.val
  | some k => if k.void ∨ !k.last then (dropKey s h k).incSat .COL_UND_EVT_UNKNOWN 1 h.val else resolveKey s h k confirm

/-! ### Starting a part (R180 to R182, R201 to R203) -/

/-- What the start of a part meets. -/
inductive PartStart where
  | ready
  | wait
  | refused (status : Nat) (dead : Bool)
  | speculative (k : UKey)
  deriving DecidableEq, Repr

/-- The records of a key as they are copied into a partition, in arrival order. -/
def keyBytes (k : UKey) : List Byte := k.recs.flatten

/-- The start of a part of an entry on a core (R182, R201 to R203). A handle that no key holds, or a cancelled key, ends
the part with SPEC_CANCELLED (log 18). A speculative part whose ring fails R180 runs nothing, so its key commits nothing. -/
def partStart (s : State) (c : CoreId) (e : List Byte) (w : WaitingPart) : PartStart :=
  if weSpec e = 0 then .ready
  else if (s.core c).spec.isSome then .wait
  else if weShadow e = 3 ∨ weTarget e = 3 ∨ weShadow e = weTarget e then .refused stInvalidTile true
  else if !(s.tile c (weShadow e)).released then .wait
  else match keyOfHandle s (halfOfCore c) (weSpec e) with
    | none => .refused stSpecCancelled false
    | some k =>
      if k.resolved = some false then .refused stSpecCancelled false
      else if min 16 (s.rf .CORE_SPEC_CFG_PART c.val) * 65536 < (keyBytes k).length ∨ s.rf .CORE_SPEC_CFG_PART c.val = 0 then
        .refused stInvalidAddress true
      else if w.desc.isNone ∧ !ringOk c (weProg e + 64 * wePStride e * w.k) (wePlen e) then .refused stInvalidAddress true
      else .speculative k

/-- A key whose entry ran nothing: a later confirm commits nothing; one already resolved is gone. -/
def killKey (s : State) (h : HalfId) (handle : Nat) (dead : Bool) : State :=
  match keyOfHandle s h handle with
  | none => s
  | some k => if k.resolved.isSome then dropKey s h k else if dead then putKey s h { k with dead := true } else s

/-- A speculative part starts (R201, R203): the key's records go to the partition, and the core holds the speculation. -/
def startSpec (s : State) (c : CoreId) (n : CtxId) (e : List Byte) (w : WaitingPart) (k : UKey) : State :=
  let h := halfOfCore c
  let z : SpecSt := ⟨(k.sender, k.tag), n, w.entry, w.k, weShadow e, weTarget e, none, k.resolved, k.dead, []⟩
  let s := s.write (partBase s c) (keyBytes k)
  let s := if k.resolved.isSome then dropKey s h k else putKey s h { k with started := true }
  let s := s.setCore c { s.core c with spec := some z }
  let s := s.setTile c z.shadow { s.tile c z.shadow with shadow := true }
  startOnCtx (countCore (specStat s c 1 z k.handle) c 0x020) c n e w true

/-- The entry of a waiting part. -/
def entryRaw (s : State) (w : WaitingPart) : List Byte :=
  match aget? s.entries w.entry with
  | some e => e.raw
  | none => []

/-- PART_START (R180, R182, R201): the first part that waits for a core and can start takes the lowest-numbered Idle
context. -/
def execPartStart (c : CoreId) (s : State) : Host.Outcome State Fault Refusal :=
  let x := s.core c
  let ws := (aget s.waiting (groveOfCore c) []).filter (fun w => w.core == c)
  match idleCtx x, ws.find? (fun w => partStart s c (entryRaw s w) w != .wait) with
  | some n, some w =>
    if !coreTakes x ∨ surveying s c then .next s
    else
      let e := entryRaw s w
      let s' := dropWaiting s c w
      match partStart s c e w with
      | .wait => .next s
      | .ready => .next (startOnCtx s' c n e w false)
      | .refused st dead => .next (finishPart (killKey s' (halfOfCore c) (weSpec e) dead) w.entry w.k st)
      | .speculative k => .next (startSpec s' c n e w k)
  | _, _ => .next s

/-- A context's part has ended: its ring has ended or stopped, and no command of it is in flight (R181, R188). -/
def partOver (s : State) (c : CoreId) (n : CtxId) : Bool :=
  let y := s.ctx c n
  y.st == .stopping && y.ended && (s.core c).ops.all (fun o => !(o.ctx == n))

/-- The LOADs that a context has read ahead and will not accept are discarded as skipped ones are (R188, R199). -/
def leaveAhead (s : State) (c : CoreId) (n : CtxId) : State :=
  if (s.core c).runAhead.any (fun r => r.ctx == n) then dropAhead s c n 0 (2 ^ 17) else s

/-- PART_COMPLETE (R181): a context's part ends; a speculative one waits for its resolution (R206). -/
def execPartComplete (c : CoreId) (n : CtxId) (s : State) : Host.Outcome State Fault Refusal :=
  if partOver s c n then
    let y := s.ctx c n
    let s := leaveAhead s c n
    match y.spec, (s.core c).spec with
    | true, some z =>
      let z := { z with partDone := some (partStatus y), dead := z.dead || (y.fail.map Prod.snd == some stSpecForbidden) }
      let s := releaseOwned s c n
      let s := (s.setCtx c n Ctx.reset).wf .CORE_SPEC_STAT_STATE 2 c.val
      .next (s.setCore c { s.core c with spec := some z })
    | _, _ => .next (endPart s c n (partStatus y))
  else .next s

/-! ### Commit and expiry (R206, R208) -/

/-- The elements of a tile that differ from +0, by number within the tile. -/
def tileElems (s : State) (c : CoreId) (t : Nat) : List Nat :=
  ((s.acc c).elems.filter (fun kv => elemTile kv.1 == t)).map (fun kv => kv.1 % 16384)

/-- SHADOW added exactly into TARGET, element by element (R108, R206); the answer is the first result that is not
done. -/
def commitTile (s : State) (c : CoreId) (sh tg : Nat) (is : List Nat) (res : DepRes) : State × DepRes :=
  match is with
  | [] => (s, res)
  | i :: rest =>
    let v := elemValue s c (sh * 16384 + i)
    if elemCorrupt (s.elem c (sh * 16384 + i)) then commitTile (coreError s c) c sh tg rest .corrupt
    else
      let r := deposit s c (tg * 16384 + i) v.l v.sc
      commitTile r.1 c sh tg rest (if res = .done then r.2 else res)

/-- SHADOW added into TARGET in the core, and in the odd core of a pair (R96, R143). -/
def commitParts (s : State) (c : CoreId) (sh tg : Nat) : State × DepRes :=
  let r := commitTile s c sh tg (tileElems s c sh) .done
  if pairHead s c then commitTile r.1 (pairMate c) sh tg (tileElems s (pairMate c) sh) r.2 else r

/-- The exception records that waited for a commit are written, or handed to the dispatcher (R91, R179, R204). -/
def releaseExcs (s : State) (h : HalfId) (z : SpecSt) : State :=
  z.excs.foldl (fun s x => match x.1 with
    | some a => s.post h a (excBytes x.2)
    | none => handExc s z.entry x.2) s

/-- A started drain of a tile is in progress (R109). -/
def drainRuns (s : State) (c : CoreId) (t : Nat) : Bool :=
  (s.core c).ops.any (fun o => o.cls == clDrain && o.started && ddTile o.desc == t)

/-- The speculation of a core that can commit: confirmed, its part complete, TARGET free of a running read. -/
def commitReady (s : State) (c : CoreId) : Option (SpecSt × Nat) :=
  match (s.core c).spec with
  | none => none
  | some z =>
    match z.partDone, z.resolved with
    | some st, some true => if drainRuns s c z.target then none else some (z, st)
    | _, _ => none

/-- SPEC_COMMIT (R206): a confirmed speculation whose part is complete adds SHADOW into TARGET; one that may commit
nothing only ends. It waits where a promotion finds no room (R105). One that finds a corrupt element of SHADOW releases SHADOW too,
which clears it: DESIGN CHOICE (log 153). -/
def specCommit (c : CoreId) (s : State) : State :=
  match commitReady s c with
  | none => s
  | some (z, st) =>
    if z.dead then (endSpec (dropShadow s c) c z st)
    else match commitParts (useTile s c z.target) c z.shadow z.target with
      | (_, .exhausted) => s
      | (s, .corrupt) => (endSpec (dropShadow s c) c z (if st = stOK then stAccCorrupt else st))
      | (s, .done) => (endSpec (releaseExcs (commitShadow (countCore s c 0x021) c) (halfOfCore c) z) c z st)

/-- A key has reached the fence of beat b + LIFE (R208); LIFE 0 is taken as 1. -/
def keyExpired (s : State) (h : HalfId) (k : UKey) : Bool :=
  !k.void && k.resolved.isNone && decide (k.beat + max 1 (s.rf .HLF_SPEC_CFG_LIFE h.val) ≤ s.fence)

/-- SPEC_EXPIRE (R208): an unresolved speculation whose lifetime has ended is cancelled and counted. -/
def specExpire (h : HalfId) (handle : Nat) (s : State) : State :=
  match keyOfHandle s h handle with
  | none => s
  | some k =>
    if keyExpired s h k then
      let s := s.incSat .COL_UND_EVT_EXPIRED 1 h.val
      (if k.last then resolveKey s h k false else dropKey s h k)
    else s

/-- PROMOTION_TIMEOUT (R105): the operation of the stalled deposit will complete with ACC_EXHAUSTED, and its tile is left
with NAN_IN in every element; a commit that stalls ends its entry so. -/
def promotionTimeout (c : CoreId) (s : State) : State :=
  match stalledDeposit s c with
  | some d => (exhaust s c d.op (elemTile d.elem))
  | none =>
    match commitReady s c with
    | none => s
    | some (z, st) =>
      if z.dead then s
      else match commitParts s c z.shadow z.target with
        | (_, .exhausted) =>
          (endSpec (dropShadow (exhaust s c none z.target) c) c z (if st = stOK then stAccExhausted else st))
        | _ => s

end Sys2Proof.Machine
end

