-- ==== Sys2Proof/Machine/FabricCmds.lean ====
section
/-!
DEFINITION. Fabric commands at their source (R310 to R315, R552), and the packets that answer them: DONE, GETDATA and the
timeout (R290).
-/

namespace Sys2Proof.Machine

/-! ### The fabric descriptor (R310) -/

abbrev fbOp (d : List Byte) : Nat := dfld d 0x00 3 0
abbrev fbChk (d : List Byte) : Bool := dbit d 0x00 4
abbrev fbTc (d : List Byte) : Nat := dfld d 0x00 6 5
abbrev fbAdapt (d : List Byte) : Bool := dbit d 0x00 7
abbrev fbAtop (d : List Byte) : Nat := dfld d 0x00 10 8
abbrev fbLast (d : List Byte) : Bool := dbit d 0x00 11
abbrev fbLen (d : List Byte) : Nat := dfld d 0x04 23 0
abbrev fbLaddr (d : List Byte) : Nat := dfld d 0x08 63 0
abbrev fbRaddr (d : List Byte) : Nat := dfld d 0x10 63 0
abbrev fbRflag (d : List Byte) : Nat := dfld d 0x18 63 0
abbrev fbOperand (d : List Byte) : Nat := dfld d 0x20 63 0
abbrev fbSpec (d : List Byte) : Nat := dfld d 0x28 15 0
abbrev fbTBytes (d : List Byte) : Nat := dfld d 0x2C 16 0

/-- The codes of R311. -/
abbrev foPut : Nat := 1
abbrev foGet : Nat := 2
abbrev foExadd : Nat := 3
abbrev foAtomic : Nat := 4
abbrev foToken : Nat := 5
abbrev foConfirm : Nat := 6
abbrev foCancel : Nat := 7
abbrev foColl : Nat := 8

/-- The bytes that an operation reads or writes at LADDR (R312): slots and escapes for an EXADD. -/
def fbSpan (s : State) (d : List Byte) : Nat :=
  match fbOp d with
  | 3 => max 1 (16 * fbLen d + 80 * longSlots s (fbLaddr d) (fbLen d))
  | 4 => 8
  | 5 => fbLen d * (32 + fbTBytes d)
  | _ => max 1 (fbLen d)

/-- LADDR of an operation is placed as R312 lays down: the issuing core's scratchpad or its half's glade; for PUT and GET
also a tier, for TOKEN the HBM tier. -/
def laddrPlace (s : State) (c : CoreId) (d : List Byte) : Bool :=
  match regionOf (fbLaddr d) (fbSpan s d) with
  | some (.scratch e) => e == c
  | some (.glade h) => h == halfOfCore c
  | some .hbm => fbOp d == foPut || fbOp d == foGet || fbOp d == foToken
  | some .lpddr => fbOp d == foPut || fbOp d == foGet
  | _ => false

/-- The status of LADDR (R312; R204, R248), or none. -/
def laddrCheck (s : State) (c : CoreId) (d : List Byte) : Option Nat :=
  if fbOp d = foConfirm ∨ fbOp d = foCancel ∨ (fbOp d = foAtomic ∧ fbLaddr d = 0) then none
  else if fbOp d = foAtomic ∧ fbLaddr d % 8 ≠ 0 then some stInvalidAddress
  else if !laddrPlace s c d then some stInvalidAddress
  else if touchesHidden s (fbLaddr d, fbSpan s d) then some stSpecHidden
  else none

/-- A half base of R259. -/
def isHalfBase (a : Nat) : Bool := a == sramBase || a == sramBase + halfStride

/-- A run of `n` accumulator elements from the element at `a`, all of one tile (R120, R312). -/
def elemRun (a n : Nat) : Bool :=
  match regionOf a (32 * n) with
  | some (.acc c) =>
    let o := a - accBase c
    o % 32 == 0 && o / 524288 == (o + 32 * n - 1) / 524288
  | _ => false

/-- The form of RADDR (R312). -/
def raddrForm (d : List Byte) : Bool :=
  let a := addrLocal (fbRaddr d)
  let n := max 1 (fbLen d)
  match fbOp d with
  | 1 => (match regionOf a n with
    | some .hbm => true
    | some .lpddr => true
    | some (.glade _) => true
    | some (.scratch _) => true
    | _ => false)
  | 2 => (match regionOf a n with
    | some .hbm => true
    | some .lpddr => true
    | some (.glade _) => true
    | some (.scratch _) => true
    | some (.acc _) => true
    | _ => false) || (flagOfLocal a).isSome
  | 3 => elemRun a n
  | 4 => (match regionOf a (atomicBytes (fbAtop d)) with
    | some (.glade _) => true
    | some (.scratch _) => true
    | _ => false)
  | _ => isHalfBase a

/-- The whole-block rule of R288 for a PUT or GET with CHK = 1. -/
def wholeBlocks (d : List Byte) : Bool :=
  !(fbChk d && (fbOp d == foPut || fbOp d == foGet)) ||
  (addrLocal (fbRaddr d) % 2048 == 0 && fbLen d % 2048 == 0 && (fbOp d == foPut || fbLaddr d % 2048 == 0))

/-- RFLAG names a flag of the device that RADDR names (R313). -/
def rflagGood (d : List Byte) : Bool :=
  fbRflag d == 0 || (addrDev (fbRflag d) == addrDev (fbRaddr d) && (flagOfLocal (addrLocal (fbRflag d))).isSome)

/-- The values of the array of an EXADD; none where one is invalid (R67, R314). -/
def exaddValues (s : State) (d : List Byte) : Option (List LVal) :=
  readPacked s (fbLaddr d) (fbLen d) (fbLaddr d + 16 * fbLen d)

/-- The checks of R552, in order. -/
def fabricCheck (s : State) (c : CoreId) (k : Cmd) : Option Nat :=
  let d := k.desc
  let op := fbOp d
  if op = 0 ∨ foColl ≤ op then some stInvalidOp
  else if fbTc d = 3 then some stPrivFault
  else if op = foAtomic ∧ 4 ≤ fbAtop d then some stInvalidOp
  else if fbRflag d ≠ 0 ∧ op ≠ foPut ∧ op ≠ foExadd then some stInvalidOp
  else if op = foToken ∧ (fbLen d = 0 ∨ fbTBytes d % 16 ≠ 0 ∨ fbTBytes d < 16 ∨ 65536 < fbTBytes d) then
    some stInvalidShape
  else if foToken ≤ op ∧ fbSpec d = 0 then some stInvalidShape
  else match laddrCheck s c d with
    | some st => some st
    | none =>
      if !raddrForm d then some stInvalidAddress
      else if !rflagGood d then some stInvalidAddress
      else if !wholeBlocks d then some stInvalidAddress
      else if op = foExadd ∧ (exaddValues s d).isNone then some stBadExchange
      else none

/-! ### Packets (R287, R288, R314) -/

/-- A range cut where target addresses are multiples of 4,096: (address, bytes) (R314). -/
def cutPages (fuel a n : Nat) : List (Nat × Nat) :=
  match fuel with
  | 0 => []
  | fuel + 1 =>
    if n = 0 then []
    else
      let k := min n (4096 - a % 4096)
      (a, k) :: cutPages fuel (a + k) (n - k)

/-- The pieces of a target range. -/
def pieces (a n : Nat) : List (Nat × Nat) := cutPages (n / 4096 + 2) a n

/-- The CRCs of the 2 KiB blocks of bytes (R288). -/
def blockCrcs (fuel : Nat) (bs : List Byte) : List Nat :=
  match fuel with
  | 0 => []
  | fuel + 1 => if bs.isEmpty then [] else crc32c (bs.take 2048) :: blockCrcs fuel (bs.drop 2048)

/-- The CRC trailer of a payload, if it carries one. -/
def trailerOf (chk : Bool) (bs : List Byte) : List Nat := if chk then blockCrcs (bs.length / 2048 + 1) bs else []

/-- The PUT packets that copy bytes to a global address. -/
def putPackets (s : State) (tc agent ra : Nat) (adapt chk : Bool) (bs : List Byte) : List (Nat × Packet) :=
  (pieces ra bs.length).map (fun x =>
    let p := (bs.drop (x.1 - ra)).take x.2
    (x.1, mkPacket s ptPut tc agent x.1 adapt chk p (trailerOf chk p)))

/-- The GET packets that copy `n` bytes from a global address to a local one. -/
def getPackets (s : State) (tc agent ra la n : Nat) (adapt chk : Bool) : List (Nat × Packet) :=
  (pieces ra n).map (fun x =>
    (x.1, mkPacket s ptGet tc agent x.1 adapt chk (natLE 8 (la + (x.1 - ra)) ++ natLE 4 x.2 ++ natLE 4 0) []))

/-- The slots of a packed array with their escapes, as they stand in memory. -/
def rawSlots (s : State) (a n esc : Nat) : List (List Byte) :=
  match n with
  | 0 => []
  | n + 1 =>
    let slot := s.read a 16
    let long := exchIsLong slot
    (if long then slot ++ s.read esc 80 else slot) :: rawSlots s (a + 16) n (if long then esc + 80 else esc)

/-- Raw slots gathered into packets, with the number of values in each. -/
def slotCut (vs : List (List Byte)) (slots escs : List Byte) (n : Nat) : List (Nat × List Byte) :=
  match vs with
  | [] => if n = 0 then [] else [(n, slots ++ escs)]
  | b :: rest =>
    if 4096 < slots.length + escs.length + b.length then (n, slots ++ escs) :: slotCut rest (b.take 16) (b.drop 16) 1
    else slotCut rest (slots ++ b.take 16) (escs ++ b.drop 16) (n + 1)

/-- Packets placed one after another: each at the element that follows the last one's values. -/
def placeElems (ra : Nat) (ps : List (Nat × List Byte)) : List (Nat × List Byte) :=
  match ps with
  | [] => []
  | (n, b) :: rest => (ra, b) :: placeElems (ra + 32 * n) rest

/-- The EXADD packets of a descriptor. -/
def exaddPackets (s : State) (agent : Nat) (d : List Byte) : List (Nat × Packet) :=
  let vs := rawSlots s (fbLaddr d) (fbLen d) (fbLaddr d + 16 * fbLen d)
  (placeElems (fbRaddr d) (slotCut vs [] [] 0)).map (fun x =>
    (x.1, mkPacket s ptExadd (fbTc d) agent x.1 (fbAdapt d) false x.2 []))

/-- Token record `i` of a descriptor, with the fields that the fabric engine fills in (R335). -/
def tokenBody (s : State) (d : List Byte) (i : Nat) : List Byte :=
  let r := s.read (fbLaddr d + i * (32 + fbTBytes d)) (32 + fbTBytes d)
  let r := setDfld r 0x00 2 15 0 (fbSpec d)
  let r := setDfld r 0x02 2 13 0 (ownDev s)
  setDfld r 0x02 2 14 14 (b2n (fbLast d && i + 1 == fbLen d))

/-- Bytes cut into payloads of at most 4,096. -/
def cutBytes (fuel : Nat) (bs : List Byte) : List (List Byte) :=
  match fuel with
  | 0 => []
  | fuel + 1 => if bs.isEmpty then [] else bs.take 4096 :: cutBytes fuel (bs.drop 4096)

/-- The TOKEN packets of a descriptor: records back to back (R314). -/
def tokenPackets (s : State) (agent : Nat) (d : List Byte) : List (Nat × Packet) :=
  let bs := (List.range (fbLen d)).flatMap (tokenBody s d)
  (cutBytes (bs.length / 4096 + 1) bs).zipIdx.map (fun x =>
    (fbRaddr d + 4096 * x.2, mkPacket s ptToken (fbTc d) agent (fbRaddr d) (fbAdapt d) false x.1 []))

/-- The packets of a descriptor's operation, the FLAGSET of its RFLAG last (R313, R314, R552). -/
def fabricPackets (s : State) (agent : Nat) (d : List Byte) : List (Nat × Packet) :=
  let ra := fbRaddr d
  let one := fun (t dst : Nat) (pl : List Byte) => [(dst, mkPacket s t (fbTc d) agent dst (fbAdapt d) false pl [])]
  let ps := match fbOp d with
    | 1 => putPackets s (fbTc d) agent ra (fbAdapt d) (fbChk d) (s.read (fbLaddr d) (fbLen d))
    | 2 => getPackets s (fbTc d) agent ra (fbLaddr d) (fbLen d) (fbAdapt d) (fbChk d)
    | 3 => exaddPackets s agent d
    | 4 => one ptAtomic ra (natLE 8 (fbAtop d) ++ natLE 8 (fbOperand d))
    | 5 => tokenPackets s agent d
    | 6 => one ptConfirm (ra + fbSpec d) []
    | _ => one ptCancel (ra + fbSpec d) []
  if fbRflag d = 0 then ps
  else ps ++ [(fbRflag d, mkPacket s ptFlagSet 2 agent (fbRflag d) (fbAdapt d) false [] [])]

/-- An accepted fabric operation leaves its core: one that has no packet completes OK at once (R552); the fabric tracker
takes every other (R189). -/
def launchFabric (s : State) (c : CoreId) (o : Op) : State :=
  let agent := ctxNumber c o.ctx
  let ps := fabricPackets s agent o.desc
  if ps.isEmpty then completeOp s c o stOK 0
  else
    let d := o.desc
    let s := trkStat (s.setCore c (putOp (s.core c) { o with started := true })) c
    startFabOp s ⟨.core c o.ctx o.num, fbOp d, fbChk d, fbLaddr d, fbRaddr d, fbLen d, 0, [], 0⟩ ps

/-- A fabric command of a context, whose OP is one that `p` names, is checked and accepted (R311, R552). -/
def acceptFabric (s : State) (c : CoreId) (n : CtxId) (p : Nat → Bool) : State :=
  acceptChecked s c n (fun k => k.cls == clFabric && p (fbOp k.desc)) (fun s k => fabricCheck s c k)
    (fun s o => launchFabric s c o)

/-- PUT (R311). -/
def execPut (c : CoreId) (n : CtxId) (s : State) : Host.Outcome State Fault Refusal :=
  .next (acceptFabric s c n (· == foPut))
/-- GET (R311). -/
def execGet (c : CoreId) (n : CtxId) (s : State) : Host.Outcome State Fault Refusal :=
  .next (acceptFabric s c n (· == foGet))
/-- EXADD (R314). -/
def execExadd (c : CoreId) (n : CtxId) (s : State) : Host.Outcome State Fault Refusal :=
  .next (acceptFabric s c n (· == foExadd))
/-- ATOMIC (R311). -/
def execAtomic (c : CoreId) (n : CtxId) (s : State) : Host.Outcome State Fault Refusal :=
  .next (acceptFabric s c n (· == foAtomic))
/-- TOKEN (R314). -/
def execToken (c : CoreId) (n : CtxId) (s : State) : Host.Outcome State Fault Refusal :=
  .next (acceptFabric s c n (· == foToken))
/-- CONFIRM (R311). -/
def execConfirm (c : CoreId) (n : CtxId) (s : State) : Host.Outcome State Fault Refusal :=
  .next (acceptFabric s c n (· == foConfirm))
/-- CANCEL (R311). -/
def execCancel (c : CoreId) (n : CtxId) (s : State) : Host.Outcome State Fault Refusal :=
  .next (acceptFabric s c n (· == foCancel))

/-- A reserved OP, or a collective of reserved KIND (R311, R317). -/
def fabricUndefined (d : List Byte) : Bool :=
  fbOp d == 0 || decide (foColl < fbOp d) || (fbOp d == foColl && (dfld d 0 6 4 == 0 || decide (4 < dfld d 0 6 4)))

/-- FABRIC_INVALID_OP (R311, R317, R552): completes with INVALID_OP. -/
def execFabricInvalidOp (c : CoreId) (n : CtxId) (s : State) : Host.Outcome State Fault Refusal :=
  .next (acceptChecked s c n (fun k => k.cls == clFabric && fabricUndefined k.desc) (fun _ _ => some stInvalidOp)
    (fun s _ => s))

/-! ### Answers (R290, R315) -/

/-- The status of an operation whose packets are all answered: that of the failed packet with the lowest target address
(R315). -/
def lowestFail (fs : List (Nat × Nat)) : Nat :=
  match fs with
  | [] => stOK
  | f :: rest => (rest.foldl (fun m x => if x.1 < m.1 then x else m) f).2

/-- A failure recorded for one packet of an operation that a DONE will still answer. -/
def notePacket (s : State) (op addr st : Nat) : State :=
  match aget? s.fab.ops op with
  | none => s
  | some x => { s with fab := { s.fab with ops := aset s.fab.ops op { x with fails := x.fails ++ [(addr, st)] } } }

/-- An operation of the fabric forgotten. -/
def dropFabOp (s : State) (op : Nat) : State :=
  { s with fab := { s.fab with ops := adrop s.fab.ops (fun k => k == op) } }

/-- Half of the device that counts an event of an issuer. -/
def ownerHalf (w : FabOwner) : HalfId :=
  match w with
  | .core c _ _ => halfOfCore c
  | .dexca h => h
  | .fwd h _ => h
  | _ => 0

/-- The bytes that answer a GET are written at their return address (R288): with CHK = 1 each CRC is compared first, and a
block of a tier is written with its CRC. The answer says whether they were written. -/
def placeGetData (s : State) (h : HalfId) (pkt : Packet) : State × Bool :=
  if pkt.chk ∧ pkt.trailer ≠ trailerOf true pkt.payload then (s, false)
  else (s.post h (addrLocal pkt.dst) pkt.payload pkt.chk, true)

/-- A packet that an ATOMIC's DONE completes writes the old value at LADDR (R311), and the operation keeps it for a
forwarder. -/
def placeOld (s : State) (op : Nat) (st old : Nat) : State :=
  match aget? s.fab.ops op with
  | none => s
  | some x =>
    let s := { s with fab := { s.fab with ops := aset s.fab.ops op { x with old := old } } }
    match x.owner with
    | .core c _ _ => if x.code = foAtomic ∧ st = stOK ∧ x.laddr ≠ 0 then s.post (halfOfCore c) x.laddr (natLE 8 old) else s
    | _ => s

/-- A port brings packets of a type (R302, R304, R379): it is ACTIVE, and takes only control packets if it came up in discover
mode, or if only management traffic is left to the device. -/
def portTakes (s : State) (p : PortId) (t : Nat) : Bool :=
  s.pf .FAB_PORT_STAT_STATE p == psActive && s.pf .FAB_PORT_STAT_DIS p == 0 &&
  ((!s.fab.mgmtOnly && !(s.port p).discover) || decide (ptBeatMark ≤ t))

/-- A packet addressed to this device that its port accepts (R295, R304): CLASS is 0 or 1. -/
def arrives (s : State) (p : PortId) (pkt : Packet) : Bool :=
  portTakes s p pkt.ptype && addrDev pkt.dst == ownDev s && decide (pkt.pclass ≤ 1)

/-- The oldest packet of this device to itself, which waits while its half's reorder store of 512 is full (R289, R295;
log 69). -/
def ownNext (s : State) (p : PortId) (pkt : Packet) : Bool :=
  s.fab.selfQ.head? == some pkt && !s.fab.mgmtOnly &&
  (!isRequest pkt.ptype || decide ((s.fab.store.filter (fun x => x.1 == portHalf p)).length < 512))

/-- The state in which a packet addressed to this device is taken, from its port or from this device itself; none where
neither holds it. -/
def inbound (s : State) (p : PortId) (pkt : Packet) : Option State :=
  if arrives s p pkt then some s
  else if ownNext s p pkt then some { s with fab := { s.fab with selfQ := s.fab.selfQ.tail } }
  else none

/-- The packet is of another job (R295). -/
def wrongJob (s : State) (pkt : Packet) : Bool := pkt.job != jobTag s

/-- A packet of another job discarded and counted at the half of its port (R295). -/
def jobMiss (s : State) (p : PortId) : State := s.incSat .FAB_DROP_JOBMIS 1 (portHalf p).val

/-- The tracker entry that a DONE answers, by its TAG and echoed OSEQ, whatever device sent it (R290, R294). -/
def matchEntry (s : State) (tag oseq : Nat) : Option FabEntry :=
  match aget? s.fab.tracker tag with
  | none => none
  | some e => if e.oseq = oseq then some e else none

/-- The tracker entry that GETDATA answers, by its TAG and the device that serves the GET (R290). -/
def matchGet (s : State) (pkt : Packet) : Option FabEntry :=
  match aget? s.fab.tracker pkt.tag with
  | none => none
  | some e => if e.dev = pkt.srcDev then some e else none

/-- The status and old value that a DONE carries (R287). -/
abbrev doneStatus (pkt : Packet) : Nat := leNat (pkt.payload.take 1)
abbrev doneOseq (pkt : Packet) : Nat := leNat ((pkt.payload.drop 1).take 2)
abbrev doneOld (pkt : Packet) : Nat := leNat ((pkt.payload.drop 8).take 8)

end Sys2Proof.Machine
end

