-- ==== Sys2Proof/Machine/Collect.lean ====
section
/-!
DEFINITION. Collectives (R317 to R328): checks, contributions, owners, deliveries and the collective record.
-/

namespace Sys2Proof.Machine

/-! ### The collective descriptor (R317) -/

abbrev kdKind (d : List Byte) : Nat := dfld d 0x00 6 4
abbrev kdIfmt (d : List Byte) : Nat := dfld d 0x00 9 7
abbrev kdOfmt (d : List Byte) : Nat := dfld d 0x00 12 10
abbrev kdRmode (d : List Byte) : Nat := dfld d 0x00 15 13
abbrev kdSat (d : List Byte) : Bool := dbit d 0x00 16
abbrev kdRoundx (d : List Byte) : Bool := dbit d 0x00 17
abbrev kdRole (d : List Byte) : Nat := dfld d 0x04 7 0
abbrev kdNContrib (d : List Byte) : Nat := dfld d 0x04 22 8
abbrev kdFirst (d : List Byte) : Nat := dfld d 0x08 31 0
abbrev kdNOwn (d : List Byte) : Nat := dfld d 0x0C 31 0
abbrev kdCount (d : List Byte) : Nat := dfld d 0x10 39 0
abbrev kdSrc (d : List Byte) : Nat := dfld d 0x18 63 0
abbrev kdDst (d : List Byte) : Nat := dfld d 0x20 63 0
abbrev kdStage (d : List Byte) : Nat := dfld d 0x28 63 0
abbrev kdStageLen (d : List Byte) : Nat := dfld d 0x30 39 0
abbrev kdCollId (d : List Byte) : Nat := dfld d 0x38 31 0
abbrev kdNode (d : List Byte) : Nat := dfld d 0x3C 31 0

abbrev ckReduce : Nat := 1
abbrev ckGather : Nat := 2
abbrev ckAllReduce : Nat := 3
abbrev ckPermute : Nat := 4

/-- Bytes of an element of a format; 16 for exchange form. -/
def kdBytes (f : Nat) : Nat := if f = 6 then 16 else elemBytes f

/-! ### Participants (R318) -/

/-- The place of the armature entry (ROLE, INDEX) of the armature at `a`, searched from entry `j` on. -/
def armFind (s : State) (a role index : Nat) (n j : Nat) : Option Nat :=
  match n with
  | 0 => none
  | n + 1 =>
    let e := a + 0x40 + 32 * j
    if s.readN e 1 = role ∧ s.readN (e + 4) 4 = index then some e else armFind s a role index n (j + 1)

/-- Entries of the armature at `a` (R43). -/
def armCount (s : State) (a : Nat) : Nat := s.readN (a + 0x10) 4 % 2 ^ 21

/-- The device that an armature entry names; none for a group-level entry, a slot reference, or no entry (R318). -/
def armDevice (s : State) (a role index : Nat) : Option Nat :=
  match armFind s a role index (armCount s a) 0 with
  | none => none
  | some e =>
    let r := s.readN (e + 8) 4
    if refLevel r = 3 ∧ !refSlot r then some (refDev r) else none

/-- The devices of the entries (ROLE, FIRST) to (ROLE, FIRST + n − 1), or none where one names no device. -/
def armDevices (s : State) (a role first n : Nat) : Option (List Nat) :=
  match n with
  | 0 => some []
  | n + 1 =>
    match armDevice s a role first, armDevices s a role (first + 1) n with
    | some d, some r => some (d :: r)
    | _, _ => none

/-- An installation is acknowledged and waits for its beat (R47, R49). -/
def armArmed (s : State) : Bool := s.rb .COL_ARM_STAT_ARMED

/-! ### Acceptance (R317 to R319) -/

/-- The formats of R319 and R325, and RMODE. -/
def kdFormats (d : List Byte) : Bool :=
  let fl := fun f => decide (f ≤ 4)
  (match kdKind d with
    | 4 => true
    | 2 => fl (kdIfmt d) && kdOfmt d == kdIfmt d
    | 3 => (fl (kdIfmt d) || kdIfmt d == 6) && fl (kdOfmt d)
    | _ => (fl (kdIfmt d) || kdIfmt d == 6) && (fl (kdOfmt d) || kdOfmt d == 6)) &&
  decide (kdRmode d ≤ 4) && !(kdRoundx d && kdOfmt d == 6)

/-- The staging area's place (R317). -/
def kdStagePlace (c : CoreId) (d : List Byte) : Bool :=
  match regionOf (kdStage d) (kdStageLen d) with
  | some (.glade h) => h == halfOfCore c
  | some .hbm => true
  | _ => false

/-- A buffer of this device that a collective reads or writes (log 20). -/
def kdBuffer (a len : Nat) : Bool :=
  len == 0 || (match regionOf a len with
    | some .hbm => true
    | some .lpddr => true
    | some (.glade _) => true
    | some (.scratch _) => true
    | _ => false)

/-- Chunk `j`: its first element and the one past its last (R318). -/
def kdChunk (d : List Byte) (j : Nat) : Nat × Nat := (j * kdCount d / kdNOwn d, (j + 1) * kdCount d / kdNOwn d)

/-- The places of a device in a list of participants. -/
def placesOf (dev : Nat) (ds : List Nat) : List Nat := (ds.zipIdx.filter (fun x => x.1 == dev)).map Prod.snd

/-- Elements of the owned chunks before chunk `j`: owned chunks stand back to back (log 20). -/
def ownedBefore (d : List Byte) (js : List Nat) (j : Nat) : Nat :=
  (js.filter (fun i => decide (i < j))).foldl (fun n i => n + ((kdChunk d i).2 - (kdChunk d i).1)) 0

/-- Elements of all owned chunks. -/
def ownedAll (d : List Byte) (js : List Nat) : Nat :=
  js.foldl (fun n i => n + ((kdChunk d i).2 - (kdChunk d i).1)) 0

/-- The buffers of a collective on this device, as (address, bytes). -/
def kdBuffers (d : List Byte) (rs js : List Nat) : List (Nat × Nat) :=
  let n := kdCount d
  let ib := kdBytes (kdIfmt d)
  match kdKind d with
  | 1 => (if rs.isEmpty then [] else [(kdSrc d, n * ib)]) ++
      (if js.isEmpty then [] else [(kdDst d, ownedAll d js * (if kdOfmt d = 6 then 96 else kdBytes (kdOfmt d)))])
  | 2 => (if rs.isEmpty then [] else [(kdDst d, n * ib)]) ++ (if js.isEmpty then [] else [(kdSrc d, ownedAll d js * ib)])
  | _ => if rs.isEmpty then [] else [(kdSrc d, n * ib), (kdDst d, n * kdBytes (kdOfmt d))]

/-- The exact values of the input of a contributor (R75, R320); none where an exchange value is invalid. -/
def kdValues (s : State) (d : List Byte) : Option (List LVal) :=
  match fmtOf (kdIfmt d) with
  | some f =>
    let b := elemBytes (kdIfmt d)
    some ((List.range (kdCount d)).map (fun t => (f.decode (s.readN (kdSrc d + b * t) b)).toLong))
  | none => readPacked s (kdSrc d) (kdCount d) (kdSrc d + 16 * kdCount d)

/-- The entries of the armature in force whose participants are those of a descriptor. -/
def kdContribs (s : State) (d : List Byte) : Option (List Nat) :=
  armDevices s (armAddr s) (kdRole d) (kdFirst d) (kdNContrib d)
/-- The owners of a descriptor. -/
def kdOwners (s : State) (d : List Byte) : Option (List Nat) :=
  armDevices s (armAddr s) (kdRole d) (kdFirst d) (kdNOwn d)

/-- The checks of R317, in order, then those of the buffers and of exchange values (log 20); an area in the understory is hidden
(R248). -/
def collCheck (s : State) (c : CoreId) (k : Cmd) : Option Nat :=
  let d := k.desc
  if kdKind d = 0 ∨ 4 < kdKind d then some stInvalidOp
  else if !kdFormats d then some stInvalidFormat
  else if kdNContrib d = 0 ∨ 16384 < kdNContrib d ∨ kdNOwn d = 0 ∨ 16384 < kdNOwn d ∨ kdCount d = 0 then
    some stInvalidShape
  else if kdStageLen d < 64 ∨ !kdStagePlace c d then some stInvalidAddress
  else if touchesHidden s (kdStage d, kdStageLen d) then some stSpecHidden
  else if kdKind d = ckPermute ∧ !armArmed s then some stCollMismatch
  else match kdContribs s d, kdOwners s d with
    | some cs, some os =>
      let rs := placesOf (ownDev s) cs
      let js := placesOf (ownDev s) os
      if rs.isEmpty ∧ js.isEmpty then some stCollMismatch
      else if kdKind d = ckPermute then none
      else if !((kdBuffers d rs js).all (fun r => kdBuffer r.1 r.2)) then some stInvalidAddress
      else if (kdBuffers d rs js).any (fun r => r.2 != 0 && touchesHidden s r) then some stSpecHidden
      else if kdKind d ≠ ckGather ∧ !rs.isEmpty ∧ (kdValues s d).isNone then some stBadExchange
      else none
    | _, _ => some stCollMismatch

/-! ### Contributions (R320, R321, R325) -/

/-- Z of R320: the bytes of a slot. -/
def kdSlot (d : List Byte) : Nat := (kdStageLen d - 64) / kdNContrib d / 16 * 16
/-- The base of slot `r` of a staging area. -/
def kdSlotBase (d : List Byte) (r : Nat) : Nat := kdStage d + 64 + r * kdSlot d

/-- DSIG of R321. -/
def kdDsig (d : List Byte) : Nat := crc32c (d.take 0x18 ++ (d.drop 0x38).take 4)

/-- The draw of element `t` of a collective (R71): a pure function of seed, step, micro-batch, COLL_ID and element, whose stream and
coordinates the spec does not give, so that its value is free (log 20). -/
def collDraw (s : State) (x : Coll) (t : Nat) : Nat :=
  Config.collDraw (s.rf .VEC_RNG_SEED_SEED (halfOfCore x.core).val) x.step x.mb (kdCollId x.desc) t % 2 ^ 32

/-- A value converted to OFMT under RMODE and SAT (R72). -/
def collRound (s : State) (x : Coll) (f : Fmt) (t : Nat) (v : LVal) : Nat :=
  f.ofLong ((rmodeOf (kdRmode x.desc) (collDraw s x t)).getD .rne) (kdSat x.desc) v

/-- Values as a packed array of canonical exchange values (R68). -/
def packValues (vs : List LVal) : List Byte :=
  let bs := vs.map exchEncode
  bs.flatMap (fun b => b.take 16) ++ bs.flatMap (fun b => b.drop 16)

/-- Values written in OFMT from element `lo` on, or packed where OFMT is exchange form. -/
def outValues (s : State) (x : Coll) (lo : Nat) (vs : List LVal) : List Byte :=
  match fmtOf (kdOfmt x.desc) with
  | some f => (vs.zipIdx lo).flatMap (fun y => natLE (elemBytes (kdOfmt x.desc)) (collRound s x f y.2 y.1))
  | none => packValues vs

/-- The array of a contribution, with its escapes counted (R320, R325). -/
def contribArray (s : State) (x : Coll) (lo : Nat) (vs : List LVal) : List Byte × Nat :=
  if kdRoundx x.desc then (outValues s x lo vs, 0)
  else (packValues vs, (vs.filter exchEscapes).length)

/-- The 32-byte header of a contribution (R321). -/
def contribHeader (s : State) (x : Coll) (arr : List Byte) (nesc : Nat) : List Byte :=
  natLE 4 (kdCollId x.desc) ++ natLE 4 x.epoch ++ natLE 4 (ownDev s) ++ natLE 4 (kdDsig x.desc) ++
    natLE 8 (digest 1 arr) ++ natLE 4 nesc ++ natLE 4 0

/-- A collective replaced. -/
def putColl (s : State) (x : Coll) : State :=
  { s with fab := { s.fab with colls := s.fab.colls.map (fun y => if y.id = x.id then x else y) } }

/-- The collective with a number. -/
def findColl (s : State) (id : Nat) : Option Coll := s.fab.colls.find? (fun x => x.id == id)

/-- The collectives of a half in progress, kept in COL_SEQ_STAT (R344). -/
def collStat (s : State) (h : HalfId) : State :=
  s.wf .COL_SEQ_STAT_ACTIVE (s.fab.colls.filter (fun x => x.running && !x.ended && halfOfCore x.core == h)).length h.val

/-- The agent number of a half's sequencer (log 20). -/
def seqAgent (c : CoreId) : Nat := 0x3FD + (halfOfCore c).val

/-- Bytes put to another device by a sequencer, with the RFLAG that follows (R320, R326; log 20). -/
def collSend (s : State) (x : Coll) (j : Nat) (own : Bool) (dev a : Nat) (bs : List Byte) : State :=
  let ra := globalAddr dev a
  let ps := putPackets s 1 (seqAgent x.core) ra false false bs ++
    [(ra, mkPacket s ptFlagSet 1 (seqAgent x.core) ra false false [] [])]
  startFabOp s ⟨.coll x.id j own, 0, false, 0, ra, bs.length, 0, [], 0⟩ (ps.map (fun p => (p.1, { p.2 with epoch := x.epoch })))

/-! ### Owners (R322, R323) -/

/-- The base of slot `r` of the staging area of owner chunk `j` (R320), or of the standby area of a chunk taken over
(R380). -/
def slotBase (x : Coll) (j r : Nat) : Nat := aget x.moved j (kdStage x.desc) + 64 + r * kdSlot x.desc

/-- The values of an array of `n` elements at `a` as an owner reads them; none where one is invalid. -/
def arrayValues (s : State) (x : Coll) (a n : Nat) : Option (List LVal) :=
  if kdRoundx x.desc then
    match fmtOf (kdOfmt x.desc) with
    | some f =>
      let b := elemBytes (kdOfmt x.desc)
      some ((List.range n).map (fun t => (f.decode (s.readN (a + b * t) b)).toLong))
    | none => none
  else readPacked s a n (a + 16 * n)

/-- The bytes of a staged array of `n` elements with `nesc` escapes. -/
def stagedBytes (x : Coll) (n nesc : Nat) : Nat :=
  if kdRoundx x.desc then n * elemBytes (kdOfmt x.desc) else 16 * n + 80 * nesc

/-- The contributors that will still contribute to chunk `j`: those not declared failed, or already included (R379). -/
def expected (s : State) (x : Coll) (j : Nat) : Nat :=
  (x.contribs.zipIdx.filter (fun y => !failedDev s y.1 || x.incl.contains (j, y.2))).length

/-- The contributions of chunk `j` that are included. -/
def included (x : Coll) (j : Nat) : List Nat := (x.incl.filter (fun p => p.1 == j)).map Prod.snd

/-- The exact sums of chunk `j` over its included contributions (R323). -/
def chunkSums (s : State) (x : Coll) (j : Nat) : List LVal :=
  let n := (kdChunk x.desc j).2 - (kdChunk x.desc j).1
  let arrs := (included x j).filterMap (fun r => arrayValues s x (slotBase x j r + 32) n)
  (List.range n).map (fun t => sumTerms (arrs.map (fun vs => vs.getD t LVal.zero)))

/-- A chunk delivered to every contributor (R326): put and RFLAG to another device; written here for this one. -/
def spreadChunk (s : State) (x : Coll) (j off : Nat) (bs : List Byte) (ds : List Nat) : State :=
  match ds with
  | [] => s
  | dev :: rest =>
    let s :=
      if dev = ownDev s then
        match findColl s x.id with
        | none => s
        | some y => if y.recvClosed then s
          else
            let got := if y.got.contains j then y.got else y.got ++ [j]
            putColl (s.post (halfOfCore x.core) (kdDst x.desc + off) bs)
              { y with got := got, recvClosed := decide (kdNOwn x.desc ≤ got.length) }
      else collSend s x j true dev (kdDst x.desc + off) bs
    spreadChunk s x j off bs rest

/-- The shares of `n` elements over the Active slots of NODE, which combine them (R324, R38); all of them fall to the issuing core
where NODE is zero or names no node that accepts work (log 20). -/
def combineShares (s : State) (x : Coll) (n : Nat) : List Share :=
  if kdNode x.desc = 0 then [.core x.core 0 n]
  else match resolveLocal s (kdNode x.desc) with
    | .ok nd => spread s true 6 nd 0 n
    | .error _ => [.core x.core 0 n]

/-- Non-canonical values among elements `lo` to `hi − 1` of a packed array of `n` at `a` (R68, R69). -/
def nonCanonPart (s : State) (a n lo hi : Nat) : Nat :=
  nonCanon s (a + 16 * lo) (hi - lo) (a + 16 * n + 80 * longSlots s a lo)

/-- The non-canonical values of chunk `j` counted by the cores that combine them (R69, R324). -/
def countCombined (s : State) (x : Coll) (j n : Nat) (shs : List Share) : State :=
  match shs with
  | [] => s
  | .core c lo hi :: rest =>
    let k := ((included x j).map (fun r => nonCanonPart s (slotBase x j r + 32) n lo hi)).sum
    countCombined (countCore s c 0x01C k) x j n rest
  | _ :: rest => countCombined s x j n rest

/-- Every included contribution of chunk `j` holds valid values (R67). -/
def chunkValid (s : State) (x : Coll) (j : Nat) : Bool :=
  let n := (kdChunk x.desc j).2 - (kdChunk x.desc j).1
  (included x j).all (fun r => (arrayValues s x (slotBase x j r + 32) n).isSome)

/-- Owner chunk `j` closed (R323, R326): its sums are converted once; a reduce-scatter writes them at DST, or those of a chunk
taken over at the base of its standby area (log 25); an all-reduce delivers them. An invalid value fails the collective here, and
nothing of the chunk is written (R67). -/
def closeChunk (s : State) (x : Coll) (j : Nat) : State :=
  let lo := (kdChunk x.desc j).1
  let n := (kdChunk x.desc j).2 - lo
  if !chunkValid s x j then putColl s { x with closed := x.closed ++ [j], ofails := x.ofails ++ [stBadExchange] }
  else
    let bs := outValues s x lo (chunkSums s x j)
    let s := if kdRoundx x.desc then s else countCombined s x j n (combineShares s x n)
    let s := putColl s { x with closed := x.closed ++ [j] }
    if kdKind x.desc = ckReduce then
      let js := placesOf (ownDev s) x.owners
      let b := if kdOfmt x.desc = 6 then 96 else kdBytes (kdOfmt x.desc)
      s.post (halfOfCore x.core) ((aget? x.moved j).getD (kdDst x.desc + b * ownedBefore x.desc js j)) bs
    else spreadChunk s x j (lo * kdBytes (kdOfmt x.desc)) bs x.contribs.eraseDups

/-- Owner chunk `j` closed if it has included every contribution that will come (R322, R379). -/
def closeIfFull (s : State) (id j : Nat) : State :=
  match findColl s id with
  | none => s
  | some x =>
    if !x.closed.contains j ∧ expected s x j ≤ (included x j).length then closeChunk s x j else s

/-- A contribution `r` to owner chunk `j` examined when its RFLAG arrives (R322): the status for its contributor. -/
def contribArrives (s : State) (x : Coll) (j r : Nat) : State × Nat :=
  let h := halfOfCore x.core
  let a := slotBase x j r
  let n := (kdChunk x.desc j).2 - (kdChunk x.desc j).1
  let nesc := s.readN (a + 0x18) 4
  let seen := fun (y : Coll) => { y with seen := y.seen ++ [(j, r)] }
  if x.closed.contains j then
    (countEv ((putColl s { seen x with nlate := x.nlate + 1 }).incSat .COL_SEQ_STAT_LATE 1 h.val) (.col h) 0x201, stCollLate)
  else if s.readN a 4 ≠ kdCollId x.desc ∨ s.readN (a + 4) 4 ≠ x.epoch ∨ s.readN (a + 0x0C) 4 ≠ kdDsig x.desc then
    (putColl s { seen x with nmismatch := x.nmismatch + 1 }, stCollMismatch)
  else
    let len := stagedBytes x n nesc
    let s := countEv s (.col h) 0x202 (digestBlocks len)
    if kdSlot x.desc < 32 + len ∨ digest 1 (s.read (a + 32) len) ≠ s.readN (a + 0x10) 8 then
      (putColl s { seen x with ndigest := x.ndigest + 1 }, stDigestMismatch)
    else if x.incl.contains (j, r) then (putColl s (seen x), stOK)
    else (closeIfFull (countEv (putColl s { seen x with incl := x.incl ++ [(j, r)] }) (.col h) 0x200) x.id j, stOK)

/-! ### Starting (R320, R326) -/

/-- The contribution `r` of this device to owner `j` (R320, R322): staged here where this device is the owner, else put
and flagged; one larger than a slot sends nothing. -/
def sendContrib (s : State) (x : Coll) (vals : List LVal) (r j dev : Nat) : State :=
  let ch := kdChunk x.desc j
  let arr := contribArray s x ch.1 ((vals.drop ch.1).take (ch.2 - ch.1))
  let bs := contribHeader s x arr.1 arr.2 ++ arr.1
  let s := countEv s (.col (halfOfCore x.core)) 0x202 (digestBlocks arr.1.length)
  match findColl s x.id with
  | none => s
  | some y =>
    if kdSlot x.desc < bs.length then putColl s { y with cfails := y.cfails ++ [(j, stStageShort)] }
    else if dev = ownDev s then
      (contribArrives (s.write (slotBase y j r) bs) y j r).1
    else collSend s x j false dev (slotBase y j r) bs

/-- The contributions of this device as contributor `r`, to the owners from `j` on. -/
def sendContribs (s : State) (x : Coll) (vals : List LVal) (r j : Nat) (owners : List Nat) : State :=
  match owners with
  | [] => s
  | dev :: rest => sendContribs (sendContrib s x vals r j dev) x vals r (j + 1) rest

/-- Every contribution of this device. -/
def contributeAll (s : State) (x : Coll) (vals : List LVal) (rs : List Nat) : State :=
  match rs with
  | [] => s
  | r :: rest => contributeAll (sendContribs s x vals r 0 x.owners) x vals rest

/-- A range that a collective engine reads: the blocks of a tier are verified (R270); the answer says whether one escalated. -/
def verifyRead (s : State) (a n : Nat) : State × Bool :=
  if 0 < n ∧ inTier a n then verifyBlocks s (blocksOf a n) 0 else (s, false)

/-- A failure of this device's part as contributor (R328). -/
def failPart (s : State) (id j st : Nat) : State :=
  match findColl s id with
  | none => s
  | some y => putColl s { y with cfails := y.cfails ++ [(j, st)] }

/-- The bytes of a contributor's input (R320). -/
def srcSpan (s : State) (d : List Byte) : Nat :=
  if kdIfmt d = 6 then 16 * kdCount d + 80 * longSlots s (kdSrc d) (kdCount d) else kdCount d * kdBytes (kdIfmt d)

/-- This device's part as contributor begins (R320): its input is verified where it lies in a tier, non-canonical values are counted
(R69), and every contribution is sent; a block that escalates fails the part, which then sends nothing (R271). -/
def contribute (s : State) (x : Coll) (rs : List Nat) : State :=
  if rs.isEmpty then s
  else
    let d := x.desc
    let v := verifyRead s (kdSrc d) (srcSpan s d)
    if v.2 then failPart v.1 x.id 0 stChecksum
    else
      let s := if kdIfmt d = 6 then
          countCore v.1 x.core 0x01C (nonCanon v.1 (kdSrc d) (kdCount d) (kdSrc d + 16 * kdCount d))
        else v.1
      contributeAll s x ((kdValues s d).getD []) rs

/-- The owned chunks of an all-gather delivered (R326), each verified first where it lies in a tier (R270, R271). -/
def gatherAll (s : State) (x : Coll) (js all : List Nat) : State :=
  match js with
  | [] => s
  | j :: rest =>
    let ch := kdChunk x.desc j
    let b := kdBytes (kdIfmt x.desc)
    let a := kdSrc x.desc + b * ownedBefore x.desc all j
    let v := verifyRead s a ((ch.2 - ch.1) * b)
    let y := (findColl v.1 x.id).getD x
    if v.2 then gatherAll (putColl v.1 { y with closed := y.closed ++ [j], ofails := y.ofails ++ [stChecksum] }) x rest all
    else
      let s := putColl v.1 { y with closed := y.closed ++ [j] }
      gatherAll (spreadChunk s x j (ch.1 * b) (s.read a ((ch.2 - ch.1) * b)) x.contribs.eraseDups) x rest all

/-- The parts of a permute to the armature at `new`: COUNT bytes are split over its entries as chunks are (log 21). -/
def permParts (s : State) (d : List Byte) (new : Nat) (n j : Nat) : List PermPart :=
  match n with
  | 0 => []
  | n + 1 =>
    let rest := permParts s d new n (j + 1)
    let find := fun a => armFind s a (kdRole d) (kdFirst d + j) (armCount s a) 0
    match find (armAddr s), find new with
    | some o, some e =>
      let ch := kdChunk d j
      if refLevel (s.readN (e + 8) 4) = 3 ∧ !refSlot (s.readN (e + 8) 4) then
        ⟨refDev (s.readN (o + 8) 4), s.readN (o + 0x18) 8, refDev (s.readN (e + 8) 4), s.readN (e + 0x18) 8, ch.1, ch.2 - ch.1⟩ :: rest
      else rest
    | _, _ => rest

/-- The bytes of a part stay where they are, and are not moved (R327). -/
def PermPart.stays (p : PermPart) : Bool := p.newDev == p.oldDev && p.newBase == p.oldBase

/-- The destination of a part overlaps a range that its new device still holds, whether or not that range moves (R327). -/
def permStaged (ps : List PermPart) (p : PermPart) : Bool :=
  ps.any (fun q => q.oldDev == p.newDev && decide (q.oldBase < p.newBase + p.len) && decide (p.newBase < q.oldBase + q.len))

/-- Where the bytes of a part are written on their new device: in place, or in the staging area (log 21). -/
def permTarget (d : List Byte) (ps : List PermPart) (p : PermPart) : Nat :=
  if permStaged ps p then kdStage d + 64 + p.off else p.newBase

/-- The bytes that leave this device, or move within it. -/
def permSend (s : State) (x : Coll) (all ps : List PermPart) : State :=
  match ps with
  | [] => s
  | p :: rest =>
    let s :=
      if p.oldDev ≠ ownDev s ∨ p.stays then s
      else
        let v := verifyRead s p.oldBase p.len
        let bs := s.read p.oldBase p.len
        let a := permTarget x.desc all p
        if v.2 then failPart v.1 x.id 0 stChecksum
        else if p.newDev = ownDev s then v.1.post (halfOfCore x.core) a bs
        else startFabOp v.1 ⟨.coll x.id 0 true, 0, false, 0, globalAddr p.newDev a, bs.length, 0, [], 0⟩
          ((putPackets s 1 (seqAgent x.core) (globalAddr p.newDev a) false false bs).map (fun k => (k.1, { k.2 with epoch := x.epoch })))
    permSend s x all rest

/-- The copies from the staging area that the fence of the target beat will make (R327). -/
def permCopies (s : State) (d : List Byte) (ps : List PermPart) : List (Nat × Nat × Nat) :=
  (ps.filter (fun p => p.newDev == ownDev s && !p.stays && permStaged ps p)).map (fun p => (kdStage d + 64 + p.off, p.newBase, p.len))

/-- The command of a collective leaves the FABRIC queue of its core: its sequencer has started it (R189, R344). -/
def dequeueColl (s : State) (x : Coll) : State :=
  match findOp (s.core x.core) x.num with
  | some o => trkStat (s.setCore x.core (putOp (s.core x.core) { o with started := true })) x.core
  | none => s

/-- A collective started by its sequencer (R320, R326, R327), with the participants and parts of its acceptance (R330). -/
def runColl (s : State) (x : Coll) : State :=
  let d := x.desc
  let x := { x with running := true }
  let s := dequeueColl (putColl s x) x
  let s :=
    if kdKind d = ckPermute then
      let s := permSend s x x.perm x.perm
      { s with fab := { s.fab with permCopies := s.fab.permCopies ++ permCopies s d x.perm } }
    else if kdKind d = ckGather then gatherAll s x (placesOf (ownDev s) x.owners) (placesOf (ownDev s) x.owners)
    else contribute s x (placesOf (ownDev s) x.contribs)
  collStat s (halfOfCore x.core)

/-- Collectives that a half has in progress. -/
def collActive (s : State) (h : HalfId) : Nat :=
  (s.fab.colls.filter (fun x => x.running && !x.ended && halfOfCore x.core == h)).length

/-- The waiting collectives of a half start while it has fewer than 16 in progress (R344). -/
def startColls (s : State) (h : HalfId) (fuel : Nat) : State :=
  match fuel with
  | 0 => s
  | fuel + 1 =>
    match s.fab.colls.find? (fun x => !x.running && halfOfCore x.core == h) with
    | none => s
    | some x => if collActive s h < 16 then startColls (runColl s x) h fuel else s

/-- The phase whose window a collective runs in: the first open phase of this device at its acceptance (log 22). -/
def currentPhase (s : State) : Option Nat :=
  ((s.beat.phases.find? (fun p => p.part && p.opened && !p.closed)).map PhaseRun.phase)

/-- The place at which the RFLAG of a participant's delivery arrives (log 20): of contribution `r` to chunk `j`, or of
chunk `j` to a contributor. -/
inductive SeqFlag where
  | contrib (j r : Nat)
  | chunk (j : Nat)
  deriving DecidableEq, Repr

/-- The RFLAG that a sequencer address stands for in a collective of this device, sent by device `dev`: first of those not
yet answered. -/
def seqFlagOf (s : State) (x : Coll) (dev a : Nat) : Option SeqFlag :=
  let js := placesOf (ownDev s) x.owners
  let pairs := js.flatMap (fun j => (placesOf dev x.contribs).map (fun r => (j, r)))
  match pairs.find? (fun p => kdKind x.desc != ckGather && kdKind x.desc != ckPermute && slotBase x p.1 p.2 == a &&
      !x.seen.contains p) with
  | some (j, r) => some (.contrib j r)
  | none =>
    let b := kdBytes (if kdKind x.desc = ckGather then kdIfmt x.desc else kdOfmt x.desc)
    (((placesOf dev x.owners).find? (fun j => (kdKind x.desc == ckGather || kdKind x.desc == ckAllReduce) &&
      !x.got.contains j && kdDst x.desc + (kdChunk x.desc j).1 * b == a)).map SeqFlag.chunk)

/-- Bytes of a delivered element. -/
def gotBytes (x : Coll) : Nat := kdBytes (if kdKind x.desc = ckGather then kdIfmt x.desc else kdOfmt x.desc)

/-- The bytes that chunk `j` covers at DST (R326): where they begin, and their number. -/
def chunkRange (x : Coll) (j : Nat) : Nat × Nat :=
  (kdDst x.desc + (kdChunk x.desc j).1 * gotBytes x, ((kdChunk x.desc j).2 - (kdChunk x.desc j).1) * gotBytes x)

/-- A range lies in chunk `j`. -/
def inChunk (x : Coll) (j a n : Nat) : Bool :=
  decide ((chunkRange x j).1 ≤ a) && decide (a + n ≤ (chunkRange x j).1 + (chunkRange x j).2)

/-- The bytes that have arrived for a chunk written at DST. -/
def placeParts (s : State) (h : HalfId) (ps : List (Nat × List Byte)) : State :=
  match ps with
  | [] => s
  | p :: rest => placeParts (s.post h p.1 p.2) h rest

/-- An owner chunk has arrived whole at a contributor (R326): it is written and counted, or late once its part is closed, which
leaves its DST bytes unchanged. -/
def chunkArrives (s : State) (x : Coll) (j : Nat) : State × Nat :=
  let rest := x.parts.filter (fun p => !inChunk x j p.1 p.2.length)
  if x.recvClosed ∨ x.ended then (putColl s { x with parts := rest }, stCollLate)
  else
    let got := x.got ++ [j]
    let s := placeParts s (halfOfCore x.core) (x.parts.filter (fun p => inChunk x j p.1 p.2.length))
    (putColl s { x with got := got, parts := rest, recvClosed := decide (kdNOwn x.desc ≤ got.length) }, stOK)

/-- The collective of this device for which a put brings part of an owner chunk that it has not received (R326; log 140): by its
sender, its class, its epoch and its place. -/
def chunkColl (s : State) (pkt : Packet) : Option Coll :=
  s.fab.colls.find? (fun x =>
    x.running && (kdKind x.desc == ckGather || kdKind x.desc == ckAllReduce) && decide (0x3FD ≤ pkt.srcAgent) && pkt.tc == 1 &&
    pkt.epoch == x.epoch && !(placesOf (ownDev s) x.contribs).isEmpty &&
    (placesOf pkt.srcDev x.owners).any (fun j => !x.got.contains j && inChunk x j (addrLocal pkt.dst) pkt.payload.length))

/-- Part of an owner chunk kept until its RFLAG, or left aside once the part of the contributor is closed (R326). -/
def keepPart (s : State) (x : Coll) (pkt : Packet) : State :=
  if x.recvClosed ∨ x.ended then s else putColl s { x with parts := x.parts ++ [(addrLocal pkt.dst, pkt.payload)] }

/-- The collective that an RFLAG at a place is for (R320, R322): one in progress that expects it; else one that has ended, whose late
contribution or chunk it is, if the slot holds its COLL_ID. -/
def seqColl (s : State) (dev a : Nat) : Option Coll :=
  match s.fab.colls.find? (fun x => x.running && !x.ended && (seqFlagOf s x dev a).isSome) with
  | some x => some x
  | none => s.fab.colls.find? (fun x => x.running && x.ended && (match seqFlagOf s x dev a with
    | some (.contrib _ _) => s.readN a 4 == kdCollId x.desc
    | some (.chunk _) => true
    | none => false))

/-- A FLAGSET to a sequencer (R320, R322, R326): its status, or none where no collective of this device expects it yet. -/
def seqFlagArrives (s : State) (dev a : Nat) : State × Option Nat :=
  match seqColl s dev a with
  | none => (s, none)
  | some x =>
    match seqFlagOf s x dev a with
    | some (.contrib j r) => let q := contribArrives s x j r; (q.1, some q.2)
    | some (.chunk j) => let q := chunkArrives s x j; (q.1, some q.2)
    | none => (s, none)

/-- A place that a sequencer may be flagged at: a staging slot or a chunk's DST, never a flag (log 20). -/
def seqPlace (a : Nat) : Bool :=
  match regionOf a 16 with
  | some .hbm => true
  | some .lpddr => true
  | some (.glade _) => true
  | some (.scratch _) => true
  | _ => false

/-- RFLAGs that came before their collective answered (R320): each is examined again. -/
def drainEarly (s : State) (ps : List (HalfId × Packet)) : State :=
  match ps with
  | [] => s
  | (h, p) :: rest =>
    match seqFlagArrives s p.srcDev (addrLocal p.dst) with
    | (s', some st) =>
      let s' := { s' with fab := { s'.fab with answered := aset s'.fab.answered (p.srcDev, p.oseq) (st, 0) } }
      drainEarly (sendDone s' h p st 0) rest
    | (_, none) => drainEarly { s with fab := { s.fab with collEarly := s.fab.collEarly ++ [(h, p)] } } rest

/-- RFLAGs that came early tried again. -/
def retryEarly (s : State) : State :=
  drainEarly { s with fab := { s.fab with collEarly := [] } } s.fab.collEarly

/-- An accepted collective comes to its half's sequencer, with the participants and the parts that the armatures give now (R317,
R330); it waits in the FABRIC queue of its core while the half runs 16 (R344). -/
def launchColl (s : State) (c : CoreId) (o : Op) : State :=
  let d := o.desc
  let perm := kdKind d == ckPermute
  let id := s.fab.nextOp
  let x : Coll :=
    { id := id, core := c, ctx := o.ctx, num := o.num, desc := d, epoch := epochNow s,
      phase := currentPhase s, running := false,
      contribs := if perm then [] else (kdContribs s d).getD [], owners := if perm then [] else (kdOwners s d).getD [],
      perm := (match perm, s.beat.armed with
        | true, some (new, _) => permParts s d new (kdNOwn d) 0
        | _, _ => []),
      parts := [],
      step := o.step, mb := o.mb, incl := [], seen := [], closed := [], got := [], recvClosed := false, nlate := 0,
      ndigest := 0, nmismatch := 0, cfails := [], ofails := [], ended := false, moved := [] }
  let s := { s with fab := { s.fab with nextOp := id + 1, colls := s.fab.colls ++ [x] } }
  retryEarly (startColls s (halfOfCore c) 16)

/-- A collective of a context, of a kind that `p` names, is checked and accepted (R317). -/
def acceptColl (s : State) (c : CoreId) (n : CtxId) (kind : Nat) : State :=
  acceptChecked s c n (fun k => k.cls == clFabric && fbOp k.desc == foColl && kdKind k.desc == kind)
    (fun s k => collCheck s c k) (fun s o => launchColl s c o)

/-- REDUCE_SCATTER (R320). -/
def execReduceScatter (c : CoreId) (n : CtxId) (s : State) : Host.Outcome State Fault Refusal :=
  .next (acceptColl s c n ckReduce)
/-- ALL_GATHER (R326). -/
def execAllGather (c : CoreId) (n : CtxId) (s : State) : Host.Outcome State Fault Refusal :=
  .next (acceptColl s c n ckGather)
/-- ALL_REDUCE (R326). -/
def execAllReduce (c : CoreId) (n : CtxId) (s : State) : Host.Outcome State Fault Refusal :=
  .next (acceptColl s c n ckAllReduce)
/-- PERMUTE (R327). -/
def execPermute (c : CoreId) (n : CtxId) (s : State) : Host.Outcome State Fault Refusal :=
  .next (acceptColl s c n ckPermute)

/-! ### The end of a collective (R322, R328) -/

/-- Owner chunks of a collective closed at a phase's close (R360), those of the list in turn. -/
def closeChunks (s : State) (id : Nat) (js : List Nat) : State :=
  match js with
  | [] => s
  | j :: rest =>
    match findColl s id with
    | none => s
    | some x => closeChunks (if x.closed.contains j then s else closeChunk s x j) id rest

/-- The collectives that run in a phase close (R322, R326, R360). -/
def closePhase (s : State) (ph : Nat) (xs : List Coll) : State :=
  match xs with
  | [] => s
  | x :: rest =>
    if x.phase = some ph ∧ x.running ∧ !x.ended then
      let s := match findColl s x.id with
        | some y => putColl s { y with recvClosed := true }
        | none => s
      let s := if kdKind x.desc = ckGather then s else closeChunks s x.id (placesOf (ownDev s) x.owners)
      closePhase s ph rest
    else closePhase s ph rest

/-- A delivery of a collective that is over: its failure is recorded, and its operation forgotten. -/
def collSent (s : State) (op : Nat) (x : FabOp) : State :=
  match x.owner with
  | .coll id j own =>
    let st := lowestFail x.fails
    let s := dropFabOp s op
    match findColl s id with
    | none => s
    | some y =>
      if st = stOK then s
      else putColl s (if own then { y with ofails := y.ofails ++ [st] } else { y with cfails := y.cfails ++ [(j, st)] })
  | _ => s

/-- Every part of a collective on this device has finished (R328). -/
def collReady (s : State) (x : Coll) : Bool :=
  let rs := placesOf (ownDev s) x.contribs
  let js := placesOf (ownDev s) x.owners
  x.running && !x.ended &&
  s.fab.ops.all (fun o => match o.2.owner with
    | .coll id _ _ => id != x.id
    | _ => true) &&
  js.all (fun j => x.closed.contains j) &&
  (rs.isEmpty || x.recvClosed || kdKind x.desc == ckReduce || kdKind x.desc == ckPermute)

/-- The status of a collective (R328): that of its part as contributor if it is not OK, that as owner otherwise. -/
def collStatus (x : Coll) : Nat :=
  match lowestFail x.cfails with
  | 0 => x.ofails.headD stOK
  | st => st

/-- NRECV of R328: contributions included in the first owned chunk, or owner chunks received (log 20). -/
def collNrecv (s : State) (x : Coll) : Nat :=
  match placesOf (ownDev s) x.owners with
  | j :: _ => if kdKind x.desc = ckGather then x.got.length else (included x j).length
  | [] => x.got.length

/-- The 64-byte collective record (R328). -/
def collRecord (s : State) (x : Coll) : List Byte :=
  natLE 4 (kdCollId x.desc) ++ natLE 4 x.epoch ++ natLE 4 (collNrecv s x) ++ natLE 4 x.nlate ++ natLE 4 x.ndigest ++
    natLE 4 x.nmismatch ++ natLE 4 (collStatus x) ++ natLE 4 (beatNow s (halfOfCore x.core)) ++ natLE 32 0

/-- The collective numbered `op` writes its record at STAGE and completes its command (R328); one that waited takes its place. -/
def collComplete (op : Nat) (s : State) : State :=
  match findColl s op with
  | none => s
  | some x =>
    if collReady s x then
      let h := halfOfCore x.core
      let s := s.post h (kdStage x.desc) (collRecord s x)
      let s := putColl s { x with ended := true }
      let s := match findOp (s.core x.core) x.num with
        | some o => completeOp s x.core o (collStatus x) 0
        | none => s
      retryEarly (startColls (collStat s h) h 1)
    else s

/-- A permute of this device is accepted and has not completed (R327). -/
def permRuns (s : State) : Bool := s.fab.colls.any (fun x => kdKind x.desc == ckPermute && !x.ended)

end Sys2Proof.Machine
end

