-- ==== Sys2Proof/Machine/FabricRx.lean ====
section
/-!
DEFINITION. Packets that arrive at this device: requests in OSEQ order (R289, R295, R332, R333), responses (R290), transit
(R295) and bad types (R287).
-/

namespace Sys2Proof.Machine

/-! ### Where a packet acts -/

/-- The half that holds a local address. -/
def destHalf (a : Nat) : HalfId :=
  match regionOf a 1 with
  | some (.glade h) => h
  | some (.scratch c) => halfOfCore c
  | some (.acc c) => halfOfCore c
  | some .hbm => tierHalf a
  | some .lpddr => tierHalf a
  | some .priv => tierHalf a
  | some .regs => (match flagOfLocal a with
    | some f => flagHalf f
    | none => 0)
  | none => if sramBase + halfStride ≤ a then 1 else 0

/-- The half that a packet acts on is fenced, or its ranger has stopped (R291; log 23). -/
def destFault (s : State) (a : Nat) : Bool :=
  s.rb .HLF_LEAD_STAT_FENCED (destHalf a).val || (s.half (destHalf a)).rangerStopped || clockDead s (destHalf a) 1

/-- What a request came to: it took effect and is answered with a status and an old value; it waits for its memory or its
element; it is held for an armed epoch; or it was forwarded. -/
inductive Applied where
  | answer (status old : Nat)
  | wait
  | hold
  | forwarded
  deriving DecidableEq, Repr

/-! ### Effects (R110, R120, R216, R244, R248, R261, R288) -/

/-- A PUT: its data is written at DST, with CHK = 1 each block checked first and stored with its CRC in a tier. Part of an owner
chunk waits for its RFLAG (R326). -/
def applyPut (s : State) (pkt : Packet) : State × Applied :=
  let a := addrLocal pkt.dst
  let n := pkt.payload.length
  if n = 0 then (s, .answer stOK 0)
  else match regionOf a n with
    | some .priv => (s.privFault, .answer stPrivFault 0)
    | some (.acc _) => (s, .answer stAccRaw 0)
    | some .regs => (s, .answer stInvalidAddress 0)
    | none => (s, .answer stInvalidAddress 0)
    | some _ =>
      if touchesHidden s (a, n) then (s, .answer stSpecHidden 0)
      else if rangeBusy s a n then (s, .wait)
      else if pkt.chk ∧ (a % 2048 ≠ 0 ∨ n % 2048 ≠ 0) then (s, .answer stInvalidAddress 0)
      else if pkt.chk ∧ pkt.trailer ≠ trailerOf true pkt.payload then (s, .answer stChecksum 0)
      else
        match chunkColl s pkt with
        | some x => (keepPart s x pkt, .answer stOK 0)
        | none => (s.writeBlocks a pkt.payload pkt.chk, .answer stOK 0)

/-- Bit `i` of GRANTS of a half as SEC_AUTH_STAT reads it: all ones in state DEBUG or RETURNED (R483). -/
def grants (s : State) (h : HalfId) (i : Nat) : Bool :=
  s.rf .SEC_LC_STATE h.val == 1 || s.rf .SEC_LC_STATE h.val == 3 ||
  (s.rb .SEC_AUTH_STAT_VALID h.val && bit (s.rf .SEC_AUTH_STAT_GRANTS h.val) i)

/-- Raw accumulator loads are allowed in the half of a core (R120, R480, R483): SEC_LC names DEBUG or RETURNED, or an
authorisation grants them. -/
def rawAllowed (s : State) (h : HalfId) : Bool :=
  grants s h 2

/-- The 32 stored bytes of an accumulator element (R97, R101). -/
def elemBytes32 (e : AccElem) : List Byte :=
  if e.anchor = 255 then natLE 1 255 ++ natLE 1 e.sc ++ natLE 2 e.idx ++ natLE 1 (b2n e.loc) ++ natLE 27 0
  else natLE 1 e.anchor ++ natLE 1 e.sc ++ natLE 30 (ofSigned 240 e.w)

/-- The bytes of a range of the accumulator window (R120). -/
def accBytes (s : State) (c : CoreId) (a n : Nat) : List Byte :=
  let o := a - accBase c
  (((List.range ((o + n - 1) / 32 - o / 32 + 1)).flatMap (fun i => elemBytes32 (s.elem c (o / 32 + i)))).drop (o % 32)).take n

/-- What a GET reads: the bytes, or the status that refuses it (R120, R216, R248, R261, R270). -/
def readGet (s : State) (pkt : Packet) (bad : Nat) : State × Except Nat (List Byte) :=
  let a := addrLocal pkt.dst
  let n := leNat ((pkt.payload.drop 8).take 4)
  match flagOfLocal a with
  | some f => if n ≤ 8 then (s, .ok ((natLE 8 (flagWord s f)).take n)) else (s, .error stInvalidAddress)
  | none =>
    match regionOf a n with
    | some .priv => (s.privFault, .error stPrivFault)
    | some .regs => (s, .error stInvalidAddress)
    | none => (s, .error stInvalidAddress)
    | some (.acc c) =>
      if !rawAllowed s (halfOfCore c) then (s, .error stAccRaw)
      else if touchesShadow s (a, n) then (s, .error stSpecHidden) else (s, .ok (accBytes s c a n))
    | some _ =>
      if touchesHidden s (a, n) then (s, .error stSpecHidden)
      else if pkt.chk ∧ inTier a n then
        let r := verifyBlocks s (blocksOf a n) bad
        if r.2 then (r.1, .error stChecksum) else (r.1, .ok (s.read a n))
      else (s, .ok (s.read a n))

/-- A GET served (R288, R290): its data goes to the return address as GETDATA. -/
def applyGet (s : State) (h : HalfId) (pkt : Packet) (bad : Nat) : State × Applied :=
  let a := addrLocal pkt.dst
  let n := leNat ((pkt.payload.drop 8).take 4)
  if n = 0 then (s, .answer stOK 0)
  else if rangeBusy s a n then (s, .wait)
  else
    match readGet s pkt bad with
    | (s, .error st) => (s, .answer st 0)
    | (s, .ok bs) =>
      let ret := globalAddr pkt.srcDev (leNat (pkt.payload.take 8))
      let g := { mkPacket s ptGetData pkt.tc 0x3FD ret false pkt.chk bs (trailerOf pkt.chk bs) with
        tag := pkt.tag, oseq := pkt.oseq, job := pkt.job, epoch := pkt.epoch }
      (sendResponse s h g, .answer stOK 0)

/-- The values of the payload of an EXADD: its slots, then the escapes of the long ones (R314); none where one is
invalid. -/
def payloadSlots (fuel : Nat) (bs : List Byte) : Nat :=
  match fuel with
  | 0 => 0
  | fuel + 1 =>
    -- the least count of slots whose slots and escapes fill the payload
    let n := bs.length / 16 - fuel
    let l := ((List.range n).filter (fun t => exchIsLong (bs.drop (16 * t)))).length
    if 16 * n + 80 * l = bs.length then n else payloadSlots fuel bs

/-- The values of a packed array in a packet. -/
def payloadValues (bs : List Byte) (n t esc : Nat) : Option (List (List Byte × LVal)) :=
  match n with
  | 0 => some []
  | n + 1 =>
    let slot := (bs.drop (16 * t)).take 16
    let long := exchIsLong slot
    let b := if long then slot ++ (bs.drop esc).take 80 else slot
    match exchDecode b with
    | none => none
    | some v =>
      match payloadValues bs n (t + 1) (if long then esc + 80 else esc) with
      | none => none
      | some vs => some ((b, v) :: vs)

/-- External deposits into consecutive elements (R110): the answer is the first result that is not done. -/
def depositAll (s : State) (c : CoreId) (i : Nat) (vs : List LVal) (res : DepRes) : State × DepRes :=
  match vs with
  | [] => (s, res)
  | v :: rest =>
    let r := deposit s c i v.l v.sc
    depositAll r.1 c (i + 1) rest (if res = .done then r.2 else res)

/-- An EXADD (R110, R314): its values are deposited as external deposits; it waits where a promotion finds no room
(R105). -/
def applyExadd (s : State) (pkt : Packet) : State × Applied :=
  let a := addrLocal pkt.dst
  let n := payloadSlots (pkt.payload.length / 16 + 1) pkt.payload
  match payloadValues pkt.payload n 0 (16 * n) with
  | none => (s, .answer stBadExchange 0)
  | some vs =>
    if n = 0 then (s, .answer stOK 0)
    else match regionOf a (32 * n) with
      | some (.acc c) =>
        if !elemRun a n then (s, .answer stInvalidAddress 0)
        else
          let i := (a - accBase c) / 32
          match depositAll (useTile s c (elemTile i)) c i (vs.map Prod.snd) .done with
          | (_, .exhausted) => (s, .wait)
          | (s', r) =>
            let s' := countCore s' c 0x01C (vs.filter (fun x => !exchCanonical x.1)).length
            (s', .answer (if r = .corrupt then stAccCorrupt else stOK) 0)
      | _ => (s, .answer stInvalidAddress 0)

/-- An ATOMIC (R244, R245). -/
def applyAtomic (s : State) (pkt : Packet) : State × Applied :=
  let a := addrLocal pkt.dst
  let code := leNat (pkt.payload.take 1)
  if 4 ≤ code then (s, .answer stInvalidOp 0)
  else if rangeBusy s a (atomicBytes code) then (s, .wait)
  else
    let r := atomicAt s code a (leNat ((pkt.payload.drop 8).take 8))
    (if r.2.1 = stPrivFault then r.1.privFault else r.1, .answer r.2.1 r.2.2)

/-- A FLAGSET (R229): it sets its flag, or reaches a collective's sequencer (R320; log 20). -/
def applyFlagset (s : State) (h : HalfId) (pkt : Packet) : State × Applied :=
  let a := addrLocal pkt.dst
  match flagOfLocal a with
  | some f => (setFlag s f ⟨pkt.srcDev, pkt.srcAgent⟩, .answer stOK 0)
  | none =>
    if seqPlace a then
      match seqFlagArrives s pkt.srcDev a with
      | (s, some st) => (s, .answer st 0)
      | (s, none) => ({ s with fab := { s.fab with collEarly := s.fab.collEarly ++ [(h, pkt)] } }, .forwarded)
    else (s, .answer stInvalidAddress 0)

/-- The half that a half base, or a half base with a tag, names (R259, R287). -/
def baseHalf (a : Nat) : Option HalfId :=
  if sramBase ≤ a ∧ a < sramBase + 65536 then some 0
  else if sramBase + halfStride ≤ a ∧ a < sramBase + halfStride + 65536 then some 1
  else none

/-- A TOKEN, CONFIRM or CANCEL (R208, R338). -/
def applyUnd (s : State) (pkt : Packet) : State × Applied :=
  let a := addrLocal pkt.dst
  match baseHalf a with
  | none => (s, .answer stInvalidAddress 0)
  | some h =>
    if pkt.ptype = ptToken then
      let r := receiveTokens s h pkt.srcDev pkt.payload
      (r.1, .answer r.2 0)
    else (resolution s h pkt.srcDev (a % 65536) (pkt.ptype == ptConfirm), .answer stOK 0)

/-- The effect of a request packet on this device. -/
def applyHere (s : State) (h : HalfId) (pkt : Packet) (bad : Nat) : State × Applied :=
  if destFault s (addrLocal pkt.dst) then (s, .answer stDestFault 0)
  else match pkt.ptype with
    | 1 => applyPut s pkt
    | 2 => applyGet s h pkt bad
    | 4 => applyExadd s pkt
    | 5 => applyFlagset s h pkt
    | 7 => applyAtomic s pkt
    | _ => applyUnd s pkt

/-! ### Epochs (R331 to R333) -/

/-- The beat at which the epoch in force was installed (R43). -/
def armBeat (s : State) : Nat := s.readN (armAddr s + 8) 8
/-- The forwarding map of the armature in force (R43, R331). -/
def fwdMap (s : State) : Nat := s.readN (armAddr s + 0x20) 8

/-- The map entry that holds a local address, as (new device, new address) (R331), searched from entry `i` on. -/
def fwdFind (s : State) (m a n i : Nat) : Option (Nat × Nat) :=
  match n with
  | 0 => none
  | n + 1 =>
    let e := m + 0x20 + 32 * i
    let old := s.readN e 8 % 2 ^ 50
    let len := s.readN (e + 8) 8 % 2 ^ 40
    if old ≤ a ∧ a < old + len then some (s.readN (e + 0x10) 8 % 2 ^ 14, s.readN (e + 0x18) 8 % 2 ^ 50 + (a - old))
    else fwdFind s m a n (i + 1)

/-- The table of R332. -/
def epochCheck (s : State) (pkt : Packet) : EpochRes :=
  let e := epochNow s
  let a := addrLocal pkt.dst
  if pkt.epoch = e then .apply
  else if pkt.epoch = e + 1 ∧ armArmed s then .hold
  else if pkt.epoch + 1 = e ∧ s.fence < armBeat s + 1 then
    match (if fwdMap s = 0 then none else fwdFind s (fwdMap s) a (min 65536 (s.readN (fwdMap s + 4) 4)) 0) with
    | some (dev, addr) => .forward dev addr
    | none => .apply
  else .stale

/-- What the epoch of a packet that is stored decides at its arrival, kept until its turn (R332); a packet that is held for an
armed installation is looked at again at the fence. -/
def noteVerdict (s : State) (pkt : Packet) : State :=
  match epochCheck s pkt with
  | .hold => s
  | v => { s with fab := { s.fab with verdicts := aset s.fab.verdicts (pkt.srcDev, pkt.oseq) v } }

/-- The decision for a packet whose turn has come: the one at its arrival, if it was stored then. -/
def verdictOf (s : State) (pkt : Packet) : EpochRes :=
  (aget? s.fab.verdicts (pkt.srcDev, pkt.oseq)).getD (epochCheck s pkt)

/-- A packet sent on as the forwarder's own (R333). -/
def forwardPacket (s : State) (h : HalfId) (pkt : Packet) (dev addr : Nat) : State :=
  let dst := globalAddr dev addr
  let p := { pkt with
    srcDev := ownDev s, srcAgent := 0x3FD + h.val, hops := 0, dst := dst, epoch := epochNow s, via := 0, viaValid := false }
  let s := countEv s (.col h) 0x203
  startFabOp s ⟨.fwd h pkt, pkt.ptype, pkt.chk, 0, dst, 0, 0, [], 0⟩ [(dst, p)]

/-- A request whose turn has come (R295, R332): its job and epoch are checked, and it takes effect. -/
def applyRequest (s : State) (h : HalfId) (pkt : Packet) (bad : Nat) : State × Applied :=
  if wrongJob s pkt then (s.incSat .FAB_DROP_JOBMIS 1 h.val, .answer stJobMismatch 0)
  else match verdictOf s pkt with
    | .apply => applyHere s h pkt bad
    | .hold => (s, .hold)
    | .forward dev addr => (forwardPacket s h pkt dev addr, .forwarded)
    | .stale => (s.incSat .COL_FWD_STAT_STALE 1 h.val, .answer stEpochStale 0)

/-! ### Order (R289) -/

/-- The OSEQ expected next of a device. -/
def oseqNext (s : State) (dev : Nat) : Nat := aget s.fab.oseqIn dev 0

/-- A request of a device has been applied, or handed on: the next OSEQ is expected. -/
def oseqDone (s : State) (pkt : Packet) : State :=
  { s with fab := { s.fab with
    oseqIn := aset s.fab.oseqIn pkt.srcDev ((pkt.oseq + 1) % 65536),
    verdicts := adrop s.fab.verdicts (fun k => k == (pkt.srcDev, pkt.oseq)) } }

/-- A request answered with DONE, and the answer kept for a duplicate (R289, R290). -/
def answerRequest (s : State) (h : HalfId) (pkt : Packet) (st old : Nat) : State :=
  let s := { s with fab := { s.fab with answered := aset s.fab.answered (pkt.srcDev, pkt.oseq) (st, old) } }
  sendDone s h pkt st old

/-- A request in order tried: the state, and whether it is through (or still waits). -/
def tryRequest (s : State) (h : HalfId) (pkt : Packet) (bad : Nat) : State × Applied :=
  match applyRequest s h pkt bad with
  | (s, .answer st old) => (answerRequest (oseqDone s pkt) h pkt st old, .answer st old)
  | (s, .forwarded) => (oseqDone s pkt, .forwarded)
  | (_, .wait) => (s, .wait)
  | (_, .hold) => (s, .hold)

/-- Whether a tried request still waits. -/
def stillWaits (r : Applied) : Bool :=
  match r with
  | .wait => true
  | .hold => true
  | _ => false

/-- The first stored packet that is next in order for its source and no longer waits, applied; none where there is
none. -/
def drainOne (s : State) (ps : List (HalfId × PortId × Packet)) : Option State :=
  match ps with
  | [] => none
  | (h, p, pkt) :: rest =>
    if pkt.oseq = oseqNext s pkt.srcDev then
      match tryRequest s h pkt 0 with
      | (s', r) =>
        if stillWaits r then drainOne s rest
        else some { s' with fab := { s'.fab with store := s'.fab.store.filter (fun x => x != (h, p, pkt)) } }
    else drainOne s rest

/-- Stored packets applied as their turns come (R289). -/
def drainStore (s : State) (fuel : Nat) : State :=
  match fuel with
  | 0 => s
  | fuel + 1 =>
    match drainOne s s.fab.store with
    | none => s
    | some s' => drainStore s' fuel

/-- Every stored packet that can be applied now is applied. -/
def drainAll (s : State) : State := drainStore s (s.fab.store.length + 1)

/-- Packets that the reorder store of a half holds. -/
def storeUsed (s : State) (h : HalfId) : Nat := (s.fab.store.filter (fun x => x.1 == h)).length

/-- A packet kept in the reorder store of a half with what its epoch decides now (R332). -/
def keepPacket (s : State) (p : PortId) (pkt : Packet) : State :=
  let s := noteVerdict s pkt
  { s with fab := { s.fab with store := s.fab.store ++ [(portHalf p, p, pkt)] } }

/-- A packet put in the reorder store of a half, or refused at link level where it is full (R289); one held for an armed epoch is
counted (R332). -/
def storePacket (s : State) (p : PortId) (pkt : Packet) : State :=
  let h := portHalf p
  if storeUsed s h < 512 then
    countEv (keepPacket (if epochCheck s pkt = .hold then s.incSat .COL_FWD_STAT_HELD 1 h.val else s) p pkt) (.fab h) 0x185
  else s.incSat .FAB_DROP_NAKRO 1 h.val

/-- A packet of a device that is declared failed is discarded and counted (R379). -/
def zombie (s : State) (p : PortId) : State := s.incSat .HLF_HB_STAT_ZOMBIE 1 (portHalf p).val

/-- A request packet arrives (R289, R379). -/
def receiveRequest (s : State) (p : PortId) (pkt : Packet) (bad : Nat) : State :=
  let h := portHalf p
  let d := (pkt.oseq + 65536 - oseqNext s pkt.srcDev) % 65536
  if failedDev s pkt.srcDev then zombie s p
  else if 32768 ≤ d then
    let s := s.incSat .FAB_DROP_DUP 1 h.val
    match aget? s.fab.answered (pkt.srcDev, pkt.oseq) with
    | some (st, old) => sendDone s h pkt st old
    | none => s
  else if s.fab.store.any (fun x => x.2.2.srcDev == pkt.srcDev && x.2.2.oseq == pkt.oseq) then
    s.incSat .FAB_DROP_DUP 1 h.val
  else if d ≠ 0 then storePacket s p pkt
  else match tryRequest s h pkt bad with
    | (s, .answer _ _) => drainAll s
    | (s, .forwarded) => drainAll s
    | (s, .wait) => keepPacket s p pkt
    | (s, .hold) => storePacket s p pkt

/-- A request packet of type `t` that arrives at a port of its destination device, or from that device itself. -/
def receiveType (s : State) (p : PortId) (pkt : Packet) (bad t : Nat) : State :=
  match inbound s p pkt with
  | none => s
  | some u => if pkt.ptype = t then receiveRequest u p pkt bad else s

/-- PUT_PACKET (R288). -/
def execPutPacket (p : PortId) (pkt : Packet) (s : State) : Host.Outcome State Fault Refusal :=
  .next (receiveType s p pkt 0 ptPut)
/-- GET_PACKET (R287). -/
def execGetPacket (p : PortId) (pkt : Packet) (badReads : Nat) (s : State) : Host.Outcome State Fault Refusal :=
  .next (receiveType s p pkt badReads ptGet)
/-- EXADD_PACKET (R110). -/
def execExaddPacket (p : PortId) (pkt : Packet) (s : State) : Host.Outcome State Fault Refusal :=
  .next (receiveType s p pkt 0 ptExadd)
/-- FLAGSET (R229). -/
def execFlagset (p : PortId) (pkt : Packet) (s : State) : Host.Outcome State Fault Refusal :=
  .next (receiveType s p pkt 0 ptFlagSet)
/-- TOKEN_PACKET (R338). -/
def execTokenPacket (p : PortId) (pkt : Packet) (s : State) : Host.Outcome State Fault Refusal :=
  .next (receiveType s p pkt 0 ptToken)
/-- ATOMIC_PACKET (R245). -/
def execAtomicPacket (p : PortId) (pkt : Packet) (s : State) : Host.Outcome State Fault Refusal :=
  .next (receiveType s p pkt 0 ptAtomic)
/-- CONFIRM_PACKET (R208). -/
def execConfirmPacket (p : PortId) (pkt : Packet) (s : State) : Host.Outcome State Fault Refusal :=
  .next (receiveType s p pkt 0 ptConfirm)
/-- CANCEL_PACKET (R207). -/
def execCancelPacket (p : PortId) (pkt : Packet) (s : State) : Host.Outcome State Fault Refusal :=
  .next (receiveType s p pkt 0 ptCancel)

/-- PACKET_RESEND (R289): the previous hop sends a refused packet again. -/
def execPacketResend (p : PortId) (pkt : Packet) (s : State) : Host.Outcome State Fault Refusal :=
  match inbound s p pkt with
  | none => .next s
  | some u => if isRequest pkt.ptype then .next (receiveRequest u p pkt 0) else .next s

/-! ### Responses (R290) -/

/-- An operation that is over, if its owner waits for no command of the table: a forwarder answers the original source
(R333), a collective records its delivery. -/
def settle (s : State) (op : Nat) : State :=
  match aget? s.fab.ops op with
  | none => s
  | some x =>
    if x.openPkts ≠ 0 then s
    else match x.owner with
      | .coll _ _ _ => collSent s op x
      | .fwd h req =>
        let s := (dropFabOp s op).incSat .COL_FWD_STAT_FWD 1 h.val
        answerRequest s h req (lowestFail x.fails) x.old
      | .dispatcher => dropFabOp s op
      | .stream _ => dropFabOp s op
      | _ => s

/-- A packet of this device answered: its operation is told, and its tracker entry freed (R290). -/
def answerTag (s : State) (tag : Nat) (e : FabEntry) (st old : Nat) : State :=
  settle (freeEntry (answerPacket (placeOld s e.op st old) e.op e.addr st) tag) e.op

/-- A response that matches no live entry, dropped and counted (R290, R307). -/
def dropResponse (s : State) (p : PortId) : State := s.incSat .FAB_DROP_BADTYPE 1 (portHalf p).val

/-- DONE (R290, R295): matched to its tracker entry by TAG and OSEQ, or dropped. -/
def receiveDone (s : State) (p : PortId) (pkt : Packet) : State :=
  if failedDev s pkt.srcDev then zombie s p
  else if wrongJob s pkt then jobMiss s p
  else match matchEntry s pkt.tag (doneOseq pkt) with
    | none => dropResponse s p
    | some e => answerTag s pkt.tag e (doneStatus pkt) (doneOld pkt)

/-- DONE (R290, R295), at its device. -/
def execDone (p : PortId) (pkt : Packet) (s : State) : Host.Outcome State Fault Refusal :=
  match inbound s p pkt with
  | none => .next s
  | some u => if pkt.ptype = ptDone then .next (receiveDone u p pkt) else .next s

/-- GETDATA (R290, R333): written at its return address, or passed on by a forwarder. -/
def receiveGetdata (s : State) (p : PortId) (pkt : Packet) : State :=
  if failedDev s pkt.srcDev then zombie s p
  else if wrongJob s pkt then jobMiss s p
  else match matchGet s pkt with
    | none => dropResponse s p
    | some e =>
      match aget? s.fab.ops e.op with
      | none => dropResponse s p
      | some x =>
        match x.owner with
        | .fwd h req =>
          sendResponse s h { pkt with
            srcDev := ownDev s, srcAgent := 0x3FD, hops := 0, via := 0, viaValid := false,
            dst := globalAddr req.srcDev (addrLocal pkt.dst), tag := req.tag, oseq := req.oseq, epoch := req.epoch }
        | _ =>
          if x.code ≠ foGet then dropResponse s p
          else match placeGetData s (ownerHalf x.owner) pkt with
            | (s, true) => s
            | (s, false) => notePacket s e.op e.addr stChecksum

/-- GETDATA (R290, R333), at its device. -/
def execGetdata (p : PortId) (pkt : Packet) (s : State) : Host.Outcome State Fault Refusal :=
  match inbound s p pkt with
  | none => .next s
  | some u => if pkt.ptype = ptGetData then .next (receiveGetdata u p pkt) else .next s

/-- The packet of a tracker entry is given up (R290). -/
def giveUpTag (s : State) (tag : Nat) : State :=
  match aget? s.fab.tracker tag with
  | none => s
  | some e => answerTag s tag e stFabTimeout 0

/-! ### Transit and bad types (R287, R294, R295) -/

/-- A TYPE of R287. -/
def knownType (t : Nat) : Bool :=
  isRequest t || t == ptGetData || t == ptDone || t == ptBeatMark || t == ptHeartbeat || t == ptMgmt

/-- PACKET_BADTYPE (R286, R287): a packet of reserved TYPE or CLASS is dropped at the first device that reads it, and
counted. -/
def execPacketBadtype (p : PortId) (pkt : Packet) (s : State) : Host.Outcome State Fault Refusal :=
  if s.pf .FAB_PORT_STAT_STATE p = psActive ∧ (!knownType pkt.ptype ∨ 1 < pkt.pclass) then
    .next (s.incSat .FAB_DROP_BADTYPE 1 (portHalf p).val)
  else .next s

/-- A BEATMARK in transit: this device's residence time, free (log 5), is added to its CORR (R350, R351). -/
def withResidence (s : State) (pkt : Packet) : Packet :=
  if pkt.ptype = ptBeatMark then
    let pl := pkt.payload
    { pkt with payload := pl.take 0x14 ++ natLE 4 ((leNat ((pl.drop 0x14).take 4) + s.freeVal) % 2 ^ 32) ++ pl.drop 0x18 }
  else pkt

/-- TRANSIT (R294, R295): a packet of another device is switched to its next port. One with no path is dropped: a request's
source receives UNREACHABLE, any other is counted. The source's choice of column first is free (log 12). -/
def execTransit (p : PortId) (pkt : Packet) (s : State) : Host.Outcome State Fault Refusal :=
  if s.pf .FAB_PORT_STAT_STATE p = psActive ∧ addrDev pkt.dst ≠ ownDev s ∧ knownType pkt.ptype ∧ pkt.pclass ≤ 1 ∧
      (!(s.port p).discover ∨ ptBeatMark ≤ pkt.ptype) then
    let h := portHalf p
    match nextPort s pkt (pkt.pclass == 1 && s.freeVal % 2 == 1) with
    | some (q, pkt) => .next (countEv (putOnPort s.used.used q (withResidence s.used pkt)) (.fab h) 0x182 (flitsOf pkt))
    | none =>
      if isRequest pkt.ptype then .next (sendDone s.used h pkt stUnreachable 0)
      else .next (s.used.incSat .FAB_DROP_BADTYPE 1 h.val)
  else .next s

end Sys2Proof.Machine
end

