-- ==== Sys2Proof/Machine/Ports.lean ====
section
/-!
DEFINITION. Ports: training and identity (R299 to R304), the link layer (R284, R285, R305), and port disable (R306).
-/

namespace Sys2Proof.Machine

/-- A port's training state. -/
def portState (s : State) (p : PortId) : Nat := s.pf .FAB_PORT_STAT_STATE p
/-- A port put in a training state; VER reads zero outside ACTIVE (R307). -/
def setPortState (s : State) (p : PortId) (st : Nat) : State :=
  let s := s.setPf .FAB_PORT_STAT_STATE p st
  if st = psActive then s else s.setPf .FAB_PORT_STAT_VER p 0

/-- FAB_CFG.MODE of a port's half: discover. -/
def discoverMode (s : State) (p : PortId) : Bool := s.rb .FAB_CFG_MODE (portHalf p).val

/-! ### Leaving ACTIVE (R285) -/

/-- A packet that found no other path: its source learns `st` (R294, R306). -/
def strandPacket (s : State) (p : PortId) (pkt : Packet) (st : Nat) : State :=
  if !isRequest pkt.ptype then s.incSat .FAB_DROP_BADTYPE 1 (portHalf p).val
  else if pkt.srcDev = ownDev s then
    match matchEntry s pkt.tag pkt.oseq with
    | some e => answerTag s pkt.tag e st 0
    | none => s
  else sendDone s (portHalf p) pkt st 0

/-- Packets handed back to the router and sent again on another path (R285, R294). -/
def reroute (s : State) (p : PortId) (ps : List (Nat × Packet)) (st : Nat) : State :=
  match ps with
  | [] => s
  | (_, pkt) :: rest =>
    let pkt := { pkt with hops := pkt.hops - 1 }
    let s := match nextPort s pkt false with
      | some (q, pkt) => countEv (putOnPort s q pkt) (.fab (portHalf p)) 0x184
      | none => strandPacket s p pkt st
    reroute s p rest st

/-- A port goes to a state in which it carries nothing: its unacknowledged and queued packets are rerouted, and its link layer
starts afresh (R285). -/
def leaveLink (s : State) (p : PortId) (state : Nat) (st : Nat) : State :=
  let x := s.port p
  let s := (setPortState s p state).setPf .FAB_PORT_STAT_WIDTH p 0
  let s := s.setPort p { x with
    txSeq := 0, txAck := 0, rxSeq := 0, unacked := [], queue := [], credit := [], replayFrom := none, pass := false, discover := false }
  reroute s p (x.unacked ++ x.queue.map (fun k => (0, k))) st

/-- A port goes DOWN. -/
def portDown (s : State) (p : PortId) : State := leaveLink s p psDown stUnreachable

/-! ### Training (R299 to R304) -/

/-- The port may train: it is not disabled or closing, and is expected or in discover mode (R299). -/
def portEnabled (s : State) (p : PortId) : Bool :=
  s.pf .FAB_PORT_STAT_DIS p == 0 && !(s.port p).closing && (s.pf .FAB_PORT_EXP_VALID p == 1 || discoverMode s p)

/-- PORT_ENABLE (R299). -/
def execPortEnable (p : PortId) (s : State) : Host.Outcome State Fault Refusal :=
  if portState s p = psDown ∧ portEnabled s p ∧ !(s.port p).eqFailed then .next (setPortState s p psDetect) else .next s

/-- DETECT_RETRY (R299): the port listens again, and stays in DETECT. -/
def execDetectRetry (p : PortId) (s : State) : Host.Outcome State Fault Refusal :=
  if portState s p = psDetect then .next (setPortState s p psDetect) else .next s

/-- PEER_SIGNAL (R299). -/
def execPeerSignal (p : PortId) (s : State) : Host.Outcome State Fault Refusal :=
  if portState s p = psDetect then .next (setPortState s p psEqualise) else .next s

/-- The versions that this end offers, clamped (R303). -/
def vMin (s : State) (p : PortId) : Nat := max 2 (min 3 (s.rf .FAB_CFG_VMIN (portHalf p).val))
/-- The highest version offered. -/
def vMax (s : State) (p : PortId) : Nat := max 2 (min 3 (s.rf .FAB_CFG_VMAX (portHalf p).val))

/-- This device's SERIAL (R475). -/
def ownSerial : Nat := Config.serial % 2 ^ 64

/-- An identity record as it travels, with its CRC (R300). -/
def identityBytes (r : IdRecord) : List Byte :=
  let b := natLE 8 r.serial ++ natLE 1 (r.port % 32) ++ natLE 1 r.vmin ++ natLE 1 r.vmax ++ natLE 1 (b2n r.discover + 2 * b2n r.pass) ++
    natLE 4 (r.coord % 2 ^ 14) ++ natLE 4 r.job ++ natLE 4 r.epoch ++ natLE 4 0
  b ++ natLE 4 (crc32c b)

/-- The identity record that 32 bytes hold (R300). -/
def identityOf (b : List Byte) : IdRecord where
  serial := dfld b 0x00 63 0
  port := dfld b 0x08 4 0
  vmin := leNat ((b.drop 0x09).take 1)
  vmax := leNat ((b.drop 0x0A).take 1)
  discover := bit (leNat ((b.drop 0x0B).take 1)) 0
  pass := bit (leNat ((b.drop 0x0B).take 1)) 1
  coord := dfld b 0x0C 13 0
  job := dfld b 0x10 31 0
  epoch := dfld b 0x14 31 0

/-- The CRC of an identity record is good (R300). -/
def identityGood (b : List Byte) : Bool := b.length == 32 && crc32c (b.take 0x1C) == dfld b 0x1C 31 0

/-- The peer's record, once three consecutive copies are identical with a good CRC (R300). -/
def identityTaken (copies : List (List Byte)) : Option IdRecord :=
  match copies with
  | [a, b, c] => if a = b ∧ b = c ∧ identityGood a then some (identityOf a) else none
  | _ => none

/-- The identity record that this end of a port sends (R300). -/
def ownRecord (s : State) (p : PortId) : IdRecord where
  serial := ownSerial
  port := p.val
  vmin := vMin s p
  vmax := vMax s p
  discover := discoverMode s p
  pass := (s.port p).pass
  coord := ownDev s
  job := jobTag s
  epoch := epochNow s

/-- A port sends its identity record (R299, R300). -/
def sendRecord (s : State) (p : PortId) : State :=
  { s with fab := { s.fab with beacons := s.fab.beacons ++ [(p, identityBytes (ownRecord s p))] } }

/-- EQUALISE_DONE (R299): `lanes` names the lanes that passed; four lanes, or two that are 0–1 or 2–3, bring the port to
IDENT, where it sends its record; otherwise it goes DOWN. -/
def execEqualiseDone (p : PortId) (lanes : Fin 16) (s : State) : Host.Outcome State Fault Refusal :=
  if portState s p = psEqualise ∨ portState s p = psRetrain then
    let w := if lanes.val = 15 then 2 else if bits lanes.val 1 0 = 3 ∨ bits lanes.val 3 2 = 3 then 1 else 0
    if w = 0 then
      let retry := portState s p == psEqualise
      let s := portDown s p
      .next (s.setPort p { s.port p with eqFailed := retry })
    else .next (sendRecord ((setPortState s p psIdent).setPf .FAB_PORT_STAT_WIDTH p w) p)
  else .next s

/-- EQUALISE_RETRY (R299). -/
def execEqualiseRetry (p : PortId) (s : State) : Host.Outcome State Fault Refusal :=
  if portState s p = psDown ∧ (s.port p).eqFailed then
    let s := s.setPort p { s.port p with eqFailed := false }
    if portEnabled s p then .next (setPortState s p psDetect) else .next s
  else .next s

/-- The quarantine causes of FAB_PORTp_STAT (R307). -/
abbrev qcWiring : Nat := 1
abbrev qcVersion : Nat := 2
abbrev qcLoop : Nat := 3
abbrev qcErrRate : Nat := 4
abbrev qcPeer : Nat := 5

/-- The version that a link runs at, if the windows meet (R303). -/
def linkVersion (s : State) (p : PortId) (r : IdRecord) : Option Nat :=
  let v := min (vMax s p) r.vmax
  if max (vMin s p) r.vmin ≤ v then some v else none

/-- The cause with which CHECK fails, or none (R301 to R303; log 24). -/
def checkPeer (s : State) (p : PortId) (r : IdRecord) : Option Nat :=
  if r.serial = ownSerial then some qcLoop
  else if !discoverMode s p ∧ (r.coord ≠ s.pf .FAB_PORT_EXP_DEV p ∨ r.port ≠ s.pf .FAB_PORT_EXP_PORT p) then some qcWiring
  else if (linkVersion s p r).isNone then some qcVersion
  else none

/-- A port quarantined with a cause (R304): it raises its link interrupt. -/
def quarantine (s : State) (p : PortId) (cause : Nat) : State :=
  let s := (leaveLink s p psQuarantine stUnreachable).setPf .FAB_PORT_STAT_QCAUSE p cause
  raiseIrq s (portHalf p) (64 + portIdx p)

/-- The peer's record kept as last received (R307). -/
def keepPeer (s : State) (p : PortId) (r : IdRecord) : State :=
  (((((s.setPf .FAB_PORT_PEER_VMAX p r.vmax).setPf .FAB_PORT_PEER_VMIN p r.vmin).setPf .FAB_PORT_PEER_MODE p
    (b2n r.discover)).setPf .FAB_PORT_PEER_PORT p r.port).setPf .FAB_PORT_PEER_DEV p r.coord).setPf .FAB_PORT_SER_SERIAL p
    r.serial

/-- A port that has passed becomes ACTIVE once the peer's record shows PASS (R301). -/
def activate (s : State) (p : PortId) (r : IdRecord) : State :=
  match linkVersion s p r with
  | none => s
  | some v => (s.setPf .FAB_PORT_STAT_STATE p psActive).setPf .FAB_PORT_STAT_VER p v

/-- The cause with which a later record fails a port that has passed, or none (R301 to R303): it names another peer than the one
that passed, whose expectation a write since then does not change (R309), or offers another window. -/
def recheckPeer (s : State) (p : PortId) (r : IdRecord) : Option Nat :=
  if r.serial = ownSerial then some qcLoop
  else if !(s.port p).discover ∧ (r.coord ≠ s.pf .FAB_PORT_PEER_DEV p ∨ r.port ≠ s.pf .FAB_PORT_PEER_PORT p) then some qcWiring
  else if (linkVersion s p r).isNone then some qcVersion
  else none

/-- A peer's record accepted (R300 to R303): a port in IDENT checks its peer, and sends a record that shows whether it has passed;
one that has passed becomes ACTIVE when a record shows that the peer has too, and is quarantined with cause PEER when a later
record shows that it has not. -/
def peerRecord1 (s : State) (p : PortId) (r : IdRecord) : State :=
  if portState s p = psIdent then
    match checkPeer s p r with
    | some cause => quarantine (keepPeer s p r) p cause
    | none =>
      let s := keepPeer s p r
      let s := sendRecord (s.setPort p { s.port p with pass := true, discover := discoverMode s p }) p
      if r.pass then activate s p r else setPortState s p psCheck
  else if portState s p = psCheck then
    match recheckPeer s p r with
    | some cause => quarantine (keepPeer s p r) p cause
    | none => if r.pass then activate (keepPeer s p r) p r else quarantine (keepPeer s p r) p qcPeer
  else if portState s p = psQuarantine then keepPeer s p r
  else s

/-- IDENTITY_RECORD (R300 to R303): three copies of a record arrive. -/
def execIdentityRecord (p : PortId) (copies : List (List Byte)) (s : State) : Host.Outcome State Fault Refusal :=
  match identityTaken copies with
  | some r => .next (peerRecord1 s p r)
  | none => .next s

/-- IDENT_TIMEOUT (R299): a port in IDENT goes DOWN; one that is still in CHECK, whose limit is shorter, is quarantined (log 138). -/
def execIdentTimeout (p : PortId) (s : State) : Host.Outcome State Fault Refusal :=
  if portState s p = psIdent then .next (portDown s p)
  else if portState s p = psCheck then .next (quarantine s p qcPeer)
  else .next s

/-- QUARANTINE_BEACON (R299): a quarantined port sends its identity record. -/
def execQuarantineBeacon (p : PortId) (s : State) : Host.Outcome State Fault Refusal :=
  if portState s p = psQuarantine then .next (sendRecord s p) else .next s

/-- RETRAIN_TIMEOUT (R299). -/
def execRetrainTimeout (p : PortId) (s : State) : Host.Outcome State Fault Refusal :=
  if portState s p = psRetrain then .next (portDown s p) else .next s

/-! ### Flits (R284, R285, R305) -/

/-- The packets that an ACK up to `ack` acknowledges leave the replay buffer. -/
def dropAcked (ack : Nat) (us : List (Nat × Packet)) : List (Nat × Packet) :=
  us.filter (fun u => decide (2048 ≤ (ack + 4096 - u.1) % 4096))

/-- Codewords counted as corrected, in units of 1,024 (R307). -/
def countCorrected (s : State) (p : PortId) (n : Nat) : State :=
  let x := s.port p
  let t := x.fecRem + n
  (s.setPort p { x with fecRem := t % 1024 }).incPf .FAB_PORT_ERR_FECCOR p (t / 1024)

/-- An ACTIVE port with too many errors enters RETRAIN, or is quarantined when it does so too often (R305). -/
def maybeRetrain (s : State) (p : PortId) (f : Flit) : State :=
  let h := (portHalf p).val
  if max 1 (s.rf .FAB_CFG_ERRLIM h) ≤ f.msErrors then
    let s := s.incPf .FAB_PORT_STAT_RETRAINS p 1
    if max 1 (s.rf .FAB_CFG_RTLIM h) ≤ f.secRetrains + 1 then quarantine s p qcErrRate else setPortState s p psRetrain
  else s

/-- A flit discarded: replay is requested from the last FSEQ accepted (R285). -/
def requestReplay (s : State) (p : PortId) : State :=
  countEv (s.setPort p { s.port p with replayFrom := some (s.port p).rxSeq }) (.fab (portHalf p)) 0x183

/-- The fields of a flit (R284). -/
abbrev flFseq (f : Flit) : Nat := dfld f.bytes 0 11 0
/-- ACK of a flit. -/
abbrev flAck (f : Flit) : Nat := dfld f.bytes 0 23 12
/-- CVC of a flit. -/
abbrev flCvc (f : Flit) : Nat := dfld f.bytes 0 28 24
/-- CRED of a flit, in units of 4 flits. -/
abbrev flCred (f : Flit) : Nat := dfld f.bytes 0 31 29
/-- The LCRC of a flit is good (R284, R285). -/
def flGood (f : Flit) : Bool := crc32c (f.bytes.take 252) == dfld f.bytes 252 31 0

/-- The peer acknowledges flits up to `ack`, and returns credits (R284, R285). -/
def ackPort (x : Port) (ack cvc cred : Nat) : Port :=
  { x with
    unacked := dropAcked ack x.unacked,
    txAck := if (ack + 4097 - x.txAck) % 4096 ≤ x.outstanding then (ack + 1) % 4096 else x.txAck,
    credit := if cred = 0 then x.credit else aset x.credit cvc (aget x.credit cvc 0 + 4 * cred) }

/-- The packets of a replay buffer from a flit on. -/
def unackedFrom (n : Nat) (us : List (Nat × Packet)) : List (Nat × Packet) :=
  us.filter (fun u => decide ((u.1 + 4096 - n % 4096) % 4096 < 2048))

/-- The peer's request for replay from FSEQ `n`, which the flit brings with it: the flits from there on are sent again, and the
replay is counted (R285, R307; log 139). -/
def peerReplay (s : State) (p : PortId) (n : Option Nat) : State :=
  match n with
  | none => s
  | some n =>
    let s := s.incPf .FAB_PORT_ERR_REPLAY p 1
    { s with fab := { s.fab with sent := s.fab.sent ++ (unackedFrom n (s.port p).unacked).map (fun u => (p, u.2)) } }

/-- FLIT_RECEIVE (R285, R305). -/
def execFlitReceive (p : PortId) (f : Flit) (s : State) : Host.Outcome State Fault Refusal :=
  if portState s p = psActive then
    let s := countCorrected (s.incPf .FAB_PORT_ERR_FECUNC p f.fecUncorrectable) p f.fecCorrected
    if !flGood f then .next (maybeRetrain (requestReplay (s.incPf .FAB_PORT_ERR_LCRC p 1) p) p f)
    else
      let x := s.port p
      let s :=
        if flFseq f ≠ x.rxSeq then requestReplay s p
        else
          let y := ackPort x (flAck f) (flCvc f) (flCred f)
          pumpPort (peerReplay (s.setPort p { y with rxSeq := (x.rxSeq + 1) % 4096, replayFrom := none }) p f.replay) p
            (x.queue.length + 1)
      .next (if f.fecUncorrectable = 0 then s else maybeRetrain s p f)
  else .next s

/-- PORT_ACK_TIMEOUT (R285). -/
def execPortAckTimeout (p : PortId) (s : State) : Host.Outcome State Fault Refusal :=
  if portState s p = psActive ∧ !(s.port p).unacked.isEmpty then .next (portDown s p) else .next s

/-- SIGNAL_LOSS (R285): a quarantined port stays so (R304). -/
def execSignalLoss (p : PortId) (s : State) : Host.Outcome State Fault Refusal :=
  if portState s p = psDown ∨ portState s p = psQuarantine then .next s else .next (portDown s p)

/-! ### FAB_QCLR and FAB_DIS_CTL (R304, R306) -/

/-- Quarantined ports of a list released (R304). -/
def releasePorts (s : State) (ps : List PortId) : State :=
  match ps with
  | [] => s
  | p :: rest =>
    releasePorts (if portState s p = psQuarantine then (setPortState s p psDown).setPf .FAB_PORT_STAT_QCAUSE p 0 else s) rest

/-- The ports of a half that a mask names, in port order. -/
def maskPorts (h : HalfId) (mask : Nat) : List PortId := (portsOfHalf h).filter (fun p => bit mask (portIdx p))

/-- FAB_QCLR (R304). -/
def execFabQclr (a : Agent) (h : HalfId) (ports : Nat) (s : State) : Host.Outcome State Fault Refusal :=
  if !isDexca a then .next s.privFault else .next (releasePorts s (maskPorts h ports))

/-- Ports of a list closed (R306, step 1); one that is already closed is not closed again (R211). -/
def closePorts (s : State) (ps : List PortId) : State :=
  match ps with
  | [] => s
  | p :: rest => closePorts (s.setPort p { s.port p with closing := true }) rest

/-- PORT_DISABLE (R306): the ports that the mask names close. -/
def execPortDisable (a : Agent) (h : HalfId) (ports : Nat) (s : State) : Host.Outcome State Fault Refusal :=
  if !isDexca a then .next s.privFault
  else
    let m := s.rf .FAB_DIS_CTL_PORT h.val
    .next (closePorts (s.wf .FAB_DIS_CTL_PORT (m ||| ports % 512) h.val) (maskPorts h ports))

/-- PORT_DRAIN_EXPIRE (R306, steps 3 and 4): packets without another path are aborted, and the port stays DOWN, disabled. -/
def execPortDrainExpire (p : PortId) (s : State) : Host.Outcome State Fault Refusal :=
  if (s.port p).closing ∧ s.pf .FAB_PORT_STAT_DIS p = 0 then
    .next ((leaveLink s p psDown stAbortedDisable).setPf .FAB_PORT_STAT_DIS p 1)
  else .next s

end Sys2Proof.Machine
end

