-- ==== Sys2Proof/Machine/Disable.lean ====
section
/-!
DEFINITION. Disabling a core, an engine or a grove (R40, R209 to R213, R228).
-/

namespace Sys2Proof.Machine

/-! ### Step 1 -/

/-- A node's table in force holds a child in an Active slot. -/
def holdsChild (s : State) (parent : NodeId) (child : Nat) : Bool :=
  (s.table parent).slots.any (fun x => x.child == child && x.sstate == .active)

/-- A child of a node's table in force becomes Closing, in place and with no new version (R40). -/
def closeSlot (s : State) (parent : NodeId) (child : Nat) : State :=
  let t := s.table parent
  if holdsChild s parent child then
    s.setTable parent { t with slots := t.slots.map (fun x =>
      if x.child = child ∧ x.sstate = .active then { x with sstate := .closing } else x) }
  else s

/-- The groves of a core's half: coppice rotation may place the core in the table of any of them (R37). -/
def grovesOfHalf (h : HalfId) : List GroveId := (List.range 5).map (groveOf h)

/-- The slots of a core in the tables of groves, each Closing. -/
def closeSlots (s : State) (c : CoreId) (gs : List GroveId) : State :=
  match gs with
  | [] => s
  | g :: rest => closeSlots (closeSlot s (.grove g) (nodeRefOf s (.core c))) c rest

/-- Parts that wait for a core end with ABORTED_DISABLE; a key whose entry ran nothing commits nothing (R201, R209). -/
def abortWaiting (s : State) (ws : List WaitingPart) : State :=
  match ws with
  | [] => s
  | w :: rest =>
    let e := entryRaw s w
    let s := if weSpec e = 0 then s else killKey s (halfOfCore w.core) (weSpec e) true
    abortWaiting (finishPart (dropWaiting s w.core w) w.entry w.k stAbortedDisable) rest

/-- A core closes: its slot becomes Closing, and the parts that wait for it end (R209, step 1). -/
def closeCore (s : State) (c : CoreId) : State :=
  let s := s.setCore c { s.core c with node := .closing }
  let s := (closeSlots s c (grovesOfHalf (halfOfCore c))).wf .CORE_DIS_STAT_PHASE 1 c.val
  abortWaiting s ((aget s.waiting (groveOfCore c) []).filter (fun w => w.core == c))

/-- A core that a disable can close: one that is Closing, Disabled, Off or Absent ignores it (R211). -/
def canClose (s : State) (c : CoreId) : Bool :=
  match (s.core c).node with
  | .active => true
  | .spare => true
  | .paired => true
  | _ => false

/-- DISABLE_CORE (R209). -/
def execDisableCore (a : Agent) (c : CoreId) (s : State) : Host.Outcome State Fault Refusal :=
  if !isDexca a then .next s.privFault
  else if canClose s c then .next (closeCore (s.wf .CORE_DIS_CTL_CORE 1 c.val) c)
  else .next s

/-- An engine of a core closes (R209): its bit stays set until the core is reset (R213). A core that is already under
disable keeps its progress. -/
def closeEngine (s : State) (a : Agent) (c : CoreId) (f : Fld) : State :=
  if !isDexca a then s.privFault
  else if s.rb f c.val then s
  else
    let s := s.wf f 1 c.val
    if (s.core c).node = .closing then s else s.wf .CORE_DIS_STAT_PHASE 1 c.val

/-- DISABLE_MAT (R209): the array and the drain path. -/
def execDisableMat (a : Agent) (c : CoreId) (s : State) : Host.Outcome State Fault Refusal :=
  .next (closeEngine s a c .CORE_DIS_CTL_MAT)
/-- DISABLE_VEC (R209). -/
def execDisableVec (a : Agent) (c : CoreId) (s : State) : Host.Outcome State Fault Refusal :=
  .next (closeEngine s a c .CORE_DIS_CTL_VEC)
/-- DISABLE_LOAD (R209). -/
def execDisableLoad (a : Agent) (c : CoreId) (s : State) : Host.Outcome State Fault Refusal :=
  .next (closeEngine s a c .CORE_DIS_CTL_LOAD)
/-- DISABLE_STORE (R209). -/
def execDisableStore (a : Agent) (c : CoreId) (s : State) : Host.Outcome State Fault Refusal :=
  .next (closeEngine s a c .CORE_DIS_CTL_STORE)

/-- Cores of a list closed, those that can be. -/
def closeCores (s : State) (cs : List CoreId) : State :=
  match cs with
  | [] => s
  | c :: rest => closeCores (if canClose s c then closeCore s c else s) rest

/-- DISABLE_GROVE (R209): the dispatcher and all cores of the grove close. -/
def execDisableGrove (a : Agent) (g : GroveId) (s : State) : Host.Outcome State Fault Refusal :=
  if !isDexca a then .next s.privFault
  else
    let s := s.wf .GRV_DIS_CTL_GROVE 1 g.val
    if nodeState s (.grove g) = .active then
      let s := { s with groveSt := aset s.groveSt g .closing }
      .next (closeCores (closeSlot s (.half (halfOfGrove g)) (nodeRefOf s (.grove g))) (coresOfGrove g))
    else .next s

/-! ### Step 3 (R210) -/

/-- Bytes of a range that an aborted operation leaves: each granule of `g` bytes has its old or its new value, free
(R210). -/
def mixRange (s t : State) (g : Nat) (r : Nat × Nat) : State :=
  let old := s.read r.1 r.2
  let bs := (t.read r.1 r.2).zipIdx.map (fun x =>
    if Config.free (s.fresh + x.2 / max 1 g) % 2 = 0 then old.getD x.2 0 else x.1)
  (s.write r.1 bs).used (r.2 / max 1 g + 1)

/-- Ranges of an aborted operation, each left as `mixRange` says. -/
def mixRanges (s t : State) (g : Nat) (rs : List (Nat × Nat)) : State :=
  match rs with
  | [] => s
  | r :: rest => mixRanges (mixRange s t g r) t g rest

/-- The rows that a drain writes. -/
def drainDsts (s : State) (c : CoreId) (d : List Byte) : List (Nat × Nat) :=
  (List.range (drainShape s c d).1).map (fun i => (ddDst d + i * ddStride d, (drainShape s c d).2 * ddSize d))

/-- An EXDEP has made a deposit: fewer of its values wait than it has. -/
def exdepBegan (s : State) (c : CoreId) (o : Op) : Bool :=
  let a := s.acc c
  let mine := fun (d : Dep) => d.op == some o.num
  let left := (a.depQ ++ a.farQ ++ a.gladeQ ++ a.residue.flatMap Prod.snd).filter mine
  o.started && decide (left.length < vdCount o.desc)

/-- What an aborted operation leaves (R210). -/
def abortEffect (s : State) (c : CoreId) (o : Op) : State :=
  if o.cls = clMat then
    match findRun (s.core c) o.num with
    | none => s
    | some r => if r.cleared ∨ r.deposited then poisonTile s c (mdTile o.desc) else s
  else if o.cls = clVec ∧ vdOp o.desc = vopExdep then
    (if exdepBegan s c o then poisonTile s c (exdepTile c o.desc) else s)
  else if o.cls = clDrain ∧ o.pre.isNone ∧ o.started then
    let t := (runDrain s c o).1
    let s := mixRanges s t (ddSize o.desc) (drainDsts s c o.desc)
    mixRanges s t 1 [(ddStatAddr o.desc, statSpan s c o.desc), (ddEscAddr o.desc, escSpan o.desc)]
  else if (o.cls = clLoad ∨ o.cls = clStore) ∧ o.pre.isNone then
    mixRanges s (placeData s o.desc (loadData s (s.core c) o [])) 1 (dstRows o.desc)
  else s

/-- An operation of a core aborted (R209, R210): one that the fabric holds leaves its core without completion; every other
completes with ABORTED_DISABLE and is counted. A matrix operation writes no exception record: DESIGN CHOICE (log 151). -/
def abortOp (s : State) (c : CoreId) (o : Op) : State :=
  if !holdsEntry o then s.setCore c { s.core c with ops := (s.core c).ops.filter (fun p => p.num != o.num) }
  else
    let s := abortEffect s c o
    let s := dropOpDeps s c o.num
    let s := s.setCore c { s.core c with mats := (s.core c).mats.filter (fun r => r.num != o.num) }
    (completeOp s c o stAbortedDisable 0).incSat .CORE_DIS_STAT_ABORTS 1 c.val

/-- Operations of a core aborted in acceptance order. -/
def abortOps (s : State) (c : CoreId) (os : List Op) : State :=
  match os with
  | [] => s
  | o :: rest => abortOps (abortOp s c o) c rest

/-- The contexts of a disabled core end their parts: with ABORTED_DISABLE, or one that was over with its own status
(R210, R211). -/
def endContexts (s : State) (c : CoreId) (ovr ns : List CtxId) : State :=
  match ns with
  | [] => s
  | n :: rest =>
    let y := s.ctx c n
    let s :=
      if y.st = .idle then s
      else endPart (leaveFlags s c n) c n (if ovr.contains n then partStatus y else stAbortedDisable)
    endContexts s c ovr rest

/-- The contexts of a core. -/
def allCtxs : List CtxId := (List.range 8).map (Fin.ofNat 8)

/-- The 256 flags of a core that no context owns (R217). -/
def coreFlags (s : State) (c : CoreId) : List FlagId :=
  (flagRange (256 * c.val) 256).filter (fun f => (s.flag f).owner.isNone)

/-- The 1,024 glade flags of a grove that no context owns (R31, R217). -/
def groveFlags (s : State) (g : GroveId) : List FlagId :=
  (flagRange (20480 + 6144 * (g.val / 5) + 1024 * (g.val % 5)) 1024).filter (fun f => (s.flag f).owner.isNone)

/-- The cause of a flag poisoned at step 4 (R226). -/
abbrev causeDisabled : Nat := 3

/-- The speculation of a core that is disabled is cancelled (R207, R208): where it is unresolved, its key is resolved so, and frees its
entries in the understory. -/
def cancelHeld (s : State) (c : CoreId) : State :=
  let s := match (s.core c).spec with
    | none => s
    | some z =>
      match findKey s (halfOfCore c) z.key.1 z.key.2 with
      | some k => if z.resolved.isNone then resolveKey s (halfOfCore c) k false else s
      | none => s
  cancelSpec s c

/-- Steps 3 and 4 for a core (R208 to R210): its speculation is cancelled, every operation aborts, its parts end, its flags are
poisoned, and a context that waits on one of its flags that another context owns stops as well (R228). -/
def finishDisable (s : State) (c : CoreId) : State :=
  let s := cancelHeld s c
  let ovr := allCtxs.filter (fun n => partOver s c n)
  let s := abortOps s c (s.core c).ops
  let s := endContexts s c ovr allCtxs
  let x := s.core c
  let s := s.setCore c { x with node := .disabled, runAhead := [], mats := [] }
  let s := vecStat (matStat (trkStat s c) c) c
  let s := poisonFlags s (coreFlags s c) (srcRanger s (halfOfCore c)) causeDisabled
  let s := wakeDead s (halfOfCore c) (flagRange (256 * c.val) 256) causeDisabled
  (s.wf .CORE_DIS_STAT_PHASE 4 c.val).wf .CORE_DIS_STAT_DONE 1 c.val

/-- Cores of a list finished, those that are Closing under no timer of their own (R211). -/
def finishCores (s : State) (cs : List CoreId) : State :=
  match cs with
  | [] => s
  | c :: rest => finishCores (if (s.core c).node = .closing ∧ !s.rb .CORE_DIS_CTL_CORE c.val then finishDisable s c else s) rest

/-- The classes of an engine. -/
def engineClasses (e : Engine) : List Nat :=
  match e with
  | .mat => [clMat, clDrain]
  | .vec => [clVec]
  | .load => [clLoad]
  | .store => [clStore]

/-- The CORE_DIS_CTL bit of an engine. -/
def engineFld (e : Engine) : Fld :=
  match e with
  | .mat => .CORE_DIS_CTL_MAT
  | .vec => .CORE_DIS_CTL_VEC
  | .load => .CORE_DIS_CTL_LOAD
  | .store => .CORE_DIS_CTL_STORE

/-- DISABLE_DRAIN_EXPIRE (R209 to R211): the drain time of a closed unit ends. An engine's ends while its core is Closing too; PHASE
then goes on telling of the core. -/
def execDisableDrainExpire (u : DisUnit) (s : State) : Host.Outcome State Fault Refusal :=
  match u with
  | .core c =>
    if (s.core c).node = .closing ∧ s.rb .CORE_DIS_CTL_CORE c.val then .next (drainAll (finishDisable s c))
    else .next s
  | .engine c e =>
    if s.rb (engineFld e) c.val then
      let s := abortOps s c ((s.core c).ops.filter (fun o => (engineClasses e).contains o.cls))
      let s := startVec (matStat s c) c
      let s := if (s.core c).node = .closing then s else s.wf .CORE_DIS_STAT_PHASE 4 c.val
      .next (drainAll (s.wf .CORE_DIS_STAT_DONE 1 c.val))
    else .next s
  | .grove g =>
    if nodeState s (.grove g) = .closing then
      let s := finishCores s (coresOfGrove g)
      let s := { s with groveSt := aset s.groveSt g .disabled }
      .next (drainAll (poisonFlags s (groveFlags s g) (srcRanger s (halfOfGrove g)) causeDisabled))
    else .next s

end Sys2Proof.Machine
end

