-- ==== Sys2Proof/Machine/Mgmt.lean ====
section
/-!
DEFINITION. What the armature in force says of a job's devices and principals (R32, R43, R44, R376), control packets (R351,
R375), and the stop of a job (R227, R385).
-/

namespace Sys2Proof.Machine

/-! ### The armature in force (R43, R44) -/

/-- The local addresses of the entries of the armature at `a`. -/
def armEntries (s : State) (a : Nat) : List Nat := (List.range (armCount s a)).map (fun j => a + 0x40 + 32 * j)
/-- ROLE of an entry. -/
def entRole (s : State) (e : Nat) : Nat := s.readN e 1
/-- INDEX of an entry. -/
def entIndex (s : State) (e : Nat) : Nat := s.readN (e + 4) 4
/-- NODE of an entry. -/
def entNode (s : State) (e : Nat) : Nat := s.readN (e + 8) 4
/-- PARTNER of an entry, zero if none. -/
def entPartner (s : State) (e : Nat) : Nat := s.readN (e + 0x0C) 4
/-- FEED of an entry's device. -/
def entFeed (s : State) (e : Nat) : Nat := s.readN (e + 0x10) 1
/-- PFEED of an entry. -/
def entPFeed (s : State) (e : Nat) : Nat := s.readN (e + 0x11) 1
/-- CORR of an entry. -/
def entCorr (s : State) (e : Nat) : Bool := bit (s.readN (e + 0x12) 1) 0
/-- BASE of an entry. -/
def entBase (s : State) (e : Nat) : Nat := s.readN (e + 0x18) 8

/-- The entries of the armature in force; none before the first installation. -/
def jobEntries (s : State) : List Nat := if epochNow s = 0 then [] else armEntries s (armAddr s)

/-- The entry names a device. -/
def namesDevice (r : Nat) : Bool := refLevel r == 3 && !refSlot r

/-- The devices of a job: every device that a NODE or PARTNER of the armature names. -/
def jobDevices (s : State) : List Nat :=
  ((jobEntries s).flatMap (fun e =>
    (if namesDevice (entNode s e) then [refDev (entNode s e)] else []) ++
    (if entPartner s e = 0 then [] else [refDev (entPartner s e)]))).eraseDups

/-- The devices of a job in this device's group. -/
def groupDevices (s : State) : List Nat := (jobDevices s).filter (fun d => d / 64 == ownDev s / 64)

/-- The principal device of a group (R32, R43; log 19). -/
def groupPrincipal (s : State) (g : Nat) : Nat :=
  if g = ownDev s / 64 then s.readN (armAddr s + 0x18) 4 % 2 ^ 14 else Config.groupPrincipal (epochNow s) g % 2 ^ 14

/-- The principals of the groups of a job. -/
def groupPrincipals (s : State) : List Nat :=
  (((jobDevices s).map (fun d => d / 64)).eraseDups.map (groupPrincipal s)).eraseDups

/-- The least of a list of numbers. -/
def leastOf (ns : List Nat) : Option Nat :=
  match ns with
  | [] => none
  | n :: rest => some (rest.foldl min n)

/-- A device is declared failed, or will be at its fence (R376, R379). -/
def deviceGone (s : State) (d : Nat) : Bool := failedDev s d || s.beat.declares.any (fun x => x.1 == d)

/-- The device that acts as hall principal, `subject` set aside (R376): that of the armature, or the surviving group
principal with the lowest device bits. -/
def actingHall (s : State) (subject : Option Nat) : Nat :=
  let p := s.readN (armAddr s + 0x1C) 4 % 2 ^ 14
  if deviceGone s p ∨ subject = some p then
    (leastOf ((groupPrincipals s).filter (fun d => !deviceGone s d && subject != some d))).getD p
  else p

/-- This device acts as hall principal. -/
def isHall (s : State) : Bool := epochNow s != 0 && actingHall s none == ownDev s
/-- This device is its group's principal. -/
def isGroupPrin (s : State) : Bool := epochNow s != 0 && groupPrincipal s (ownDev s / 64) == ownDev s

/-- The partner of a device in the armature in force. -/
def partnerOf (s : State) (d : Nat) : Option Nat :=
  match (jobEntries s).find? (fun e => namesDevice (entNode s e) && refDev (entNode s e) == d && entPartner s e != 0) with
  | some e => some (refDev (entPartner s e))
  | none => none

/-- The wards of this device (R366). -/
def wardsOf (s : State) (p : Nat) : List Nat :=
  ((jobEntries s).filter (fun e => entPartner s e != 0 && refDev (entPartner s e) == p && namesDevice (entNode s e))).map
    (fun e => refDev (entNode s e)) |>.eraseDups

/-! ### Control packets -/

/-- A control packet sent to another device; it has no answer, and without a path it is dropped and counted (R294). -/
def sendControl (s : State) (dev ptype : Nat) (adapt : Bool) (payload : List Byte) : State :=
  let h := leadHalf s
  if dev = ownDev s then s
  else sendResponse s h (mkPacket s ptype 3 (0x3FD + h.val) (globalAddr dev 0) adapt false payload [])

/-- A control packet sent to each device of a list. -/
def sendControls (s : State) (ptype : Nat) (payload : List Byte) (ds : List Nat) : State :=
  match ds with
  | [] => s
  | d :: rest => sendControls (sendControl s d ptype false payload) ptype payload rest

/-- A control packet of a type that arrives here (R295): whatever its JOB; one of a failed device is discarded unless it is
MGMT (R379). -/
def controlArrives (s : State) (p : PortId) (pkt : Packet) (t : Nat) : Bool :=
  arrives s p pkt && pkt.ptype == t

/-- The kinds of R375. -/
abbrev mkFailnote : Nat := 1
abbrev mkProbe : Nat := 2
abbrev mkProbeReply : Nat := 3
abbrev mkDeclare : Nat := 4
abbrev mkStop : Nat := 5
abbrev mkDigest : Nat := 6
abbrev mkStopReq : Nat := 7
abbrev mkExpelReq : Nat := 8
abbrev mkArmAck : Nat := 9
abbrev mkTable : Nat := 16

/-- A management record (R375). -/
structure MRec where
  kind : Nat
  seq : Nat
  cause : Nat
  subject : Nat
  epoch : Nat
  step : Nat
  beat : Nat
  arg : Nat
  deriving DecidableEq, Repr

/-- The 32 bytes of a management record. -/
def MRec.bytes (m : MRec) : List Byte :=
  natLE 1 m.kind ++ natLE 1 m.seq ++ natLE 1 m.cause ++ natLE 1 0 ++ natLE 4 (m.subject % 2 ^ 14) ++ natLE 4 m.epoch ++
    natLE 4 m.step ++ natLE 8 m.beat ++ natLE 8 m.arg

/-- The management record at the front of a payload. -/
def mrecOf (pl : List Byte) : MRec where
  kind := leNat (pl.take 1)
  seq := leNat ((pl.drop 1).take 1)
  cause := leNat ((pl.drop 2).take 1)
  subject := leNat ((pl.drop 4).take 4) % 2 ^ 14
  epoch := leNat ((pl.drop 8).take 4)
  step := leNat ((pl.drop 12).take 4)
  beat := leNat ((pl.drop 16).take 8)
  arg := leNat ((pl.drop 24).take 8)

/-- A record of this device; SEQ is zero where nothing chooses it (log 30). -/
def mrec (s : State) (kind cause subject beat arg : Nat) : MRec :=
  ⟨kind, 0, cause, subject, epochNow s, s.rf .BEAT_STEP_STEP, beat, arg⟩

/-- A management record sent to a device. -/
def sendMgmt (s : State) (dev : Nat) (m : MRec) : State := sendControl s dev ptMgmt false m.bytes

/-- A management record of a kind that arrives here. -/
def mgmtArrives (s : State) (p : PortId) (pkt : Packet) (kind : Nat) : Bool :=
  controlArrives s p pkt ptMgmt && (mrecOf pkt.payload).kind == kind

/-! ### Stopping (R227, R385) -/

/-- The cause of a poison at pre-emption (R226). -/
abbrev causePreempted : Nat := 2

/-- The flags that contexts own, poisoned as their owners are pre-empted (R227). -/
def poisonOwned (s : State) : State :=
  let fs := (s.flags.filter (fun kv => kv.2.owner.isSome)).map Prod.fst
  poisonFlags s fs (srcRanger s (leadHalf s)) causePreempted

/-- Every grove of the device. -/
def allGroves : List GroveId := (List.range 10).map (Fin.ofNat 10)

/-- Every core closed, each under its own timer (R209). -/
def closeAll (s : State) (cs : List CoreId) : State :=
  match cs with
  | [] => s
  | c :: rest => closeAll (if canClose s c then closeCore (s.wf .CORE_DIS_CTL_CORE 1 c.val) c else s) rest

/-- The device's cores and ports disabled, management traffic apart (R379, R385; log 31). -/
def stopUnits (s : State) : State :=
  let s := closeAll (poisonOwned s) allCores
  { s with fab := { s.fab with mgmtOnly := true } }

/-- The job states of R449. -/
abbrev jsEmpty : Nat := 0
abbrev jsLoading : Nat := 1
abbrev jsLoaded : Nat := 2
abbrev jsRunning : Nat := 3
abbrev jsStopped : Nat := 4
abbrev jsDeclared : Nat := 5

/-- The job state replaced. -/
def setJob (s : State) (j : Nat) : State := { s with dx := { s.dx with job := j } }

/-- The long commands of an opcode that run end with a status word, once each is taken up. -/
def endLong (s : State) (cmd st : Nat) : State :=
  { s with dx := { s.dx with
    long := s.dx.long.map (fun kv => (kv.1, if kv.2.cmd = cmd ∧ kv.2.status = none then { kv.2 with status := some st } else kv.2)) } }

/-- JOB_STOP's opcode. -/
abbrev opJobStop : Nat := 0x0203
/-- ARM_INSTALL's opcode. -/
abbrev opArmInstall : Nat := 0x0205

/-- This device stops (R385): its units are disabled, the cause is reported, and a JOB_STOP of its host ends. -/
def stopHere (s : State) (cause dev : Nat) : State :=
  if s.dx.job = jsRunning then
    endLong (postEvent (stopUnits (setJob s jsStopped)) (leadHalf s) evJobStopped [cause, dev]) opJobStop 0
  else s

/-- The hall principal stops the job on every device (R385). -/
def stopJob (s : State) (cause dev : Nat) : State :=
  let m := mrec s mkStop cause dev (beatNow s) dev
  stopHere (sendControls s ptMgmt m.bytes (jobDevices s)) cause dev

/-- STOP (R385). -/
def execStop (p : PortId) (pkt : Packet) (s : State) : Host.Outcome State Fault Refusal :=
  if mgmtArrives s p pkt mkStop then .next (stopHere s (mrecOf pkt.payload).cause ((mrecOf pkt.payload).arg % 2 ^ 14)) else .next s

/-- The cause of JOB_STOPPED for the cause argument of a JOB_STOP (R464; log 32). -/
def stopCause (arg : Nat) : Nat := if arg = 0 then 0 else (arg + 16) % 256

/-- The cause that a STOP_REQ asks for: CAUSE where a device of the job found one (log 39), else that of a JOB_STOP. -/
def reqCause (m : MRec) : Nat := if m.cause = 0 then stopCause m.arg else m.cause

/-- STOP_REQ (R452): the hall principal stops the job. -/
def execStopReq (p : PortId) (pkt : Packet) (s : State) : Host.Outcome State Fault Refusal :=
  if mgmtArrives s p pkt mkStopReq ∧ isHall s then
    .next (stopJob s (reqCause (mrecOf pkt.payload)) (if (mrecOf pkt.payload).cause = 0 then 0 else (mrecOf pkt.payload).subject))
  else .next s

/-- A cause to stop the job found on this device goes to the hall principal (R384, R405; log 39). -/
def askStop (s : State) (cause dev : Nat) : State :=
  if isHall s then stopJob s cause dev else sendMgmt s (actingHall s none) (mrec s mkStopReq cause dev 0 0)

/-- MGMT_UNKNOWN (R375): a record of a kind that the table does not name is discarded. -/
def execMgmtUnknown (_p : PortId) (_pkt : Packet) (s : State) : Host.Outcome State Fault Refusal := .next s

/-! ### Declaring (R376, R377, R379) -/

/-- A control packet that a group principal passes on unchanged to the other devices of its group (R359, R375, R381). -/
def passDown (s : State) (ptype : Nat) (payload : List Byte) : State :=
  if isGroupPrin s then sendControls s ptype payload (groupDevices s) else s

/-- A control packet of the hall principal: to every other group principal, and to the devices of its own group. -/
def sendFromHall (s : State) (ptype : Nat) (payload : List Byte) : State :=
  passDown (sendControls s ptype payload (groupPrincipals s)) ptype payload

/-- The first beat whose boundary lies at least 10 µs after now; the place of now within its beat is free (R376; log 5). -/
def tenMicros (s : State) : Nat := beatNow s + (s.freeVal % beatNs s + 10000 + beatNs s - 1) / beatNs s

/-- A declaration of device `dev` with a cause of R375 and beat `f` reaches this device (R379): it waits for its fence; a device that finds
itself declared stops. -/
def declareHere (s : State) (dev cause f : Nat) : State :=
  if deviceGone s dev then s
  else
    let s := { s with beat := { s.beat with
      declares := s.beat.declares ++ [(dev, f)]
      outliers := if cause = 3 then s.beat.outliers ++ [dev] else s.beat.outliers
      shiftDue := if s.beat.foBeats = 0 ∧ s.beat.shiftDue.isNone then some f else s.beat.shiftDue } }
    let s := postEvent s (leadHalf s) evDeclared [dev, f % 2 ^ 32, f / 2 ^ 32]
    if dev = ownDev s then stopUnits (setJob s jsDeclared) else s

/-- This device acts as hall principal in what concerns a device (R376). -/
def hallFor (s : State) (dev : Nat) : Bool := epochNow s != 0 && actingHall s (some dev) == ownDev s

/-- The devices declared whose takeover is not complete. -/
def unsettled (s : State) : List Nat :=
  s.beat.declares.map Prod.fst ++ (s.beat.takeovers.filter (fun x => x.2 != 0)).map Prod.fst

/-- A device and its partner are both down (R384). -/
def doubleFault (s : State) (dev : Nat) : Bool :=
  (unsettled s).any (fun d => partnerOf s dev == some d || partnerOf s d == some dev)

/-- The hall principal declares a device failed, or expels it (R376, R377); with its partner already down the job stops
(R384). -/
def declareDev (s : State) (dev cause : Nat) : State :=
  if !hallFor s dev ∨ deviceGone s dev ∨ !(jobDevices s).contains dev then s
  else
    let f := tenMicros s
    let both := doubleFault s dev
    let s := s.used
    let s := declareHere (sendFromHall s ptMgmt (mrec s mkDeclare cause dev f 0).bytes) dev cause f
    if both then stopJob s 1 dev else s

/-- A control packet taken up: a packet of a failed device other than management traffic is discarded and counted (R379). -/
def takeControl (s : State) (p : PortId) (pkt : Packet) (t : Nat) (f : State → State) : State :=
  if !controlArrives s p pkt t then s
  else if t ≠ ptMgmt ∧ failedDev s pkt.srcDev then zombie s p
  else f s

end Sys2Proof.Machine
end

