-- ==== Sys2Proof/Machine/Pmc.lean ====
section
/-!
DEFINITION. The aggregator: snapshots, node counter sets, records and gathered sets (R516 to R520).
-/

namespace Sys2Proof.Machine

/-! ### Counting at a boundary -/

/-- The events whose occurrences are matters of timing, which the model leaves free (log 5). -/
def timingEvents : List Nat :=
  [0x000, 0x001, 0x004, 0x006, 0x00B, 0x00D, 0x00E, 0x00F, 0x010, 0x012, 0x013, 0x014, 0x015, 0x016, 0x017, 0x018, 0x019,
    0x01A, 0x01B, 0x080, 0x081, 0x083, 0x100, 0x101, 0x102, 0x103, 0x105, 0x180, 0x181]

/-- The class of a block's events (R515). -/
def blockClass (b : Block) : Nat :=
  match b with
  | .core _ => 0
  | .gld _ => 1
  | .mem _ => 2
  | .fab _ => 3
  | .col _ => 4

/-- The counters of a block that count timing events advance by free amounts. -/
def advanceTiming (s : State) (b : Block) (ks : List Nat) : State :=
  match ks with
  | [] => s
  | k :: rest =>
    let e := cntEvent s b k
    let s := if cntEn s b k ∧ timingEvents.contains e ∧ e / 128 = blockClass b then
        (advanceCnt s b k (s.freeVal % 2 ^ 48)).used
      else s
    advanceTiming s b rest

/-- The core counts: it is neither Off nor Absent, nor the odd core of a pair (R514). -/
def coreCounts (s : State) (c : CoreId) : Bool :=
  aget s.groveSt (groveOfCore c) .active != .off &&
    (match (s.core c).node with
      | .off => false
      | .absent => false
      | .paired => false
      | _ => true) && !(inPair s c && c.val % 2 == 1)

/-- The blocks of the device that count. -/
def countingBlocks (s : State) : List Block :=
  (allCores.filter (coreCounts s)).map Block.core ++
    [Block.gld 0, .mem 0, .fab 0, .col 0, .gld 1, .mem 1, .fab 1, .col 1]

/-- Blocks whose timing events advance. -/
def advanceBlocks (s : State) (bs : List Block) : State :=
  match bs with
  | [] => s
  | b :: rest => advanceBlocks (advanceTiming s b (List.range 8)) rest

/-- A perturbation register of the half takes decisions that can apply: EN set, PROB above zero and a target (R522, R523). -/
def perturbed (s : State) (h : HalfId) : Bool :=
  let on := fun (en prob target : Fld) => s.rb en h.val && s.rb prob h.val && s.rb target h.val
  on .TST_CREDIT_EN .TST_CREDIT_PROB .TST_CREDIT_TARGET || on .TST_BP_EN .TST_BP_PROB .TST_BP_TARGET ||
    on .TST_BANK_EN .TST_BANK_PROB .TST_BANK_TARGET || on .TST_QDLY_EN .TST_QDLY_PROB .TST_QDLY_TARGET

/-- Perturbations change timing only; how many were applied is free (R522, R523; log 5). -/
def applyPerturb (s : State) (h : HalfId) : State :=
  if perturbed s h then (s.incSat .TST_STAT_APPLIED (s.freeVal % 2 ^ 32) h.val).used else s

/-! ### Sets (R517, R518) -/

/-- The word of a counter in a record (R518). -/
def cntWord (event : Nat) (wrap : Bool) (count : Nat) : Nat := event % 1024 * 2 ^ 54 + b2n wrap * 2 ^ 53 + count % 2 ^ 48
/-- EVENT of such a word. -/
abbrev wordEvent (w : Nat) : Nat := bits w 63 54
/-- COUNT of such a word. -/
abbrev wordCount (w : Nat) : Nat := bits w 47 0

/-- The mixed mark of R517. -/
abbrev eventMixed : Nat := 0x3FF

/-- COUNT of counter `k` of a block. -/
def cntCount (s : State) (b : Block) (k : Nat) : Nat := s.rf (cntField b) (blockUnit b) k

/-- A block's eight words with the deltas since the previous copy. -/
def blockSet (s : State) (b : Block) : List (Nat × Nat) :=
  (List.range 8).map (fun k =>
    let n := cntCount s b k
    (cntWord (cntEvent s b k) (s.pmc.wraps.contains (blockKey b, k)) n,
      (n + 2 ^ 48 - aget s.pmc.prev (blockKey b, k) 0) % 2 ^ 48))

/-- Counter `k` of a node from its children's words and deltas: mixed events hold the mark and add nothing. -/
def nodeCounter (s : State) (key k : Nat) (kids : List (Nat × Nat)) : State × (Nat × Nat) :=
  let ev := wordEvent (kids.headD (0, 0)).1
  if ev = eventMixed ∨ kids.any (fun x => wordEvent x.1 != ev) then (s, (cntWord eventMixed false 0, 0))
  else
    let d := (kids.map Prod.snd).sum % 2 ^ 48
    let n := aget s.pmc.node (key, k) 0 + d
    ({ s with pmc := { s.pmc with node := aset s.pmc.node (key, k) (n % 2 ^ 48) } },
      (cntWord ev (decide (2 ^ 48 ≤ n)) n, d))

/-- A node's counters from `ks` on (NODE_SET_FORM). -/
def nodeSet (s : State) (key : Nat) (kids : List (List (Nat × Nat))) (ks : List Nat) : State × List (Nat × Nat) :=
  match ks with
  | [] => (s, [])
  | k :: rest =>
    let r := nodeCounter s key k (kids.map (fun x => x.getD k (0, 0)))
    let q := nodeSet r.1 key kids rest
    (q.1, r.2 :: q.2)

/-- The sets of the groves of a half, from `gs` on. -/
def groveSets (s : State) (h : HalfId) (gs : List Nat) : State × List (List (Nat × Nat)) :=
  match gs with
  | [] => (s, [])
  | g :: rest =>
    let kids := ((coresOfGrove (groveOf h g)).filter (fun c => coreCounts s c || (s.core c).node == .paired)).map
      (fun c => blockSet s (.core c))
    let r := nodeSet s (64 * h.val + 40 + g) kids (List.range 8)
    let q := groveSets r.1 h rest
    (q.1, r.2 :: q.2)

/-- The 64 bytes of a set. -/
def setBytes (ws : List (Nat × Nat)) : List Byte := ws.flatMap (fun w => natLE 8 w.1)

/-! ### Records (R518 to R520) -/

/-- The header of a record. -/
def recordHeader (s : State) (h : HalfId) (kind beat off : Nat) : List Byte :=
  padTo 64 (natLE 8 (kind + h.val * 4) ++ natLE 8 beat ++ natLE 8 off ++ natLE 8 (min (2 ^ 32 - 1) (aget s.pmc.drops h 0)))

/-- A record dropped. -/
def dropRecord (s : State) (h : HalfId) : State :=
  let s := { s with pmc := { s.pmc with drops := aset s.pmc.drops h (aget s.pmc.drops h 0 + 1) } }
  raiseIrq (s.incSat .PMC_STAT_DROPS 1 h.val) h 33

/-- The ring lies where R519 allows. -/
def ringAllowed (s : State) (h : HalfId) : Bool :=
  let n := 3328 * max 1 (s.rf .PMC_RING_IDX_SIZE h.val)
  regionOf (s.rf .PMC_RING_BASE_ADDR h.val) n == some (if s.rb .PMC_CFG_USER_EN h.val then Region.hbm else Region.priv)

/-- FLAG of a half set after a record, where FLAGEN asks for it (R518). -/
def recordDone (s : State) (h : HalfId) : State :=
  if s.rb .PMC_CFG_FLAGEN h.val then setFlag s (Fin.ofNat 32768 (s.rf .PMC_CFG_FLAG h.val)) (srcRanger s h) else s

/-- PMC_RECORD_WRITE: a record of 3,328 bytes goes to its slot, or is dropped, also while the one before it is still being written;
FLAG is set after it. -/
def writePmc (s : State) (h : HalfId) (bs : List Byte) : State :=
  let base := s.rf .PMC_RING_BASE_ADDR h.val
  let i := s.rf .PMC_RING_IDX_NEXT h.val
  if base = 0 then s
  else if !ringAllowed s h ∨ recordBusy s h then dropRecord s h
  else
    let a := base + 3328 * i
    let s := s.wf .PMC_RING_IDX_NEXT ((i + 1) % max 1 (s.rf .PMC_RING_IDX_SIZE h.val)) h.val
    if memWaits s h a 3328 then { s with held := s.held ++ [.record h a (padTo 3328 bs)] }
    else recordDone (s.write a (padTo 3328 bs)) h

/-- Bit c: core c of the half is Off. -/
def offBits (s : State) (h : HalfId) : Nat :=
  ((List.range 40).map (fun c =>
    b2n ((s.core (coreOf h c)).node == .off || aget s.groveSt (groveOfCore (coreOf h c)) .active == .off) * 2 ^ c)).sum

/-- The body of a half's record, but for its last set. -/
def recordBody (s : State) (h : HalfId) (groves : List (List (Nat × Nat))) (half : List (Nat × Nat)) : List Byte :=
  (List.range 40).flatMap (fun c => setBytes (blockSet s (.core (coreOf h c)))) ++
    [Block.gld h, .mem h, .fab h, .col h].flatMap (fun b => setBytes (blockSet s b)) ++ groves.flatMap setBytes ++ setBytes half

/-- The copies that the next snapshot compares with. -/
def keepCopies (s : State) : State :=
  let ks := (allCores.map Block.core ++ [Block.gld 0, .mem 0, .fab 0, .col 0, .gld 1, .mem 1, .fab 1, .col 1]).flatMap
    (fun b => (List.range 8).map (fun k => ((blockKey b, k), cntCount s b k)))
  let own := adrop s.pmc.prev (fun x => decide (x.1 < 128))
  { s with pmc := { s.pmc with prev := ks.filter (fun x => x.2 != 0) ++ own, wraps := [] } }

/-! ### Gathered sets (R517) -/

/-- A gathered device set as a child: its words, with the deltas since that device's previous set. -/
def gatheredSet (s : State) (dev : Nat) (ws : List Nat) : List (Nat × Nat) :=
  ws.zipIdx.map (fun x => (x.1, (wordCount x.1 + 2 ^ 48 - aget s.pmc.prev (128 + dev, x.2) 0) % 2 ^ 48))

/-- The copies of a gathered device set kept. -/
def keepGathered (s : State) (dev : Nat) (ws : List Nat) : State :=
  let put := fun (m : AMap (Nat × Nat) Nat) (x : Nat × Nat) =>
    if wordEvent x.1 = eventMixed then m else aset m (128 + dev, x.2) (wordCount x.1)
  { s with pmc := { s.pmc with prev := ws.zipIdx.foldl put s.pmc.prev } }

/-- Copies kept of every device of a list for a beat. -/
def keepAllGathered (s : State) (beat : Nat) (ds : List Nat) : State :=
  match ds with
  | [] => s
  | d :: rest => keepAllGathered (keepGathered s d (aget s.pmc.gather (beat, d) [])) beat rest

/-- The set of a group or hall of a beat formed from its devices' sets and written to this device's ring. -/
def formSet (s : State) (kind set beat : Nat) (ds : List Nat) : State :=
  let h := leadHalf s
  let kids := ds.map (fun d => gatheredSet s d (aget s.pmc.gather (beat, d) []))
  let r := nodeSet s (64 * h.val + set) kids (List.range 8)
  writePmc r.1 h (recordHeader r.1 h kind beat 0 ++ setBytes r.2)

/-- Every device of a list has sent its set of a beat. -/
def gatheredAll (s : State) (beat : Nat) (ds : List Nat) : Bool := ds.all (fun d => (aget? s.pmc.gather (beat, d)).isSome)

/-- GROUP_SET_FORM (R517): a device's set of a beat gathered; the last one forms the group set, and at the hall principal
the hall set (log 33). -/
def gatherSet (s : State) (beat dev : Nat) (ws : List Nat) : State :=
  let s := { s with pmc := { s.pmc with gather := aset s.pmc.gather (beat, dev) ws } }
  let live := fun (ds : List Nat) => ds.filter (fun d => !failedDev s d)
  let grp := if isGroupPrin s then live (groupDevices s) else []
  let hall := if isHall s then live (jobDevices s) else []
  let s := if grp.contains dev ∧ gatheredAll s beat grp then formSet s 1 47 beat grp else s
  let s := if hall.contains dev ∧ gatheredAll s beat hall then formSet s 2 48 beat hall else s
  if gatheredAll s beat grp ∧ gatheredAll s beat hall then
    let s := keepAllGathered s beat ((grp ++ hall).eraseDups)
    { s with pmc := { s.pmc with gather := adrop s.pmc.gather (fun x => decide (x.1 ≤ beat)) } }
  else s

/-- The device set of a beat goes to the device's group principal and to the hall principal (log 33). -/
def sendSet (s : State) (beat : Nat) (ws : List (Nat × Nat)) : State :=
  if epochNow s = 0 then s
  else
    let m := mrec s mkTable 3 (ownDev s) beat 64
    let ds := [groupPrincipal s (ownDev s / 64), actingHall s none].eraseDups
    let s := sendControls s ptMgmt (m.bytes ++ setBytes ws) (ds.filter (fun d => d != ownDev s))
    if isGroupPrin s ∨ isHall s then gatherSet s beat (ownDev s) (ws.map Prod.fst) else s

/-- COUNTER_SNAPSHOT, NODE_SET_FORM and PMC_RECORD_WRITE at the boundary of a beat (R516 to R519). -/
def snapshot (s : State) (beat : Nat) : State :=
  let s := applyPerturb (applyPerturb (advanceBlocks s (countingBlocks s)) 0) 1
  let g0 := groveSets s 0 (List.range 5)
  let h0 := nodeSet g0.1 45 g0.2 (List.range 8)
  let g1 := groveSets h0.1 1 (List.range 5)
  let h1 := nodeSet g1.1 (64 + 45) g1.2 (List.range 8)
  let lead := leadHalf s
  let d := nodeSet h1.1 (64 * lead.val + 46) [h0.2, h1.2] (List.range 8)
  let s := d.1
  let b0 := recordHeader s 0 0 beat (offBits s 0) ++ recordBody s 0 g0.2 h0.2 ++ (if lead = 0 then setBytes d.2 else [])
  let b1 := recordHeader s 1 0 beat (offBits s 1) ++ recordBody s 1 g1.2 h1.2 ++ (if lead = 1 then setBytes d.2 else [])
  sendSet (writePmc (writePmc (keepCopies s) 0 b0) 1 b1) beat d.2

end Sys2Proof.Machine
end

