-- ==== Sys2Proof/Machine/Beat.lean ====
section
/-!
DEFINITION. The beat: boundaries, alignment, schedules, windows and the two policies (R346 to R365).
-/

namespace Sys2Proof.Machine

/-! ### BEATMARK records (R351) -/

/-- A BEATMARK record. -/
structure BMark where
  kind : Nat
  phase : Nat
  count : Nat
  ext : Bool
  t2 : Nat
  beat : Nat
  t3 : Nat
  corr : Nat
  deriving DecidableEq, Repr

abbrev bmSync : Nat := 0
abbrev bmReply : Nat := 1
abbrev bmLate : Nat := 2
abbrev bmDecide : Nat := 3
abbrev bmShift : Nat := 4

/-- The 32 bytes of a BEATMARK record. -/
def BMark.bytes (m : BMark) : List Byte :=
  natLE 4 (m.kind + m.phase % 64 * 2 ^ 8 + m.count % 256 * 2 ^ 14 + b2n m.ext * 2 ^ 22) ++ natLE 4 m.t2 ++ natLE 8 m.beat ++
    natLE 4 m.t3 ++ natLE 4 m.corr ++ natLE 8 0

/-- The record of a payload. -/
def bmarkOf (pl : List Byte) : BMark where
  kind := dfld pl 0 2 0
  phase := dfld pl 0 13 8
  count := dfld pl 0 21 14
  ext := dbit pl 0 22
  t2 := dfld pl 4 31 0
  beat := dfld pl 8 63 0
  t3 := dfld pl 0x10 31 0
  corr := dfld pl 0x14 31 0

/-- A BEATMARK record sent to a device. -/
def sendMark (s : State) (dev : Nat) (m : BMark) : State := sendControl s dev ptBeatMark false m.bytes

/-- A BEATMARK of a kind that arrives here, taken up. -/
def takeMark (s : State) (p : PortId) (pkt : Packet) (kind : Nat) (f : State → State) : State :=
  takeControl s p pkt ptBeatMark (fun s => if (bmarkOf pkt.payload).kind = kind then f s else s)

/-! ### Alignment (R349 to R353) -/

/-- A time on this device's count, in nanoseconds: a beat and a place in it. -/
def absNs (s : State) (beat sub : Nat) : Nat := beat * beatNs s + sub

/-- SYNC (R350): answered with T2 and T3. CORR of the answer starts at the SYNC's CORR taken away, so that what arrives back
is CORR_rev − CORR_fwd (log 34). -/
def execSync (p : PortId) (pkt : Packet) (t2 t3 : Nat) (s : State) : Host.Outcome State Fault Refusal :=
  .next (takeMark s p pkt bmSync (fun s =>
    sendMark s pkt.srcDev ⟨bmReply, 0, 0, false, t2, beatNow s, t3, (2 ^ 32 - (bmarkOf pkt.payload).corr) % 2 ^ 32⟩))

/-- The rate in force is one within ±50 ppm, free (R347; log 5). -/
def steer (s : State) : State :=
  (s.wfBoth .BEAT_OFS_RATE (ofSigned 32 ((s.freeVal % 100001 : Nat) - 50000))).used

/-- SRC of R352. -/
abbrev srcOff : Nat := 0
abbrev srcCadence : Nat := 1
abbrev srcFabric : Nat := 2
abbrev srcHoldover : Nat := 3

/-- The offset that a REPLY measures (R350), rounded down to whole nanoseconds. -/
def measuredOffset (s : State) (m : BMark) (t1 t4 : Nat) : Int :=
  let a2 : Int := absNs s m.beat m.t2
  let a3 : Int := a2 + ((m.t3 + beatNs s - m.t2 % beatNs s) % beatNs s : Nat)
  let a4 : Int := absNs s (beatNow s) t4
  ((a2 - t1) - (a4 - a3) + toSigned 32 m.corr) / 2

/-- REPLY (R350, R352): the offset is recorded and steered toward, and DELAY is learnt from the last mark. -/
def replyArrives (s : State) (m : BMark) (t1 t4 : Nat) : State :=
  let o := measuredOffset s m t1 t4
  let s := steer (s.wfBoth .BEAT_OFS_OFFSET (ofSigned 32 o))
  let s := if o < -50 ∨ 50 < o then s.wfBoth .BEAT_STAT_ALIGN_ERR 1 else s
  match s.beat.lastStamp with
  | none => { s with beat := { s.beat with sentT1 := none, cadStep := false } }.wfBoth .BEAT_STAT_SRC srcFabric
  | some st =>
    let s := (s.wfBoth .BEAT_CAD_DELAY (ofSigned 16 (st + o))).wfBoth .BEAT_STAT_SRC srcCadence
    { s with beat := { s.beat with sentT1 := none, cadStep := false, lastErr := none } }

/-- REPLY (R350). -/
def execReply (p : PortId) (pkt : Packet) (t4 : Nat) (s : State) : Host.Outcome State Fault Refusal :=
  .next (takeMark s p pkt bmReply (fun s =>
    match s.beat.sentT1 with
    | none => s
    | some t1 => replyArrives s (bmarkOf pkt.payload) t1 t4))

/-- The device that this one exchanges with (R350); none for the hall principal, or without a job. -/
def exchangePeer (s : State) : Option Nat :=
  if epochNow s = 0 ∨ isHall s then none
  else some (if isGroupPrin s then actingHall s none else groupPrincipal s (ownDev s / 64))

/-- BEAT_EXCHANGE (R350): an exchange begins at local time `t1`, a place in the beat. -/
def execBeatExchange (t1 : Nat) (s : State) : Host.Outcome State Fault Refusal :=
  match exchangePeer s with
  | none => .next s
  | some d =>
    if !s.rb .BEAT_CFG_EN then .next s
    else
      let s := { s with beat := { s.beat with sentT1 := some (absNs s (beatNow s) t1) } }
      .next (sendMark s d ⟨bmSync, 0, 0, false, 0, beatNow s, 0, 0⟩)

/-- The cadence line as the device takes it: each module other than the group principal regenerates the frame, while its
bypass is open (R349, R544). -/
def regenerate (s : State) (bits : Nat) : State :=
  if s.rb .MOD_CAD_OPEN then { s with beat := { s.beat with marks := s.beat.marks ++ [bits % 65536] } } else s

/-- A mark's stamp belongs to the current beat, or to the next if it came just before this device's boundary. -/
def markBeat (s : State) (stamp : Nat) : Nat := if beatNs s ≤ 2 * stamp then beatNow s + 1 else beatNow s

/-- What a mark does to the cadence (R350, R352): its error is kept, and a step makes the device ignore cadence until the
next exchange. -/
def takeStamp (s : State) (stamp : Nat) : State :=
  let e := toSigned 16 (ofSigned 16 ((stamp : Int) - s.rf .BEAT_CAD_DELAY))
  let ofs := toSigned 32 (s.rf .BEAT_OFS_OFFSET)
  let stepped := match s.beat.lastErr with
    | some l => (decide (e - l > 10) || decide (l - e > 10)) && s.beat.lastOfs == some ofs
    | none => false
  let s := { s with beat := { s.beat with lastErr := some e, lastOfs := some ofs, lastStamp := some stamp } }
  let s := s.wfBoth .BEAT_CAD_ERR (ofSigned 16 e)
  if s.beat.cadStep then s
  else if stepped then
    { s with beat := { s.beat with cadStep := true } }.wfBoth .BEAT_STAT_CADSTEP 1 |>.wfBoth .BEAT_STAT_SRC srcFabric
  else steer s

/-- CADENCE_MARK (R349, R352): a module regenerates the frame whether or not its beat unit counts. -/
def execCadenceMark (bits stamp : Nat) (s : State) : Host.Outcome State Fault Refusal :=
  if isGroupPrin s then .next s
  else if !s.rb .BEAT_CFG_EN then .next (regenerate s bits)
  else
    let s := regenerate s bits
    let s := if bits % 65536 ≠ markBeat s stamp % 65536 then s.wfBoth .BEAT_STAT_MISCOUNT 1 else s
    .next (takeStamp s stamp)

/-- CADENCE_LOSS (R352). -/
def execCadenceLoss (s : State) : Host.Outcome State Fault Refusal :=
  let s := { s with beat := { s.beat with lastStamp := none, lastErr := none } }
  if s.rf .BEAT_STAT_SRC = srcCadence then .next (s.wfBoth .BEAT_STAT_SRC srcFabric) else .next s

/-- HOLDOVER (R352). -/
def execHoldover (s : State) : Host.Outcome State Fault Refusal :=
  if s.rb .BEAT_CFG_EN then .next (s.wfBoth .BEAT_STAT_SRC srcHoldover) else .next s

/-- BEAT_LOST (R353): source 97. -/
def execBeatLost (s : State) : Host.Outcome State Fault Refusal :=
  if s.rb .BEAT_CFG_EN ∧ s.rf .BEAT_STAT_SRC = srcHoldover then
    .next (raiseIrq (s.wfBoth .BEAT_STAT_LOST 1) (leadHalf s) 97)
  else .next s

/-- BEATMARK_BADKIND (R351): discarded. -/
def execBeatmarkBadkind (_p : PortId) (_pkt : Packet) (s : State) : Host.Outcome State Fault Refusal := .next s

/-! ### Schedules (R354 to R356) -/

/-- NPHASE of the schedule at `a`. -/
def schedPhases (s : State) (a : Nat) : Nat := bits (s.readN a 4) 22 16
/-- STEPLEN of the schedule at `a`. -/
def schedStepLen (s : State) (a : Nat) : Nat := s.readN (a + 6) 2
/-- PERIOD of the schedule at `a`. -/
def schedPeriod (s : State) (a : Nat) : Nat := s.readN (a + 4) 2
/-- The bytes of entry `i` of the schedule at `a`. -/
def schedEntry (s : State) (a i : Nat) : List Byte := s.read (a + 32 + 32 * i) 32

abbrev sePhase (e : List Byte) : Nat := dfld e 0 5 0
abbrev sePolicy (e : List Byte) : Nat := dfld e 0 7 6
abbrev seRoles (e : List Byte) : Nat := dfld e 0 15 8
abbrev seExtMax (e : List Byte) : Nat := dfld e 0 23 16
abbrev seStart (e : List Byte) : Nat := dfld e 4 15 0
abbrev seLen (e : List Byte) : Nat := dfld e 4 31 16
abbrev seDflag (e : List Byte) : Nat := dfld e 8 14 0
abbrev seLflag (e : List Byte) : Nat := dfld e 8 30 16
abbrev seBulk (e : List Byte) : Nat := dfld e 0x0C 7 0
abbrev seColl (e : List Byte) : Nat := dfld e 0x0C 15 8
abbrev seLat (e : List Byte) : Nat := dfld e 0x0C 23 16

/-- The policies of R354. -/
abbrev polRecord : Nat := 0
abbrev polExtend : Nat := 1
abbrev polDrop : Nat := 2

/-- The checks of R355 on the schedule at `a` for job tag `job`: it may be taken. -/
def schedGood (s : State) (a job : Nat) : Bool :=
  let n := schedPhases s a
  let es := (List.range n).map (schedEntry s a)
  let len := schedStepLen s a
  s.readN a 2 == 1 && decide (1 ≤ n) && decide (n ≤ 64) && decide (4 ≤ schedPeriod s a) && s.readN (a + 8) 4 == job &&
  decide (1 ≤ len) && es.all (fun e => decide (1 ≤ seLen e)) && decide ((es.map (sePhase ·)).eraseDups.length = n) &&
  crc32c (s.read (a + 32) (32 * n)) == s.readN (a + 0x0C) 4 &&
  es.all (fun e => decide (seStart e + seLen e ≤ len) && sePolicy e != 3 && decide (seBulk e + seColl e + seLat e ≤ 192)) &&
  (decide (20 ≤ schedPeriod s a) || es.all (fun e => sePolicy e != polExtend))

/-- This device takes part in a phase of some ROLES (R355). -/
def takesPart (s : State) (roles : Nat) : Bool :=
  (jobEntries s).any (fun e =>
    let r := entNode s e
    entRole s e != 0 && decide (entRole s e < 8) && bit roles (entRole s e) &&
    ((namesDevice r && refDev r == ownDev s) || (refLevel r == 4 && !refSlot r && bits r 20 13 == ownDev s / 64)))

/-- The run of a phase in a step that starts at beat `b`. -/
def phaseOf (s : State) (b : Nat) (e : List Byte) : PhaseRun where
  phase := sePhase e
  policy := sePolicy e
  extMax := seExtMax e
  dflag := Fin.ofNat 32768 (seDflag e)
  lflag := Fin.ofNat 32768 (seLflag e)
  shares := (seBulk e, seColl e, seLat e)
  part := takesPart s (seRoles e)
  openBeat := b + seStart e
  deadline := b + seStart e + seLen e
  ext := 0
  opened := false
  closed := false
  deciding := false
  done := none
  early := false
  late := false
  inExt := false
  logged := false
  passed := none

/-! ### Windows (R357, R363) -/

/-- The records of the phases of a step that ends (R363). -/
def endPhases (s : State) (ps : List PhaseRun) : State :=
  match ps with
  | [] => s
  | p :: rest => endPhases (writePhase s { p with done := none }) rest

/-- The checkpoint interval in whole steps (R388): a step of STEPLEN beats. -/
def ckptInterval (s : State) : Nat :=
  let step := 1000 * (beatNs s / 1000 * schedStepLen s s.beat.sched)
  max 1 (max (s.dx.iMin * 10 ^ 9) (s.dx.iBase * 10 ^ 9 / 2 ^ s.dx.level) / max 1 step)

/-- CKPT_DUE is reported at the step at which the interval has elapsed (R464). -/
def ckptDue (s : State) : State :=
  let t := s.rf .BEAT_STEP_STEP
  if s.dx.job = jsRunning ∧ s.dx.ckptStep + ckptInterval s ≤ t then
    postEvent { s with dx := { s.dx with ckptStep := t } } (leadHalf s) evCkptDue [t, ckptInterval s]
  else s

/-- STEP_START (R356, R363): the old step's phases end, and those of the schedule in BEAT_SCHED begin at beat `b`. -/
def startStep (s : State) (b : Nat) : State :=
  let s := endPhases (takeSlow s) s.beat.phases
  let a := s.rf .BEAT_SCHED_ADDR
  let s := if s.beat.started then s.wfBoth .BEAT_STEP_STEP (s.rf .BEAT_STEP_STEP + 1) else s
  let s := (s.wfBoth .BEAT_STEP_START b).wfBoth .BEAT_STEP_EXT 0
  let ps := if a = 0 then [] else (List.range (schedPhases s a)).map (fun i => phaseOf s b (schedEntry s a i))
  ckptDue { s with beat := { s.beat with
    sched := a, phases := ps, started := a != 0, nextStep := b + schedStepLen s a, lateRep := [], foBeats := 0 } }

/-- A decision of the hall principal is awaited (R359). -/
def deciding (s : State) : Bool := s.beat.phases.any PhaseRun.deciding

/-- The next step of a running job is due at beat `b` (R356, R451); a first step whose beat has passed starts at the next
boundary (log 35). -/
def stepDue (s : State) (b : Nat) : Bool :=
  s.dx.job == jsRunning &&
  (if s.beat.started then decide (s.beat.nextStep ≤ b)
  else s.rf .BEAT_SCHED_ADDR != 0 && decide (s.rf .BEAT_STEP_START ≤ b))

/-- A phase opens (R357): a set that came before counts as done at the opening. -/
def openPhase (s : State) (p : PhaseRun) : State :=
  if s.beat.preDone.contains p.phase then
    let s := putPhase s { p with opened := true, done := some 0, early := true }
    { s with beat := { s.beat with preDone := s.beat.preDone.filter (fun q => q != p.phase) } }
  else putPhase s { p with opened := true }

/-- The phases due at beat `b` open. -/
def openDue (s : State) (b : Nat) (ps : List PhaseRun) : State :=
  match ps with
  | [] => s
  | p :: rest => openDue (if !p.opened ∧ p.openBeat ≤ b then openPhase s p else s) b rest

/-- A phase of the step has a deadline that has come and has not been processed on this device. -/
def deadlineWaits (s : State) (b : Nat) : Bool :=
  s.beat.phases.any (fun p => p.opened && !p.closed && decide (p.deadline ≤ b))

/-- Once no decision is awaited, a step that is due starts, after the deadlines of the old one, and phases that are due open
(R356, R357, R359). -/
def advanceStep (s : State) (b : Nat) : State :=
  if deciding s then s
  else
    let s := if stepDue s b ∧ !deadlineWaits s b then startStep s (if s.beat.started then s.beat.nextStep else b) else s
    let s := openDue s b s.beat.phases
    s.wfBoth .BEAT_STEP_POS (b - s.rf .BEAT_STEP_START)

/-- Phases under extend whose deadline is beat `b` await their DECIDE (R359). -/
def awaitDecides (s : State) (b : Nat) : State :=
  let mark := fun (p : PhaseRun) =>
    if p.opened ∧ !p.closed ∧ p.policy = polExtend ∧ p.deadline = b then { p with deciding := true } else p
  { s with beat := { s.beat with phases := s.beat.phases.map mark } }

/-! ### Heartbeats (R372 to R374) -/

/-- The watchers of this device (R374). -/
def watchersOf (s : State) : List Nat :=
  let me := ownDev s
  let gp := groupPrincipal s (me / 64)
  let hall := actingHall s none
  ((match partnerOf s me with
    | some p => [p]
    | none => []) ++ [gp] ++ (if gp = me then groupDevices s ++ [hall] else []) ++
    (if hall = me then groupPrincipals s else [])).eraseDups.filter (fun d => d != me)

/-- The HEARTBEAT payload of beat `b` (R373). -/
def heartbeatBytes (s : State) (b : Nat) : List Byte :=
  let h := leadHalf s
  natLE 8 b ++ natLE 4 (ownDev s + s.rf .HLF_HB_CTL_SELFFAIL h.val * 2 ^ 14) ++ natLE 4 (epochNow s) ++
    natLE 4 (s.rf .BEAT_STEP_STEP) ++ natLE 4 (s.rf .HLF_PCOPY_STAT_PSTEP h.val) ++
    natLE 8 (aget s.dx.scores (ownDev s) 0 % 256)

/-- HEARTBEAT_SEND (R372). -/
def sendHeartbeats (s : State) (b : Nat) : State :=
  let h := leadHalf s
  if s.rb .HLF_HB_CFG_EN h.val ∧ !s.rb .HLF_HB_STAT_WDOG_EXP h.val ∧ !s.rb .HLF_LEAD_STAT_FENCED h.val ∧ epochNow s ≠ 0 then
    sendControls s ptHeartbeat (heartbeatBytes s b) (watchersOf s)
  else s

/-! ### The boundary (R348) -/

/-- MARK_SEND (R349): the group principal drives a mark frame while its bypass is open (R546). -/
def sendFrame (s : State) (b : Nat) : State := if isGroupPrin s then regenerate s b else s

/-- BEAT_BOUNDARY (R346, R348). -/
def boundary (s : State) : State :=
  let b := (beatNow s + 1) % 2 ^ 64
  let s := (s.wfBoth .BEAT_NOW_BEAT b).wfBoth .BEAT_SUB_NS 0
  let s := snapshot s b
  let s := sendFrame (sendHeartbeats s b) b
  advanceStep (awaitDecides s b) b

/-- BEAT_BOUNDARY (R346, R348): nothing counts while EN is 0. -/
def execBeatBoundary (s : State) : Host.Outcome State Fault Refusal :=
  if s.rb .BEAT_CFG_EN then .next (boundary s) else .next s

/-! ### Deadlines (R358 to R361) -/

/-- Late devices reported for a phase are counted by the hall principal, or passed on by a group principal (R358). -/
def countLate (s : State) (ph beat n : Nat) : State :=
  if isHall s then
    { s with beat := { s.beat with lateRep := aset s.beat.lateRep ph (aget s.beat.lateRep ph 0 + n) } }
  else if isGroupPrin s then sendMark s (actingHall s none) ⟨bmLate, ph, n, false, 0, beat, 0, 0⟩
  else s

/-- This device reports itself late (R358). -/
def reportLate (s : State) (ph beat : Nat) : State :=
  if isHall s ∨ isGroupPrin s then countLate s ph beat 1
  else sendMark s (groupPrincipal s (ownDev s / 64)) ⟨bmLate, ph, 1, false, 0, beat, 0, 0⟩

/-- The consecutive late steps of a phase, and the straggler interrupt, source 96 (R361). -/
def straggle (s : State) (p : PhaseRun) (late : Bool) : State :=
  let n := if late then aget s.beat.streak p.phase 0 + 1 else 0
  let s := { s with beat := { s.beat with streak := aset s.beat.streak p.phase n } }
  let m := s.rf .BEAT_CFG_LATEMAX
  if m ≠ 0 ∧ m ≤ n then raiseIrq s (leadHalf s) 96 else s

/-- The phase's done set came at or after its deadline, or has not come (R357, R358). -/
def isLate (s : State) (p : PhaseRun) : Bool :=
  match p.done with
  | none => true
  | some ns => decide ((p.deadline - p.openBeat) * beatNs s ≤ ns)

/-- A phase closes on this device (R360, R363): its record is written if its done set has come. -/
def closeRun (s : State) (p : PhaseRun) : State :=
  let p := { p with closed := true, deciding := false }
  let s := putPhase s p
  if p.done.isSome then writePhase s p else s

/-- The deadline of a phase passes on this device (R358, R360, R361). -/
def passDeadline (s : State) (p : PhaseRun) : State :=
  let late := p.part && isLate s p
  let p' := { p with passed := some p.deadline, late := p.late || (late && p.ext == 0) }
  let s := putPhase s p'
  let s := if p.part ∧ p.ext = 0 then straggle s p' late else s
  let s := if late then setFlag s p.lflag (srcRanger s (leadHalf s)) else s
  let s := if late ∧ p.policy ≠ polRecord then reportLate s p.phase p.deadline else s
  if p.policy = polExtend then s else advanceStep (closeRun s p') (beatNow s)

/-- PHASE_DEADLINE (R358). -/
def execPhaseDeadline (ph : Fin 64) (s : State) : Host.Outcome State Fault Refusal :=
  match findPhase s ph.val with
  | none => .next s
  | some p =>
    if p.opened ∧ !p.closed ∧ p.deadline ≤ beatNow s ∧ p.passed ≠ some p.deadline then .next (passDeadline s p)
    else .next s

/-- A device's late steps in a phase as the hall principal counts them from its own reports (R377). -/
def countStrag (s : State) (dev ph : Nat) : State :=
  let t := s.rf .BEAT_STEP_STEP
  let o := aget s.beat.strag (dev, ph) (0, 0)
  let n := if o.2 ≠ 0 ∧ o.1 = t then o.2 else if o.2 ≠ 0 ∧ o.1 + 1 = t then o.2 + 1 else 1
  let s := { s with beat := { s.beat with strag := aset s.beat.strag (dev, ph) (t, n) } }
  let m := s.rf .HLF_FO_CFG_STRAGMAX (leadHalf s).val
  if m ≠ 0 ∧ m ≤ n then declareDev s dev 2 else s

/-- LATE (R358, R377): counted, or passed on. -/
def execLate (p : PortId) (pkt : Packet) (s : State) : Host.Outcome State Fault Refusal :=
  let m := bmarkOf pkt.payload
  .next (takeMark s p pkt bmLate (fun s =>
    let s := countLate s m.phase m.beat m.count
    if isHall s ∧ groupPrincipal s (pkt.srcDev / 64) ≠ pkt.srcDev ∧ m.count = 1 then countStrag s pkt.srcDev m.phase
    else s))

/-- What a DECIDE does to a phase and to those not yet opened (R359). -/
def moveOne (p : PhaseRun) (ph : Nat) : PhaseRun :=
  if p.phase = ph then { p with deadline := p.deadline + 1, ext := p.ext + 1, deciding := false, inExt := true }
  else if !p.opened then { p with openBeat := p.openBeat + 1, deadline := p.deadline + 1 }
  else p

/-- A phase closes as under drop, its owners with it, and what waited for the decision opens (R359, R360). -/
def closeDecided (s : State) (p : PhaseRun) : State :=
  let s := closeRun s p
  advanceStep (closePhase s p.phase s.fab.colls) (beatNow s)

/-- A DECIDE takes effect on this device (R359). -/
def applyDecide (s : State) (ph beat : Nat) (ext : Bool) : State :=
  match findPhase s ph with
  | none => s
  | some p =>
    if !p.deciding ∨ p.deadline ≠ beat then s
    else if ext then
      let s := { s with beat := { s.beat with
        phases := s.beat.phases.map (fun q => moveOne q ph), nextStep := s.beat.nextStep + 1, lateRep := aset s.beat.lateRep ph 0 } }
      let e := min 255 (s.rf .BEAT_STEP_EXT + 1)
      advanceStep (s.wfBoth .BEAT_STEP_EXT e) (beatNow s)
    else closeDecided s p

/-- EXTEND_DECIDE (R359): the hall principal decides, and acts on its own decision. -/
def execExtendDecide (ph : Fin 64) (s : State) : Host.Outcome State Fault Refusal :=
  match findPhase s ph.val with
  | none => .next s
  | some p =>
    if !isHall s ∨ !p.deciding ∨ p.passed ≠ some p.deadline then .next s
    else
      let ext := decide (0 < aget s.beat.lateRep ph.val 0) && decide (p.ext < p.extMax)
      let m : BMark := ⟨bmDecide, ph.val, p.ext + b2n ext, ext, 0, p.deadline, 0, 0⟩
      .next (applyDecide (sendFromHall s ptBeatMark m.bytes) ph.val p.deadline ext)

/-- DECIDE (R359). -/
def execDecide (p : PortId) (pkt : Packet) (s : State) : Host.Outcome State Fault Refusal :=
  let m := bmarkOf pkt.payload
  .next (takeMark s p pkt bmDecide (fun s => applyDecide (passDown s ptBeatMark pkt.payload) m.phase m.beat m.ext))

/-- DECIDE_TIMEOUT (R359): no DECIDE by the boundary of the next beat. -/
def execDecideTimeout (ph : Fin 64) (s : State) : Host.Outcome State Fault Refusal :=
  match findPhase s ph.val with
  | none => .next s
  | some p =>
    if p.deciding ∧ p.deadline < beatNow s then .next (closeDecided (s.wfBoth .BEAT_STAT_DECIDE_ERR 1) p)
    else .next s

/-! ### Shifts (R381) -/

/-- A SHIFT of `n` beats on this device: a decision that was awaited lapses with its deadline (log 36). -/
def applyShift (s : State) (n : Nat) : State :=
  let mv := fun (p : PhaseRun) =>
    if !p.opened then { p with openBeat := p.openBeat + n, deadline := p.deadline + n }
    else if p.closed then p
    else { p with deadline := p.deadline + n, deciding := false }
  { s with beat := { s.beat with
    phases := s.beat.phases.map mv, nextStep := s.beat.nextStep + n, foBeats := s.beat.foBeats + n, shiftDue := none } }

/-- SHIFT (R381). -/
def execShift (p : PortId) (pkt : Packet) (s : State) : Host.Outcome State Fault Refusal :=
  .next (takeMark s p pkt bmShift (fun s =>
    applyShift (passDown s ptBeatMark pkt.payload) (bmarkOf pkt.payload).count))

/-- SHIFT_TIMEOUT (R381): no SHIFT by the boundary of f + 1. -/
def execShiftTimeout (s : State) : Host.Outcome State Fault Refusal :=
  match s.beat.shiftDue with
  | none => .next s
  | some f =>
    if f < beatNow s then
      .next ({ s with beat := { s.beat with shiftDue := none } }.wfBoth .BEAT_STAT_DECIDE_ERR 1)
    else .next s

end Sys2Proof.Machine
end

