-- ==== Sys2Proof/Machine/Armature.lean ====
section
/-!
DEFINITION. Armatures: their checks (R45, R46, R48, R331, R366, R367), tables between devices (R375), and installation
(R47, R382).
-/

namespace Sys2Proof.Machine

/-! ### Entries -/

/-- An armature entry (R43). -/
structure ArmEnt where
  role : Nat
  index : Nat
  node : Nat
  partner : Nat
  feed : Nat
  pfeed : Nat
  corr : Bool
  base : Nat
  deriving DecidableEq, Repr

/-- The entry at an address. -/
def armEnt (s : State) (e : Nat) : ArmEnt :=
  ⟨entRole s e, entIndex s e, entNode s e, entPartner s e, entFeed s e, entPFeed s e, entCorr s e, entBase s e⟩

/-- The 32 bytes of an entry. -/
def ArmEnt.bytes (x : ArmEnt) : List Byte :=
  natLE 4 (x.role % 256) ++ natLE 4 x.index ++ natLE 4 x.node ++ natLE 4 x.partner ++
    natLE 4 (x.feed % 256 + x.pfeed % 256 * 2 ^ 8 + b2n x.corr * 2 ^ 16) ++ natLE 4 0 ++ natLE 8 x.base

/-- The entries of the armature at `a`. -/
def armEnts (s : State) (a : Nat) : List ArmEnt := (armEntries s a).map (armEnt s)

/-- The device reference of device bits (R25). -/
def deviceRef (dev : Nat) : Nat := 3 * 2 ^ 24 + dev % 2 ^ 14 * 128

/-- The entry's part lies on one device. -/
def ArmEnt.onDevice (x : ArmEnt) : Bool := namesDevice x.node

/-- The roles whose devices have a partner (R366). -/
def ArmEnt.paired (x : ArmEnt) : Bool := x.onDevice && [1, 2, 3, 4].contains x.role

/-- Entries rise strictly by (ROLE, INDEX) (R44). -/
def entsSorted (xs : List ArmEnt) : Bool :=
  match xs with
  | [] => true
  | [_] => true
  | x :: y :: rest => decide (x.role < y.role ∨ (x.role = y.role ∧ x.index < y.index)) && entsSorted (y :: rest)

/-- The role and the level of NODE are those of R44. -/
def ArmEnt.levelGood (x : ArmEnt) : Bool :=
  let lv := refLevel x.node
  decide (1 ≤ x.role) && decide (x.role ≤ 7) && refValid x.node &&
  (lv == 3 || (lv == 4 && (x.role == 4 || x.role == 5)))

/-- Two FEED values are equal; one that is unknown equals every other (R367). -/
def feedEqual (a b : Nat) : Bool := a == b || a == 0xFF || b == 0xFF

/-- The devices whose partner is `p`. -/
def wardsIn (xs : List ArmEnt) (p : Nat) : List Nat :=
  ((xs.filter (fun x => x.partner != 0 && x.onDevice && refDev x.partner == p)).map (fun x => refDev x.node)).eraseDups

/-- A device is an evaluation slice member. -/
def isMember (xs : List ArmEnt) (d : Nat) : Bool := xs.any (fun x => x.role == 6 && x.onDevice && refDev x.node == d)

/-- The device has a partner: some entry of its own is of a role that needs one (R366). -/
def needsPartner (xs : List ArmEnt) (d : Nat) : Bool := xs.any (fun x => x.paired && refDev x.node == d)

/-- The pair that an entry names is allowed (R366, R367); `ovr` accepts pairs of equal FEED as correlated. An entry without a
partner is allowed where its device needs none. Whether both slots fit the partner's region is not stated by the armature
(log 29). -/
def pairGood (xs : List ArmEnt) (ovr : Bool) (x : ArmEnt) : Bool :=
  let d := refDev x.node
  let p := refDev x.partner
  if x.partner = 0 then !x.onDevice || !needsPartner xs d
  else
    x.onDevice && x.role != 6 && namesDevice x.partner && refValid x.partner && p != d && p / 64 != d / 64 &&
    (!feedEqual x.feed x.pfeed || x.corr || ovr) && !isMember xs p && decide ((wardsIn xs p).length ≤ 4) &&
    xs.all (fun y => !y.onDevice || refDev y.node != d || y.partner == x.partner)

/-! ### Checks -/

/-- The armature's bytes: its header and its entries. -/
def armLen (s : State) (a : Nat) : Nat := 64 + 32 * armCount s a
/-- The forwarding map that follows an armature. -/
def mapLen (s : State) (m : Nat) : Nat := 32 + 32 * s.readN (m + 4) 4

/-- The map's CRC holds (R331). -/
def mapGood (s : State) (m : Nat) : Bool :=
  decide (s.readN (m + 4) 4 ≤ 65536) && crc32c (s.read (m + 32) (32 * s.readN (m + 4) 4)) == s.readN (m + 0x10) 4

/-- The REFUSED cause of R442 for the armature at `a`, whose map lies at `m`, where epoch `epoch` is due; zero accepts it. -/
def armCause (s : State) (a m epoch : Nat) : Nat :=
  let xs := armEnts s a
  if s.readN a 2 ≠ 1 ∨ armCount s a = 0 ∨ 2 ^ 20 < armCount s a ∨ !entsSorted xs ∨ !xs.all ArmEnt.levelGood ∨
      crc32c (s.read (a + 64) (32 * armCount s a)) ≠ s.readN (a + 0x30) 4 then 1
  else if s.readN (a + 4) 4 ≠ epoch ∨ 2 ^ 32 ≤ epoch then 2
  else if !mapGood s m then 6
  else if !xs.all (pairGood xs s.dx.feedOvr) then 7
  else 0

/-! ### Tables of this device (log 37) -/

/-- The two places where an armature with its map is kept in the privileged region; an epoch takes the place of its
parity. -/
def armPlace (epoch : Nat) : Nat := privBase + 0x10000000 + epoch % 2 * 0x8000000
/-- The two places where a beat schedule is kept. -/
def schedPlace (s : State) : Nat :=
  let a := privBase + 0x20000000
  if s.rf .BEAT_SCHED_ADDR = a then a + 0x10000 else a

/-- An armature with its map written to its place, with the addresses that its header names (R43). -/
def placeArm (s : State) (epoch beat : Nat) (bs : List Byte) : State :=
  let a := armPlace epoch
  let s := s.write a bs
  let s := s.write (a + 8) (natLE 8 beat)
  let s := s.write (a + 0x20) (natLE 8 (if epoch ≤ 1 then 0 else a + armLen s a))
  s.write (a + 0x28) (natLE 8 (if epoch ≤ 1 then 0 else armAddr s))

/-- The installation is acknowledged here and waits for its beat (R47, R49). -/
def armHere (s : State) (a epoch beat : Nat) : State :=
  let s := { s with beat := { s.beat with armed := some (a, beat) } }
  ((s.wfBoth .COL_ARM_EPOCH_PENDING epoch).wfBoth .COL_ARM_STAT_TARGET (beat / 4)).wfBoth .COL_ARM_STAT_ARMED 1

/-- Pieces of a table, at most 4,064 bytes each, with their offsets (R375). -/
def tablePieces (fuel off : Nat) (bs : List Byte) : List (Nat × List Byte) :=
  match fuel with
  | 0 => []
  | fuel + 1 => if bs.length ≤ 4064 then [(off, bs)] else (off, bs.take 4064) :: tablePieces fuel (off + 4064) (bs.drop 4064)

/-- A table sent to a device in pieces. -/
def sendTable (s : State) (dev kind beat total : Nat) (ps : List (Nat × List Byte)) : State :=
  match ps with
  | [] => s
  | p :: rest =>
    let m := mrec s mkTable kind (ownDev s) beat (total + p.1 * 2 ^ 32)
    sendTable (sendControl s dev ptMgmt false (m.bytes ++ p.2)) dev kind beat total rest

/-- An armature with its map sent to each device, with the principal of the device's own group in its header (R43). -/
def sendArms (s : State) (epoch beat : Nat) (bs : List Byte) (ds : List Nat) : State :=
  match ds with
  | [] => s
  | d :: rest =>
    let gp := if d / 64 = ownDev s / 64 then leNat ((bs.drop 0x18).take 4) else Config.groupPrincipal epoch (d / 64) % 2 ^ 14
    let b := bs.take 0x18 ++ natLE 4 gp ++ bs.drop 0x1C
    sendArms (sendTable s d 1 beat b.length (tablePieces (b.length / 4064 + 1) 0 b)) epoch beat bs rest

/-- Acknowledgements still count: the boundary of beat b − 2 has not passed, which its fence marks (R47; log 38). -/
def ackOpen (s : State) : Bool :=
  match s.beat.armed with
  | none => false
  | some (_, b) => decide (beatNow s + 2 ≤ b) && decide (s.fence + 2 < b)

/-- A device's acknowledgement noted (R47). -/
def noteAck (s : State) (epoch dev : Nat) : State :=
  let l := aget s.beat.acks epoch []
  if l.contains dev ∨ !ackOpen s then s else { s with beat := { s.beat with acks := aset s.beat.acks epoch (l ++ [dev]) } }

/-- An installation acknowledged to the hall principal, or noted where this device is that principal (R47). -/
def ackArm (s : State) (hall beat epoch : Nat) : State :=
  if hall = ownDev s then noteAck s epoch (ownDev s) else sendMgmt s hall (mrec s mkArmAck 0 (ownDev s) beat epoch)

/-- The acknowledgement of an installation, which waits while a permute of this device runs (R327; log 21). -/
def giveAck (s : State) (hall beat epoch : Nat) : State :=
  if permRuns s then { s with beat := { s.beat with ackDue := some (hall, beat, epoch) } } else ackArm s hall beat epoch

/-- An acknowledgement that waited for the permutes goes out after the last (R327). -/
def releaseAck (s : State) : State :=
  match s.beat.ackDue with
  | none => s
  | some (hall, beat, epoch) =>
    if permRuns s then s else ackArm { s with beat := { s.beat with ackDue := none } } hall beat epoch

/-- COLL_COMPLETE (R328). -/
def execCollComplete (op : Nat) (s : State) : Host.Outcome State Fault Refusal := .next (releaseAck (collComplete op s))

/-- The hall principal installs an armature with target beat `beat` (R47): it goes to every device of the job, and to this
one. -/
def installArm (s : State) (beat : Nat) (bs : List Byte) : State :=
  let epoch := epochNow s + 1
  let s := placeArm s epoch beat bs
  let a := armPlace epoch
  let ds := ((jobDevices s) ++ (armEnts s a).filterMap (fun x => if x.onDevice then some (refDev x.node) else none)).eraseDups
  let s := sendArms s epoch beat bs (ds.filter (fun d => d != ownDev s && !failedDev s d))
  giveAck (armHere s a epoch beat) (ownDev s) beat epoch

/-- The role of this device in the armature in force (R32, R349, R364). -/
def setRole (s : State) : State :=
  let hall := s.readN (armAddr s + 0x1C) 4 % 2 ^ 14 == ownDev s
  s.wfBoth .BEAT_CFG_ROLE (if hall then 2 else if isGroupPrin s then 1 else 0)

/-- The status word of R440. -/
def statusWord (status dstat detail : Nat) : Nat := status + dstat * 2 ^ 8 + detail * 2 ^ 16

abbrev dsOk : Nat := 0
abbrev dsStarted : Nat := 1
abbrev dsPerm : Nat := 2
abbrev dsBadOpcode : Nat := 3
abbrev dsBadLen : Nat := 4
abbrev dsBadArg : Nat := 5
abbrev dsBadState : Nat := 6
abbrev dsBusy : Nat := 7
abbrev dsBadAddress : Nat := 8
abbrev dsVerify : Nat := 9
abbrev dsRefused : Nat := 10
abbrev dsCkptCounter : Nat := 11
abbrev dsChecksum : Nat := 12
abbrev dsRole : Nat := 13
abbrev dsLifecycle : Nat := 14
abbrev dsHandle : Nat := 15
abbrev dsOpFailed : Nat := 16
abbrev dsAborted : Nat := 17

/-- An installation is over here (R47), and what its permutes left to its fence with it (R327). -/
def disarm (s : State) : State :=
  let s := { s with beat := { s.beat with armed := none, ackDue := none }, fab := { s.fab with permCopies := [] } }
  (s.wfBoth .COL_ARM_EPOCH_PENDING 0).wfBoth .COL_ARM_STAT_ARMED 0

/-- ARM_ACK (R47): an acknowledgement is noted; a refusal ends a running ARM_INSTALL with its cause (R452). -/
def ackArrives (s : State) (m : MRec) : State :=
  if m.cause = 0 then noteAck s (m.arg % 2 ^ 32) m.subject
  else endLong s opArmInstall (statusWord dsRefused 0 m.cause)

/-- ARM_ACK (R47). -/
def execArmAck (p : PortId) (pkt : Packet) (s : State) : Host.Outcome State Fault Refusal :=
  .next (takeControl s p pkt ptMgmt (fun s =>
    if (mrecOf pkt.payload).kind = mkArmAck then ackArrives s { mrecOf pkt.payload with subject := pkt.srcDev } else s))

/-- Every device of the job that is not declared failed has acknowledged an epoch. -/
def allAcked (s : State) (epoch : Nat) : Bool :=
  (jobDevices s).all (fun d => failedDev s d || (aget s.beat.acks epoch []).contains d)

/-- The installation is cancelled here (R47). -/
def cancelArm (s : State) : State :=
  endLong ((disarm s).wfBoth .COL_ARM_STAT_CANCEL 1) opArmInstall (statusWord dsOpFailed 0 0x100)

/-- ARM_CANCEL (R47): from the boundary of beat b − 2 on, an installation that not every device has acknowledged is
cancelled. The hall principal knows who has (log 38). -/
def execArmCancel (s : State) : Host.Outcome State Fault Refusal :=
  match s.beat.armed with
  | none => .next s
  | some (a, b) =>
    if b ≤ beatNow s + 2 ∧ !(isHall s && allAcked s (s.readN (a + 4) 4)) then .next (cancelArm s)
    else .next s

/-! ### Tables that arrive (R375) -/

/-- The bytes of a table from its pieces, from offset `off` on; none while a piece is missing. -/
def assemble (ps : List (Nat × List Byte)) (total fuel off : Nat) : Option (List Byte) :=
  match fuel with
  | 0 => none
  | fuel + 1 =>
    if total ≤ off then some []
    else match ps.find? (fun p => p.1 == off && !p.2.isEmpty) with
      | none => none
      | some p =>
        match assemble ps total fuel (off + p.2.length) with
        | none => none
        | some rest => some (p.2 ++ rest)

/-- ARMATURE_VERIFY (R45 to R48): an armature that has arrived whole is verified, and acknowledged or refused. -/
def armArrives (s : State) (hall beat : Nat) (bs : List Byte) : State :=
  let epoch := epochNow s + 1
  let a := armPlace epoch
  let again := match s.beat.armed with
    | some (_, b) => b == beat
    | none => false
  let t := placeArm s epoch beat bs
  let cause := if again then 3 else armCause t a (a + armLen t a) epoch
  if beatNow s + 2 ≤ beat ∧ s.fence + 2 < beat then
    (if cause = 0 then giveAck (armHere t a epoch beat) hall beat epoch
     else sendMgmt s hall (mrec s mkArmAck cause (ownDev s) beat epoch))
  else s

/-- A schedule that has arrived whole is verified, and takes effect at the next step (R355, R356). -/
def schedArrives (s : State) (bs : List Byte) : State :=
  let a := schedPlace s
  let s := s.write a bs
  if schedGood s a (jobTag s) ∧ schedPeriod s a = s.rf .BEAT_CFG_PERIOD then s.wfBoth .BEAT_SCHED_ADDR a else s

/-- The 64-bit words of bytes. -/
def words64 (n : Nat) (bs : List Byte) : List Nat := (List.range n).map (fun i => leNat ((bs.drop (8 * i)).take 8))

/-- A table that is whole goes to its use. -/
def tableWhole (s : State) (dev : Nat) (m : MRec) (bs : List Byte) : State :=
  if m.cause = 1 then armArrives s dev m.beat bs
  else if m.cause = 2 then schedArrives s bs
  else if m.cause = 3 then (if isGroupPrin s ∨ isHall s then gatherSet s m.beat m.subject (words64 8 bs) else s)
  else s

/-- TABLE (R375): a piece joins those of its table, named by the sender, the kind and the beat. -/
def takePiece (s : State) (dev : Nat) (m : MRec) (bs : List Byte) : State :=
  let key := (dev, m.cause, m.beat)
  let total := m.arg % 2 ^ 32
  let ps := aget s.beat.tables key [] ++ [(m.arg / 2 ^ 32, bs)]
  match assemble ps total (ps.length + 1) 0 with
  | none => { s with beat := { s.beat with tables := aset s.beat.tables key ps } }
  | some whole =>
    tableWhole { s with beat := { s.beat with tables := adrop s.beat.tables (fun k => k == key) } } dev m (whole.take total)

/-- TABLE (R375). -/
def execTable (p : PortId) (pkt : Packet) (s : State) : Host.Outcome State Fault Refusal :=
  .next (takeControl s p pkt ptMgmt (fun s =>
    if (mrecOf pkt.payload).kind = mkTable then takePiece s pkt.srcDev (mrecOf pkt.payload) (pkt.payload.drop 32) else s))

/-! ### The armature after a failover (R382) -/

/-- FEED of a device as the entries name it. -/
def feedIn (xs : List ArmEnt) (d : Nat) : Nat :=
  match xs.find? (fun x => x.onDevice && refDev x.node == d) with
  | some x => x.feed
  | none =>
    match xs.find? (fun x => x.partner != 0 && refDev x.partner == d) with
    | some x => x.pfeed
    | none => 0xFF

/-- A device may become the partner of `d` (R366, R367). -/
def mayPartner (s : State) (xs : List ArmEnt) (d p : Nat) : Bool :=
  p != d && p / 64 != d / 64 && !deviceGone s p && !isMember xs p && decide ((wardsIn xs p).length < 4) &&
  (s.dx.feedOvr || !feedEqual (feedIn xs d) (feedIn xs p))

/-- The order of preference of R367: spare devices, then the fewest wards, then the lowest bits. -/
def partnerRank (xs : List ArmEnt) (p : Nat) : Nat :=
  (b2n (!xs.any (fun x => x.role == 7 && x.onDevice && refDev x.node == p)) * 8 + (wardsIn xs p).length) * 2 ^ 14 + p

/-- The new partner of a device; none where no device meets R366. -/
def choosePartner (s : State) (xs : List ArmEnt) (d : Nat) : Option Nat :=
  let cs := ((xs.filter ArmEnt.onDevice).map (fun x => refDev x.node)).eraseDups.filter (mayPartner s xs d)
  match leastOf (cs.map (partnerRank xs)) with
  | none => none
  | some r => some (r % 2 ^ 14)

/-- Every entry of device `d` names partner `q`. -/
def setPartner (s : State) (xs : List ArmEnt) (d : Nat) : List ArmEnt :=
  match choosePartner s xs d with
  | none => xs.map (fun x => if x.onDevice ∧ refDev x.node = d ∧ x.partner ≠ 0 then { x with partner := 0 } else x)
  | some q =>
    let corr := feedEqual (feedIn xs d) (feedIn xs q)
    xs.map (fun x => if x.onDevice ∧ refDev x.node = d ∧ (needsPartner xs d ∨ x.partner ≠ 0) then
      { x with partner := deviceRef q, pfeed := feedIn xs q, corr := corr } else x)

/-- New partners for each device of a list. -/
def setPartners (s : State) (xs : List ArmEnt) (ds : List Nat) : List ArmEnt :=
  match ds with
  | [] => xs
  | d :: rest => setPartners s (setPartner s xs d) rest

/-- The entries with failed device `d` replaced by its partner, whose copies lie at its slot of the step (R382; log 29). -/
def promote1 (s : State) (xs : List ArmEnt) (d : Nat) : List ArmEnt :=
  match partnerOf s d with
  | none => xs
  | some p =>
    let wards := (wardsIn xs d).filter (fun w => w != d)
    let feed := feedIn xs p
    let base := Config.wardSlot d (s.rf .BEAT_STEP_STEP % 2)
    let ys := xs.map (fun x => if x.onDevice ∧ refDev x.node = d then
      { x with node := deviceRef p, feed := feed, base := base } else x)
    setPartners s ys (p :: wards).eraseDups

/-- Every failed device of a list replaced. -/
def promoteAll (s : State) (xs : List ArmEnt) (ds : List Nat) : List ArmEnt :=
  match ds with
  | [] => xs
  | d :: rest => promoteAll s (promote1 s xs d) rest

/-- The bytes of the armature of the next epoch, with an empty forwarding map (R43, R331, R382). -/
def failoverArm (s : State) (beat : Nat) (ds : List Nat) : List Byte :=
  let a := armAddr s
  let xs := promoteAll s (armEnts s a) ds
  let es := xs.flatMap ArmEnt.bytes
  let live := fun (ns : List Nat) => ns.filter (fun d => !deviceGone s d)
  let gp := groupPrincipal s (ownDev s / 64)
  let hall := s.readN (a + 0x1C) 4 % 2 ^ 14
  let gp := if deviceGone s gp then (leastOf (live (groupDevices s))).getD gp else gp
  let hall := if deviceGone s hall then (leastOf (live (jobDevices s))).getD hall else hall
  let head := natLE 4 1 ++ natLE 4 (epochNow s + 1) ++ natLE 8 beat ++ natLE 4 xs.length ++ natLE 4 (jobTag s) ++ natLE 4 gp ++
    natLE 4 hall ++ natLE 8 0 ++ natLE 8 0 ++ natLE 4 (crc32c es) ++ natLE 12 0
  let map := natLE 4 (epochNow s) ++ natLE 4 0 ++ natLE 8 (beat + 1) ++ natLE 4 (crc32c []) ++ natLE 12 0
  head ++ es ++ map

end Sys2Proof.Machine
end

