-- ==== Sys2Proof/Machine/Holds.lean ====
section
/-!
DEFINITION. The commands after which packets that wait for memory, for an accumulator element or for far entries go on
(R105, R110, R251, R266), and the completion of a stored exchange packet whose promotion finds no room (R105).
-/

namespace Sys2Proof.Machine

/-- BEGIN_CLEAR_POINT (R107, R109). -/
def execBeginClearPoint (c : CoreId) (s : State) : Host.Outcome State Fault Refusal := .next (drainAll (beginClearPoint c s))
/-- DRAIN_COMPLETE (R114). -/
def execDrainComplete (c : CoreId) (s : State) : Host.Outcome State Fault Refusal := .next (drainAll (drainComplete c s))
/-- SPEC_COMMIT (R206). -/
def execSpecCommit (c : CoreId) (s : State) : Host.Outcome State Fault Refusal := .next (drainAll (specCommit c s))
/-- SPEC_EXPIRE (R208). -/
def execSpecExpire (h : HalfId) (handle : Nat) (s : State) : Host.Outcome State Fault Refusal :=
  .next (drainAll (specExpire h handle s))
/-- A stored exchange packet, next in its source's order, whose deposit into a core of this device finds no room. -/
def stalledExadd (s : State) (c : CoreId) : Option (HalfId × PortId × Packet) :=
  s.fab.store.find? (fun x => x.2.2.ptype == ptExadd && x.2.2.oseq == oseqNext s x.2.2.srcDev &&
    regionOf (addrLocal x.2.2.dst) 1 == some (.acc c) && stillWaits (tryRequest s x.1 x.2.2 0).2)

/-- A stored exchange packet given up (R105): it is answered ACC_EXHAUSTED, and its tile is left with NAN_IN in every
element. -/
def exhaustPacket (s : State) (c : CoreId) (x : HalfId × PortId × Packet) : State :=
  let t := elemTile ((addrLocal x.2.2.dst - accBase c) / 32)
  let s := exhaust s c none t
  let s := { s with fab := { s.fab with store := s.fab.store.filter (fun y => y != x) } }
  answerRequest (oseqDone s x.2.2) x.1 x.2.2 stAccExhausted 0

/-- PROMOTION_TIMEOUT (R105): the stalled deposit of a core is given up: one of the core itself, or one of a packet. -/
def execPromotionTimeout (c : CoreId) (s : State) : Host.Outcome State Fault Refusal :=
  match stalledDeposit s c, stalledExadd s c with
  | none, some x => if (commitReady s c).isNone then .next (drainAll (exhaustPacket s c x)) else .next (drainAll (promotionTimeout c s))
  | _, _ => .next (drainAll (promotionTimeout c s))

end Sys2Proof.Machine
end

