-- ==== Sys2Proof/Machine/HostIf.lean ====
section
/-!
DEFINITION. The host attachment: configuration space (R417), accesses that BAR0 refuses (R418, R419), BAR2 (R421, R422), and
streams (R423 to R425).
-/

namespace Sys2Proof.Machine

/-! ### Configuration space (R417) -/

/-- A byte of configuration space that the class code fixes (R417: class code 0x12_0000). -/
def classByte (o : Nat) : Option Byte := if o = 9 then some 0 else if o = 10 then some 0 else if o = 11 then some 0x12 else none

/-- A byte of configuration space (log 26). -/
def cfgByte (s : State) (o : Nat) : Byte := (classByte o).getD (aget s.host.cfg o (BitVec.ofNat 8 (Config.cfgReset o)))

/-- Bytes of configuration space written; those of the class code stay. -/
def cfgWrite (s : State) (o : Nat) (bs : List Byte) : State :=
  match bs with
  | [] => s
  | b :: rest =>
    cfgWrite (if (classByte o).isSome then s else { s with host := { s.host with cfg := aset s.host.cfg o b } }) (o + 1) rest

/-- PCIE_CONFIG_REQUEST (R417): the dword of configuration space that holds an offset is read or written; vectors that a write
unmasks send their messages (R436). -/
def execPcieConfigRequest (offset : Nat) (data : Option Nat) (s : State) : Host.Outcome State Fault Refusal :=
  let o := offset % 4096 / 4 * 4
  match data with
  | none => .next { s with reply := .value (leNat ((List.range 4).map (fun i => cfgByte s (o + i)))) }
  | some v => .next (msixFlush (cfgWrite s o (natLE 4 v)))

/-! ### BAR0 (R418, R419) -/

/-- A BAR0 access of the width and alignment of R418. -/
def bar0Good (offset len : Nat) : Bool := (len == 4 || len == 8) && offset % len == 0

/-- An offset in the stream submission windows (R439). -/
def inSubmit (o : Nat) : Bool := decide (0x3000000 ≤ o) && decide (o < 0x3004000)

/-- BAR0_BAD_ACCESS (R418, R419): a write is dropped and a read completes with Completer Abort, both counted; a store to the flag
window is dropped and counted as well. -/
def execBar0BadAccess (write : Bool) (offset len : Nat) (s : State) : Host.Outcome State Fault Refusal :=
  if write then
    (if (!bar0Good offset len && !inSubmit offset) || decide (offset < 0x40000) then
      .next { s.incSat .DXC_HOST_STAT_BADACC with reply := .none }
    else .next s)
  else if bar0Good offset len then .next s
  else .next { s.incSat .DXC_HOST_STAT_BADACC with reply := .completerAbort }

/-! ### BAR2 (R421, R422) -/

/-- The size of BAR2 (R417): the Resizable BAR control holds its exponent above 2 ^ 20, from 1 GiB to 64 GiB (log 26). -/
def bar2Size (s : State) : Nat :=
  2 ^ (20 + max 10 (min 16 ((aget s.host.cfg (Config.rebarControl + 1) 10).toNat % 64)))

/-- The local address that a BAR2 access reaches (R421), if its aperture is valid and it stays within it. -/
def bar2Addr (s : State) (offset len : Nat) : Option Nat :=
  let ap := bar2Size s / 16
  let n := offset / ap
  let y := offset % ap
  if n < 16 ∧ y + len ≤ ap ∧ s.rb .DXC_B2WIN_VALID 0 n then some (s.rf .DXC_B2WIN_BASE 0 n + y) else none

/-- Before the boot lock only the staging window is open, and only in WAIT (R470). -/
def stagingOpen (s : State) (a len : Nat) : Bool :=
  bootLocked s 0 || (bootStage s 0 == bsWait && decide (stagingBase ≤ a) && decide (a + len ≤ stagingBase + 0x3000000))

/-- What the device's rules make of a raw access by the host (R422): the status that refuses it, or none. -/
def rawCheck (s : State) (write : Bool) (a len : Nat) : Option Nat :=
  if !stagingOpen s a len then some stInvalidAddress
  else match regionOf a len with
  | some .priv => some stPrivFault
  | some (.acc c) => if write || !rawAllowed s (halfOfCore c) then some stAccRaw
    else if touchesShadow s (a, len) then some stSpecHidden else none
  | some .regs => some stInvalidAddress
  | none => some stInvalidAddress
  | some _ => if touchesHidden s (a, len) then some stSpecHidden else none

/-- The bytes that a raw read returns (R120, R270). -/
def rawBytes (s : State) (a len : Nat) : List Byte :=
  match regionOf a len with
  | some (.acc c) => accBytes s c a len
  | _ => s.read a len

/-- A BAR2 access refused, and counted in B2REF (R422). -/
def bar2Refuse (s : State) (write : Bool) (st : Nat) : State :=
  let s := if st = stPrivFault then s.privFault else s
  { s.incSat .DXC_HOST_STAT_B2REF with reply := if write then .none else .completerAbort }

/-- A BAR2 access whose memory is not under initialisation or clear. -/
def bar2Do (s : State) (a len : Nat) (data : Option (List Byte)) : State :=
  match data with
  | none => { s with reply := .bytes (rawBytes s a len) }
  | some bs => { s.write a (padTo len bs) with reply := .none }

/-- BAR2_ACCESS (R9, R421, R422): raw, refused, held until the initialisation or clear ends, or lost at a bridge that carries no
traffic (log 131). -/
def execBar2Access (offset len : Nat) (data : Option (List Byte)) (s : State) : Host.Outcome State Fault Refusal :=
  match bar2Addr s offset len with
  | none => .next (bar2Refuse s data.isSome stInvalidAddress)
  | some a =>
    match rawCheck s data.isSome a len with
    | some st => .next (bar2Refuse s data.isSome st)
    | none =>
      if bridgeCut s 0 a len then .next { s with reply := .none }
      else if rangeBusy s a len then .next { s with held := s.held ++ [.host a len data] }
      else .next (bar2Do s a len data)

/-- A held access still waits for its memory. -/
def heldWaits (s : State) (x : HeldAccess) : Bool :=
  match x with
  | .host a len _ => rangeBusy s a len
  | .write h a bs _ => memWaits s h a bs.length
  | .atomic code a _ => rangeBusy s a (atomicBytes code)
  | .merge a _ => rangeBusy s a 16
  | .record h a bs => memWaits s h a bs.length

/-- A held access performed. -/
def heldDo (s : State) (x : HeldAccess) : State :=
  match x with
  | .host a len data => bar2Do s a len data
  | .write _ a bs crc => s.writeBlocks a bs crc
  | .atomic code a operand => doAtomic s code a operand
  | .merge a m => doMerge s a m
  | .record h a bs => recordDone (s.write a bs) h

/-- Held accesses tried again in their order. -/
def retryAll (s : State) (xs : List HeldAccess) : State :=
  match xs with
  | [] => s
  | x :: rest => retryAll (if heldWaits s x then { s with held := s.held ++ [x] } else heldDo s x) rest

/-- What waits for a part of memory goes on. -/
def memoryFree (s : State) : State := drainAll (retryAll { s with held := [] } s.held)

/-- GLADE_CLEAR_END (R251). -/
def execGladeClearEnd (h : HalfId) (s : State) : Host.Outcome State Fault Refusal := .next (memoryFree (gladeClearEnd h s))
/-- INIT_END (R279). -/
def execInitEnd (h : HalfId) (lpx : Bool) (s : State) : Host.Outcome State Fault Refusal := .next (memoryFree (initEnd h lpx s))

/-! ### Streams (R423 to R425) -/

/-- KIND of a stream descriptor. -/
abbrev sdKind (d : List Byte) : Nat := dfld d 0x00 3 0
/-- QUEUE of a stream descriptor. -/
abbrev sdQueue (d : List Byte) : Nat := dfld d 0x00 6 4
/-- NODE of a stream descriptor. -/
abbrev sdNode (d : List Byte) : Nat := dfld d 0x04 31 0
/-- ADDR of a stream descriptor. -/
abbrev sdAddr (d : List Byte) : Nat := dfld d 0x08 63 0
/-- FLAG of a stream descriptor. -/
abbrev sdFlag (d : List Byte) : Nat := dfld d 0x10 63 0
/-- SEQ of a stream descriptor. -/
abbrev sdSeq (d : List Byte) : Nat := dfld d 0x18 31 0

/-- A stream's ring. -/
def State.stream (s : State) (m : StreamId) : Stream := aget s.streams m Stream.reset

/-- A stream replaced, with the free entries of its ring in FREE. -/
def putStream (s : State) (m : StreamId) (x : Stream) : State :=
  { s with streams := aset s.streams m x }.wf .DXC_STR_STAT_FREE (x.size - x.count) 0 m.val

/-- STREAM_SUBMIT (R425): a descriptor written in one TLP is appended to the ring; otherwise it is discarded, with OVF. -/
def execStreamSubmit (m : StreamId) (tlps : Nat) (desc : List Byte) (s : State) : Host.Outcome State Fault Refusal :=
  let x := s.stream m
  if tlps = 1 ∧ x.count < x.size then
    .next (putStream (s.write (x.base + 64 * ((x.head + x.count) % x.size)) (padTo 64 desc)) m { x with count := x.count + 1 })
  else .next (s.wf .DXC_STR_STAT_OVF 1 0 m.val)

/-- The oldest descriptor of a stream that is neither stopped nor empty. -/
def streamFront (s : State) (m : StreamId) : Option (List Byte) :=
  let x := s.stream m
  if s.rb .DXC_STR_STAT_STOP 0 m.val ∨ x.count = 0 then none else some (s.read (x.base + 64 * x.head) 64)

/-- The oldest descriptor processed: it leaves the ring, and its SEQ is copied (R423). -/
def takeDesc (s : State) (m : StreamId) (d : List Byte) : State :=
  let x := s.stream m
  (putStream s m { x with head := (x.head + 1) % max 1 x.size, count := x.count - 1, flag := none, woken := false }).wf
    .DXC_STR_STAT_SEQ (sdSeq d) 0 m.val |>.wf .DXC_STR_STAT_WAIT 0 0 m.val

/-- The node that a WORK names (R424), whatever its state: a node whose queues this device holds. -/
def workNode (s : State) (r : Nat) : Except Nat NodeId :=
  match resolveRef s r with
  | .error e => .error e
  | .ok p =>
    match localNode s p with
    | none => .error stInvalidNode
    | some .group => if isGroupPrin s then .ok .group else .error stInvalidNode
    | some .hall =>
      if epochNow s ≠ 0 ∧ s.readN (armAddr s + 0x1C) 4 % 2 ^ 14 = ownDev s then .ok .hall else .error stInvalidNode
    | some nd => .ok nd

/-- The status that refuses the address of a WORK's entry (R423, R258, R261, R248), or none. -/
def workAddr (s : State) (a : Nat) : Option Nat :=
  match regionOf a 128 with
  | some .hbm => none
  | some (.glade h) => if touchesUnderstory s h a 128 then some stSpecHidden else none
  | some .priv => some stPrivFault
  | _ => some stInvalidAddress

/-- The status that stops a stream at a WORK (R424), or none: an invalid NODE, or a refused address. A NODE whose slot is not
Active is valid. -/
def workStop (s : State) (d : List Byte) : Option Nat :=
  match workNode s (sdNode d) with
  | .error e => if e = stNotActive then workAddr s (sdAddr d) else some e
  | .ok _ => workAddr s (sdAddr d)

/-- The node whose slot a reference names. -/
def refParent (s : State) (r : Nat) : NodeId := ((slotParent s r).map Prod.fst).getD .device

/-- The entry of a WORK posted to its node's queue; one whose slot is Empty or Closing is rejected with NOT_ACTIVE (R28). -/
def postWork (s : State) (d : List Byte) : State :=
  let e := s.read (sdAddr d) 128
  let q : Fin 8 := Fin.ofNat 8 (sdQueue d)
  match workNode s (sdNode d) with
  | .ok nd => { s with nodeQ := aset s.nodeQ (nd, q) (nodeQueue s nd q ++ [e]) }
  | .error st => refuseEntry s e (refParent s (sdNode d)) st

/-- The queue that a WORK names is full. -/
def workFull (s : State) (d : List Byte) : Bool :=
  match workNode s (sdNode d) with
  | .ok nd => decide (s.qDepth ≤ (nodeQueue s nd (Fin.ofNat 8 (sdQueue d))).length)
  | .error _ => false

/-- A WORK processed (R424): refused, kept waiting by a full queue, or posted. -/
def runWork (s : State) (m : StreamId) (d : List Byte) : State :=
  match workStop s d with
  | some st => stopStream (if st = stPrivFault then s.privFault else s) m st
  | none =>
    if workFull s d ∨ rangeBusy s (sdAddr d) 128 then s.wf .DXC_STR_STAT_WAIT 1 0 m.val
    else takeDesc (postWork s d) m d

/-- WORK (R424): also a descriptor whose KIND is reserved, which is refused. -/
def execWork (m : StreamId) (s : State) : Host.Outcome State Fault Refusal :=
  match streamFront s m with
  | none => .next s
  | some d =>
    if sdKind d = 1 then .next (runWork s m d)
    else if sdKind d = 2 ∨ sdKind d = 3 then .next s
    else .next (stopStream s m stInvalidOp)

/-- A WAIT that has not begun (R221, R228): it consumes a set, stops on poison, or joins the waiters. -/
def beginStreamWait (s : State) (m : StreamId) (d : List Byte) (f : FlagId) : State :=
  let x := s.flag f
  if flagIsPoisoned s f then stopStream s m stAbortedDisable
  else if x.set then takeDesc (s.setFlagSt f { x with set := false }) m d
  else
    let s := s.setFlagSt f { x with waiters := x.waiters ++ [.stream m] }
    (putStream s m { s.stream m with flag := some f }).wf .DXC_STR_STAT_WAIT 1 0 m.val

/-- WAIT (R424): a set already consumed by the wake of this stream ends it. -/
def execWait (m : StreamId) (s : State) : Host.Outcome State Fault Refusal :=
  match streamFront s m with
  | none => .next s
  | some d =>
    if sdKind d ≠ 2 then .next s
    else if (s.stream m).woken then .next (takeDesc s m d)
    else if (s.stream m).flag.isSome then .next s
    else match flagOfLocal (addrLocal (sdFlag d)) with
      | none => .next (stopStream s m stInvalidAddress)
      | some f =>
        if addrDev (sdFlag d) = ownDev s ∨ addrDev (sdFlag d) = 0 then .next (beginStreamWait s m d f)
        else .next (stopStream s m stInvalidAddress)

/-- An earlier set of a stream to another device has no answer yet: the release of R424 waits for it. -/
def setsOpen (s : State) (m : StreamId) (dev : Nat) : Bool :=
  s.fab.ops.any (fun x => x.2.owner == .stream m && x.2.openPkts != 0 && addrDev x.2.raddr != dev)

/-- STREAM_SET (R424). -/
def execStreamSet (m : StreamId) (s : State) : Host.Outcome State Fault Refusal :=
  match streamFront s m with
  | none => .next s
  | some d =>
    if sdKind d ≠ 3 then .next s
    else match flagOfLocal (addrLocal (sdFlag d)) with
      | none => .next (stopStream s m stInvalidAddress)
      | some _ =>
        if setsOpen s m (addrDev (sdFlag d)) then .next s
        else .next (setGlobal (takeDesc s m d) (sdFlag d) (srcHost s) (.stream m))

end Sys2Proof.Machine
end

