-- ==== Sys2Proof/Machine/Boot.lean ====
section
/-!
DEFINITION. Boot (R469 to R474), measurement (R477, R485), and the checks of signed records (R475, R482, R483).
-/

namespace Sys2Proof.Machine

/-! ### Measurement (R477, R485) -/

/-- The 32 bytes of a measurement slot. -/
def measBytes (s : State) (h : HalfId) (slot : Nat) : List Byte :=
  (List.range 4).flatMap (fun k => natLE 8 (s.rf .SEC_MEAS_VAL h.val (4 * slot + k)))

/-- The words of a slot written from byte list `bs`, from word `k` on. -/
def setMeas (s : State) (h : HalfId) (slot : Nat) (bs : List Byte) : State :=
  (((s.wf .SEC_MEAS_VAL (leNat (bs.take 8)) h.val (4 * slot)).wf .SEC_MEAS_VAL (leNat ((bs.drop 8).take 8)) h.val (4 * slot + 1)).wf
    .SEC_MEAS_VAL (leNat ((bs.drop 16).take 8)) h.val (4 * slot + 2)).wf .SEC_MEAS_VAL (leNat ((bs.drop 24).take 8)) h.val
    (4 * slot + 3)

/-- A slot extended: slot ← SM3(slot ∥ v) (R477). -/
def extendSlot (s : State) (h : HalfId) (slot : Nat) (v : List Byte) : State :=
  setMeas s h slot (sm3 (measBytes s h slot ++ padTo 32 v))

/-- A slot of both halves extended with the same value (R477). -/
def extendBoth (s : State) (slot : Nat) (v : List Byte) : State := extendSlot (extendSlot s 0 slot v) 1 slot v

/-- Whether an agent may extend a slot of a half (R477): the plinth slot 1 before the boot lock, Dexca slots 2 to 5. -/
def mayExtend (s : State) (a : Agent) (h : HalfId) (slot : Nat) : Bool :=
  (a == .plinth h && slot == 1 && !bootLocked s h) || (a == .dexca h && decide (2 ≤ slot) && decide (slot ≤ 5))

/-- MEAS_EXTEND (R477, R484, R485): a GO joins the extensions in progress; one by another agent, or of another slot, is ignored
and counted. -/
def execMeasExtend (a : Agent) (h : HalfId) (slot : Fin 8) (s : State) : Host.Outcome State Fault Refusal :=
  if mayExtend s a h slot.val then
    let v := (List.range 4).flatMap (fun k => natLE 8 (s.rf .SEC_EXT_D_VAL h.val k))
    .next { s with sec := { s.sec with exts := s.sec.exts ++ [⟨h, slot.val, v⟩] } }
  else .next s.privFault

/-- The first extension of a half taken out of those in progress. -/
def takeExt (h : HalfId) (es : List MeasExt) : Option (MeasExt × List MeasExt) :=
  match es with
  | [] => none
  | e :: rest =>
    if e.half = h then some (e, rest)
    else match takeExt h rest with
      | none => none
      | some (x, r) => some (x, e :: r)

/-- MEAS_EXTEND_DONE (R485): the oldest extension of a half takes effect. -/
def execMeasExtendDone (h : HalfId) (s : State) : Host.Outcome State Fault Refusal :=
  match takeExt h s.sec.exts with
  | none => .next s
  | some (e, rest) => .next (extendSlot { s with sec := { s.sec with exts := rest } } h e.slot e.value)

/-! ### Keys and signatures (R474, R475) -/

/-- The public key in bytes: x, then y. -/
def keyOf (bs : List Byte) : Nat × Nat := (beNat (bs.take 32), beNat ((bs.drop 32).take 32))

/-- The key slot holds this key and is not revoked (R475). -/
def keyGood (s : State) (slot : Nat) (pub : List Byte) : Bool :=
  !bit s.sec.revoked slot && beNat (sm3 pub) == Config.keyHash slot

/-- An SM2 signature by `pub` over `msg` (R474). -/
def signed (pub msg sig : List Byte) : Bool := Config.sm2Verify (keyOf pub) (beNat msg) (keyOf sig)

/-! ### The image (R470 to R473) -/

/-- Where the plinth keeps its copy of the image in the privileged region (log 37). -/
abbrev imageCopy : Nat := privBase + 0x28000000

/-- The largest LENGTH of R471. -/
abbrev maxImage : Nat := 0x02FFF000

/-- A field of an image header held at `a`. -/
def imgField (s : State) (a off n : Nat) : Nat := s.readN (a + off) n

/-- A check of R471 with its cause: zero passes. -/
def firstCause (cs : List (Bool × Nat)) : Nat :=
  match cs with
  | [] => 0
  | (ok, c) :: rest => if ok then firstCause rest else c

/-- The reserved bytes of a header are zero (R473). -/
def reservedZero (s : State) (a : Nat) : Bool :=
  imgField s a 7 1 == 0 && imgField s a 0x0E 2 == 0 && imgField s a 0x1A 2 == 0 &&
    imgField s a 0x1C 4 / 8 == 0 && (s.read (a + 0xC0) 0xF40).all (fun b => b == 0)

/-- Checks 2 to 8 of R471 on the image at `a` of kind `kind`, in their order. -/
def imageChecks (s : State) (a kind : Nat) : List (Bool × Nat) :=
  let pub := s.read (a + 0x40) 64
  let k := imgField s a 0x1C 1 % 8
  let len := imgField s a 0x10 4
  [(imgField s a 0 4 == 0x41435844, 1),
    (imgField s a 4 2 == 1 && imgField s a 6 1 == kind && reservedZero s a && decide (imgField s a 8 4 ≤ 64), 2),
    (decide (len ≠ 0) && len % 4096 == 0 && decide (len ≤ maxImage) && decide (imgField s a 0x14 4 < len), 3),
    (decide (imgField s a 0x18 1 ≤ 0xB0) && decide (0xB0 ≤ imgField s a 0x19 1), 4),
    (decide (k ≤ 3) && keyGood s k pub && (decide (k < 3) || s.rf .SEC_LC_STATE == 1), 5),
    (signed pub (s.read a 0x80) (s.read (a + 0x80) 64), 6),
    (decide (s.rf .SEC_LC_MINSVN ≤ imgField s a 8 4), 8),
    (sm3 (s.read (a + 0x1000) len) == s.read (a + 0x20) 32, 7)]

/-- The cause of R471 for the image that the plinth holds; zero accepts it. -/
def bootCause (s : State) : Nat := firstCause ((s.rf .SEC_LC_STATE != 4, 9) :: imageChecks s imageCopy 1)

/-- STAGE of both halves. -/
def setStages (s : State) (st : Nat) : State := s.wfBoth .SEC_BOOT_STAT_STAGE st

/-- STAGING_WRITE (R470): the host writes the staging window in WAIT; otherwise the write is refused. -/
def execStagingWrite (offset : Nat) (data : List Byte) (s : State) : Host.Outcome State Fault Refusal :=
  if bootStage s 0 = bsWait ∧ offset + data.length ≤ 0x3000000 then .next (s.write (stagingBase + offset) data)
  else .next (s.incSat .DXC_HOST_STAT_B2REF)

/-- The image copied out of the window: its header and LENGTH bytes of body (R471). -/
def copyImage (s : State) : State :=
  let len := min maxImage (imgField s stagingBase 0x10 4)
  s.write imageCopy (s.read stagingBase (4096 + len))

/-- BOOT_GO (R470, R471): in WAIT, a GO of half 0 starts the checks; a window write in its cycle is dropped. -/
def execBootGo (h : HalfId) (sameCycleWrite : Bool) (s : State) : Host.Outcome State Fault Refusal :=
  let go := h = 0 ∧ bootStage s 0 = bsWait
  let s := if sameCycleWrite ∧ (go ∨ bootStage s 0 ≠ bsWait) then s.incSat .DXC_HOST_STAT_B2REF else s
  if go then
    let s := (s.incSat .SEC_BOOT_STAT_ATTEMPTS 1 0).incSat .SEC_BOOT_STAT_ATTEMPTS 1 1
    .next (setStages (copyImage s) bsCheck)
  else .next s

/-- Where the ring of stream `m` lies, and its descriptors (R423; log 37). -/
def streamRing (m : Nat) : Stream := { Stream.reset with base := privBase + 0x30000000 + 4096 * m, size := 64 }

/-- Dexca places the streams as it starts: each reports its ring free. -/
def placeStreams (s : State) (ms : List Nat) : State :=
  match ms with
  | [] => s
  | m :: rest => placeStreams (putStream s (Fin.ofNat 256 m) (streamRing m)) rest

/-- BOOT_LOCK (R472): slot 1 is extended, the lock is set, the window closes, and Dexca starts. -/
def bootSuccess (s : State) : State :=
  let s := extendBoth (extendBoth s 1 (sm3 (s.read imageCopy 4096))) 1 (s.read (imageCopy + 0x20) 32)
  let s := (setStages s bsRun).wfBoth .SEC_BOOT_STAT_LOCK 1
  let s := (s.wfBoth .SEC_BOOT_STAT_CAUSE 0).wf .DXC_B2WIN_VALID 0 0 0
  let s := { s with sec := { s.sec with svn := imgField s imageCopy 8 4, version := imgField s imageCopy 0x0C 2 } }
  placeStreams { s with dx := Dexca.reset } (List.range 256)

/-- The glade of a half cleared (R251). -/
def clearGlade (s : State) (h : HalfId) : State := s.clearMem (gladeBase h) (gladeBase h + gladeSize)

/-- IMAGE_REJECT (R472): the cause is recorded, the copy zeroed, glade cleared, and both halves return to WAIT. -/
def bootReject (s : State) (cause : Nat) : State :=
  let s := s.clearMem imageCopy (imageCopy + 4096 + maxImage)
  setStages ((clearGlade (clearGlade s 0) 1).wfBoth .SEC_BOOT_STAT_CAUSE cause) bsWait

/-- BOOT_CHECK_DONE (R471, R472): both halves check the same copy, so that they agree. -/
def execBootCheckDone (s : State) : Host.Outcome State Fault Refusal :=
  if bootStage s 0 = bsCheck ∧ bootStage s 1 = bsCheck then
    let s := s.wfBoth .SEC_BOOT_STAT_KEY (imgField s imageCopy 0x1C 1 % 8)
    let c := bootCause s
    .next (if c = 0 then bootSuccess s else bootReject s c)
  else .next s

/-- BOOT_BRIDGE_TIMEOUT (R471, R472): both halves halt. -/
def execBootBridgeTimeout (s : State) : Host.Outcome State Fault Refusal :=
  if bootStage s 0 = bsCheck ∧ bootStage s 1 = bsCheck then
    .next (setStages (s.wfBoth .SEC_BOOT_STAT_CAUSE 11) bsHalt)
  else .next s

/-! ### Self-test (R249, R250, R469) -/

/-- A core cleared as in step 2 of R249: its memories, its flags, its contexts and its tag. -/
def clearCore (s : State) (c : CoreId) (node : NodeSt) : State :=
  let s := s.clearMem (scratchBase c) (scratchBase c + scratchSize)
  let s := resetFlags s (fun f => flagCore f == some c)
  let s := { s with pmc := { s.pmc with prev := adrop s.pmc.prev (fun k => k.1 == blockKey (.core c)) } }
  (s.setCore c { CoreSt.reset with node := node }).wf .MAT_TAG_VALID 0 c.val

/-- WAKE_VERIFY_FAIL (R250): a core that failed verification is Disabled. -/
def verifyFailed (s : State) (c : CoreId) : State :=
  let s := s.setCore c { s.core c with node := .disabled }
  raiseIrq (s.wf .CORE_WAKE_STAT_VFAIL 1 c.val) (halfOfCore c) (256 + c.val % 40)

/-- Each core of a list that failed verification is Disabled. -/
def verifyFailures (s : State) (h : HalfId) (cs : List CoreId) : State :=
  match cs with
  | [] => s
  | c :: rest => verifyFailures (if halfOfCore c = h then verifyFailed s c else s) h rest

/-- Every core of a list cleared. -/
def clearCores (s : State) (cs : List CoreId) : State :=
  match cs with
  | [] => s
  | c :: rest => clearCores (clearCore s c .active) rest

/-- The cores of a half. -/
def coresOfHalf (h : HalfId) : List CoreId := (List.range 40).map (coreOf h)

/-- SELFTEST_START of a half (R469, R477): fuses are read, the ROM digest extended into slot 0, glade and cores cleared, and the
plinth of half 0 draws BOOTNONCE. The outputs that the plinth gives PLLs 1 to 3 are free within the range of the VCO
(R488). -/
def selftestStart (s : State) (h : HalfId) (failed : List CoreId) : State :=
  let s := s.wf .SEC_BOOT_STAT_STAGE bsSelftest h.val
  let s := (((s.wf .SEC_LC_STATE s.sec.lc h.val).wf .SEC_LC_NEXT s.sec.lc h.val).wf .SEC_LC_MINSVN s.sec.minsvn h.val).wf
    .SEC_LC_REVOKED s.sec.revoked h.val
  let s := extendSlot s h 0 (natBE 32 Config.romDigest)
  let s := verifyFailures (clearCores (clearGlade s h) (coresOfHalf h)) h failed
  let s := if h = 0 then { s.used with sec := { s.sec with bootNonce := natLE 32 s.freeVal } } else s
  let fb := fun (t : State) => 128 + t.freeVal % 128
  let s := (s.wf .CLK_PLL_CFG_FBDIV (fb s) h.val 1).used
  let s := (s.wf .CLK_PLL_CFG_FBDIV (fb s) h.val 2).used
  (s.wf .CLK_PLL_CFG_FBDIV (fb s) h.val 3).used

/-- SELFTEST_DONE (R469): HBM has trained and the privileged region is cleared; the staging window opens. -/
def execSelftestDone (s : State) : Host.Outcome State Fault Refusal :=
  if bootStage s 0 = bsSelftest ∧ bootStage s 1 = bsSelftest then
    .next (setStages (s.clearMem privBase (privBase + privSize)) bsWait)
  else .next s

/-! ### Signed records (R482, R483) -/

/-- The checks of an authorisation or lifecycle request of kind `kind` signed by one of the slots `ks` (R483). -/
def recordGood (s : State) (r : List Byte) (kind : Nat) (ks : List Nat) : Bool :=
  let k := dfld r 4 2 0
  let pub := (r.drop 0x40).take 64
  dfld r 0 15 0 == 1 && dfld r 0 23 16 == kind && ks.contains k && keyGood s k pub && signed pub (r.take 0x80) ((r.drop 0x80).take 64) &&
    dfld r 8 63 0 == Config.serial % 2 ^ 64 && (r.drop 0x10).take 32 == s.sec.bootNonce

/-- TST_ACCESS_END (R521): the TST registers of a half without access return to their reset values, and an injection is
disarmed. -/
def endAccess (s : State) (h : HalfId) : State :=
  if grants s h 0 then s
  else
    let fs : List Fld := [.TST_SEED_SEED, .TST_SCOPE_CORES] ++ Reg.fields .TST_CREDIT ++ Reg.fields .TST_BP ++
      Reg.fields .TST_BANK ++ Reg.fields .TST_QDLY ++ Reg.fields .TST_INJ ++ Reg.fields .TST_STAT
    (s.resetRegs (fun f u _ => u == h.val && fs.contains f)).setHalf h { s.half h with injLeft := 0 }

/-- The authorisation in force, in both halves. -/
def setAuth (s : State) (valid : Bool) (g : Nat) : State :=
  let s := (s.wfBoth .SEC_AUTH_STAT_VALID (b2n valid)).wfBoth .SEC_AUTH_STAT_GRANTS g
  endAccess (endAccess s 0) 1

end Sys2Proof.Machine
end

