-- ==== Sys2Proof/Machine/FlagCmds.lean ====
section
/-!
DEFINITION. The FLAG commands (R219, R220, R223, R235), a set that reaches a flag (R221), and COND (R197, R198).
-/

namespace Sys2Proof.Machine

/-! ### The flag descriptor (R219) -/

abbrev fdIdx (d : List Byte) : Bool := dbit d 0x00 4
abbrev fdISrc (d : List Byte) : Nat := dfld d 0x00 7 5
abbrev fdAddr (d : List Byte) : Nat := dfld d 0x08 63 0
abbrev fdIStride (d : List Byte) : Nat := dfld d 0x10 15 0
abbrev fdIMod (d : List Byte) : Nat := dfld d 0x10 31 16
/-- COUNT, 0 taken as 1. -/
def fdCount (d : List Byte) : Nat := max 1 (dfld d 0x00 31 16)

/-- The flag that a descriptor acts on, after the index arithmetic of R223; an address that is no flag is none (R215). -/
def flagTarget (o : Op) : Option FlagId :=
  match flagOfLocal (addrLocal (fdAddr o.desc)) with
  | none => none
  | some f =>
    if fdIdx o.desc then
      let n := match fdISrc o.desc with
        | 0 => o.k
        | 1 => o.mb
        | _ => o.step
      some (Fin.ofNat 32768 (flagIndex f.val n (fdIStride o.desc) (fdIMod o.desc)))
    else some f

/-- The status of a FLAG command that its descriptor decides (R215, R219, R220, R235). -/
def flagCheck (s : State) (h : HalfId) (o : Op) : Option Nat :=
  let d := o.desc
  if fdOp d = 0 ∨ 5 < fdOp d then some stInvalidOp
  else if fdIdx d ∧ 2 < fdISrc d then some stInvalidOp
  else if fdOp d = 5 then (if beatNow s h + 2 ^ 32 < fdBeat d then some stInvalidShape else none)
  else if fdOp d ≠ 1 ∧ addrDev (fdAddr d) ≠ ownDev s then some stInvalidOp
  else match flagTarget o with
    | none => some stInvalidAddress
    | some f => if fdOp d ≠ 1 ∧ 32768 < f.val + fdCount d then some stInvalidAddress else none

/-- The effect of a FLAG command on the flags of its device (R220, R221). -/
def flagEffect (s : State) (c : CoreId) (o : Op) : State :=
  match flagTarget o with
  | none => s
  | some f =>
    let fs := flagRange f.val (fdCount o.desc)
    match fdOp o.desc with
    | 1 => setFlag s f (srcOfCtx s c o.ctx)
    | 2 => clearFlags s fs
    | 3 => claimFlags s fs c o.ctx
    | 4 => unclaimFlags s fs c o.ctx
    | _ => s

/-- A FLAG command takes effect as it is accepted (R189), and completes in its turn: at once if the earlier FLAG and COND commands of
the core have completed; a SET to another device, or behind a fabric
operation of its context to this one (R229, R231), with its fabric operation (R220), a FENCE with the fence of its beat (R234, R235). -/
def runFlagOp (s : State) (c : CoreId) (o : Op) : State :=
  match flagCheck s (halfOfCore c) o with
  | some st => endFlagOp s c o st 0
  | none =>
    if fdOp o.desc = 5 then
      let s := s.setCore c (putOp (s.core c) { o with started := true })
      drainFlags s c (s.core c).ops.length
    else if fdOp o.desc = 1 ∧ (addrDev (fdAddr o.desc) ≠ ownDev s ∨ selfPending s (ctxNumber c o.ctx)) then
      let s := s.setCore c (putOp (s.core c) { o with started := true })
      match flagTarget o with
      | none => s
      | some f =>
        sendFlagSet s (.core c o.ctx o.num) (ctxNumber c o.ctx) (globalAddr (addrDev (fdAddr o.desc)) (regBase + 8 * f.val))
    else endFlagOp (flagEffect s c o) c o stOK 0

/-- A FLAG command of operation `p` is accepted. -/
def acceptFlag (s : State) (c : CoreId) (n : CtxId) (p : Nat → Bool) : State :=
  acceptChecked s c n (fun k => k.cls == clFlag && p (fdOp k.desc)) (fun _ _ => none) (fun s o => runFlagOp s c o)

/-- SET (R220). A FLAG command with an OP that R220 does not name completes with INVALID_OP here. -/
def execSet (c : CoreId) (n : CtxId) (s : State) : Host.Outcome State Fault Refusal :=
  .next (acceptFlag s c n (fun op => op == 1 || op == 0 || decide (5 < op)))

/-- CLEAR (R220). -/
def execClear (c : CoreId) (n : CtxId) (s : State) : Host.Outcome State Fault Refusal :=
  .next (acceptFlag s c n (fun op => op == 2))

/-- CLAIM (R217, R220). -/
def execClaim (c : CoreId) (n : CtxId) (s : State) : Host.Outcome State Fault Refusal :=
  .next (acceptFlag s c n (fun op => op == 3))

/-- UNCLAIM (R217, R220). -/
def execUnclaim (c : CoreId) (n : CtxId) (s : State) : Host.Outcome State Fault Refusal :=
  .next (acceptFlag s c n (fun op => op == 4))

/-- FENCE (R234, R235): completes once the fence of its beat has passed; until then its context is Blocked. -/
def execFence (c : CoreId) (n : CtxId) (s : State) : Host.Outcome State Fault Refusal :=
  .next (acceptFlag s c n (fun op => op == 5))

/-- Further sets of a flag in the cycle of one that has acted: each is absorbed and counted (R222). -/
def absorbSets (s : State) (f : FlagId) (n : Nat) : State :=
  match n with
  | 0 => s
  | n + 1 => absorbSets (absorbSet s f) f n

/-- SET_REACHES_FLAG (R221, R222): a set of another source, named by its device bits and agent, reaches a flag; `more` further sets
reach it in the same cycle. -/
def execSetReachesFlag (f : FlagId) (src : Src) (more : Nat) (s : State) : Host.Outcome State Fault Refusal :=
  .next (absorbSets (setFlag s f src) f more)

/-! ### COND (R197, R198) -/

/-- SKIP of a COND's DESC word. -/
abbrev condSkip (k : Cmd) : Nat := k.descAddr % 256
/-- The flag state that makes a COND skip. -/
abbrev condPolarity (k : Cmd) : Bool := bit k.descAddr 8

/-- COND (R197): accepted and unresolved; SKIP = 0 completes with INVALID_OP. -/
def execCond (c : CoreId) (n : CtxId) (s : State) : Host.Outcome State Fault Refusal :=
  match tryAccept s c n (fun k => k.cls == clCond) with
  | (s, none) => .next s
  | (s, some k) =>
    if specRefuses (s.ctx c n) k then .next (refuseSpec s c n k)
    else if condSkip k = 0 then .next (refuseInOrder s c n k stInvalidOp)
    else
      let o := opOf s c n k none
      let y := s.ctx c n
      let s := enterOp s c n o
      .next (s.setCtx c n { y with
        ptr := y.ptr + 1, prev := some o.num, depMet := false, cond := some ⟨k.wflag, condPolarity k, condSkip k⟩ })

/-- The context after its COND has been resolved: past the skipped commands; at or past PLEN it ends as at an END if it
skipped, and stops with INVALID_OP if it did not (R198). One that has stopped meanwhile stays so (R188). -/
def afterCond (y : Ctx) (skip : Nat) : Ctx :=
  let y := { y with ptr := y.ptr + skip, cond := none }
  if y.ended then y
  else if y.plen ≤ y.ptr then
    (if 0 < skip then { y with ended := true, st := .stopping }
     else { y.addFail y.plen stInvalidOp with ended := true, st := .stopping })
  else y

/-- A COND that reads a poisoned flag (R197, R228): its context stops with ABORTED_DISABLE, and the wake record says why. -/
def poisonCond (s : State) (c : CoreId) (n : CtxId) (k : CondSt) (o : Op) : State :=
  let f := s.flag k.flag
  let s := match flagDead s k.flag with
    | some cause => wakeRecord s c n k.flag (srcRanger s (flagHalf k.flag)) 0 true cause
    | none => wakeRecord s c n k.flag f.src 0 true f.cause
  let y := (s.ctx c n).addFail o.idx stAbortedDisable
  stopCtx (s.setCtx c n { y with cond := none }) c n

/-- COND_RESOLVE (R197): once every earlier command of the context has completed, the COND reads its flag; it completes in its
turn among the FLAG and COND commands of the core (R189). -/
def execCondResolve (c : CoreId) (n : CtxId) (s : State) : Host.Outcome State Fault Refusal :=
  let x := s.core c
  let y := s.ctx c n
  match y.cond, x.ops.filter (fun o => o.ctx == n) with
  | some k, [o] =>
    if o.cls = clCond ∧ o.pre = none then
      if flagIsPoisoned s k.flag then .next (endFlagOp (poisonCond s c n k o) c o stAbortedDisable 0)
      else
        let skips := flagIsSet s k.flag == k.polarity
        let n' := if skips then k.skip else 0
        let s := if skips then dropAhead s c n y.ptr (y.ptr + k.skip) else s
        .next (endFlagOp (s.setCtx c n (afterCond y n')) c o stOK (b2n skips))
    else .next s
  | _, _ => .next s

end Sys2Proof.Machine
end

