-- ==== Sys2Proof/Machine/Echo.lean ====
section
/-!
DEFINITION. Echo checks at the source (R397 to R400) and the streaming of k-blocks (R83 to R90, R136).
-/

namespace Sys2Proof.Machine

/-! ### Echo records (R399, R400) -/

/-- The modulus of a signature. -/
abbrev sigMod : Nat := 2 ^ 128 - 1

/-- The signature of a column: the exact deposits of each row, weighted by two to the row (R399). -/
def signature (sls : List (Nat × Nat × Slice × Exc)) (n : Nat) : Nat :=
  let v := (sls.filter (fun x => x.2.1 == n)).foldl
    (fun (t : Int) x => t + 2 ^ x.1 * (x.2.2.1.d + x.2.2.1.diverted.foldl (· + ·) 0)) 0
  (v % (sigMod : Int)).toNat

/-- The sidecar bits that a block sets in a column. -/
def columnSc (sls : List (Nat × Nat × Slice × Exc)) (n : Nat) : Nat :=
  (sls.filter (fun x => x.2.1 == n)).foldl (fun t x => t ||| x.2.2.1.sc) 0

/-- The echo record of columns `lo` to `lo + 127` of a block (R400). -/
def echoRecord (sls : List (Nat × Nat × Slice × Exc)) (e : Exc) (lo : Nat) : List Byte :=
  (List.range 128).flatMap (fun n => natLE 16 (signature sls (lo + n))) ++
    (List.range 128).flatMap (fun n => natLE 1 (columnSc sls (lo + n))) ++
    natLE 4 e.inv ++ natLE 4 e.inf ++ natLE 4 e.nan ++ natLE 116 0

/-- The two records of a block: the second is zero unless the block is a pair's. -/
def echoRecords (d : List Byte) (i : Nat) (rows cols : List (List FVal)) : List Byte :=
  let sls := slicesOf d i rows cols
  let e := excOf d rows cols sls
  echoRecord sls e 0 ++ (if 128 < mdN d then echoRecord sls e 128 else natLE 2304 0)

/-! ### Slots (R398) -/

/-- Bytes of an element code in a slot: an FP4 element takes its code and its scale (log 42). -/
def slotWidth (code : Nat) : Nat := if code = 5 then 2 else elemBytes code
/-- The bytes of an element code. -/
def slotCode (code v : Nat) : List Byte := if code = 5 then [BitVec.ofNat 8 v, BitVec.ofNat 8 (v / 2 ^ 32)] else natLE (elemBytes code) v
/-- The element code of bytes. -/
def codeOfSlot (code : Nat) (bs : List Byte) : Nat := if code = 5 then leNat (bs.take 1) + 2 ^ 32 * leNat (bs.drop 1) else leNat bs

/-- The base of slot `i` of a half's echo area. -/
def echoSlotBase (s : State) (h : HalfId) (i : Nat) : Nat := s.rf .HLF_ECHO_BASE_BASE h.val + 204800 * i

/-- The lowest free slot; none where the area has no base, or a slot would leave the glade. -/
def freeEchoSlot (s : State) (h : HalfId) : Option Nat :=
  if s.rf .HLF_ECHO_BASE_BASE h.val = 0 then none
  else (List.range (s.rf .HLF_ECHO_CFG_SLOTS h.val)).find? (fun i =>
    (aget? s.dx.echo (h, i)).isNone && regionOf (echoSlotBase s h i) 204800 == some (.glade h))

/-- The contents of a slot (R398): the order of the first 256 bytes and of the elements is log 42's. -/
def echoSlotBytes (s : State) (c : CoreId) (o : Op) (i id n : Nat) (b : StatBuf) : List Byte :=
  let d := o.desc
  padTo 256 (padTo 64 d ++ natLE 4 id ++ natLE 4 n ++ natLE 4 o.step ++ natLE 4 i) ++
    echoRecords d i (blockRows s c d i b) (blockCols d b) ++ natLE 3328 0 ++
    padTo 131072 (b.cols.flatMap (fun col => col.flatMap (slotCode (mdBfmt d)))) ++
    padTo 65536 ((blockCodes s c d i b).flatMap (fun row => row.flatMap (slotCode (mdAfmt d))))

/-- The records that a checker forms from a slot's contents (R401). -/
def recheck (s : State) (h : HalfId) (slot : Nat) : List Byte :=
  let base := echoSlotBase s h slot
  let d := s.read base 64
  let i := s.readN (base + 76) 4
  let len := blockLen d i
  let part := fun (at_ code x k : Nat) => codeValue code (codeOfSlot code (s.read (at_ + (x * len + k) * slotWidth code) (slotWidth code)))
  let rows := (List.range (mdM d)).map (fun m => (List.range len).map (part (base + 0x22000) (mdAfmt d) m))
  let cols := (List.range (mdN d)).map (fun n => (List.range len).map (part (base + 0x2000) (mdBfmt d) n))
  echoRecords d i rows cols

/-! ### Sampling (R397) -/

/-- The 21-bit node identifier that R397 draws with. -/
def echoId (s : State) (c : CoreId) : Nat := nodeRefOf s (.core c) % 2 ^ 21

/-- The cores that may check a sample of core `src`: Active and Spare cores of the half other than it, its pair partner and
those of `not`, without its grove unless no other is left (R401). -/
def checkers (s : State) (src : CoreId) (pair : Bool) (not : List CoreId) : List CoreId :=
  let ok := ((List.range 40).map (coreOf (halfOfCore src))).filter (fun c =>
    ((s.core c).node == .active || (s.core c).node == .spare) && c != src && !(pair && c == pairMate src) && !not.contains c)
  let far := ok.filter (fun c => groveOfCore c != groveOfCore src)
  if far.isEmpty then ok else far

/-- The candidate that a draw chooses (R401). -/
def chooseCore (cs : List CoreId) (u : Nat) : Option CoreId := cs[u * cs.length / 2 ^ 32]?

/-- Both signature sets of a core are busy (R398): with two samples of operations in flight they may be, as the deposits of their
blocks go on, which is free (log 147). -/
def setsBusy (s : State) (c : CoreId) : Bool :=
  decide (2 ≤ (s.dx.echo.filter (fun e => e.2.src == c && (s.core c).ops.any (fun o => o.num == e.2.num))).length) &&
  s.freeVal % 2 == 1

/-- A sampled k-block takes a slot and its checker is chosen (R398, R401), or it is skipped and counted. -/
def takeSample (s : State) (c : CoreId) (o : Op) (i n : Nat) (b : StatBuf) : State :=
  let h := halfOfCore c
  let busy := setsBusy s c
  let s := s.used
  match (if busy then none else freeEchoSlot s h) with
  | none => s.incSat .HLF_ECHO_STAT_SKIP 1 h.val
  | some j =>
    let id := echoId s c
    let chk := chooseCore (checkers s c (inPair s c) []) (opDraw s c o 0xFFF0 id n 1)
    let e : EchoSlot := ⟨c, o.num, i, o.mb, o.step, id, n, inPair s c, chk, none⟩
    let s := s.post h (echoSlotBase s h j) (echoSlotBytes s c o i id n b)
    countEv { s with dx := { s.dx with echo := aset s.dx.echo (h, j) e } } (.col h) 0x205

/-- A k-block starts (R397): outside speculative mode it counts toward n, and is sampled by its draw. -/
def sampleBlock (s : State) (c : CoreId) (o : Op) (i : Nat) (b : StatBuf) : State :=
  if o.spec then s
  else
    let n := (s.core c).kStarted
    let s := s.setCore c { s.core c with kStarted := n + 1 }
    let h := halfOfCore c
    if s.rb .HLF_ECHO_CFG_EN h.val ∧ opDraw s c o 0xFFF0 (echoId s c) n 0 < s.rf .HLF_ECHO_CFG_RATE h.val then
      takeSample s c o i n b
    else s

/-- K_BLOCK_STREAM (R83 to R90, R136, R397): the next loaded k-block streams its sweeps. -/
def execKBlockStream (c : CoreId) (s : State) : Host.Outcome State Fault Refusal :=
  match nextStream s c with
  | none => .next s
  | some (o, r, b) => .next (streamBlock (sampleBlock s c o r.streamed b) c o r b)

end Sys2Proof.Machine
end

