-- ==== Sys2Proof/Machine/Survey.lean ====
section
/-!
DEFINITION. Echo checks at the checker and arbiter (R401, R402), surveys (R407 to R411), and suspect cores (R412, R413).
-/

namespace Sys2Proof.Machine

/-! ### The survey of a core -/

/-- The survey of a core. -/
def surveyOf (s : State) (c : CoreId) : Survey := aget s.dx.surveys c Survey.reset
/-- The survey of a core replaced. -/
def setSurvey (s : State) (c : CoreId) (x : Survey) : State := { s with dx := { s.dx with surveys := aset s.dx.surveys c x } }

/-- CORE_SURV_STAT.STATE of R415. -/
abbrev svNotDue : Nat := 0
abbrev svDue : Nat := 1
abbrev svPast : Nat := 2
abbrev svWhole : Nat := 3
abbrev svMissed : Nat := 4

/-- Entry `i` of the package in force (R407): the entries stand at the start of its body (log 43). -/
def progEntry (s : State) (i : Nat) : List Byte := (s.dx.package.drop (32 * i)).take 32
/-- KIND of a program: random. -/
def progRandom (e : List Byte) : Bool := dbit e 0 16
/-- TIME of a program, µs. -/
def progTime (e : List Byte) : Nat := dfld e 4 15 0
/-- EXPECT of a program. -/
def progExpect (e : List Byte) : Nat := dfld e 0x10 63 0

/-- Programs in the package from `i` on: entries up to the first with TIME 0. -/
def progsFrom (s : State) (fuel i : Nat) : Nat :=
  match fuel with
  | 0 => i
  | fuel + 1 => if progTime (progEntry s i) = 0 then i else progsFrom s fuel (i + 1)
/-- Programs in the package. -/
def progCount (s : State) : Nat := progsFrom s 256 0

/-- The core runs the programs of a pass from `next` on. -/
def startPass (s : State) (c : CoreId) (whole : Bool) : State :=
  if progCount s = 0 then s
  else
    let s := setSurvey s c { Survey.reset with whole := whole, running := true }
    if whole then s.wf .CORE_SURV_STAT_STATE svWhole c.val else s

/-! ### Suspects (R412) -/

/-- SUSPECT (R412): an Active core is rotated at the next step start; a Spare core runs the whole package at once. -/
def markSuspect (s : State) (c : CoreId) : State :=
  let s := s.wf .CORE_SURV_STAT_SUSPECT 1 c.val
  if (s.core c).node = .spare then startPass s c true else s

/-- Cores of a list made suspect. -/
def markSuspects (s : State) (cs : List CoreId) : State :=
  match cs with
  | [] => s
  | c :: rest => markSuspects (markSuspect s c) rest

/-- A core disabled by Dexca and reported (R412, R464): one that a rotation has released holds nothing more. -/
def disableSuspect (s : State) (c : CoreId) (why : Nat) : State :=
  let s := setSurvey s c Survey.reset
  let s := if canClose s c then closeCore (s.wf .CORE_DIS_CTL_CORE 1 c.val) c
    else if (s.core c).node = .closing ∧ !s.rb .CORE_DIS_CTL_CORE c.val then finishDisable (s.wf .CORE_DIS_CTL_CORE 1 c.val) c
    else s
  postEvent s (halfOfCore c) evUnitOut [nodeRefOf s (.core c), why]

/-! ### Echo checks (R401, R402) -/

/-- The draw of a sample with index `d` (R397, R401). -/
def sampleDraw (s : State) (h : HalfId) (e : EchoSlot) (d : Nat) : Nat :=
  draw (s.rf .VEC_RNG_SEED_SEED h.val) 0xFFF0 e.step e.mb (e.id % 2 ^ 32) (e.n % 2 ^ 32) d

/-- A slot freed. -/
def freeEcho (s : State) (h : HalfId) (i : Nat) : State := { s with dx := { s.dx with echo := adrop s.dx.echo (fun k => k == (h, i)) } }

/-- The records that the source wrote into a slot. -/
def slotRecords (s : State) (h : HalfId) (i : Nat) : List Byte := s.read (echoSlotBase s h i + 0x100) 4608

/-- The lowest column whose signature or sidecar differs; column 0 where only the counts do. -/
def firstColumn (a b : List Byte) : Nat :=
  let col := fun (x : List Byte) (n : Nat) =>
    let o := n / 128 * 2304
    ((x.drop (o + 16 * (n % 128))).take 16, (x.drop (o + 0x800 + n % 128)).take 1)
  ((List.range 256).find? (fun n => col a n != col b n)).getD 0

/-- The checker of a sample, if it has not left Active or Spare since it was chosen (R401). -/
def checkerOf (s : State) (e : EchoSlot) : Option CoreId :=
  e.chk.filter (fun c => (s.core c).node == .active || (s.core c).node == .spare)

/-- ECHO_CHECK (R401, R402): the checker runs the sampled block from the slot and compares records; it waits while the slot's
bytes are still to be written. -/
def execEchoCheck (h : HalfId) (slot : Nat) (s : State) : Host.Outcome State Fault Refusal :=
  match aget? s.dx.echo (h, slot) with
  | none => .next s
  | some e =>
    if e.bad.isSome ∨ memWaits s h (echoSlotBase s h slot) 204800 then .next s
    else match checkerOf s e with
      | none => .next ((freeEcho s h slot).incSat .HLF_ECHO_STAT_SKIP 1 h.val)
      | some c =>
        let a := slotRecords s h slot
        let b := recheck s h slot
        if a = b then .next ((freeEcho s h slot).incSat .HLF_ECHO_STAT_PASS 1 h.val)
        else
          let s := { s with dx := { s.dx with echo := aset s.dx.echo (h, slot) { e with bad := some (c, firstColumn a b) } } }
          .next (raiseIrq (s.incSat .HLF_ECHO_STAT_MISMATCH 1 h.val) h 98)

/-- The log of a half takes a verdict if it holds none (R402, R415). -/
def logVerdict (s : State) (h : HalfId) (e : EchoSlot) (verdict col : Nat) (chk : CoreId) (arb : Option CoreId) : State :=
  if s.rb .HLF_ECHO_LOG_VALID h.val then s
  else
    let a := match arb with
      | some c => c.val % 40
      | none => 0x3F
    ((((((s.wf .HLF_ECHO_LOG_VALID 1 h.val).wf .HLF_ECHO_LOG_VERDICT verdict h.val).wf .HLF_ECHO_LOG_COL col h.val).wf
      .HLF_ECHO_LOG_SRC (e.src.val % 40) h.val).wf .HLF_ECHO_LOG_CHK (chk.val % 40) h.val).wf .HLF_ECHO_LOG_ARB a h.val).wf
      .HLF_ECHO_LOG_STEP e.step h.val

/-- ECHO_ARBITER (R402): a third core reruns a mismatched block; the verdict is logged, and the cores that it names become
suspect. -/
def execEchoArbiter (h : HalfId) (slot : Nat) (s : State) : Host.Outcome State Fault Refusal :=
  match aget? s.dx.echo (h, slot) with
  | none => .next s
  | some e =>
    match e.bad with
    | none => .next s
    | some (chk, col) =>
      let arb := chooseCore (checkers s e.src e.pair [chk]) (sampleDraw s h e 2)
      let verdict := if arb.isNone then 2 else if slotRecords s h slot = recheck s h slot then 1 else 0
      let sus := if verdict = 0 then [e.src] else if verdict = 1 then [chk] else [e.src, chk]
      .next (markSuspects (logVerdict (freeEcho s h slot) h e verdict col chk arb) sus)

/-- BIST_REGION_END (R253, R255, R412, R413): a core whose test has failed becomes suspect, and a glade's failure is reported. -/
def execBistRegionEnd (u : BistUnit) (readBackBad : Bool) (s : State) : Host.Outcome State Fault Refusal :=
  let was := bistGet s u .CORE_BIST_STAT_ACTIVE .GLD_BIST_STAT_ACTIVE
  let s := bistRegionEnd u readBackBad s
  if was = 1 ∧ bistGet s u .CORE_BIST_STAT_FAIL .GLD_BIST_STAT_FAIL = 1 then
    match u with
    | .core c => .next (markSuspect s c)
    | .glade h => .next (postEvent s h evGladeFail [h.val, s.rf .GLD_BIST_STAT_FWORD h.val, s.rf .GLD_BIST_STAT_FAILDATA h.val])
  else .next s

/-! ### Slices (R408, R409) -/

/-- SLICE as R415 takes it. -/
def sliceTime (s : State) (h : HalfId) : Nat := min 50 (max 1 (s.rf .HLF_SURV_CFG_SLICE h.val))

/-- The core has slack (R409). -/
def hasSlack (s : State) (c : CoreId) : Bool :=
  let x := s.core c
  match x.node with
  | .spare => true
  | .active => allCtxs.all (fun n => (s.ctx c n).st == .idle) && !(aget s.waiting (groveOfCore c) []).any (fun w => w.core == c) &&
    x.spec.isNone && (List.range 3).all (fun t => (s.tile c t).released)
  | _ => false

/-- SURVEY_SLICE (R409): a core with slack runs its next programs while their times fit. -/
def execSurveySlice (c : CoreId) (s : State) : Host.Outcome State Fault Refusal :=
  let x := surveyOf s c
  if s.rb .HLF_SURV_CFG_EN (halfOfCore c).val ∧ x.next < progCount s ∧ !x.running ∧ hasSlack s c ∧
      progTime (progEntry s x.next) ≤ sliceTime s (halfOfCore c) then
    .next (setSurvey s c { x with running := true, used := progTime (progEntry s x.next) })
  else .next s

/-- A program leaves nothing behind: the partition is cleared (R408). -/
def clearPartition (s : State) (c : CoreId) : State := s.clearMem (partBase s c) (scratchBase c + scratchSize)

/-- A survey program has failed on cores (R412). -/
def progFailed (s : State) (cs : List CoreId) : State :=
  match cs with
  | [] => s
  | c :: _ => markSuspects (raiseIrq (s.incSat .HLF_SURV_STAT_FAILS 1 (halfOfCore c).val) (halfOfCore c) 98) cs

/-- The core reset to Spare, or disabled after its strikes or a failed pass (R410, R412). -/
def wholeEnded (s : State) (c : CoreId) (failed : Bool) : State :=
  let s := setSurvey s c Survey.reset
  let s := (s.wf .CORE_SURV_STAT_STATE svNotDue c.val).wf .CORE_SURV_STAT_AGE 0 c.val
  if failed then disableSuspect s c 0
  else
    let n := min 3 (s.rf .CORE_SURV_STAT_STRIKES c.val + 1)
    let sus := s.rb .CORE_SURV_STAT_SUSPECT c.val
    let s := if sus then (s.wf .CORE_SURV_STAT_STRIKES n c.val).wf .CORE_SURV_STAT_SUSPECT 0 c.val else s
    if sus ∧ max 1 (s.rf .HLF_SURV_CFG_STRIKES (halfOfCore c).val) ≤ n then disableSuspect s c 2
    else if (s.core c).node = .closing ∧ !s.rb .CORE_DIS_CTL_CORE c.val then s.setCore c { s.core c with node := .spare }
    else s

/-- A program of a pass is over: the next one runs in the same slice if its time fits, and the last one ends the pass. -/
def nextProgram (s : State) (c : CoreId) (bad : Bool) : State :=
  let x := surveyOf s c
  let f := x.failed || bad
  let i := x.next + 1
  if progCount s ≤ i then
    if x.whole then wholeEnded s c f
    else if f then setSurvey s c Survey.reset
    else (setSurvey s c Survey.reset).wf .CORE_SURV_STAT_STATE svNotDue c.val |>.wf .CORE_SURV_STAT_AGE 0 c.val
  else
    let t := x.used + progTime (progEntry s i)
    let go := x.whole || decide (t ≤ sliceTime s (halfOfCore c))
    setSurvey s c { x with next := i, running := go, failed := f, used := if go then t else 0 }

/-- A core with slack that runs a random program once more: the lowest-numbered of the half (log 43). -/
def secondCore (s : State) (c : CoreId) : Option CoreId :=
  ((List.range 40).map (coreOf (halfOfCore c))).find? (fun d => d != c && hasSlack s d && !surveying s d)

/-- SURVEY_PROGRAM_END (R408): a program's echo records are hashed, and the digest compared with EXPECT, or with the other
core's. -/
def execSurveyProgramEnd (c : CoreId) (records : List Byte) (s : State) : Host.Outcome State Fault Refusal :=
  let x := surveyOf s c
  if !x.running then .next s
  else
    let dg := digest 3 records
    let s := clearPartition s c
    match x.first with
    | some (c0, d0) =>
      let s := setSurvey s c { x with running := false, first := none, used := 0 }
      .next (nextProgram (if dg = d0 then s else progFailed s [c0, c]) c0 (dg != d0))
    | none =>
      let e := progEntry s x.next
      if progRandom e then
        match secondCore s c with
        | none => .next (setSurvey s c { x with running := x.whole, used := 0 })
        | some d => .next (setSurvey s d { surveyOf s d with running := true, first := some (c, dg) })
      else .next (nextProgram (if dg = progExpect e then s else progFailed s [c]) c (dg != progExpect e))

/-! ### Rotation (R410, R411, R148) -/

/-- SURVEY_DEADLINE (R410): the survey of an Active or Spare core has not completed in time; the rotation waits for the next
step start. -/
def execSurveyDeadline (c : CoreId) (s : State) : Host.Outcome State Fault Refusal :=
  if s.rb .HLF_SURV_CFG_EN (halfOfCore c).val then
    match (s.core c).node with
    | .active => .next (s.wf .CORE_SURV_STAT_STATE svPast c.val)
    | .paired => .next (s.wf .CORE_SURV_STAT_STATE svPast c.val)
    | .spare => .next (startPass s c true)
    | _ => .next s
  else .next s

/-- A core takes another's Active slot in a grove's table (R40, R410). A table takes effect once at a boundary, so a second
rotation at the same fence joins the version of the first: DESIGN CHOICE (log 129). -/
def swapSlot (s : State) (g : GroveId) (old new : CoreId) (b : Nat) : State :=
  let t := s.table (.grove g)
  let sl := t.slots.map (fun x =>
    if x.child = nodeRefOf s (.core old) ∧ x.sstate = .active then ⟨nodeRefOf s (.core new), .active⟩ else x)
  if holdsChild s (.grove g) (nodeRefOf s (.core old)) then
    s.setTable (.grove g) ⟨if t.beat = b ∧ t.version ≠ 0 then t.version else t.version + 1, b, sl⟩
  else s

/-- A core takes another's slot in whichever tables of its half hold it (R37). -/
def swapSlots (s : State) (gs : List GroveId) (old new : CoreId) (b : Nat) : State :=
  match gs with
  | [] => s
  | g :: rest => swapSlots (swapSlot s g old new b) rest old new b

/-- One core rotated out and another in. -/
def swapCores (s : State) (old new : CoreId) (b : Nat) : State :=
  let s := swapSlots s (grovesOfHalf (halfOfCore old)) old new b
  let s := s.setCore new { s.core new with node := .active }
  s.setCore old { s.core old with node := .closing }

/-- The spare that replaces a core: the lowest-numbered of its half. -/
def spareFor (s : State) (c : CoreId) : Option CoreId :=
  ((List.range 40).map (coreOf (halfOfCore c))).find? (fun d => (s.core d).node == .spare)

/-- The even core of two spares that form a pair. -/
def sparePair (s : State) (c : CoreId) : Option CoreId :=
  ((List.range 40).map (coreOf (halfOfCore c))).find? (fun d =>
    d.val % 2 == 0 && (s.core d).node == .spare && (s.core (pairMate d)).node == .spare)

/-- The deadline of a core is missed (R410). -/
def missRotation (s : State) (c : CoreId) : State :=
  (s.wf .CORE_SURV_STAT_STATE svMissed c.val).incSat .HLF_SURV_STAT_MISSED 1 (halfOfCore c).val

/-- EN and ACT of the pair of a core, with the tags of both cores invalid (R147, R149). -/
def setPair (s : State) (c : CoreId) (on : Bool) : State :=
  let g := (groveOfCore c).val
  let p := c.val % 8 / 2
  let s := s.wf .GRV_PAIR_CFG_ACT (setBit (s.rf .GRV_PAIR_CFG_ACT g) p on) g
  let s := s.wf .GRV_PAIR_CFG_EN (setBit (s.rf .GRV_PAIR_CFG_EN g) p on) g
  (s.wf .MAT_TAG_VALID 0 c.val).wf .MAT_TAG_VALID 0 (pairMate c).val

/-- A pair moves as a whole to two spares, which form one; the pair that it leaves holds until its cores are released (R148;
log 130). -/
def rotatePair (s : State) (c d : CoreId) (b : Nat) : State :=
  let s := swapCores (swapCores s c d b) (pairMate c) (pairMate d) b
  setPair (s.setCore (pairMate d) { s.core (pairMate d) with node := .paired }) d true

/-- A core past its deadline, or suspect, is rotated at the fence of a step's first beat. -/
def rotate (s : State) (b : Nat) (c : CoreId) : State :=
  let h := (halfOfCore c).val
  if inPair s c then
    match sparePair s c with
    | none => missRotation s c
    | some d => (rotatePair s (Fin.ofNat 80 (c.val / 2 * 2)) d b).incSat .HLF_SURV_STAT_ROTATIONS 1 h
  else match spareFor s c with
    | none => missRotation s c
    | some d => (swapCores s c d b).incSat .HLF_SURV_STAT_ROTATIONS 1 h

/-- A core waits for its rotation. -/
def dueRotation (s : State) (c : CoreId) : Bool :=
  (match (s.core c).node with
    | .active => true
    | .paired => true
    | _ => false) &&
  (s.rf .CORE_SURV_STAT_STATE c.val == svPast || s.rb .CORE_SURV_STAT_SUSPECT c.val)

/-- The rotations at the fence of a step's first beat. -/
def rotateAll (s : State) (b : Nat) (cs : List CoreId) : State :=
  match cs with
  | [] => s
  | c :: rest => rotateAll (if dueRotation s c then rotate s b c else s) b rest

/-- A core that a rotation closes: no disable of its own runs on it. -/
def rotatedOut (s : State) (c : CoreId) : Bool :=
  (s.core c).node == .closing && !s.rb .CORE_DIS_CTL_CORE c.val && aget s.groveSt (groveOfCore c) .active == .active &&
  !(surveyOf s c).whole

/-- Flags of a core that is pre-empted. -/
def preempt (s : State) (c : CoreId) : State :=
  let s := cancelSpec s c
  let ovr := allCtxs.filter (fun n => partOver s c n)
  let fs := (s.flags.filter (fun kv => match kv.2.owner with
    | some (d, _) => d == c
    | none => false)).map Prod.fst
  let s := abortOps s c (s.core c).ops
  let s := endContexts s c ovr allCtxs
  poisonFlags s fs (srcRanger s (halfOfCore c)) causePreempted

/-- Cores that a rotation has closed: at the fence of the next beat, parts still held are pre-empted, and the released core,
no longer one of a pair, runs the whole package (R410, steps 3 and 4). -/
def releaseRotated (s : State) (cs : List CoreId) : State :=
  match cs with
  | [] => s
  | c :: rest =>
    let s := if rotatedOut s c then
        let held := !allCtxs.all (fun n => (s.ctx c n).st == .idle)
        let s := if held then preempt s c else s
        startPass (if inPair s c then setPair s c false else s) c true
      else s
    releaseRotated s rest

end Sys2Proof.Machine
end

