-- ==== Sys2Proof/Machine/Failover.lean ====
section
/-!
DEFINITION. The fence of a beat (R234), partner copies and failover (R366 to R391), and replica digests (R403 to R405).
-/

namespace Sys2Proof.Machine

/-! ### Partner slots (R369, R370) -/

/-- Data with the bytes 0x38 to 0x3B (SQ) of the hyperparameter records at some offsets zeroed, as they enter a digest (R403). -/
def zeroSq (offs : List Nat) (data : List Byte) : List Byte :=
  match offs with
  | [] => data
  | o :: rest =>
    zeroSq rest (if o + 0x3C ≤ data.length then data.take (o + 0x38) ++ natLE 4 0 ++ data.drop (o + 0x3C) else data)

/-- The digest of the shard set of a ward, whose hyperparameter records stand where the job placed them (R369, R403). -/
def shardDigest (s : State) (ward : Nat) (data : List Byte) : Nat := digest 1 (zeroSq (aget s.dx.hyper ward []) data)

/-- The places of the hyperparameter records of devices kept, as their jobs registered them (R368, R403; log 141). -/
def noteHyper (s : State) (ds : List Nat) : State :=
  { s with dx := { s.dx with hyper := ds.foldl (fun m d => aset m d (Config.hyperPlaces d)) s.dx.hyper } }

/-- A slot header (R369) with VALID as given. -/
def slotHeader (s : State) (ward step nrange rng : Nat) (data : List Byte) (valid : Bool) : List Byte :=
  let b := natLE 4 step ++ natLE 4 (epochNow s) ++ natLE 4 ward ++ natLE 4 nrange ++ natLE 8 data.length ++ natLE 4 rng ++
    natLE 4 (b2n valid) ++ natLE 8 (shardDigest s ward data)
  padTo 64 (b ++ natLE 4 (crc32c b))

/-- STEP of the slot at `a`. -/
def slotStep (s : State) (a : Nat) : Nat := s.readN a 4
/-- The data of the slot at `a`. -/
def slotData (s : State) (a : Nat) : List Byte := s.read (a + 64) (s.readN (a + 0x10) 8)

/-- The slot at `a` is a valid copy of a ward whose CRC and DIGEST check (R380). -/
def slotGood (s : State) (ward a : Nat) : Bool :=
  bit (s.readN (a + 0x1C) 4) 0 && s.readN (a + 8) 4 % 2 ^ 14 == ward &&
  crc32c (s.read a 0x28) == s.readN (a + 0x28) 4 && shardDigest s ward (slotData s a) == s.readN (a + 0x20) 8

/-- The valid slot of a ward with the highest STEP (R380). -/
def bestSlot (s : State) (ward : Nat) : Option Nat :=
  let a := Config.wardSlot ward 0
  let b := Config.wardSlot ward 1
  match slotGood s ward a, slotGood s ward b with
  | true, true => some (if slotStep s a < slotStep s b then b else a)
  | true, false => some a
  | false, true => some b
  | false, false => none

/-- A refresh of copy slot `slot` of a ward on device `q` (R370, R382): the header with VALID = 0, the data checked, the header
with VALID = 1 and its RFLAG, whose flag is free (log 29). `old` of the operation keeps the slot's STEP. -/
def refreshSlot (s : State) (ward q slot step nrange rng : Nat) (data : List Byte) : State :=
  let a := globalAddr q (Config.wardSlot ward (slot % 2))
  let h := leadHalf s
  let ag := 0x3FD + h.val
  let flag := globalAddr q (regBase + 8 * (s.freeVal % 32768))
  let ps := putPackets s 0 ag a false false (slotHeader s ward step nrange rng data false) ++
    putPackets s 0 ag (a + 64) false true data ++
    putPackets s 0 ag a false false (slotHeader s ward step nrange rng data true) ++
    [(flag, mkPacket s ptFlagSet 2 ag flag false false [] [])]
  startFabOp s.used ⟨.dexca h, foPut, true, 0, a, data.length, 0, [], step⟩ ps

/-- A refresh of the slot that its step names (R370). -/
def refresh (s : State) (ward q step nrange rng : Nat) (data : List Byte) : State :=
  refreshSlot s ward q step step nrange rng data

/-- The shard set of this device as bytes (R368). -/
def shardBytes (s : State) : List Byte := s.dx.shards.flatMap (fun r => s.read r.1 r.2)

/-- Ranges that Dexca reads verified (R270); the answer says whether a block escalated. -/
def verifyRanges (s : State) (rs : List (Nat × Nat)) : State × Bool :=
  match rs with
  | [] => (s, false)
  | r :: rest =>
    let v := verifyRead s r.1 r.2
    let q := verifyRanges v.1 rest
    (q.1, v.2 || q.2)

/-- This device's own shard set, read and verified (R270), refreshed on its partner; with an escalated block nothing is sent
(R271). -/
def refreshOwn (s : State) (q slot step rng : Nat) : State :=
  let v := verifyRanges s s.dx.shards
  if v.2 then v.1 else refreshSlot v.1 (ownDev s) q slot step s.dx.shards.length rng (shardBytes s)

/-- The parameter shards of a job by INDEX, as device bits (R44). -/
def shardHolders (s : State) : List Nat :=
  ((armEnts s (armAddr s)).filter (fun x => x.role == 1 && x.onDevice)).map (fun x => refDev x.node)

/-- The shard of which a device holds a copy: the entries number R × S, and the copies of shard i have INDEX i, i + S, … . -/
def shardOf (s : State) (dev : Nat) : Option Nat :=
  let hs := shardHolders s
  let n := max 1 (hs.length / max 1 (s.rf .HLF_REPL_CFG_COPIES (leadHalf s).val))
  match (placesOf dev hs).head? with
  | none => none
  | some i => some (i % n)

/-- The judge of a device's shard: the holder with the lowest device bits (R404). -/
def judgeOf (s : State) (dev : Nat) : Nat :=
  let hs := (shardHolders s).filter (fun d => shardOf s d == shardOf s dev)
  (leastOf hs).getD dev

/-- The devices whose shard, held here, has no committed copy elsewhere, and BARE with them (R391). -/
def setBare (s : State) (ds : List Nat) : State :=
  { s with dx := { s.dx with bare := ds } }.wfBoth .HLF_PCOPY_STAT_BARE (b2n (!ds.isEmpty))

/-- The shard of a device, held here, loses its copy elsewhere. -/
def addBare (s : State) (d : Nat) : State := setBare s (s.dx.bare.filter (fun w => w != d) ++ [d])

/-- A refresh of the shard of `ward` for step `t` has committed on this device's partner (R370, R382): PSTEP, BARE, and, of its
own shard, the digest to the judge (R404). -/
def refreshDone (s : State) (ward t dg : Nat) : State :=
  let s := setBare (s.wfBoth .HLF_PCOPY_STAT_PSTEP t) (s.dx.bare.filter (fun w => w != ward))
  let s := if ward = ownDev s then { s with dx := { s.dx with optSince := false } } else s
  let every := s.rf .HLF_REPL_CFG_EVERY (leadHalf s).val
  if ward = ownDev s ∧ every ≠ 0 ∧ t % every = 0 ∧ 1 < s.rf .HLF_REPL_CFG_COPIES (leadHalf s).val then
    let j := judgeOf s (ownDev s)
    if j = ownDev s then { s with beat := { s.beat with notes := s.beat.notes ++ [(ownDev s, t, epochNow s, dg)] } }
    else sendMgmt s j { mrec s mkDigest 0 (ownDev s) 0 dg with step := t }
  else s

/-- The device whose copy slot on this device's partner a put names: its own, or one whose shard it has taken over (R368,
R382). -/
def slotWard (s : State) (x : FabOp) : Option Nat :=
  if x.code = foPut ∧ x.fails.isEmpty ∧ partnerOf s (ownDev s) = some (addrDev x.raddr) then
    (ownDev s :: s.dx.held).find? (fun w =>
      addrLocal x.raddr == Config.wardSlot w 0 || addrLocal x.raddr == Config.wardSlot w 1)
  else none

/-- A put of a core that has completed is the last step of a refresh: a header with VALID = 1 at a copy slot on its
partner. -/
def refreshPut (s : State) (x : FabOp) (ward : Nat) : State :=
  let hdr := s.read x.laddr 64
  if x.len = 64 ∧ bit (leNat ((hdr.drop 0x1C).take 4)) 0 then
    refreshDone s ward (leNat (hdr.take 4)) (leNat ((hdr.drop 0x20).take 8))
  else s

/-- A refresh that Dexca sent has completed; the shard set stands unchanged until then (R371). -/
def refreshSent (s : State) (x : FabOp) : State :=
  match slotWard s x with
  | some w => refreshDone s w x.old (shardDigest s (ownDev s) (shardBytes s))
  | none => s

/-! ### Failure notes (R374, R376, R377) -/

/-- The hall principal takes up a failure note (R376, R377). -/
def takeNote (s : State) (dev cause : Nat) : State :=
  if !hallFor s dev ∨ deviceGone s dev then s
  else if cause = 1 then declareDev s dev 1
  else if (aget? s.beat.probes dev).isSome then s
  else
    let s := { s with beat := { s.beat with probes := aset s.beat.probes dev cause } }
    sendControl s dev ptMgmt true (mrec s mkProbe 0 dev (beatNow s) 0).bytes

/-- A failure note about a device goes to the hall principal. -/
def sendNote (s : State) (dev cause highest : Nat) : State :=
  if epochNow s = 0 ∨ deviceGone s dev then s
  else if hallFor s dev then takeNote s dev cause
  else sendMgmt s (actingHall s (some dev)) (mrec s mkFailnote cause dev highest 0)

/-- FAILNOTE (R376). -/
def execFailnote (p : PortId) (pkt : Packet) (s : State) : Host.Outcome State Fault Refusal :=
  .next (takeControl s p pkt ptMgmt (fun s =>
    if (mrecOf pkt.payload).kind = mkFailnote then takeNote s (mrecOf pkt.payload).subject (mrecOf pkt.payload).cause else s))

/-- PROBE (R376): Dexca replies; a ranger that has stopped does not. -/
def execProbe (p : PortId) (pkt : Packet) (s : State) : Host.Outcome State Fault Refusal :=
  .next (takeControl s p pkt ptMgmt (fun s =>
    let m := mrecOf pkt.payload
    if m.kind = mkProbe ∧ !(s.half (leadHalf s)).rangerStopped ∧ !clockDead s (leadHalf s) 1 ∧ !s.rb .HLF_LEAD_STAT_FENCED (leadHalf s).val then
      sendMgmt s pkt.srcDev { mrec s mkProbeReply 0 (ownDev s) (beatNow s) 0 with seq := m.seq }
    else s))

/-- PROBE_REPLY (R376): the note was false. -/
def execProbeReply (p : PortId) (pkt : Packet) (s : State) : Host.Outcome State Fault Refusal :=
  .next (takeControl s p pkt ptMgmt (fun s =>
    let d := (mrecOf pkt.payload).subject
    if (mrecOf pkt.payload).kind = mkProbeReply ∧ (aget? s.beat.probes d).isSome then
      { s with beat := { s.beat with probes := adrop s.beat.probes (fun k => k == d) } }.incSat .HLF_HB_STAT_FALSE 1
        (leadHalf s).val
    else s))

/-- PROBE_TIMEOUT (R376): no reply within PROBE. -/
def execProbeTimeout (dev : Nat) (s : State) : Host.Outcome State Fault Refusal :=
  if (aget? s.beat.probes dev).isSome then
    .next (declareDev { s with beat := { s.beat with probes := adrop s.beat.probes (fun k => k == dev) } } dev 0)
  else .next s

/-- DECLARE (R376, R379). -/
def execDeclare (p : PortId) (pkt : Packet) (s : State) : Host.Outcome State Fault Refusal :=
  .next (takeControl s p pkt ptMgmt (fun s =>
    let m := mrecOf pkt.payload
    if m.kind = mkDeclare then declareHere (passDown s ptMgmt pkt.payload) m.subject m.cause m.beat else s))

/-- EXPEL_REQ (R462): cause 4, or 3 where a judge found an outlier (log 40). -/
def execExpelReq (p : PortId) (pkt : Packet) (s : State) : Host.Outcome State Fault Refusal :=
  .next (takeControl s p pkt ptMgmt (fun s =>
    let m := mrecOf pkt.payload
    if m.kind = mkExpelReq then declareDev s m.subject (if m.cause = 3 then 3 else 4) else s))

/-- A device expelled by the hall principal, here or on request. -/
def expel (s : State) (dev cause : Nat) : State :=
  if hallFor s dev then declareDev s dev cause
  else sendMgmt s (actingHall s (some dev)) (mrec s mkExpelReq (if cause = 3 then 3 else 0) dev 0 0)

/-- FAB_TIMEOUT (R290, R377): the packet of a tracker entry is given up, and its device noted. -/
def execFabTimeout (tag : Fin 1024) (s : State) : Host.Outcome State Fault Refusal :=
  match aget? s.fab.tracker tag.val with
  | none => .next s
  | some e => .next (sendNote (giveUpTag s tag.val) e.dev 2 (aget s.beat.watch e.dev 0))

/-! ### Heartbeats (R372 to R374) -/

/-- The devices that this one watches (R374). -/
def watchedBy (s : State) : List Nat :=
  let me := ownDev s
  let gp := groupPrincipal s (me / 64)
  let hall := actingHall s none
  (wardsOf s me ++ [gp] ++ (if gp = me then groupDevices s ++ [hall] else []) ++
    (if hall = me then groupPrincipals s else [])).eraseDups.filter (fun d => d != me)

/-- A heartbeat of a device noted: its highest beat and its score; one that declares itself failed is noted to the hall
principal. -/
def heartbeatArrives (s : State) (dev : Nat) (pl : List Byte) : State :=
  let b := dfld pl 0 63 0
  let s := { s with
    beat := { s.beat with
      watch := aset s.beat.watch dev (max b (aget s.beat.watch dev 0))
      noted := s.beat.noted.filter (fun d => d != dev) }
    dx := { s.dx with scores := aset s.dx.scores dev (dfld pl 0x18 7 0) } }
  if dbit pl 8 14 then sendNote s dev 1 (aget s.beat.watch dev 0) else s

/-- HEARTBEAT (R373, R374). -/
def execHeartbeat (p : PortId) (pkt : Packet) (s : State) : Host.Outcome State Fault Refusal :=
  .next (takeControl s p pkt ptHeartbeat (fun s =>
    if (watchedBy s).contains pkt.srcDev then heartbeatArrives s pkt.srcDev pkt.payload else s))

/-- WATCHER_CHECK at the fence of beat `b` (R374), for each watched device of a list. -/
def checkWatched (s : State) (b : Nat) (ds : List Nat) : State :=
  match ds with
  | [] => s
  | d :: rest =>
    let hi := aget s.beat.watch d 0
    let s := if hi + 2 < b ∧ !s.beat.noted.contains d ∧ !deviceGone s d then
        sendNote { s with beat := { s.beat with noted := d :: s.beat.noted } } d 0 hi
      else s
    checkWatched s b rest

/-- WATCHER_CHECK (R374): from the third beat after the load of a job on. -/
def watcherCheck (s : State) (b : Nat) : State :=
  if s.rb .HLF_HB_CFG_EN (leadHalf s).val ∧ s.beat.watchFrom ≠ 0 ∧ s.beat.watchFrom ≤ b ∧ epochNow s ≠ 0 then
    checkWatched s b (watchedBy s)
  else s

/-- WATCHDOG_EXPIRE (R372, R432). -/
def execWatchdogExpire (h : HalfId) (s : State) : Host.Outcome State Fault Refusal :=
  .next (raiseIrq (s.wf .HLF_HB_STAT_WDOG_EXP 1 h.val) h 511)

/-- KICK (R372, R391). -/
def execKick (a : Agent) (h : HalfId) (s : State) : Host.Outcome State Fault Refusal :=
  if isDexca a then .next (s.wf .HLF_HB_STAT_WDOG_EXP 0 h.val) else .next s.privFault

/-- The device declares itself failed (R377): its heartbeats carry SELFFAIL, and ALERT_N has its source (R543). -/
def selfFail (s : State) (h : HalfId) : State := (s.wf .HLF_HB_CTL_SELFFAIL 1 h.val).wf .MOD_ALERT_SELFFAIL 1

/-- SELFFAIL (R377, R391). -/
def execSelffail (a : Agent) (h : HalfId) (s : State) : Host.Outcome State Fault Refusal :=
  if isDexca a then .next (selfFail s h) else .next s.privFault

/-- FAILSET_CLEAR (R379, R391): accepted while no job is loaded. -/
def execFailsetClear (a : Agent) (h : HalfId) (s : State) : Host.Outcome State Fault Refusal :=
  if !isDexca a then .next s.privFault
  else if s.dx.job = jsEmpty then .next (s.resetRegs (fun f u _ => f == .HLF_FAILSET_FAILED && u == h.val))
  else .next s

/-! ### The fail-set (R379) -/

/-- The live tracker entries to a device are answered DEST_FAULT. -/
def failEntries (s : State) (es : List (Nat × FabEntry)) : State :=
  match es with
  | [] => s
  | (t, e) :: rest => failEntries (if aget? s.fab.tracker t = some e then answerTag s t e stDestFault 0 else s) rest

/-- Every chunk that this device owns closes if it has included all that will come. -/
def closeFull (s : State) (js : List (Nat × Nat)) : State :=
  match js with
  | [] => s
  | (id, j) :: rest => closeFull (closeIfFull s id j) rest

/-- The chunks of running collectives that this device owns. -/
def ownedChunks (s : State) : List (Nat × Nat) :=
  (s.fab.colls.filter (fun x => x.running && kdKind x.desc != ckGather && kdKind x.desc != ckPermute)).flatMap
    (fun x => (placesOf (ownDev s) x.owners).map (fun j => (x.id, j)))

/-- FAILSET_APPLY (R379): the bit of a device is set in both halves; what waits for it fails, and what it sent and has not
taken effect is gone. -/
def failsetApply (s : State) (dev : Nat) : State :=
  let n := dev / 64
  let s := s.wfBoth .HLF_FAILSET_FAILED (setBit (s.rf .HLF_FAILSET_FAILED 0 n) (dev % 64) true) n
  let s := { s with
    beat := { s.beat with declares := s.beat.declares.filter (fun x => x.1 != dev) }
    fab := { s.fab with
      store := s.fab.store.filter (fun x => x.2.2.srcDev != dev)
      collEarly := s.fab.collEarly.filter (fun x => x.2.srcDev != dev) } }
  let s := failEntries s (s.fab.tracker.filter (fun e => e.2.dev == dev))
  let s := pumpUnsent s s.fab.unsent
  closeFull s (ownedChunks s)

/-! ### Takeover (R380) -/

/-- The collective runs in the current step and device `dev` owns a chunk of it. -/
def losesOwner (s : State) (x : Coll) (dev : Nat) : Bool :=
  x.running && kdKind x.desc != ckPermute && x.step == s.rf .BEAT_STEP_STEP && x.owners.contains dev

/-- A collective with the chunks of a failed device moved to its partner's standby area (log 29). -/
def moveChunks (x : Coll) (dev p : Nat) : Coll :=
  { x with
    moved := (placesOf dev x.owners).foldl (fun m j => aset m j (Config.wardStandby dev)) x.moved
    owners := x.owners.map (fun d => if d = dev then p else d) }

/-- The contributions of this device to moved chunks sent once more (R380, step 3). -/
def resendTo (s : State) (id p : Nat) (prs : List (Nat × Nat)) : State :=
  match prs with
  | [] => s
  | (j, r) :: rest =>
    match findColl s id with
    | none => s
    | some x => resendTo (sendContrib s x ((kdValues s x.desc).getD []) r j p) id p rest

/-- The chunks of a failed device delivered from a copy that holds the step's update already (R380, step 2). -/
def deliverChunks (s : State) (id dev a : Nat) (js : List Nat) : State :=
  match js with
  | [] => s
  | j :: rest =>
    match findColl s id with
    | none => s
    | some x =>
      let ch := kdChunk x.desc j
      let b := kdBytes (if kdKind x.desc = ckGather then kdIfmt x.desc else kdOfmt x.desc)
      let bs := s.read (a + 64 + Config.wardChunk dev (kdCollId x.desc) j) ((ch.2 - ch.1) * b)
      let s := putColl s { x with closed := x.closed ++ [j] }
      deliverChunks (spreadChunk s x j (ch.1 * b) bs x.contribs.eraseDups) id dev a rest

/-- What the failure of `dev` means for one collective of this device. -/
def takeColl (s : State) (x : Coll) (dev p : Nat) (current : Bool) (a : Nat) : State :=
  if !losesOwner s x dev then s
  else
    let js := placesOf dev x.owners
    let s := putColl s (moveChunks x dev p)
    let own := p == ownDev s
    if own ∧ current then
      if kdKind x.desc = ckReduce then putColl s { moveChunks x dev p with closed := x.closed ++ js }
      else deliverChunks s x.id dev a js
    else if kdKind x.desc = ckGather then s
    else resendTo s x.id p (js.flatMap (fun j => (placesOf (ownDev s) x.contribs).map (fun r => (j, r))))

/-- The failure of a device taken over in every collective. -/
def takeColls (s : State) (xs : List Coll) (dev p : Nat) (current : Bool) (a : Nat) : State :=
  match xs with
  | [] => s
  | x :: rest => takeColls (takeColl s x dev p current a) rest dev p current a

/-- The parts of a failed device taken over from its copy at `a` (R380, steps 2 and 3): delivered where the copy holds the
step's update, else made by the takeover entry. -/
def takeParts (s : State) (dev a : Nat) : State :=
  if slotStep s a = s.rf .BEAT_STEP_STEP then takeColls s s.fab.colls dev (ownDev s) true a
  else
    let s := takeColls s s.fab.colls dev (ownDev s) false 0
    { s with nodeQ := aset s.nodeQ (.device, 0) (aget s.nodeQ (.device, 0) [] ++ [s.dx.takeover]) }

/-- The checked GETs of the shard-set ranges of a ward from device `m`, range `i` onward, to the data of the slot at `a`. -/
def outlierGets (s : State) (ward m a n i off : Nat) : List (Nat × Packet) :=
  match n with
  | 0 => []
  | n + 1 =>
    let r := Config.wardRange ward i
    getPackets s 0 (0x3FD + (leadHalf s).val) (globalAddr m r.1) (a + 64 + off) r.2 false true ++
      outlierGets s ward m a n (i + 1) (off + r.2)

/-- OUTLIER_REPLACE (R406): the copy of an expelled outlier is fetched from the majority holder (log 40) before the takeover
goes on. `old` of the operation keeps the ward. -/
def replaceOutlier (s : State) (dev a : Nat) : State :=
  let m := Config.majorityHolder (epochNow s) dev % 2 ^ 14
  startFabOp s ⟨.dexca (leadHalf s), foGet, true, a, globalAddr m 0, 0, 0, [], dev⟩ (outlierGets s dev m a (s.readN (a + 0x0C) 4) 0 0)

/-- A slot of a ward written on this device, with the CRC of each block that it covers whole (R268). -/
def writeSlot (s : State) (a : Nat) (bs : List Byte) : State :=
  writeCrcs (s.write a bs) ((blocksOf a bs.length).filter (fun b => decide (a ≤ b) && decide (b + 2048 ≤ a + bs.length)))

/-- The fetch of OUTLIER_REPLACE has ended (R406): both slots are written with VALID = 1, and the takeover goes on; where it
failed no good copy is left (R384). -/
def outlierFetched (s : State) (x : FabOp) : State :=
  let a := x.laddr
  let dev := x.old
  if x.fails.isEmpty then
    let data := slotData s a
    let hdr := slotHeader s dev (slotStep s a) (s.readN (a + 0x0C) 4) (s.readN (a + 0x18) 4) data true
    takeParts (writeSlot (writeSlot s (Config.wardSlot dev 0) (hdr ++ data)) (Config.wardSlot dev 1) (hdr ++ data)) dev a
  else askStop s 1 dev

/-- TAKEOVER (R380) at the fence of f: contributors send again to the partner, which takes the newest valid slot and posts
the takeover entry; with neither slot good the job stops (R384). The copy of an outlier is replaced first (R406). -/
def takeOver (s : State) (dev b : Nat) : State :=
  match partnerOf s dev with
  | none => s
  | some p =>
    let s := { s with beat := { s.beat with takeovers := s.beat.takeovers ++ [(dev, b)] } }
    if p ≠ ownDev s then takeColls s s.fab.colls dev p false 0
    else
      match bestSlot s dev with
      | none => askStop s 1 dev
      | some a =>
        let s := addBare { s with dx := { s.dx with held := s.dx.held ++ [dev] } } dev
        if s.beat.outliers.contains dev then replaceOutlier s dev a else takeParts s dev a

/-- A declared device fails at its fence (R379, R380): where it was this device's partner, its copies are gone (R382). -/
def failAt (s : State) (d b : Nat) : State :=
  let s := failsetApply s d
  takeOver (if partnerOf s (ownDev s) = some d then addBare s (ownDev s) else s) d b

/-- The declarations whose fence has come. -/
def applyDeclares (s : State) (b : Nat) (ds : List (Nat × Nat)) : State :=
  match ds with
  | [] => s
  | (d, f) :: rest => applyDeclares (if f ≤ b then failAt s d b else s) b rest

/-! ### Replica digests (R404, R405) -/

/-- DIGEST (R404). -/
def execDigest (p : PortId) (pkt : Packet) (s : State) : Host.Outcome State Fault Refusal :=
  .next (takeControl s p pkt ptMgmt (fun s =>
    let m := mrecOf pkt.payload
    if m.kind = mkDigest then
      { s with beat := { s.beat with notes := s.beat.notes ++ [(pkt.srcDev, m.step, m.epoch, m.arg)] } }
    else s))

/-- The digest that a strict majority of holders sent. -/
def majority (ns : List (Nat × Nat)) : Option Nat :=
  (ns.map Prod.snd).find? (fun v => decide (ns.length < 2 * (ns.filter (fun x => x.2 == v)).length))

/-- Every outlier is expelled (R405). -/
def expelAll (s : State) (ds : List Nat) : State :=
  match ds with
  | [] => s
  | d :: rest => expelAll (expel s d 3) rest

/-- The digests of one shard compared (R405). A tie that TIE only reports has no event of R464 (log 40). -/
def judgeShard (s : State) (ns : List (Nat × Nat)) : State :=
  match ns with
  | [] => s
  | n :: _ =>
    if ns.all (fun x => x.2 == n.2) then s
    else match majority ns with
      | some v => expelAll s ((ns.filter (fun x => x.2 != v)).map Prod.fst)
      | none => if s.rb .HLF_REPL_CFG_TIE (leadHalf s).val then s else askStop s 2 0

/-- The digests of each shard of a list compared. -/
def judgeShards (s : State) (ns : List (Nat × Nat)) (shs : List (Option Nat)) : State :=
  match shs with
  | [] => s
  | i :: rest => judgeShards (judgeShard s (ns.filter (fun x => shardOf s x.1 == i))) ns rest

/-- JUDGE_COMPARE (R404, R405): at the fence of the first beat of step t + 2. -/
def judge (s : State) : State :=
  let t := s.rf .BEAT_STEP_STEP
  let ns := (s.beat.notes.filter (fun x => x.2.1 + 2 == t && x.2.2.1 == epochNow s)).map (fun x => (x.1, x.2.2.2))
  let s := { s with beat := { s.beat with notes := s.beat.notes.filter (fun x => decide (t < x.2.1 + 2)) } }
  judgeShards s ns (ns.map (fun x => shardOf s x.1)).eraseDups

/-! ### The fence (R234) -/

/-- DT_SWITCH (R40): the distribution tables whose beat has come. -/
def switchTables (s : State) (b : Nat) : State :=
  let due := s.nextTables.filter (fun x => decide (x.2.beat ≤ b))
  let s := due.foldl (fun s x => s.setTable x.1 x.2) s
  { s with nextTables := s.nextTables.filter (fun x => !decide (x.2.beat ≤ b)) }

/-- PERMUTE_COPY (R327). -/
def permuteCopy (s : State) (cs : List (Nat × Nat × Nat)) : State :=
  match cs with
  | [] => { s with fab := { s.fab with permCopies := [] } }
  | (a, d, n) :: rest => permuteCopy (s.post (destHalf a) d (s.read a n)) rest

/-- The refreshes at an epoch that follows a takeover (R382): the promoted shard to its new partner, and this device's own
where its partner failed. -/
def refreshAfter (s : State) (old : Option Nat) (dev : Nat) (oldP : Option Nat) : State :=
  let me := ownDev s
  match partnerOf s me with
  | none => s
  | some q =>
    if oldP = some me then
      match bestSlot s dev with
      | none => s
      | some a => refresh s dev q (slotStep s a) (s.readN (a + 0x0C) 4) (s.readN (a + 0x18) 4) (slotData s a)
    else if old = some dev then
      refreshOwn s q (s.rf .BEAT_STEP_STEP - 1) (s.rf .BEAT_STEP_STEP - 1) (s.rf .BEAT_STEP_STEP)
    else s

/-- The refreshes for every device taken over. -/
def refreshAll (s : State) (old : Option Nat) (ds : List (Nat × Option Nat)) : State :=
  match ds with
  | [] => s
  | d :: rest => refreshAll (refreshAfter s old d.1 d.2) old rest

/-- EPOCH_SWITCH (R47, R382): the armed installation takes effect; an ARM_INSTALL ends OK. -/
def switchEpoch (s : State) (b : Nat) : State :=
  match s.beat.armed with
  | none => s
  | some (a, t) =>
    if b < t then s
    else if isHall s ∧ !allAcked s (s.readN (a + 4) 4) then cancelArm s
    else
      let old := partnerOf s (ownDev s)
      let gone := s.beat.takeovers.map (fun x => (x.1, partnerOf s x.1))
      let e := s.readN (a + 4) 4
      let s := permuteCopy s s.fab.permCopies
      let s := setRole (disarm ((s.wfBoth .COL_ARM_ADDR_ADDR a).wfBoth .COL_ARM_EPOCH_CURRENT e))
      let s := s.wfBoth .HLF_PCOPY_STAT_WARDS (min 4 (wardsOf s (ownDev s)).length)
      let s := noteHyper s (ownDev s :: wardsOf s (ownDev s))
      let s := { s with beat := { s.beat with takeovers := [], acks := [], outliers := [] } }
      endLong (refreshAll s old gone) opArmInstall 0

/-- The phases whose deadline is beat `b` close their collectives (R360): under drop, and under extend with no extension
left. -/
def closeAtFence (s : State) (b : Nat) (ps : List PhaseRun) : State :=
  match ps with
  | [] => s
  | p :: rest =>
    let go := p.opened && p.deadline == b && (p.policy == polDrop || (p.policy == polExtend && p.ext == p.extMax))
    closeAtFence (if go then closePhase s p.phase s.fab.colls else s) b rest

/-- The share of a traffic class among open phases, scaled so that the three sum to at most 192 (R362). -/
def shareOfClass (ps : List PhaseRun) (f : Nat × Nat × Nat → Nat) : Nat :=
  let m := fun (g : Nat × Nat × Nat → Nat) => (ps.map (fun p => g p.shares)).foldl max 0
  let sum := m (fun x => x.1) + m (fun x => x.2.1) + m (fun x => x.2.2)
  if 192 < sum then m f * 192 / sum else m f

/-- One of FAB_RSV0 to FAB_RSV2 in both halves. -/
def setShare (s : State) (i tc : Nat) (valid : Bool) (share : Nat) : State :=
  if valid then
    (((s.wfBoth .FAB_RSV_VALID 1 i).wfBoth .FAB_RSV_SHARE share i).wfBoth .FAB_RSV_TC tc i).wfBoth .FAB_RSV_JOB (jobTag s) i
  else s.wfBoth .FAB_RSV_VALID 0 i

/-- FABRIC_SHARE_REWRITE (R362). -/
def rewriteShares (s : State) : State :=
  let ps := s.beat.phases.filter (fun p => p.part && p.opened && !p.closed)
  let v := !ps.isEmpty
  let s := setShare s 0 0 v (shareOfClass ps (fun x => x.1))
  let s := setShare s 1 1 v (shareOfClass ps (fun x => x.2.1))
  setShare s 2 2 v (shareOfClass ps (fun x => x.2.2))

/-- At the fence of a step's first beat VEC_RNG_STEP takes the step's number (R177), and the sampling of k-blocks starts its
count again (R397); digests are compared (R404), and cores rotated (R410). -/
def firstFence (s : State) (b : Nat) : State :=
  if s.beat.started ∧ s.rf .BEAT_STEP_START = b then
    let s := s.wfBoth .VEC_RNG_STEP_STEP (s.rf .BEAT_STEP_STEP)
    rotateAll (judge { s with cores := s.cores.map (fun kv => (kv.1, { kv.2 with kStarted := 0 })) }) b allCores
  else s

/-- FLAG commands of every core whose turn has come. -/
def fenceFlags (s : State) (cs : List CoreId) : State :=
  match cs with
  | [] => s
  | c :: rest => fenceFlags (drainFlags s c (s.core c).ops.length) rest

/-- PAIR_MODE_APPLY (R147) in every grove. -/
def fencePairs (s : State) (gs : List GroveId) : State :=
  match gs with
  | [] => s
  | g :: rest => fencePairs (applyPairs s g) rest

/-- The fence of beat `b` (R234). -/
def beatFence (s : State) (b : Nat) : State :=
  let s := { s with fence := b }
  let s := fenceFlags s allCores
  let s := switchTables (fencePairs s allGroves) b
  let s := closeAtFence (switchEpoch s b) b s.beat.phases
  let s := firstFence (rewriteShares (releaseRotated s allCores)) b
  let s := applyDeclares (watcherCheck s b) b s.beat.declares
  drainAll s

/-- BEAT_FENCE (R234): one fence a beat. -/
def execBeatFence (s : State) : Host.Outcome State Fault Refusal :=
  if s.rb .BEAT_CFG_EN ∧ s.fence < beatNow s then .next (beatFence s (beatNow s)) else .next s

/-! ### The failover extension and the new epoch (R381, R382) -/

/-- FOEXT as R391 takes it. -/
def foExt (s : State) : Nat := let n := s.rf .HLF_FO_CFG_FOEXT (leadHalf s).val; if n = 0 then 4 else n

/-- Some takeover of the step is not complete. -/
def takingOver (s : State) : Bool := s.beat.takeovers.any (fun x => x.2 != 0)

/-- The hall principal shifts the step by `n` beats, or stops the job past FOEXT (R381, R384). -/
def grantShift (s : State) (f n : Nat) : State :=
  if foExt s < s.beat.foBeats + n then stopJob s 3 ((s.beat.takeovers.map Prod.fst).headD 0)
  else applyShift (sendFromHall s ptBeatMark (BMark.bytes ⟨bmShift, 0, n, false, 0, f, 0, 0⟩)) n

/-- FAILOVER_EXTENSION (R381): the first grant makes the next step start on a multiple of four; while a takeover is
incomplete one beat before the extended start, four more beats follow. -/
def execFailoverExtension (s : State) : Host.Outcome State Fault Refusal :=
  if !isHall s ∨ !takingOver s ∨ !s.beat.started then .next s
  else match s.beat.shiftDue with
    | some f => if f ≤ beatNow s then .next (grantShift s f (4 - s.beat.nextStep % 4)) else .next s
    | none => if s.beat.foBeats ≠ 0 ∧ s.beat.nextStep ≤ beatNow s + 1 then .next (grantShift s (beatNow s) 4) else .next s

/-- The start of the next step on a multiple of four, where a new epoch may begin: a shift not yet granted will move it there
(R50, R381, R382). -/
def epochStart (s : State) : Nat :=
  let n := s.beat.nextStep
  if s.beat.shiftDue.isSome then n + (4 - n % 4) else (n + 3) / 4 * 4

/-- TAKEOVER_COMPLETE (R382): every takeover of the step has completed; the hall principal installs the next epoch. -/
def execTakeoverComplete (s : State) : Host.Outcome State Fault Refusal :=
  if !takingOver s then .next s
  else
    let ds := s.beat.takeovers.map Prod.fst
    let s := { s with beat := { s.beat with takeovers := s.beat.takeovers.map (fun x => (x.1, 0)) } }
    let b := epochStart s
    if isHall s ∧ s.beat.armed.isNone then .next (installArm s b (failoverArm s b ds)) else .next s

/-! ### Risk (R386 to R388) -/

/-- A sub-score: zero at its floor, 255 at its ceiling, clamped, rounded down (log 41). -/
def subScore (v floor ceil : Nat) : Nat := min 255 ((v - floor) * 255 / (ceil - floor))

/-- The score of this device (R386). -/
def deviceScore (s : State) (m : RiskInputs) : Nat :=
  let w := fun i => s.dx.weights.getD i 16
  min 255 ((subScore m.correctable 10 10000 * w 0 + subScore m.drift 2000 8000 * w 1 + subScore m.hottest 95 105 * w 2 +
    subScore m.retrains 1 100 * w 3 + subScore m.lateness 1 100 * w 4) / 16)

/-- The pairs of a job with their scores (R387). -/
def pairScores (s : State) : List (Nat × Nat × Nat × Bool) :=
  ((armEnts s (armAddr s)).filter (fun x => x.onDevice && x.partner != 0)).map (fun x =>
    let d := refDev x.node
    let p := refDev x.partner
    let a := aget s.dx.scores d 0
    let b := aget s.dx.scores p 0
    (if x.corr then max a b else min a b, d, p, x.corr))

/-- The first pair with the highest score. -/
def topPairOf (ps : List (Nat × Nat × Nat × Bool)) : Nat × Nat × Nat × Bool :=
  match ps with
  | [] => (0, 0, 0, false)
  | p :: rest => let q := topPairOf rest; if q.1 ≤ p.1 then p else q

/-- RISK_SCORE (R386 to R388): λ rises at once, and falls by one after a day below its band. -/
def execRiskScore (m : RiskInputs) (s : State) : Host.Outcome State Fault Refusal :=
  let sc := m.others.foldl (fun t x => aset t x.1 (x.2 % 256)) s.dx.scores
  let s := { s with dx := { s.dx with scores := aset sc (ownDev s) (deviceScore s m) } }
  let top := if epochNow s = 0 then (0, 0, 0, false) else topPairOf (pairScores s)
  let want := top.1 / 64
  let now := s.dx.level
  let lv := if now < want then want else if want < now ∧ m.dayBelow then now - 1 else now
  let s := { s with dx := { s.dx with level := lv, topPair := (top.2.1, top.2.2.1), topScore := top.1 } }
  if lv = now then .next s
  else .next (postEvent s (leadHalf s) evRiskLevel [lv, top.2.1 + top.2.2.1 * 2 ^ 16])

/-! ### Repair (R378) -/

/-- A block lies in this device's shard set. -/
def inShards (s : State) (b : Nat) : Bool := s.dx.shards.any (fun r => decide (r.1 ≤ b) && decide (b < r.1 + r.2))

/-- The block has been repaired within the last 24 hours, as the beats since then tell (R378). -/
def repairedToday (s : State) (b : Nat) : Bool :=
  match aget? s.dx.repaired b with
  | some n => decide ((beatNow s - n) * beatPeriod s ≤ 86400 * 10 ^ 6)
  | none => false

/-- BLOCK_REPAIR (R378): an escalated block is fetched from the partner's committed slot and written checked, or the device
declares itself failed. -/
def execBlockRepair (addr : Nat) (partnerData : List Byte) (s : State) : Host.Outcome State Fault Refusal :=
  let b := blockOf addr
  let h := leadHalf s
  if !inTier b 2048 ∨ rangeBusy s b 2048 then .next s
  else if inShards s b ∧ !s.dx.optSince ∧ !repairedToday s b then
    let s := (s.write b (padTo 2048 partnerData)).setCrc b (crc32c (padTo 2048 partnerData))
    let s := { s with dx := { s.dx with repaired := aset s.dx.repaired b (beatNow s) } }
    .next (postEvent (s.incSat .HLF_HB_STAT_REPAIR 1 h.val) h evMemError [b % 2 ^ 32, b / 2 ^ 32, 0])
  else .next (postEvent (selfFail s h) h evMemError [b % 2 ^ 32, b / 2 ^ 32, 1])

end Sys2Proof.Machine
end

