-- ==== Sys2Proof/Machine/Supply.lean ====
section
/-!
DEFINITION. The module's supplies, resets and standby domain (R527 to R532, R538, R543), and the cadence bypass (R544, R545).
-/

namespace Sys2Proof.Machine

/-- The module block replaced. -/
def State.setMod (s : State) (m : Module) : State := { s with mod := m }

/-! ### Reset (R529, R544) -/

/-- Module reset asserted (R14, R529, R548): both halves, the token logic and the plinths are reset, and the standby domain and the
fuses stay. An open cadence bypass closes, and CLOSES takes its reset value like every other field (log 45). The commands that
wait stay, as does the count of free values used. -/
def assertReset (s : State) : State :=
  let r : State := { State.reset with
    pending := s.pending, fresh := s.fresh, mod := { s.mod with inReset := true },
    sec := { Sec.reset with revoked := s.sec.revoked, minsvn := s.sec.minsvn, lc := s.sec.lc, keyGone := s.sec.keyGone } }
  (((r.wfBoth .SEC_LC_STATE s.sec.lc).wfBoth .SEC_LC_NEXT s.sec.lc).wfBoth .SEC_LC_MINSVN s.sec.minsvn).wfBoth
    .SEC_LC_REVOKED s.sec.revoked

/-- The main stages are removed with a shutdown cause (R528, R532, R538): module reset is asserted and the rails fall. -/
def trip (s : State) (cause : Nat) : State :=
  if s.mod.stages then
    let r := assertReset s
    r.setMod { r.mod with stages := false, rails := false, tripped := true, cause := cause }
  else s

/-- The main stages are enabled where R528 allows. -/
def enableStages (m : Module) : Module := if m.mainIn && m.auxIn && !m.tripped then { m with stages := true } else m

/-- MAIN_INPUT_RISE (R528). -/
def execMainInputRise (s : State) : Host.Outcome State Fault Refusal :=
  .next (s.setMod (enableStages { s.mod with mainIn := true }))

/-- RAILS_GOOD (R530). -/
def execRailsGood (s : State) : Host.Outcome State Fault Refusal :=
  if s.mod.stages then .next (s.setMod { s.mod with rails := true }) else .next s

/-- MAIN_INPUT_FAULT (R528, R532, R538): undervoltage or overvoltage. -/
def execMainInputFault (high : Bool) (s : State) : Host.Outcome State Fault Refusal :=
  let s := trip s (if high then 2 else 1)
  .next (s.setMod { s.mod with mainIn := false })

/-- POWER_EXCURSION_TRIP (R528). -/
def execPowerExcursionTrip (s : State) : Host.Outcome State Fault Refusal := .next (trip s 3)
/-- RAIL_FAULT_TRIP (R528). -/
def execRailFaultTrip (s : State) : Host.Outcome State Fault Refusal := .next (trip s 4)
/-- THERMAL_TRIP (R535). -/
def execThermalTrip (s : State) : Host.Outcome State Fault Refusal := .next (trip s 5)

/-- AUX_LOSS (R528, R538, R544): the standby domain and the main stages lose their supply, and the cadence bypass falls
closed. -/
def execAuxLoss (s : State) : Host.Outcome State Fault Refusal :=
  if s.mod.auxIn then
    let failed := s.mod.stages
    let s := trip s 6
    .next (s.setMod { s.mod with auxIn := false, auxFailed := failed })
  else .next s

/-- AUX_RETURN (R528, R538): the standby domain starts with cause 0x06 where the auxiliary input failed while the main stages
were on, and with none otherwise; the main stages may be enabled again. -/
def execAuxReturn (s : State) : Host.Outcome State Fault Refusal :=
  if s.mod.auxIn then .next s
  else .next (s.setMod (enableStages { s.mod with
    auxIn := true, tripped := false, auxFailed := false, cause := if s.mod.auxFailed then 6 else 0 }))

/-- SHUTDOWN_CAUSE_READ (R538). -/
def execShutdownCauseRead (s : State) : Host.Outcome State Fault Refusal :=
  .next { s with reply := if s.mod.auxIn then .value s.mod.cause else .none }

/-- SHUTDOWN_CAUSE_CLEAR (R528, R538): value 0xA5 clears the cause and re-enables the main stages if allowed. -/
def execShutdownCauseClear (value : Nat) (s : State) : Host.Outcome State Fault Refusal :=
  if s.mod.auxIn ∧ value = 0xA5 then .next (s.setMod (enableStages { s.mod with tripped := false, cause := 0 })) else .next s

/-- PERST_N_ASSERT (R529). -/
def execPerstNAssert (s : State) : Host.Outcome State Fault Refusal :=
  let s := if s.mod.inReset then s else assertReset s
  .next (s.setMod { s.mod with perst := false })

/-- PERST_N_RELEASE (R529, R531). -/
def execPerstNRelease (s : State) : Host.Outcome State Fault Refusal := .next (s.setMod { s.mod with perst := true })

/-- MODULE_RESET_RELEASE (R469, R502, R529, R541): module reset ends once PERST_N is high and the rails are good; LEAD_SEL gives
the lead token, and FEED_ID is sampled. -/
def execModuleResetRelease (feedPins : Nat) (leadSel : Bool) (s : State) : Host.Outcome State Fault Refusal :=
  if s.mod.inReset ∧ s.mod.perst ∧ s.mod.rails ∧ !s.mod.tripped then
    let l := b2n leadSel
    let s := s.setMod { s.mod with inReset := false }
    let s := ((s.wfBoth .HLF_LEAD_STAT_STRAP l).wfBoth .HLF_LEAD_STAT_LEAD l).wf .HLF_LEAD_STAT_MINE (1 - l) 0
    .next ((s.wf .HLF_LEAD_STAT_MINE l 1).wf .MOD_FEED_FEED feedPins)
  else .next s

/-- ALERT_N is asserted (R543). -/
def alertN (s : State) : Bool :=
  (s.mod.auxIn && s.mod.cause != 0) ||
  (bit (s.rf .MOD_ALERT_EN) 0 && s.rb .MOD_ALERT_HOT) || (bit (s.rf .MOD_ALERT_EN) 1 && s.rb .MOD_ALERT_POWER) ||
  (bit (s.rf .MOD_ALERT_EN) 2 && s.rb .MOD_ALERT_THROTTLE) || (bit (s.rf .MOD_ALERT_EN) 3 && s.rb .MOD_ALERT_SELFFAIL)

/-- The first 40 bytes of the module EEPROM (R542): the orderable number, the serial, the build date, the stepping and their
CRC. -/
def eepromHeader : List Byte :=
  let b : List Byte := [0x47, 0x4D, 0x53, 0x2D, 0x49, 0x4B, 0x54, 0x32, 0x2D, 0x41, 0, 0, 0, 0, 0, 0] ++
    natLE 8 Config.serial ++ natLE 8 Config.buildDate ++ natLE 4 0xB0
  b ++ natLE 4 (crc32c b)

/-- The certificate chain of the EEPROM, leaf first (R476, R542). -/
def certChain : List Byte := (List.range (min 4096 Config.certLength)).map (fun i => BitVec.ofNat 8 (Config.certByte i))

/-! ### The cadence bypass (R544, R545) -/

/-- CAD_REGEN_WRITE (R544, R547): Dexca alone writes REGEN. -/
def execCadRegenWrite (a : Agent) (regen : Bool) (s : State) : Host.Outcome State Fault Refusal :=
  if isDexca a then .next (s.wf .MOD_CAD_REGEN (b2n regen)) else .next s.privFault

/-- CAD_REGEN_APPLY (R545): the bypass opens while the module is out of reset and REGEN is 1, and otherwise closes, each closure
counted. -/
def execCadRegenApply (s : State) : Host.Outcome State Fault Refusal :=
  let opn := s.rb .MOD_CAD_REGEN && !s.mod.inReset && s.mod.auxIn
  let s := if s.rb .MOD_CAD_OPEN ∧ !opn then s.incSat .MOD_CAD_CLOSES else s
  .next (s.wf .MOD_CAD_OPEN (b2n opn))

end Sys2Proof.Machine
end

