-- ==== Sys2Proof/Machine/Clock.lean ====
section
/-!
DEFINITION. Reference sources, PLLs, spread, multiplexers, domain resets and the frequency monitor (R486 to R498).
-/

namespace Sys2Proof.Machine

/-! ### Status bits -/

/-- Bit `i` of a field of CLK_STAT of a half set to `b`. -/
def clkBit (s : State) (f : Fld) (h : HalfId) (i : Nat) (b : Bool) : State := s.wf f (setBit (s.rf f h.val) i b) h.val

/-- The reference of a PLL (R488): PLL 1 takes the oscillator only. -/
def pllRef (s : State) (h : HalfId) (n : PllId) : RefClk :=
  if n = 1 ∨ !s.rb .CLK_PLL_CFG_REF h.val n.val then .osc else .pcie

/-- ERR of a PLL set. -/
def pllErr (s : State) (h : HalfId) (n : PllId) : State := s.wf .CLK_PLL_CFG_ERR 1 h.val n.val

/-- A job runs on the device. -/
def jobRuns (s : State) : Bool := s.dx.job == jsRunning

/-! ### Start-up (R486) -/

/-- OSC_AMPLITUDE_LOW (R486): the stability count restarts from zero. -/
def execOscAmplitudeLow (s : State) : Host.Outcome State Fault Refusal :=
  if s.clk.oscCount < 65536 then .next { s with clk := { s.clk with oscCount := 0 } } else .next s

/-- A PLL started: it awaits its lock (R489). -/
def startLock (s : State) (h : HalfId) (n : PllId) : State :=
  (clkBit s .CLK_STAT_LOCK h n.val false).setPll h n { s.pll h n with locking := true }

/-- Every PLL of a half started. -/
def startPlls (s : State) (h : HalfId) : State := startLock (startLock (startLock (startLock s h 0) h 1) h 2) h 3

/-- OSCILLATOR_STABLE (R486): the count completes after module reset is released, and the PLLs start. -/
def execOscillatorStable (s : State) : Host.Outcome State Fault Refusal :=
  if !s.mod.inReset ∧ s.clk.oscCount < 65536 then
    .next (startPlls (startPlls { s with clk := { s.clk with oscCount := 65536 } } 0) 1)
  else .next s

/-! ### Multiplexers (R494 to R496, R498) -/

/-- A multiplexer passes source `sel`; a ranger's clock that runs again shows its latched edges (R435). -/
def muxPass (s : State) (h : HalfId) (d : MuxId) (sel : Nat) : State :=
  let s := ({ s with clk := { s.clk with mux := aset s.clk.mux (h, d) sel } }.wf .CLK_MUX_SEL sel h.val d.val).wf .CLK_MUX_BUSY 0
    h.val d.val
  if d = 1 then clockBack s h else s

/-- A SEL value of R494. -/
def selGood (d : MuxId) (sel : Nat) : Bool := sel == 0 || sel == 2 || (sel == 1 && decide (d.val ≤ 1))

/-- ERR of a multiplexer set. -/
def muxErr (s : State) (h : HalfId) (d : MuxId) : State := s.wf .CLK_MUX_ERR 1 h.val d.val

/-- Dexca, or the ranger of the other half (R498, R510). -/
def dexcaOrPeer (a : Agent) (h : HalfId) : Bool := isDexca a || isRanger a (otherHalf h)

/-- MUX_SELECT (R494, R495). -/
def execMuxSelect (a : Agent) (h : HalfId) (d : MuxId) (sel : Fin 4) (s : State) : Host.Outcome State Fault Refusal :=
  if !dexcaOrPeer a h then .next s.privFault
  else if !selGood d sel.val ∨ s.rb .CLK_MUX_BUSY h.val d.val then .next (muxErr s h d)
  else if sel.val = muxCur s h d then .next s
  else .next ((s.wf .CLK_MUX_SEL sel.val h.val d.val).wf .CLK_MUX_BUSY 1 h.val d.val)

/-- MUX_SWITCH_DONE (R495, R496): the handshake completes while both clocks run. -/
def execMuxSwitchDone (h : HalfId) (d : MuxId) (s : State) : Host.Outcome State Fault Refusal :=
  let sel := s.rf .CLK_MUX_SEL h.val d.val
  if s.rb .CLK_MUX_BUSY h.val d.val ∧ srcRuns s h (muxCur s h d) ∧ srcRuns s h sel then .next (muxPass s h d sel) else .next s

/-- MUX_HANG (R498): source 385. -/
def execMuxHang (h : HalfId) (d : MuxId) (s : State) : Host.Outcome State Fault Refusal :=
  if s.rb .CLK_MUX_BUSY h.val d.val then .next (raiseIrq (clkBit s .CLK_STAT_HANG h d.val true) h 385) else .next s

/-- FORCE_SWITCH (R494, R498): accepted while the domain is held in reset. -/
def execForceSwitch (a : Agent) (h : HalfId) (d : MuxId) (sel : Fin 4) (s : State) : Host.Outcome State Fault Refusal :=
  if !dexcaOrPeer a h then .next s.privFault
  else if !selGood d sel.val ∨ !bit (s.rf .PWR_DOM_RST_HOLD h.val) d.val then .next (muxErr s h d)
  else .next (muxPass s h d sel.val)

/-- Every domain of a half on source `sel`. -/
def muxAll (s : State) (h : HalfId) (sel : Nat) : State :=
  muxPass (muxPass (muxPass (muxPass (muxPass s h 0 sel) h 1 sel) h 2 sel) h 3 sel) h 4 sel

/-! ### PLLs (R488 to R493) -/

/-- PLL_LOCK (R469, R488, R491): the PLL leaves coast for its configured frequency. As the fourth PLL of a half locks for the
first time, the plinth moves the domains to their PLLs and the self-test starts. -/
def execPllLock (h : HalfId) (n : PllId) (failed : List CoreId) (s : State) : Host.Outcome State Fault Refusal :=
  let x := s.pll h n
  if x.locking ∧ !refLost s h (pllRef s h n) then
    let s := s.setPll h n { x with locking := false, cur := s.rf .CLK_PLL_CFG_FBDIV h.val n.val }
    let s := memoryFree (clkBit (clkBit s .CLK_STAT_LOCK h n.val true) .CLK_STAT_COAST h n.val false)
    if bootStage s h = bsReset ∧ s.rf .CLK_STAT_LOCK h.val = 15 then .next (muxAll (selftestStart s h failed) h 2) else .next s
  else .next s

/-- A PLL that has not locked coasts (R489). -/
def pllFailed (s : State) (h : HalfId) (n : PllId) : State :=
  raiseIrq (pllErr (clkBit (clkBit s .CLK_STAT_COAST h n.val true) .CLK_STAT_LOCK h n.val false) h n) h 384

/-- PLL_LOCK_TIMEOUT (R489): before RUN the plinth starts a failed PLL once more, and halts if it fails again; while a job runs
the device declares itself failed. -/
def execPllLockTimeout (h : HalfId) (n : PllId) (s : State) : Host.Outcome State Fault Refusal :=
  let x := s.pll h n
  if x.locking then
    let s := pllFailed s h n
    if bootStage s h = bsRun then
      let s := s.setPll h n { x with locking := false, fails := x.fails + 1 }
      .next (if jobRuns s then selfFail s h else s)
    else if x.fails = 0 then .next (s.setPll h n { x with fails := 1 })
    else
      let s := muxAll (s.setPll h n { x with locking := false, fails := x.fails + 1 }) h 0
      .next ((s.wf .SEC_BOOT_STAT_CAUSE 12 h.val).wf .SEC_BOOT_STAT_STAGE bsHalt h.val)
  else .next s

/-- Every port of a half that is not DOWN goes DOWN. -/
def portsDown (s : State) (ps : List PortId) : State :=
  match ps with
  | [] => s
  | p :: rest => portsDown (if portState s p = psDown then s else portDown s p) rest

/-- PLL_COAST (R490): a PLL whose reference is lost; the ports of a half lose a coasting fabric PLL, and the device declares
itself failed on a coasting HBM or LPDDR PLL, which leaves nothing guaranteed of what the half's stacks or packages hold. -/
def coast (s : State) (h : HalfId) (n : PllId) : State :=
  let s := s.setPll h n { s.pll h n with locking := false }
  let s := raiseIrq (clkBit (clkBit s .CLK_STAT_COAST h n.val true) .CLK_STAT_LOCK h n.val false) h 384
  if n = 1 then portsDown s (portsOfHalf h)
  else if n = 2 then selfFail (s.loseMem (inHbmHalf h)) h
  else if n = 3 then selfFail (s.loseMem (inLpxHalf h)) h
  else s

/-- The PLLs of a list that take a reference coast. -/
def coastAll (s : State) (h : HalfId) (r : RefClk) (ns : List PllId) : State :=
  match ns with
  | [] => s
  | n :: rest => coastAll (if pllRef s h n = r then coast s h n else s) h r rest

/-- REF_LOSS (R487, R490): source 391. A loss is detected only after the stability count. -/
def execRefLoss (h : HalfId) (r : RefClk) (s : State) : Host.Outcome State Fault Refusal :=
  if refLost s h r ∨ s.clk.oscCount < 65536 then .next s
  else
    let s := { s with clk := { s.clk with lost := (h, r) :: s.clk.lost } }
    let s := match r with
      | .osc => s.wf .CLK_STAT_XOLOSS 1 h.val
      | .pcie => s.wf .CLK_STAT_RCLOSS 1 h.val
    .next (coastAll (raiseIrq s h 391) h r [0, 1, 2, 3])

/-- REF_RETURN (R487): the loss bit stays. -/
def execRefReturn (h : HalfId) (r : RefClk) (s : State) : Host.Outcome State Fault Refusal :=
  if refLost s h r then
    let s := clockBack { s with clk := { s.clk with lost := s.clk.lost.filter (fun x => x != (h, r)) } } h
    match r with
    | .osc => .next (s.wf .CLK_STAT_XOOK 1 h.val)
    | .pcie => .next (s.wf .CLK_STAT_RCOK 1 h.val)
  else .next s

/-- Dexca, or the plinth of the half before Dexca runs (R488, R510). -/
def clkWriter (s : State) (a : Agent) (h : HalfId) : Bool := isDexca a || (a == .plinth h && !bootLocked s h)

/-- RELOCK = 1 (R491): ignored with ERR while the reference is lost. -/
def relock (s : State) (h : HalfId) (n : PllId) : State :=
  if refLost s h (pllRef s h n) then pllErr s h n else startLock s h n

/-- RELOCK (R491, R510). -/
def execRelock (a : Agent) (h : HalfId) (n : PllId) (s : State) : Host.Outcome State Fault Refusal :=
  if clkWriter s a h then .next (relock s h n) else .next s.privFault

/-- A configuration that R488 allows: the VCO from 3.2 to 7.2 GHz, and a POSTDIV of 2, 4, 8 or 16. -/
def pllGood (fb pd : Nat) : Bool := decide (128 ≤ fb) && decide (fb ≤ 288) && [2, 4, 8, 16].contains pd

/-- The configuration fields of a PLL written. -/
def pllFields (s : State) (h : HalfId) (n : PllId) (fb pd rf : Nat) : State :=
  ((s.wf .CLK_PLL_CFG_FBDIV fb h.val n.val).wf .CLK_PLL_CFG_POSTDIV pd h.val n.val).wf .CLK_PLL_CFG_REF rf h.val n.val

/-- A configuration write (R488, R492): a write of FBDIV of the core PLL alone slews; any other change relocks, and of the core
PLL only while the core and ranger domains are switched away from it. PLLs 1 to 3 are locked by the boot lock. -/
def pllConfig (s : State) (h : HalfId) (n : PllId) (fb pd rf : Nat) : State :=
  let same := pd == s.rf .CLK_PLL_CFG_POSTDIV h.val n.val && (n == 1 || rf == s.rf .CLK_PLL_CFG_REF h.val n.val)
  if n ≠ 0 ∧ bootLocked s h then s
  else if !pllGood fb pd then pllErr s h n
  else if same ∧ (n = 0 ∨ fb = s.rf .CLK_PLL_CFG_FBDIV h.val n.val) then s.wf .CLK_PLL_CFG_FBDIV fb h.val n.val
  else if n = 0 ∧ (muxCur s h 0 = 2 ∨ muxCur s h 1 = 2) then pllErr s h n
  else startLock (pllFields s h n fb pd rf) h n

/-- PLL_CONFIG_WRITE (R488, R491, R492, R510): a write of the whole register; ERR is cleared by a one before what the write
does. -/
def execPllConfigWrite (a : Agent) (h : HalfId) (n : PllId) (value : Nat) (s : State) : Host.Outcome State Fault Refusal :=
  if clkWriter s a h then
    let s := if bit value 31 then s.wf .CLK_PLL_CFG_ERR 0 h.val n.val else s
    let s := pllConfig s h n (bits value 7 0) (bits value 12 8) (bits value 29 29)
    .next (if bit value 30 then relock s h n else s)
  else .next s.privFault

/-- FBDIV_SLEW_STEP (R492): a locked core PLL moves one step toward FBDIV. -/
def execFbdivSlewStep (h : HalfId) (s : State) : Host.Outcome State Fault Refusal :=
  let x := s.pll h 0
  let t := s.rf .CLK_PLL_CFG_FBDIV h.val 0
  if bit (s.rf .CLK_STAT_LOCK h.val) 0 then
    .next (s.setPll h 0 { x with cur := if x.cur < t then x.cur + 1 else if t < x.cur then x.cur - 1 else t })
  else .next s

/-- SSC_WRITE (R493, R510): a write to CLK_SSC1 is ignored. -/
def execSscWrite (a : Agent) (h : HalfId) (n : PllId) (value : Nat) (s : State) : Host.Outcome State Fault Refusal :=
  if !clkWriter s a h then .next s.privFault
  else if n = 1 then .next s
  else
    let s := (s.wf .CLK_SSC_RATE (bits value 13 8) h.val n.val).wf .CLK_SSC_DEPTH (bits value 4 0) h.val n.val
    .next (s.setPll h n { s.pll h n with sscWaits := true })

/-- SSC_APPLY (R493): the new spread takes effect, each setting within its range. -/
def execSscApply (h : HalfId) (n : PllId) (s : State) : Host.Outcome State Fault Refusal :=
  let x := s.pll h n
  if x.sscWaits then
    .next (s.setPll h n { x with
      sscWaits := false
      depth := min 20 (s.rf .CLK_SSC_DEPTH h.val n.val)
      rate := max 25 (min 50 (s.rf .CLK_SSC_RATE h.val n.val)) })
  else .next s

/-! ### Domain resets (R498) -/

/-- The registers of a scope and unit back at their reset values. -/
def resetScope (s : State) (sc : RScope) (u : Nat) : State := s.resetRegs (fun f i _ => f.info.reg.info.scope == sc && i == u)

/-- The state that a reset leaves a core in (R211): one that was under disable, or Disabled, is Active again, except a core that failed to
prove itself clear (R250). -/
def nodeAfterReset (s : State) (c : CoreId) : NodeSt :=
  match (s.core c).node with
  | .closing => .active
  | .disabled => if s.rb .CORE_WAKE_STAT_VFAIL c.val then .disabled else .active
  | k => k

/-- A core reset with its domain (R211, R227, R498): the flags that its contexts own are poisoned with cause 0b001, its contexts wait
on nothing, and its engines hold nothing. What its memories then hold is left open (log 46). -/
def resetCore (s : State) (c : CoreId) : State :=
  let owned := allCtxs.flatMap (fun n => ownedBy s c n)
  let node := nodeAfterReset s c
  let num := (s.core c).nextNum
  let s := poisonFlags s owned (srcRanger s (halfOfCore c)) 1
  let s := allCtxs.foldl (fun t n => leaveFlags t c n) s
  let s := { s with dx := { s.dx with
    echo := s.dx.echo.filter (fun e => e.2.src != c), surveys := adrop s.dx.surveys (fun k => k == c) } }
  (resetScope s .core c.val).setCore c { CoreSt.reset with node := node, nextNum := num }

/-- Cores of a list reset. -/
def resetCores (s : State) (cs : List CoreId) : State :=
  match cs with
  | [] => s
  | c :: rest => resetCores (resetCore s c) rest

/-- A node of a half at or below it. -/
def nodeInHalf (h : HalfId) (nd : NodeId) : Bool :=
  match nd with
  | .core c => halfOfCore c == h
  | .grove g => halfOfGrove g == h
  | .half k => k == h
  | _ => false

/-- An address of glade or of a scratchpad of a half. -/
def inCoreDomain (h : HalfId) (a : Nat) : Bool :=
  (decide (gladeBase h ≤ a) && decide (a < gladeBase h + gladeSize)) ||
  (coresOfHalf h).any (fun c => decide (scratchBase c ≤ a) && decide (a < scratchBase c + scratchSize))

/-- The dispatcher of a grove reset (R211, R213): one under disable, or Disabled, is Active again. -/
def groveAfterReset (h : HalfId) (g : GroveId × NodeSt) : GroveId × NodeSt :=
  (g.1, if halfOfGrove g.1 = h ∧ (g.2 = .closing ∨ g.2 = .disabled) then .active else g.2)

/-- The CORE domain of a half reset: its cores, its dispatchers with their entries, and its collective sequencer. What its
scratchpads and glade hold is free (log 46). -/
def resetCoreDomain (s : State) (h : HalfId) : State :=
  let s := ((resetCores s (coresOfHalf h)).loseMem (inCoreDomain h)).resetRegs (fun f u _ => f.info.reg == .GRV_DIS_CTL && u / 5 == h.val)
  { s with
    groveSt := s.groveSt.map (groveAfterReset h)
    waiting := adrop s.waiting (fun g => halfOfGrove g == h)
    entries := s.entries.filter (fun e => !nodeInHalf h e.2.node)
    fab := { s.fab with colls := s.fab.colls.filter (fun x => halfOfCore x.core != h) } }

/-- The registers of the beat unit (R364). -/
def beatRegs : List Reg :=
  [.BEAT_CFG, .BEAT_NOW, .BEAT_SUB, .BEAT_OFS, .BEAT_CAD, .BEAT_STAT, .BEAT_SCHED, .BEAT_STEP, .BEAT_LOG_BASE, .BEAT_LOG_IDX]

/-- The registers of the FAB, HBM or LPX domain. Those of the beat unit are not among FAB's: both halves read the device's
values, which the lead half keeps (R346, R364), so they fall with the lead half's FAB domain alone (log 145). -/
def domainRegs (d : Nat) : List Reg :=
  match d with
  | 2 => [.FAB_PORT_STAT, .FAB_PORT_EXP, .FAB_PORT_PEER, .FAB_PORT_SER, .FAB_PORT_ERR, .FAB_CFG, .FAB_QCLR, .FAB_DIS_CTL, .FAB_DROP,
      .FAB_RSV, .FAB_RSV_ERR, .FAB_TRK_STAT, .FAB_GRT]
  | 3 => [.HBM_STK, .HBM_THR_CFG, .HBM_THR_TIME, .HBM_ERR_STAT, .HBM_ERR_LOG, .HBM_PRIV_STAT, .HBM_INIT_CTL]
  | _ => [.LPX_ERR_STAT, .LPX_ERR_LOG, .LPX_INIT_CTL]

/-- A domain of a half put in reset. -/
def holdDomain (s : State) (h : HalfId) (d : Nat) : State :=
  match d with
  | 0 => resetCoreDomain s h
  | 1 => s.setHalf h { s.half h with rangerStopped := true }
  | 2 =>
    let lead := decide (leadHalf s = h)
    (portsDown s (portsOfHalf h)).resetRegs (fun f u _ =>
      (u == h.val && (domainRegs 2).contains f.info.reg) || (lead && beatRegs.contains f.info.reg))
  | d => (s.loseMem (if d = 3 then inHbmHalf h else inLpxHalf h)).resetRegs (fun f u _ =>
      u == h.val && (domainRegs d).contains f.info.reg)

/-- The domains of a list that a write newly holds. -/
def holdDomains (s : State) (h : HalfId) (old new : Nat) (ds : List Nat) : State :=
  match ds with
  | [] => s
  | d :: rest => holdDomains (if bit new d && !bit old d then holdDomain s h d else s) h old new rest

/-- DOMAIN_RESET (R498, R510): domains newly held are reset; a ranger runs again once its domain is released. -/
def execDomainReset (a : Agent) (h : HalfId) (hold : Nat) (s : State) : Host.Outcome State Fault Refusal :=
  if dexcaOrPeer a h then
    let old := s.rf .PWR_DOM_RST_HOLD h.val
    let s := s.wf .PWR_DOM_RST_HOLD hold h.val
    let new := s.rf .PWR_DOM_RST_HOLD h.val
    let s := holdDomains s h old new [0, 1, 2, 3, 4]
    .next (if bit old 1 ∧ !bit new 1 then s.setHalf h { s.half h with rangerStopped := false } else s)
  else .next s.privFault

/-! ### The frequency monitor (R497) -/

/-- FMON_GO (R497, R510): ignored while a measurement runs. -/
def execFmonGo (a : Agent) (h : HalfId) (base : Bool) (target : Fin 8) (s : State) : Host.Outcome State Fault Refusal :=
  if !isDexca a then .next s.privFault
  else if s.rb .CLK_FMON_STAT_BUSY h.val then .next s
  else
    .next (((s.wf .CLK_FMON_CTL_BASE (b2n base) h.val).wf .CLK_FMON_CTL_TARGET target.val h.val).wf .CLK_FMON_STAT_BUSY 1 h.val)

/-- FMON_DONE (R497). -/
def execFmonDone (h : HalfId) (count : Nat) (s : State) : Host.Outcome State Fault Refusal :=
  if s.rb .CLK_FMON_STAT_BUSY h.val then
    .next (((s.wf .CLK_FMON_STAT_BUSY 0 h.val).wf .CLK_FMON_STAT_DONE 1 h.val).wf .CLK_FMON_STAT_COUNT (min count (2 ^ 24 - 1)) h.val)
  else .next s

end Sys2Proof.Machine
end

