-- ==== Sys2Proof/Machine/Power.lean ====
section
/-!
DEFINITION. Power states of cores and groves (R249, R250, R499 to R501), the lead token (R502 to R506), ring gauges and the
frequency and voltage plan (R507 to R509, R528, R534).
-/

namespace Sys2Proof.Machine

/-! ### Off and wake (R500, R501) -/

/-- The cores of a power unit. -/
def unitCores (h : HalfId) (u : PowerUnit) : List CoreId :=
  match u with
  | .core c => [coreOf h c.val]
  | .grove g => coresOfGrove (groveOf h g.val)

/-- What a wake takes of the eight cores that may ramp at once (R501). -/
def unitWeight (u : PowerUnit) : Nat :=
  match u with
  | .core _ => 1
  | .grove _ => 8

/-- The units of a half in a list. -/
def unitsOf (h : HalfId) (us : List (HalfId × PowerUnit)) : List PowerUnit := (us.filter (fun x => x.1 == h)).map Prod.snd

/-- RAMPING and QUEUED of a half (R510). -/
def powerStat (s : State) (h : HalfId) : State :=
  (s.wf .PWR_STAT_RAMPING (((unitsOf h s.clk.ramp).map unitWeight).foldl (· + ·) 0) h.val).wf .PWR_STAT_QUEUED
    (min 15 (unitsOf h s.clk.wakeQ).length) h.val

/-- A request refused (R500, R501): source 390. -/
def refusePower (s : State) (h : HalfId) : State := raiseIrq (s.wf .PWR_STAT_REFUSED 1 h.val) h 390

/-- A unit is Off. -/
def unitOff (s : State) (h : HalfId) (u : PowerUnit) : Bool :=
  match u with
  | .core c => (s.core (coreOf h c.val)).node == .off
  | .grove g => aget s.groveSt (groveOf h g.val) .active == .off

/-- A unit is on its way to or from Off. -/
def unitMoving (s : State) (h : HalfId) (u : PowerUnit) : Bool :=
  let k := (h, u)
  s.clk.pdown.contains k || s.clk.ramp.contains k || s.clk.clearing.contains k || s.clk.wakeQ.contains k

/-- An Off request that R500 accepts. -/
def mayPowerOff (s : State) (h : HalfId) (u : PowerUnit) : Bool :=
  !unitMoving s h u && !unitOff s h u &&
  (match u with
    | .core c =>
      let x := s.core (coreOf h c.val)
      (x.node == .spare || x.node == .disabled || x.node == .absent) && trkUsed x == 0 && x.spec.isNone &&
        (List.range 3).all (fun t => (s.tile (coreOf h c.val) t).released)
    | .grove g =>
      (unitCores h u).all (fun c => (s.core c).node == .off) && (aget s.waiting (groveOf h g.val) []).isEmpty &&
        s.entries.all (fun e => e.2.node != .grove (groveOf h g.val)))

/-- POWER_OFF_REQUEST (R500, R510). -/
def execPowerOffRequest (a : Agent) (h : HalfId) (u : PowerUnit) (s : State) : Host.Outcome State Fault Refusal :=
  if !isDexca a then .next s.privFault
  else if mayPowerOff s h u then .next { s with clk := { s.clk with pdown := s.clk.pdown ++ [(h, u)] } }
  else .next (refusePower s h)

/-- PWR_OFF of a unit (R510). -/
def setOffBit (s : State) (h : HalfId) (u : PowerUnit) (b : Bool) : State :=
  match u with
  | .core c => s.wf .PWR_OFF_CORES (setBit (s.rf .PWR_OFF_CORES h.val) c.val b) h.val
  | .grove g => s.wf .PWR_OFF_GROVES (setBit (s.rf .PWR_OFF_GROVES h.val) g.val b) h.val

/-- A unit goes Off. -/
def goOff (s : State) (h : HalfId) (u : PowerUnit) : State :=
  let s := setOffBit s h u true
  match u with
  | .core c =>
    let k := coreOf h c.val
    wakeDead (s.setCore k { CoreSt.reset with node := .off, nextNum := (s.core k).nextNum }) h (flagRange (256 * k.val) 256) 5
  | .grove g =>
    let k := groveOf h g.val
    wakeDead { s with groveSt := aset s.groveSt k .off } h (flagRange (20480 + 6144 * h.val + 1024 * g.val) 1024) 5

/-- The first unit of a half that waits for a ramp and is not still powering down. -/
def nextWake (s : State) (h : HalfId) : Option PowerUnit :=
  (unitsOf h s.clk.wakeQ).find? (fun u => !s.clk.pdown.contains (h, u))

/-- Waiting wakes start in request order while eight cores' worth may ramp (R501). -/
def startWakes (s : State) (h : HalfId) (fuel : Nat) : State :=
  match fuel with
  | 0 => powerStat s h
  | fuel + 1 =>
    match nextWake s h with
    | none => powerStat s h
    | some u =>
      if ((unitsOf h s.clk.ramp).map unitWeight).foldl (· + ·) 0 + unitWeight u ≤ 8 then
        startWakes { s with clk := { s.clk with
          wakeQ := s.clk.wakeQ.filter (fun x => x != (h, u)), ramp := s.clk.ramp ++ [(h, u)] } } h fuel
      else powerStat s h

/-- Waiting wakes of a half tried. -/
def tryWakes (s : State) (h : HalfId) : State := startWakes s h (s.clk.wakeQ.length + 1)

/-- POWER_DOWN_DONE (R500, R501). -/
def execPowerDownDone (h : HalfId) (u : PowerUnit) (s : State) : Host.Outcome State Fault Refusal :=
  if s.clk.pdown.contains (h, u) then
    let s := { s with clk := { s.clk with pdown := s.clk.pdown.filter (fun x => x != (h, u)) } }
    .next (tryWakes (goOff s h u) h)
  else .next s

/-- The grove of a core unit is Off. -/
def groveOff (s : State) (h : HalfId) (u : PowerUnit) : Bool :=
  match u with
  | .core c => aget s.groveSt (groveOfCore (coreOf h c.val)) .active == .off
  | .grove _ => false

/-- WAKE_REQUEST (R501, R510): a wake of a unit that is neither Off nor powering down, or already waking, changes nothing. -/
def execWakeRequest (a : Agent) (h : HalfId) (u : PowerUnit) (s : State) : Host.Outcome State Fault Refusal :=
  if !isDexca a then .next s.privFault
  else if groveOff s h u then .next (refusePower s h)
  else if s.clk.pdown.contains (h, u) ∧ !s.clk.wakeQ.contains (h, u) ∨ unitOff s h u ∧ !unitMoving s h u then
    .next (tryWakes { s with clk := { s.clk with wakeQ := s.clk.wakeQ ++ [(h, u)] } } h)
  else .next s

/-- Cores of a list cleared, still Off. -/
def clearOff (s : State) (cs : List CoreId) : State :=
  match cs with
  | [] => s
  | c :: rest => clearOff (clearCore s c .off) rest

/-- WAKE_RAMP_DONE (R249): the clear begins; a grove's dispatcher and glade flags are cleared as well. -/
def execWakeRampDone (h : HalfId) (u : PowerUnit) (s : State) : Host.Outcome State Fault Refusal :=
  if s.clk.ramp.contains (h, u) then
    let s := { s with clk := { s.clk with
      ramp := s.clk.ramp.filter (fun x => x != (h, u)), clearing := s.clk.clearing ++ [(h, u)] } }
    let s := clearOff s (unitCores h u)
    let s := match u with
      | .core _ => s
      | .grove g =>
        let k := groveOf h g.val
        resetFlags { s with waiting := adrop s.waiting (fun x => x == k) } (fun f => flagGrove f == some k)
    .next (tryWakes s h)
  else .next s

/-- A core that wakes becomes Active where a grove of its half has an Active slot for it, and Spare otherwise (R35, R249). -/
def wokenState (s : State) (c : CoreId) : NodeSt :=
  let r := nodeRefOf s (.core c)
  if (List.range 5).any (fun g => (activeSlots s (.grove (groveOf (halfOfCore c) g))).any (fun x => x.child == r)) then .active
  else .spare

/-- The cores of a woken unit released, or Disabled and reported where verification failed (R250, R464). -/
def releaseWoken (s : State) (failed cs : List CoreId) : State :=
  match cs with
  | [] => s
  | c :: rest =>
    let s := setOffBit (s.incWrap .CORE_WAKE_STAT_WAKES 1 c.val) (halfOfCore c) (.core (Fin.ofNat 40 (c.val % 40))) false
    let s :=
      if failed.contains c then postEvent (verifyFailed s c) (halfOfCore c) evUnitOut [nodeRefOf s (.core c), 1]
      else s.setCore c { s.core c with node := wokenState s c }
    releaseWoken s failed rest

/-- WAKE_COMPLETE (R249, R250). -/
def execWakeComplete (h : HalfId) (u : PowerUnit) (failed : List CoreId) (s : State) : Host.Outcome State Fault Refusal :=
  if s.clk.clearing.contains (h, u) then
    let s := { s with clk := { s.clk with clearing := s.clk.clearing.filter (fun x => x != (h, u)) } }
    let s := match u with
      | .core _ => s
      | .grove g => setOffBit { s with groveSt := aset s.groveSt (groveOf h g.val) .active } h u false
    .next (releaseWoken s failed (unitCores h u))
  else .next s

/-! ### The lead token (R502 to R506) -/

/-- The token logic has marked a half lost (R505). -/
def halfLost (s : State) (h : HalfId) : Bool := s.rb .HLF_LEAD_STAT_PEERLOST (otherHalf h).val

/-- TOKEN_HEARTBEAT (R503): a half whose watchdog has not expired sends one, and the token logic relays it. -/
def execTokenHeartbeat (h : HalfId) (s : State) : Host.Outcome State Fault Refusal :=
  if s.mod.inReset ∨ s.rb .HLF_HB_STAT_WDOG_EXP h.val ∨ halfLost s h then .next s
  else
    let o := otherHalf h
    .next { s with clk := { s.clk with relay := aset s.clk.relay o (aget s.clk.relay o 0 + 1) } }

/-- PEER_TOKEN_HEARTBEAT (R504): a relayed heartbeat arrives and clears FENCED if no grant has occurred. -/
def execPeerTokenHeartbeat (h : HalfId) (s : State) : Host.Outcome State Fault Refusal :=
  let n := aget s.clk.relay h 0
  if n = 0 then .next s
  else .next ({ s with clk := { s.clk with relay := aset s.clk.relay h (n - 1) } }.wf .HLF_LEAD_STAT_FENCED 0 h.val)

/-- HALF_FENCE (R504): 30 µs have passed with no heartbeat of the other half on its way; source 388. A half whose peer is marked
lost fences no more. -/
def execHalfFence (h : HalfId) (s : State) : Host.Outcome State Fault Refusal :=
  if s.mod.inReset ∨ aget s.clk.relay h 0 ≠ 0 ∨ s.rb .HLF_LEAD_STAT_FENCED h.val ∨ s.rb .HLF_LEAD_STAT_PEERLOST h.val then .next s
  else .next (raiseIrq (s.wf .HLF_LEAD_STAT_FENCED 1 h.val) h 388)

/-- The token given to a half (R502, R505). -/
def setLead (s : State) (h : HalfId) : State :=
  ((s.wfBoth .HLF_LEAD_STAT_LEAD h.val).wf .HLF_LEAD_STAT_MINE 1 h.val).wf .HLF_LEAD_STAT_MINE 0 (otherHalf h).val

/-- TOKEN_GRANT (R505, R506): the other half is marked lost, the new lead's beat unit holds over, and the device declares itself
failed; source 387. -/
def execTokenGrant (h : HalfId) (s : State) : Host.Outcome State Fault Refusal :=
  if s.mod.inReset ∨ s.rb .HLF_HB_STAT_WDOG_EXP h.val ∨ halfLost s h ∨ s.rb .HLF_LEAD_STAT_PEERLOST h.val ∨
      aget s.clk.relay h 0 ≠ 0 then .next s
  else
    let moved := leadHalf s ≠ h
    let s := ((setLead s h).wf .HLF_LEAD_STAT_FENCED 0 h.val).wf .HLF_LEAD_STAT_PEERLOST 1 h.val
    let s := raiseIrq { s with clk := { s.clk with relay := adrop s.clk.relay (fun _ => true) } } h 387
    let s := if moved ∧ s.rb .BEAT_CFG_EN then s.wfBoth .BEAT_STAT_SRC srcHoldover else s
    .next (selfFail s h)

/-- BRIDGE_LINK_FAIL (R506): source 386 in both halves; no token moves, and the lead half declares the device failed. -/
def execBridgeLinkFail (s : State) : Host.Outcome State Fault Refusal :=
  let s := { s with clk := { s.clk with bridgeDown := true } }
  let s := raiseIrq (raiseIrq (s.wfBoth .HLF_LEAD_STAT_BRIDGE 1) 0 386) 1 386
  .next (selfFail s (leadHalf s))

/-! ### Ring gauges (R507) -/

/-- AGE_MEASURE (R507, R510): ignored while a measurement runs. -/
def execAgeMeasure (a : Agent) (h : HalfId) (s : State) : Host.Outcome State Fault Refusal :=
  if !isDexca a then .next s.privFault else .next (s.wf .AGE_CTL_BUSY 1 h.val)

/-- DRIFT of a gauge in units of 0.001 % of delay, rounded down (R507; log 47). -/
def driftOf (h i u c : Nat) : Int := ((u * 100000 / c : Nat) : Int) - (Config.gaugeRatio h i : Int)

/-- A signed 16-bit value as its field holds it, within the field's range. -/
def signed16 (v : Int) : Nat := ((max (-32768) (min 32767 v)) % 65536).toNat
/-- A 16-bit field as the signed value that it holds. -/
def fromSigned16 (n : Nat) : Int := if n < 32768 then (n : Int) else (n : Int) - 65536

/-- The counts of gauge `i`, (unstressed, stressed), with its DRIFT; that of a gauge whose stressed ring did not count is
free. -/
def setGauge (s : State) (h : HalfId) (i : Nat) (c : Nat × Nat) : State :=
  let d := if c.2 = 0 then s.freeVal % 65536 else signed16 (driftOf h.val i c.1 c.2)
  (((if c.2 = 0 then s.used else s).wf .AGE_GAUGE_UCNT c.1 h.val i).wf .AGE_GAUGE_SCNT c.2 h.val i).wf .AGE_GAUGE_DRIFT d h.val i

/-- The counts of all gauges from `i` on. -/
def setGauges (s : State) (h : HalfId) (i : Nat) (cs : List (Nat × Nat)) : State :=
  match cs with
  | [] => s
  | c :: rest => if i < 64 then setGauges (setGauge s h i c) h (i + 1) rest else s

/-- DRIFT of gauge `i` of a half as a signed value. -/
def gaugeDrift (s : State) (h : HalfId) (i : Nat) : Int := fromSigned16 (s.rf .AGE_GAUGE_DRIFT h.val i)

/-- The gauge of a half with the largest DRIFT, the first of several. -/
def worstGauge (s : State) (h : HalfId) : Nat :=
  (List.range 64).foldl (fun b i => if gaugeDrift s h b < gaugeDrift s h i then i else b) 0

/-- AGE_MEASURE_DONE (R507): source 389. -/
def execAgeMeasureDone (h : HalfId) (counts : List (Nat × Nat)) (s : State) : Host.Outcome State Fault Refusal :=
  if s.rb .AGE_CTL_BUSY h.val then
    let s := setGauges (s.wf .AGE_CTL_BUSY 0 h.val) h 0 counts
    let w := worstGauge s h
    let s := (s.wf .AGE_STAT_WORST (s.rf .AGE_GAUGE_DRIFT h.val w) h.val).wf .AGE_STAT_IDX w h.val
    .next (raiseIrq (s.incWrap .AGE_STAT_RUNS 1 h.val) h 389)
  else .next s

/-! ### The plan of voltage and frequency (R508, R509, R528, R534) -/

/-- ⌈w⌉ of R508 from the larger WORST of the halves, in units of 0.001 %; a drift below zero counts as none. -/
def ceilDrift (s : State) : Nat :=
  let w := max (fromSigned16 (s.rf .AGE_STAT_WORST 0)) (fromSigned16 (s.rf .AGE_STAT_WORST 1))
  (w.toNat + 999) / 1000

/-- The base voltage of the point that serves an FBDIV of the core PLL at POSTDIV 2 (R508): 850 mV at 1.8 GHz, 780 mV at
1.5 GHz, 720 mV at 1.2 GHz. -/
def baseVoltage (fb : Nat) : Nat := if 120 < fb then 850 else if 96 < fb then 780 else 720

/-- The voltage of a point under margin `m` (R508). -/
def pointVoltage (fb m : Nat) : Nat := min 920 (baseVoltage fb + 5 * m)

/-- The top FBDIV under margin `m` (R508): 25 MHz, two steps, lower for each 5 mV by which the top point would exceed
920 mV. -/
def topFb (m : Nat) : Nat := 144 - 2 * ((850 + 5 * m - 920 + 4) / 5)

/-- PWR_RAIL.SET of a half. -/
def setRail (s : State) (h : HalfId) (mv : Nat) : State := s.wf .PWR_RAIL_SET mv h.val

/-- RAIL_RAISE (R509): a re-plan while a job runs raises a voltage, and never lowers it. -/
def raiseRail (s : State) (h : HalfId) (mv : Nat) : State := setRail s h (max mv (s.rf .PWR_RAIL_SET h.val))

/-- The plan put in force with no job running (R508, R509). -/
def applyPlan (s : State) : State :=
  let v := pointVoltage (plannedFb s) s.clk.margin
  slewToPlan (setRail (setRail s 0 v) 1 v)

/-- MARGIN_REPLAN (R508, R509): while a job runs, the rails rise at once and the frequency falls at the next step start. -/
def execMarginReplan (s : State) : Host.Outcome State Fault Refusal :=
  let m := ceilDrift s
  let old := plannedFb s
  let s := { s with clk := { s.clk with margin := m, top := topFb m } }
  if jobRuns s then
    let v := pointVoltage old m
    let s := raiseRail (raiseRail s 0 v) 1 v
    .next (if plannedFb s < old then { s with clk := { s.clk with slowDue := true } } else slewToPlan s)
  else .next (applyPlan s)

/-- POWER_AVERAGE_CHECK (R528, R547): while the 1 s average exceeds 2,200 W the core frequency is lowered; by how much, and how it
is restored, is free (log 48). -/
def execPowerAverageCheck (avg now vin : Nat) (s : State) : Host.Outcome State Fault Refusal :=
  let s := ((s.wf .MOD_PWR_AVG avg).wf .MOD_PWR_NOW now).wf .MOD_PWR_VIN vin
  let fb := plannedFb s
  if 2200 < avg then
    if 128 < fb then
      let n := 1 + s.freeVal % (fb - 128)
      let s := { s.used with clk := { s.clk with power := s.clk.power + n } }
      .next (slewToPlan (s.wf .MOD_ALERT_POWER 1))
    else .next s
  else if s.clk.power = 0 then .next s
  else
    let n := s.freeVal % (s.clk.power + 1)
    .next (slewToPlan { s.used with clk := { s.clk with power := s.clk.power - n } })

/-- JUNCTION_READ (R534, R547): at 103 °C or above the core frequency falls by 100 MHz, eight steps, every 10 ms, and below 100 °C
it is restored in the same steps. -/
def execJunctionRead (half0 half1 inlet : Nat) (tenMs : Bool) (s : State) : Host.Outcome State Fault Refusal :=
  let s := ((s.wf .MOD_THERM_HALF0 half0).wf .MOD_THERM_HALF1 half1).wf .MOD_THERM_INLET inlet
  let t := max (s.rf .MOD_THERM_HALF0) (s.rf .MOD_THERM_HALF1)
  let s := if 103 ≤ t then s.wf .MOD_ALERT_HOT 1 else s
  if tenMs ∧ 103 ≤ t ∧ 128 < plannedFb s then
    let s := { s with clk := { s.clk with heat := s.clk.heat + 8 } }
    .next (slewToPlan (s.wf .MOD_ALERT_THROTTLE 1))
  else if tenMs ∧ t < 100 ∧ s.clk.heat ≠ 0 then .next (slewToPlan { s with clk := { s.clk with heat := s.clk.heat - 8 } })
  else .next s

end Sys2Proof.Machine
end

