-- ==== Sys2Proof/Machine/Request.lean ====
section
/-!
DEFINITION. How Dexca takes a request (R440 to R449), the QUERY commands (R450), and refused messages (R441, R446).
-/

namespace Sys2Proof.Machine

/-! ### A request (R426, R440, R444 to R448) -/

/-- The complete message at the front of an inbound queue: its writer, its header, and its argument words. -/
def frontMessage (s : State) (h : HalfId) (ch : ChanId) : Option (Agent × Nat × List Nat) :=
  match (inQueue s h ch).words with
  | [] => none
  | w :: rest =>
    if rest.length < hdrLen w.word then none
    else some (w.stamp, w.word, (rest.take (hdrLen w.word)).map MWord.word)

/-- Words popped by Dexca (R431). -/
def popWords (s : State) (h : HalfId) (ch : ChanId) (n : Nat) : State :=
  match n with
  | 0 => s
  | n + 1 => popWords (popIn s h ch).1 h ch n

/-- Dexca runs in a half: it has been started, its ranger runs, and its half is not fenced (R437, R469, R503). -/
def dexcaServes (s : State) (h : HalfId) : Bool :=
  bootStage s h == bsRun && !(s.half h).rangerStopped && !clockDead s h 1 && !s.rb .HLF_LEAD_STAT_FENCED h.val

/-- Whether a class is one of the six that requests use. -/
def knownClass (op : Nat) : Bool := decide (1 ≤ op / 256) && decide (op / 256 ≤ 6)

/-- The class of a request is permitted for its channel and stamp (R444). -/
def permitted (s : State) (h : HalfId) (ch : ChanId) (a : Agent) (op : Nat) : Bool :=
  let k := (stampOf s a).1
  let query := op / 256 == 1
  if ch.val ≤ 11 then k == 0 && knownClass op
  else if ch.val = 12 then k == 1 || (k == 4 && query)
  else if ch.val = 13 then k == 2 && (query || [0x0502, 0x0601, 0x0602].contains op)
  else if ch.val = 14 then k == 3 && (query || grants s h 1)
  else false

/-- A command of the tables of R450 to R463: its opcode, whether its scope is the device, its argument count, the job states
that accept it, and whether it is long. -/
structure CmdSpec where
  op : Nat
  device : Bool
  nargs : Nat
  states : List Nat
  long : Bool
  deriving DecidableEq, Repr

/-- Every job state. -/
abbrev anyState : List Nat := [0, 1, 2, 3, 4, 5]

/-- A request processed at present: its half, channel and TAG, and its opcode. -/
structure Req where
  half : HalfId
  chan : ChanId
  tag : Nat
  op : Nat
  deriving DecidableEq, Repr

/-- A request executed noted for CH_LOG (R450): the six newest, those answered PERM apart. -/
def logRequest (s : State) (r : Req) (status : Nat) : State :=
  let l := aget s.dx.log (r.half, r.chan) []
  let e := r.tag * 2 ^ 24 + r.op * 2 ^ 8 + status % 256
  { s with dx := { s.dx with log := aset s.dx.log (r.half, r.chan) ((e :: l).take 6) } }

/-- A reply (R440): TAG, CLASS and low byte of the request, and the reply words, the status word first. -/
def answer (s : State) (r : Req) (ws : List Nat) : State :=
  let st := ws.headD 0 % 256
  let s := if st = dsPerm then s else logRequest s r st
  sendMessage s r.half r.chan ((r.tag * 2 ^ 24 + ws.length * 2 ^ 16 + r.op) :: ws.map (fun w => w % 2 ^ 32))

/-- A reply of a status alone. -/
abbrev status (n : Nat) : List Nat := [statusWord n 0 0]
/-- A reply of a status with DETAIL. -/
abbrev statusD (n detail : Nat) : List Nat := [statusWord n 0 detail]

/-- Another request of the channel is being processed (R445): it waits for its reply, or its reply for room. -/
def channelBusy (s : State) (h : HalfId) (ch : ChanId) : Bool :=
  s.dx.flagWaits.any (fun w => w.half == h && w.chan == ch) || !(aget (s.half h).replyQ ch []).isEmpty

/-- The Dexca that executes a request runs: that of the half, or, for scope D, of the lead half, which the other half reaches over
the bridge (R447). -/
def served (s : State) (h : HalfId) (device : Bool) : Bool :=
  dexcaServes s h && (!device || h == leadHalf s || (dexcaServes s (leadHalf s) && bridgeUp s))

/-- The state-changing commands of classes JOB, HEALTH and SEC, executed one at a time across the device (R445). -/
def oneAtATime (op : Nat) : Bool :=
  op / 256 == 2 || [0x0501, 0x0503, 0x0504, 0x0505, 0x0506, 0x0507, 0x0603, 0x0604, 0x0605].contains op

/-- A state-changing command that became complete earlier on another channel, and that Dexca will execute, is ahead of the oldest
message of a channel (R445). -/
def behindOther (s : State) (h : HalfId) (ch : ChanId) (op : Nat) : Bool :=
  oneAtATime op && (s.dx.order.takeWhile (fun x => !(x.1 == h && x.2.1 == ch))).any (fun x => oneAtATime x.2.2 && served s x.1 true)

/-- The refusal of a request before its arguments are looked at: permission, length, state, handle, and the limit of 64
(R441, R443, R446, R449), in this order (log 49). -/
def refusal (s : State) (k : CmdSpec) (r : Req) (a : Agent) (args : List Nat) : Option Nat :=
  let h := args.headD 0 % 65536
  if !permitted s r.half r.chan a r.op then some dsPerm
  else if args.length ≠ k.nargs then some dsBadLen
  else if !k.states.contains s.dx.job then some dsBadState
  else if k.long && (h == 0 || (aget? s.dx.long h).isSome) then some dsHandle
  else if k.long && decide (64 ≤ s.dx.long.length) then some dsBusy
  else none

/-- The request of opcode `op` that is next on a channel, if Dexca takes it now: the request, its writer and arguments, and
the state with its message popped. -/
def nextRequest (s : State) (h : HalfId) (ch : ChanId) (device : Bool) : Option (Req × Agent × List Nat × State) :=
  if channelBusy s h ch ∨ !served s h device then none
  else match frontMessage s h ch with
    | none => none
    | some (a, w, args) => if behindOther s h ch (hdrOp w) then none else some (⟨h, ch, hdrTag w, hdrOp w⟩, a, args, popWords s h ch (args.length + 1))

/-- A command of Dexca's tables: the front message of the channel, if it carries the command's opcode, is taken, refused or
executed by `f`, and answered; `f` answers no words where the reply comes later. -/
def runCmd (k : CmdSpec) (h : HalfId) (ch : ChanId) (f : State → Req → List Nat → State × List Nat) (s : State) :
    Host.Outcome State Fault Refusal :=
  match nextRequest s h ch k.device with
  | none => .next s
  | some (r, a, args, t) =>
    if r.op ≠ k.op ∨ ch.val = 15 then .next s
    else match refusal s k r a args with
      | some e => .next (answer t r (status e))
      | none =>
        match f t r args with
        | (u, []) => .next u
        | (u, ws) => .next (answer u r ws)

/-- Argument word `i`. -/
abbrev arg (args : List Nat) (i : Nat) : Nat := args.getD i 0
/-- Arguments `i` and `i + 1` as one 64-bit number, low word first. -/
abbrev arg64 (args : List Nat) (i : Nat) : Nat := arg args i + arg args (i + 1) * 2 ^ 32

/-- The local address of a parameter block of `n` bytes (R447): wholly in the receiving half's glade and clear of its
understory. -/
def gladeBlock (s : State) (h : HalfId) (off n : Nat) : Option Nat :=
  let a := gladeBase h + off
  if off + n ≤ gladeSize ∧ !touchesUnderstory s h a n then some a else none

/-- A long command begun (R443), with the status that it will end with where that is decided. -/
def beginLong (s : State) (r : Req) (args : List Nat) (block : List Byte) (total : Nat) (st : Option Nat) : State :=
  let h := arg args 0 % 65536
  { s with dx := { s.dx with
    long := aset s.dx.long h ⟨r.op, args, r.half, block, 0, total, st⟩
    ended := adrop s.dx.ended (fun k => k == h) } }

/-- The reply to a long command (R443). -/
def started (args : List Nat) : List Nat := [statusWord dsStarted 0 0, arg args 0 % 65536]

/-! ### QUERY (R450) -/

/-- INFO. -/
def execInfo (h : HalfId) (ch : ChanId) (s : State) : Host.Outcome State Fault Refusal :=
  runCmd ⟨0x0101, false, 0, anyState, false⟩ h ch (fun s r _ =>
    (s, [0, Config.serial % 2 ^ 32, Config.serial / 2 ^ 32 % 2 ^ 32, 0xB0 + s.sec.version % 65536 * 2 ^ 16,
      s.dx.job % 8 + s.rf .SEC_LC_STATE r.half.val * 2 ^ 8 + b2n (leadHalf s == r.half) * 2 ^ 16])) s

/-- The 1 bits among the low `n` bits of a word. -/
def popCount (n w : Nat) : Nat :=
  match n with
  | 0 => 0
  | n + 1 => w % 2 + popCount n (w / 2)

/-- The devices declared failed. -/
def failedCount (s : State) : Nat :=
  (s.regs.filter (fun kv => kv.1.1 == Fld.HLF_FAILSET_FAILED && kv.1.2.1 == 0)).foldl (fun n kv => n + popCount 64 kv.2) 0

/-- STATUS. -/
def execStatus (h : HalfId) (ch : ChanId) (s : State) : Host.Outcome State Fault Refusal :=
  runCmd ⟨0x0102, true, 0, anyState, false⟩ h ch (fun s _ _ =>
    (s, [0, epochNow s, s.rf .BEAT_STEP_STEP, s.dx.level % 4 + aget s.dx.scores (ownDev s) 0 % 256 * 2 ^ 8, failedCount s])) s

/-- STATE of R34. -/
def nodeStCode (x : NodeSt) : Nat :=
  match x with
  | .absent => 0
  | .active => 1
  | .spare => 2
  | .closing => 3
  | .off => 4
  | .disabled => 5
  | .paired => 6

/-- The flag range of a node: its first flag and its length (R31). -/
def nodeFlags (nd : NodeId) : Nat × Nat :=
  match nd with
  | .core c => (256 * c.val, 256)
  | .grove g => (20480 + 6144 * (g.val / 5) + 1024 * (g.val % 5), 1024)
  | .half h => (20480 + 6144 * h.val + 5120, 512)
  | .device => (26112, 512)
  | .group => (32256, 256)
  | .hall => (32512, 256)

/-- The window span of a node: the local part of its base, and its length (R33). -/
def nodeWindow (nd : NodeId) : Nat × Nat :=
  match nd with
  | .core c => (scratchBase c, 0x580000)
  | .grove g => (gladeBase (halfOfGrove g) + 0x4000000 + g.val % 5 * 0x4000000, 0x3D80000)
  | .half h => (gladeBase h, 0x17D80000)
  | .device => (0, 0x1000037D80000)
  | _ => (0, 0)

/-- PMC_SET of a node (R517). -/
def pmcSetOf (nd : NodeId) : Nat :=
  match nd with
  | .core c => c.val % 40
  | .grove g => 40 + g.val % 5
  | .half _ => 45
  | .device => 46
  | .group => 47
  | .hall => 48

/-- The physical children of a node; for a group or hall, those of the job (log 50). -/
def nodeChildren (s : State) (nd : NodeId) : Nat :=
  match nd with
  | .core _ => 0
  | .grove _ => 8
  | .half _ => 5
  | .device => 2
  | .group => (groupDevices s).length
  | .hall => ((jobDevices s).map (fun d => d / 64)).eraseDups.length

/-- The even core of an active pair. -/
def evenOfPair (s : State) (nd : NodeId) : Bool :=
  match nd with
  | .core c => inPair s c && c.val % 2 == 0
  | _ => false

/-- The node is a core. -/
def isCoreNode (nd : NodeId) : Bool :=
  match nd with
  | .core _ => true
  | _ => false

/-- The 64-byte descriptor of a node (R33): eight queues, and addresses of Dexca's choice (log 44, 50). The state gives every
word of it, so the copy that Dexca keeps in the privileged region is not stored again (log 128). -/
def nodeDesc (s : State) (nd : NodeId) : List Byte :=
  let r := nodeRefOf s nd
  let dev := ownDev s
  let w := nodeWindow nd
  let f := nodeFlags nd
  let dt := if isCoreNode nd then 0 else globalAddr dev (tablePlace nd (s.table nd).version)
  let win := if w.2 = 0 then 0 else globalAddr dev w.1
  natLE 4 r ++
  natLE 4 (nodeStCode (nodeState s nd) + b2n (evenOfPair s nd) * 2 ^ 4 + nodeChildren s nd % 512 * 2 ^ 8 +
    (activeSlots s nd).length % 512 * 2 ^ 17) ++
  natLE 4 (s.table nd).version ++ natLE 8 dt ++ natLE 8 (globalAddr dev (Config.queuePlace r)) ++
  natLE 4 (8 + s.qDepth % 65536 * 2 ^ 8) ++ natLE 4 (f.1 + f.2 * 2 ^ 16) ++ natLE 4 dev ++ natLE 8 win ++ natLE 8 w.2 ++
  natLE 4 (epochNow s) ++ natLE 4 (pmcSetOf nd)

/-- The node of this device that a reference names, whatever its state: a group or the hall on its principal alone. -/
def describedNode (s : State) (ref : Nat) : Option NodeId :=
  match resolveRef s ref with
  | .error _ => none
  | .ok p =>
    match localNode s p with
    | some .group => if isGroupPrin s then some .group else none
    | some .hall => if epochNow s ≠ 0 ∧ s.readN (armAddr s + 0x1C) 4 % 2 ^ 14 = ownDev s then some .hall else none
    | x => x

/-- NODE_DESC. -/
def execNodeDesc (h : HalfId) (ch : ChanId) (s : State) : Host.Outcome State Fault Refusal :=
  runCmd ⟨0x0103, false, 2, anyState, false⟩ h ch (fun s r args =>
    match describedNode s (arg args 0) with
    | none => (s, statusD dsBadArg 0)
    | some nd =>
      match if arg args 1 % 64 = 0 then gladeBlock s r.half (arg args 1) 64 else none with
      | none => (s, status dsBadAddress)
      | some a => (s.post r.half a (nodeDesc s nd), [0, (s.table nd).version, epochNow s])) s

/-- OP_QUERY. -/
def execOpQuery (h : HalfId) (ch : ChanId) (s : State) : Host.Outcome State Fault Refusal :=
  runCmd ⟨0x0104, true, 1, anyState, false⟩ h ch (fun s _ args =>
    let n := arg args 0 % 65536
    match aget? s.dx.long n with
    | some o => (s, [0, 1, o.done, o.total])
    | none =>
      match aget? s.dx.ended n with
      | some u => (s, [0, 2, u.1, u.2])
      | none => (s, [0, 0, 0, 0])) s

/-- CH_LOG. -/
def execChLog (h : HalfId) (ch : ChanId) (s : State) : Host.Outcome State Fault Refusal :=
  runCmd ⟨0x0105, false, 0, anyState, false⟩ h ch (fun s r _ =>
    (s, 0 :: (aget s.dx.log (r.half, r.chan) [] ++ List.replicate 6 0).take 6)) s

/-! ### Refused messages -/

/-- The opcodes of R450 to R463. -/
def knownOp (op : Nat) : Bool :=
  let n := op % 256
  decide (1 ≤ n) &&
  match op / 256 with
  | 1 => decide (n ≤ 5)
  | 2 => decide (n ≤ 7)
  | 3 => decide (n ≤ 3)
  | 4 => decide (n ≤ 3)
  | 5 => decide (n ≤ 8)
  | 6 => decide (n ≤ 5)
  | _ => false

/-- BAD_OPCODE (R441): the channel must be one that may ask at all. -/
def execBadOpcode (h : HalfId) (ch : ChanId) (s : State) : Host.Outcome State Fault Refusal :=
  match nextRequest s h ch false with
  | none => .next s
  | some (r, a, _, t) =>
    if knownOp r.op ∨ ch.val = 15 then .next s
    else .next (answer t r (status (if permitted s h ch a r.op then dsBadOpcode else dsPerm)))

/-- CHANNEL15_DISCARD (R446). -/
def execChannel15Discard (h : HalfId) (s : State) : Host.Outcome State Fault Refusal :=
  match nextRequest s h 15 false with
  | none => .next s
  | some (_, _, _, t) => .next (t.incSat .DXC_EVT_STAT_IN15 1 h.val)

end Sys2Proof.Machine
end

