-- ==== Sys2Proof/Machine/JobCmds.lean ====
section
/-!
DEFINITION. The JOB commands of Dexca (R449 to R455), and transfers of the privileged region with parity errors (R273).
-/

namespace Sys2Proof.Machine

/-! ### Privileged-region parity (R273, R524) -/

/-- A range of the privileged region holds a page of a stack (R262). -/
def touchesStack (a n k : Nat) : Bool := (List.range ((a % 4096 + n + 4095) / 4096)).any (fun i => (stackOf (a + 4096 * i)).val == k)

/-- The fourth attempt of a transfer has failed (R273): FAIL, the error log, both rangers interrupted, the ranger that made the
access stopped, and the device failed. -/
def parityFail (s : State) (h : HalfId) (a : Nat) : State :=
  let s := s.wf .HBM_PRIV_STAT_FAIL 1 h.val
  let s := if s.rb .HBM_ERR_LOG_VALID h.val then s
    else (((s.wf .HBM_ERR_LOG_VALID 1 h.val).wf .HBM_ERR_LOG_PRIV 1 h.val).wf .HBM_ERR_LOG_UNIT (stackOf a).val h.val).wf
      .HBM_ERR_LOG_BLOCK (a / 2048) h.val
  let s := raiseIrq (raiseIrq s 0 510) 1 510
  let l := leadHalf s
  selfFail (s.setHalf l { s.half l with rangerStopped := true }) l

/-- What an armed injection of half `h` does to a transfer of `n` bytes at `a` (R273, R524; log 162): each failed attempt but the
fourth is retried, and counted. -/
def parity1 (s : State) (h : HalfId) (a n : Nat) : State :=
  let k := min 4 (injLeft s h 3 (touchesStack a n (6 * h.val + s.rf .TST_INJ_UNIT h.val % 6)))
  let s := (takeInj s h k).incSat .HBM_ERR_STAT_PARR (min 3 k) h.val
  if k = 4 then parityFail s h a else s

/-- Bytes written to the privileged region by Dexca (R273). -/
def writePriv (s : State) (a : Nat) (bs : List Byte) : State := (parity1 (parity1 s 0 a bs.length) 1 a bs.length).write a bs

/-! ### The job block (R454) -/

/-- The fields of a job block. -/
structure JobBlock where
  base : Nat
  spares : Nat
  feedOvr : Bool
  job : Nat
  seed : Nat
  arm : Nat
  sched : Nat
  wire : Nat
  shards : Nat
  nshard : Nat
  takeover : Nat
  ovf : Nat
  echo : Nat
  every : Nat
  copies : Nat
  deriving DecidableEq, Repr

/-- The job block at `b`. -/
def jobBlockAt (s : State) (b : Nat) : JobBlock where
  base := b
  spares := s.readN (b + 2) 1 % 16
  feedOvr := bit (s.readN (b + 2) 1) 4
  job := s.readN (b + 4) 4
  seed := s.readN (b + 8) 8
  arm := s.readN (b + 0x10) 4
  sched := s.readN (b + 0x14) 4
  wire := s.readN (b + 0x18) 4
  shards := s.readN (b + 0x1C) 4
  nshard := s.readN (b + 0x20) 4
  takeover := s.readN (b + 0x24) 4
  ovf := s.readN (b + 0x28) 2
  echo := s.readN (b + 0x2A) 2
  every := s.readN (b + 0x2C) 2
  copies := s.readN (b + 0x2E) 1

/-- The local address of the armature of a block, and of its forwarding map. -/
def JobBlock.armAt (j : JobBlock) : Nat := j.base + j.arm
/-- The local address of the forwarding map of a block. -/
def JobBlock.mapAt (s : State) (j : JobBlock) : Nat := j.armAt + armLen s j.armAt

/-- The bytes of a beat schedule at `a`. -/
def schedLen (s : State) (a : Nat) : Nat := 32 + 32 * schedPhases s a

/-- The tables of a block at their full lengths: offset and length (R454). -/
def JobBlock.tables (s : State) (j : JobBlock) : List (Nat × Nat) :=
  [(j.arm, armLen s j.armAt + mapLen s (JobBlock.mapAt s j)), (j.sched, schedLen s (j.base + j.sched)), (j.wire, 1096),
    (j.shards, 16 * j.nshard), (j.takeover, 128)]

/-- Where the last table of a block ends. -/
def JobBlock.span (s : State) (j : JobBlock) : Nat := (j.tables s).foldl (fun n x => max n (x.1 + x.2)) 64

/-- Every table lies in the 48 MiB after the block, and in the glade. -/
def JobBlock.fits (s : State) (h : HalfId) (j : JobBlock) : Bool :=
  (j.tables s).all (fun x => decide (64 ≤ x.1) && decide (x.1 + x.2 ≤ 64 + 0x3000000) &&
    decide (j.base - gladeBase h + x.1 + x.2 ≤ gladeSize))

/-- The shard set that a block registers. -/
def JobBlock.shardList (s : State) (j : JobBlock) : List (Nat × Nat) :=
  (List.range j.nshard).map (fun i => (s.readN (j.base + j.shards + 16 * i) 8, s.readN (j.base + j.shards + 16 * i + 8) 8))

/-- The checks of R454. -/
def JobBlock.good (s : State) (h : HalfId) (j : JobBlock) : Bool :=
  s.readN j.base 2 == 1 && decide (j.spares ≤ 8) && j.job != 0 && decide (1 ≤ j.nshard) && decide (j.nshard ≤ 4096) &&
  crc32c (s.read j.base 0x30) == s.readN (j.base + 0x30) 4 && j.fits s h &&
  (j.shardList s).all (fun x => x.1 % 2048 == 0 && x.2 % 2048 == 0)

/-- The largest stage of a job fits (R341): every stage has the layout of this device, whose shard sets all lie in one user space
(log 143). -/
def JobBlock.stageFits (s : State) (j : JobBlock) : Bool := (j.shardList s).all (fun x => x.2 == 0 || inTier x.1 x.2)

/-- The copies of a shard of a job differ in layout (R403), as the Dexcas of their holders tell one another; free (log 148). -/
def JobBlock.copiesDiffer (j : JobBlock) : Bool := decide (1 < j.copies) && Config.copiesDiffer j.job

/-- The cause of R442 that refuses a job block and its tables, in the order of R453; zero accepts them. A schedule that breaks
R355 is refused as well (log 51), then a job whose largest stage does not fit (R341), and one whose copies differ in layout, for
which R442 names no cause: it is free (R403; log 148). -/
def jobCause (s : State) (h : HalfId) (j : JobBlock) : Nat :=
  if !j.good s h then 8
  else
    let c := armCause { s with dx := { s.dx with feedOvr := j.feedOvr } } j.armAt (j.mapAt s) 1
    if c ≠ 0 then c else if !schedGood s (j.base + j.sched) j.job then 4 else if !j.stageFits s then 5
    else if j.copiesDiffer then 1 + s.freeVal % 65535 else 0

/-! ### JOB_LOAD (R453) -/

/-- The identity of this device as the peers of its row or column ports name it (R281, R453); free where the wiring table names
none (log 52). -/
def wiredDev (s : State) (w : Nat → Nat) : Nat :=
  match (List.range 7).find? (fun k => bit (w k) 31) with
  | some k => let d := w k % 2 ^ 14; d / 8 * 8 + (d % 8 + 7 - k) % 8
  | none =>
    match (List.range 7).find? (fun k => bit (w (7 + k)) 31) with
    | some k => let d := w (7 + k) % 2 ^ 14; d / 64 * 64 + (d / 8 % 8 + 7 - k) % 8 * 8 + d % 8
    | none => s.freeVal % 2 ^ 14

/-- HLF_NODE_ID of both halves written and locked, unless it is locked (R49). -/
def setIdentity (s : State) (dev : Nat) : State :=
  if s.rb .HLF_NODE_ID_LOCK then s
  else (((s.wfBoth .HLF_NODE_ID_GROUP (dev / 64)).wfBoth .HLF_NODE_ID_ROW (dev / 8)).wfBoth .HLF_NODE_ID_COL dev).wfBoth
    .HLF_NODE_ID_LOCK 1

/-- The expected peers of the ports, from the words of the wiring table. -/
def setExpected (s : State) (w : Nat → Nat) (ps : List PortId) : State :=
  match ps with
  | [] => s
  | p :: rest =>
    setExpected (((s.setPf .FAB_PORT_EXP_VALID p (b2n (bit (w p.val) 31))).setPf .FAB_PORT_EXP_PORT p (bits (w p.val) 18 14)).setPf
      .FAB_PORT_EXP_DEV p (w p.val)) w rest

/-- The group route table of both halves, from its words. -/
def setRoutes (s : State) (w : Nat → Nat) (gs : List Nat) : State :=
  match gs with
  | [] => s
  | g :: rest =>
    setRoutes ((((s.wfBoth .FAB_GRT_VALID (b2n (bit (w g) 31)) g).wfBoth .FAB_GRT_VIA (bits (w g) 20 13) g).wfBoth .FAB_GRT_DEV
      (bits (w g) 12 7) g).wfBoth .FAB_GRT_PORT (w g) g) w rest

/-- Every port. -/
def allPorts : List PortId := (List.range 18).map (Fin.ofNat 18)

/-- A port trains from DOWN (R299, R453); one in quarantine or disabled stays (R304, R306). -/
def retrainPort (s : State) (p : PortId) : State :=
  if portState s p = psQuarantine ∨ s.pf .FAB_PORT_STAT_DIS p ≠ 0 then s
  else let s := portDown s p; s.setPort p { s.port p with eqFailed := false }

/-- Every port of a list trains. -/
def retrainPorts (s : State) (ps : List PortId) : State :=
  match ps with
  | [] => s
  | p :: rest => retrainPorts (retrainPort s p) rest

/-- The entries of the armature at `a` whose pairs have equal FEED get CORR (R367). -/
def markCorr (s : State) (es : List Nat) : State :=
  match es with
  | [] => s
  | e :: rest =>
    let x := armEnt s e
    markCorr (if x.paired ∧ x.partner ≠ 0 ∧ feedEqual x.feed x.pfeed then s.write (e + 0x10) (({ x with corr := true }.bytes.drop 0x10).take 4)
      else s) rest

/-- The evaluation copies of slice members placed in their LPDDR tiers, and their bases recorded in the entries at the places given
(R265, R342; log 144). -/
def placeEval (s : State) (es : List Nat) : State :=
  match es with
  | [] => s
  | e :: rest =>
    let x := armEnt s e
    placeEval (if x.role = 6 then
        s.write (e + 0x18) (natLE 8 (lpddrBase + Config.evalPlace (refDev x.node) % (lpddrSize / 4096) * 4096))
      else s) rest

/-- The armature of a job put in its place with the job tag, the bases of evaluation copies, and CORR where the override asks for it
(R43, R265, R367, R453). -/
def placeJobArm (s : State) (j : JobBlock) : State :=
  let n := armLen s j.armAt + mapLen s (j.mapAt s)
  let bs := s.read j.armAt n
  let s := placeArm (writePriv s (armPlace 1) bs) 1 (s.readN (j.armAt + 8) 8) bs
  let s := s.write (armPlace 1 + 0x14) (natLE 4 j.job)
  let es := armEntries s (armPlace 1)
  if j.feedOvr ∨ es.any (fun e => (armEnt s e).role == 6) then
    let s := placeEval (if j.feedOvr then markCorr s es else s) es
    s.write (armPlace 1 + 0x30) (natLE 4 (crc32c (s.read (armPlace 1 + 64) (32 * armCount s (armPlace 1)))))
  else s

/-- Where the echo area of a half lies (R398, R453; log 44). -/
def echoPlace (h : HalfId) : Nat := gladeBase h + Config.areaOffset 0 h.val % 2 ^ 14 * 4096
/-- Where the glade overflow region of a half lies (R121, R453; log 44). -/
def ovfPlace (h : HalfId) : Nat := gladeBase h + Config.areaOffset 1 h.val % 2 ^ 19 * 128

/-- Both glades and both tiers cleared (R251, R266), with what they held. -/
def clearMemories (s : State) : State :=
  let s := initPart (clearGlade (clearGlade s 0) 1) (fun a => decide (a < hbmSize) || (decide (lpddrBase ≤ a) && decide (a < lpddrBase + lpddrSize)))
  let wipe := fun (s : State) (h : HalfId) => s.setHalf h { s.half h with ovf := [], und := [], undRx := [] }
  let s := wipe (wipe s 0) 1
  let s := undStat (undStat (ovfStat (ovfStat s 0) 1) 0) 1
  { s with dx := { s.dx with echo := [] } }

/-- The areas of a half placed, and the registers that the job block fills (R121, R404, R453, R454). -/
def placeAreas (s : State) (j : JobBlock) (h : HalfId) : State :=
  let s := (s.wf .HLF_ECHO_BASE_BASE (echoPlace h) h.val).wf .ACC_OVF_BASE_BASE (ovfPlace h) h.val
  let s := s.wf .ACC_OVF_CFG_SLOTS (if j.ovf = 0 then 0x8000 else j.ovf) h.val
  let s := s.wf .HLF_ECHO_CFG_SLOTS (if j.echo = 0 then 0x20 else j.echo) h.val
  let s := (s.wf .HLF_REPL_CFG_EVERY j.every h.val).wf .HLF_REPL_CFG_COPIES j.copies h.val
  let s := s.wf .COL_UND_CFG_BASE (Config.areaOffset 2 h.val) h.val
  s.wf .VEC_RNG_SEED_SEED j.seed h.val

/-- The spare cores of a half (R35). -/
def spareCores (n : Nat) (h : HalfId) : List CoreId :=
  (List.range (if h = 0 then (n + 1) / 2 else n / 2)).map (fun i => coreOf h (39 - i))

/-- Active and spare cores marked anew (R35). -/
def markCores (s : State) (spares cs : List CoreId) : State :=
  match cs with
  | [] => s
  | c :: rest =>
    let n := (s.core c).node
    markCores (if n = .active ∨ n = .spare then s.setCore c { s.core c with node := if spares.contains c then .spare else .active }
      else s) spares rest

/-- The table of each grove of a list: its Active cores, in a new version (R35, R36). -/
def groveTables (s : State) (gs : List GroveId) : State :=
  match gs with
  | [] => s
  | g :: rest =>
    let sl := ((coresOfGrove g).filter (fun c => (s.core c).node == .active)).map (fun c => (⟨nodeRefOf s (.core c), .active⟩ : Slot))
    groveTables (s.setTable (.grove g) ⟨(s.table (.grove g)).version + 1, beatNow s, sl⟩) rest

/-- Steps 2 to 7 of R453 up to the start of training: the tables copied, the identity, the ports and routes written, memories
cleared, areas placed, spares marked, and the ports sent to train. -/
def prepareJob (s : State) (j : JobBlock) : State :=
  let w := fun i => s.readN (j.base + j.wire + 4 * i) 4
  let sb := s.read (j.base + j.sched) (schedLen s (j.base + j.sched))
  let shards := j.shardList s
  let take := s.read (j.base + j.takeover) 128
  let dev := wiredDev s w
  let s := placeJobArm s.used j
  let s := writePriv s (schedPlace s) sb
  let s := setIdentity s dev
  let s := (setRoutes (setExpected s w allPorts) (fun g => w (18 + g)) (List.range 256)).wfBoth .FAB_CFG_MODE 0
  let s := placeAreas (placeAreas (clearMemories s) j 0) j 1
  let s := groveTables (markCores s (spareCores j.spares 0 ++ spareCores j.spares 1) allCores) allGroves
  let s := { s with
    dx := { s.dx with shards := shards, takeover := take, feedOvr := j.feedOvr, spares := j.spares }
    fab := { s.fab with mgmtOnly := false } }
  retrainPorts s allPorts

/-- JOB_LOAD (R447, R453): checked, and begun or refused; a refused load ends with its cause. -/
def loadJob (s : State) (r : Req) (args : List Nat) : State × List Nat :=
  match gladeBlock s r.half (arg args 1) 64 with
  | none => (s, status dsBadAddress)
  | some b =>
    let j := jobBlockAt s b
    if j.good s r.half ∧ touchesUnderstory s r.half b (j.span s) then (s, status dsBadAddress)
    else
      let c := jobCause s r.half j
      let bs := if c = 0 then s.read b (j.span s) else []
      let t := beginLong (setJob s.used jsLoading) r args bs 1 (if c = 0 then none else some (statusWord dsRefused 0 c))
      (if c = 0 then prepareJob t j else t, started args)

/-- JOB_LOAD. -/
def execJobLoad (h : HalfId) (ch : ChanId) (s : State) : Host.Outcome State Fault Refusal :=
  runCmd ⟨0x0201, true, 2, [jsEmpty], true⟩ h ch loadJob s

/-- The tables of the group and of the hall on their principals: the devices of the job in the group but for spare devices, and
the groups of the job (R37; log 50). -/
def upperTables (s : State) : State :=
  let spare := fun d => (armEnts s (armAddr s)).all (fun x => !x.onDevice || refDev x.node != d || x.role == 7)
  let ds := (groupDevices s).filter (fun d => !spare d)
  let gs := ((jobDevices s).map (fun d => d / 64)).eraseDups
  let t := fun (xs : List Nat) => (⟨1, beatNow s, xs.map (fun r => ⟨r, .active⟩)⟩ : DistTable)
  (s.setTable .group (t (ds.map deviceRef))).setTable .hall (t (gs.map (fun g => 4 * 2 ^ 24 + g * 2 ^ 13)))

/-- A shard held by this device has a partner that holds no copy yet (R391). -/
def isPaired (s : State) : Bool := (armEnts s (armAddr s)).any (fun x => x.paired && refDev x.node == ownDev s)

/-- The load ends OK (R347, R374, R453, R477, R544): the armature and the schedule are in force, the beat unit is enabled at a
beat number that the devices share (free; log 53), and the job is LOADED. -/
def finishLoad (s : State) (o : LongOp) : State :=
  let a := schedPlace s
  let s := extendBoth s 3 (sm3 o.block)
  let s := ((s.wfBoth .COL_ARM_ADDR_ADDR (armPlace 1)).wfBoth .COL_ARM_EPOCH_CURRENT 1).wfBoth .BEAT_SCHED_ADDR a
  let now := s.freeVal % 2 ^ 64
  let s := (((setRole s.used).wfBoth .BEAT_CFG_PERIOD (schedPeriod s a)).wfBoth .BEAT_CFG_EN 1).wfBoth .BEAT_NOW_BEAT now
  let s := s.wfBoth .BEAT_STAT_SRC srcFabric
  let s := { s with fence := now, beat := { Beat.reset with watchFrom := now + 3 } }
  let s := (s.wfBoth .HLF_PCOPY_STAT_PSTEP 0).wfBoth .HLF_PCOPY_STAT_WARDS (min 4 (wardsOf s (ownDev s)).length)
  let s := setBare s (if isPaired s then [ownDev s] else [])
  let s := noteHyper s (ownDev s :: wardsOf s (ownDev s))
  setJob (applyPlan ((upperTables s).wf .MOD_CAD_REGEN 1)) jsLoaded

/-- Cabled ports that are not ACTIVE (R453, step 7). -/
def failedPorts (s : State) : Nat := (allPorts.filter (fun p => s.pf .FAB_PORT_EXP_VALID p == 1 && portState s p != psActive)).length

/-! ### JOB_START, JOB_STOP, JOB_UNLOAD (R451, R452) -/

/-- JOB_START: the first step starts at the beat named. -/
def execJobStart (h : HalfId) (ch : ChanId) (s : State) : Host.Outcome State Fault Refusal :=
  runCmd ⟨0x0202, true, 3, [jsLoaded], false⟩ h ch (fun s _ args =>
    let s := (s.wfBoth .BEAT_STEP_START (arg64 args 0)).wfBoth .BEAT_STEP_STEP (arg args 2)
    (setJob { s with dx := { s.dx with ckptStep := arg args 2 } } jsRunning, status dsOk)) s

/-- The opcode of JOB_LOAD. -/
abbrev opJobLoad : Nat := 0x0201

/-- A load in progress ends ABORTED (R449): what it registered is forgotten. -/
def abortLoad (s : State) : State :=
  let s := endLong (setJob s jsEmpty) opJobLoad (statusWord dsAborted 0 0)
  { s with dx := { s.dx with shards := [], takeover := [], feedOvr := false, hyper := [], held := [] } }.wfBoth .HLF_NODE_ID_LOCK 0

/-- JOB_STOP (R449, R452): in LOADING it acts on this device alone; otherwise it goes to the hall principal. -/
def execJobStop (h : HalfId) (ch : ChanId) (s : State) : Host.Outcome State Fault Refusal :=
  runCmd ⟨opJobStop, true, 2, [jsLoading, jsRunning], true⟩ h ch (fun s r args =>
    if s.dx.job = jsLoading then (beginLong (abortLoad s) r args [] 1 (some 0), started args)
    else
      let s := beginLong s r args [] 1 none
      (if isHall s then stopJob s (stopCause (arg args 1)) 0
        else sendMgmt s (actingHall s none) (mrec s mkStopReq 0 (ownDev s) 0 (arg args 1)), started args)) s

/-- JOB_UNLOAD (R449, R452): a load ends first; cores and ports are disabled. -/
def execJobUnload (h : HalfId) (ch : ChanId) (s : State) : Host.Outcome State Fault Refusal :=
  runCmd ⟨0x0204, true, 1, [jsLoading, jsLoaded, jsStopped, jsDeclared], true⟩ h ch (fun s r args =>
    let s := if s.dx.job = jsLoading then abortLoad s else s
    (beginLong (stopUnits s) r args [] 1 (some 0), started args)) s

/-- The work of a job is forgotten: queues, entries, parts that wait, and collectives (log 54). -/
def dropWork (s : State) : State :=
  { s with
    nodeQ := []
    entries := []
    waiting := []
    fab := { s.fab with colls := [], collEarly := [], permCopies := [], store := [] } }

/-- The registers that a job's end clears: the armature, the schedule, the fail-set (R452). -/
def clearJobRegs (s : State) : State :=
  let rs : List Reg := [.COL_ARM_ADDR, .COL_ARM_EPOCH, .COL_ARM_STAT, .BEAT_SCHED, .BEAT_STEP, .HLF_FAILSET]
  let s := s.resetRegs (fun f _ _ => rs.contains f.info.reg)
  (((s.wfBoth .HLF_NODE_ID_LOCK 0).wfBoth .BEAT_CFG_EN 0).wfBoth .BEAT_STAT_SRC srcOff).wf .MOD_CAD_REGEN 0

/-- JOB_UNLOAD ends (R452). The units that it disabled stay Disabled until they are reset or wake from Off (R211). -/
def finishUnload (s : State) : State :=
  let s := clearJobRegs (dropWork (clearMemories s))
  let s := setBare s []
  let s := { s with
    tables := []
    nextTables := []
    beat := Beat.reset
    dx := { s.dx with shards := [], takeover := [], feedOvr := false, hyper := [], held := [], level := 0, scores := [],
                      topPair := (0, 0), topScore := 0, repaired := [], optSince := false, spares := 0 } }
  setJob s jsEmpty

/-! ### ARM_INSTALL, SCHED_SET, RESTORE (R452, R455) -/

/-- ARM_INSTALL. -/
def installCmd (s : State) (r : Req) (args : List Nat) : State × List Nat :=
  let beat := arg64 args 2
  if !isHall s then (s, status dsRole)
  else if beat % 4 ≠ 0 then (s, statusD dsBadArg 2)
  else match gladeBlock s r.half (arg args 1) 64 with
    | none => (s, status dsBadAddress)
    | some b =>
      let m := b + armLen s b
      let n := armLen s b + mapLen s m
      match gladeBlock s r.half (arg args 1) n with
      | none => (s, status dsBadAddress)
      | some _ =>
        let again := match s.beat.armed with
          | some (_, t) => t == beat
          | none => false
        let c := if again then 3 else if s.beat.armed.isSome then 2 else armCause s b m (epochNow s + 1)
        let bs := s.read b n
        if c ≠ 0 then (beginLong s r args [] 1 (some (statusWord dsRefused 0 c)), started args)
        else (installArm (parity1 (parity1 (beginLong s r args bs 1 none) 0 (armPlace (epochNow s + 1)) n) 1
          (armPlace (epochNow s + 1)) n) beat bs, started args)

/-- ARM_INSTALL (R452): the hall principal's alone; a second installation while one waits is refused (R48). -/
def execArmInstall (h : HalfId) (ch : ChanId) (s : State) : Host.Outcome State Fault Refusal :=
  runCmd ⟨opArmInstall, true, 4, [jsRunning], true⟩ h ch installCmd s

/-- SCHED_SET (R355, R356): verified at once, and placed for the next step start. -/
def execSchedSet (h : HalfId) (ch : ChanId) (s : State) : Host.Outcome State Fault Refusal :=
  runCmd ⟨0x0206, true, 1, [jsLoaded, jsRunning], false⟩ h ch (fun s r args =>
    match gladeBlock s r.half (arg args 0) 32 with
    | none => (s, status dsBadAddress)
    | some b =>
      match gladeBlock s r.half (arg args 0) (schedLen s b) with
      | none => (s, status dsBadAddress)
      | some _ =>
        if schedGood s b (jobTag s) ∧ schedPeriod s b = s.rf .BEAT_CFG_PERIOD then
          let a := schedPlace s
          ((writePriv s a (s.read b (schedLen s b))).wfBoth .BEAT_SCHED_ADDR a, status dsOk)
        else (s, statusD dsRefused 4)) s

/-- Both partner slots of this device refreshed with the state that a step starts from (R455): each holds the update of the step
before. -/
def refreshBoth (s : State) (step : Nat) : State :=
  match partnerOf s (ownDev s) with
  | none => s
  | some q =>
    let go := fun (s : State) (slot : Nat) =>
      refreshOwn s q slot (step - 1) step
    go (go s (step % 2)) ((step + 1) % 2)

/-- The words of a restore block without its CRC (R455). -/
def restoreBytes (s : State) (b n : Nat) : List Byte := s.read b 0x10 ++ s.read (b + 0x14) (0x2C + 4 * n)

/-- RESTORE (R390, R455): a block whose CRC fails is refused with a DETAIL that is free (log 55); a counter that differs ends it
CKPT_COUNTER, and nothing is loaded. -/
def restoreCmd (s : State) (r : Req) (args : List Nat) : State × List Nat :=
  match gladeBlock s r.half (arg args 1) 64 with
  | none => (s, status dsBadAddress)
  | some b =>
    let n := s.readN (b + 0x0C) 4
    match gladeBlock s r.half (arg args 1) (64 + 4 * n) with
    | none => (s, status dsBadAddress)
    | some _ =>
      if crc32c (restoreBytes s b n) ≠ s.readN (b + 0x10) 4 then
        (beginLong s.used r args [] 1 (some (statusWord dsRefused 0 (s.freeVal % 65536))), started args)
      else if s.readN b 4 ≠ arg args 2 ∨ s.readN (b + 4) 2 ≠ arg args 3 % 65536 then
        (beginLong s r args [] 1 (some (statusWord dsCkptCounter 0 0)), started args)
      else
        let t := beginLong s r args (s.read b (64 + 4 * n)) 1 (some 0)
        (refreshBoth (t.wfBoth .VEC_RNG_STEP_STEP (arg args 2)) (arg args 2), started args)

/-- RESTORE. -/
def execRestore (h : HalfId) (ch : ChanId) (s : State) : Host.Outcome State Fault Refusal :=
  runCmd ⟨0x0207, true, 4, [jsLoaded], true⟩ h ch restoreCmd s

end Sys2Proof.Machine
end

