-- ==== Sys2Proof/Machine/MemCmds.lean ====
section
/-!
DEFINITION. The MEM and SYNC commands of Dexca (R456 to R460).
-/

namespace Sys2Proof.Machine

/-- The opcode of XFER. -/
abbrev opXfer : Nat := 0x0301

/-- An XFER moves data from the device to the host. -/
abbrev xferOut (args : List Nat) : Bool := bit (arg args 0) 16
/-- The local address of an XFER. -/
abbrev xferAddr (args : List Nat) : Nat := arg64 args 3
/-- The blocks of an XFER. -/
abbrev xferBlocks (args : List Nat) : Nat := arg args 5

/-- The local range of an XFER is allowed (R248, R457). -/
def xferPlace (s : State) (a n : Nat) : Bool :=
  a % 2048 == 0 &&
  match regionOf a (2048 * n) with
  | some .hbm => true
  | some .lpddr => true
  | some (.glade h) => !touchesUnderstory s h a (2048 * n)
  | _ => false

/-- XFER (R456, R457). -/
def execXfer (h : HalfId) (ch : ChanId) (s : State) : Host.Outcome State Fault Refusal :=
  runCmd ⟨opXfer, true, 7, [jsLoaded, jsRunning, jsStopped], true⟩ h ch (fun s r args =>
    if xferBlocks args = 0 then (s, statusD dsBadArg 5)
    else if !xferPlace s (xferAddr args) (xferBlocks args) then (s, status dsBadAddress)
    else (beginLong s r args [] (xferBlocks args) none, started args)) s

/-- XFER_ABORT (R456): an XFER that runs ends ABORTED. -/
def execXferAbort (h : HalfId) (ch : ChanId) (s : State) : Host.Outcome State Fault Refusal :=
  runCmd ⟨0x0302, true, 1, anyState, false⟩ h ch (fun s _ args =>
    let n := arg args 0 % 65536
    match aget? s.dx.long n with
    | none => (s, status dsHandle)
    | some o =>
      if o.cmd ≠ opXfer ∨ o.status.isSome then (s, status dsHandle)
      else ({ s with dx := { s.dx with long := aset s.dx.long n { o with status := some (statusWord dsAborted 0 0) } } }, status dsOk)) s

/-- The aperture base is allowed (R458): aligned to the aperture, and clear of the privileged region. -/
def apertureGood (s : State) (base : Nat) : Bool :=
  let ap := bar2Size s / 16
  base % ap == 0 && !(decide (base < privBase + privSize) && decide (privBase < base + ap))

/-- B2WIN (R458). -/
def execB2win (h : HalfId) (ch : ChanId) (s : State) : Host.Outcome State Fault Refusal :=
  runCmd ⟨0x0303, false, 3, anyState, false⟩ h ch (fun s _ args =>
    let n := arg args 0
    let base := arg64 args 1 % 2 ^ 50
    if 15 < n then (s, statusD dsBadArg 0)
    else if !apertureGood s base then (s, status dsBadAddress)
    else ((s.wf .DXC_B2WIN_VALID (arg64 args 1 / 2 ^ 63) 0 n).wf .DXC_B2WIN_BASE base 0 n, status dsOk)) s

/-- FLAG_SET (R220, R229, R460): answered at once for a flag of this device, and otherwise when the set has completed. -/
def execFlagSet (h : HalfId) (ch : ChanId) (s : State) : Host.Outcome State Fault Refusal :=
  runCmd ⟨0x0401, true, 2, [jsRunning], false⟩ h ch (fun s r args =>
    let a := arg64 args 0
    match flagOfLocal (addrLocal a) with
    | none => (s, statusD dsBadArg 0)
    | some f =>
      if addrDev a = ownDev s then (setFlag s f (srcHost s), status dsOk)
      else
        let s := { s with dx := { s.dx with flagWaits := s.dx.flagWaits ++ [⟨r.half, r.chan, r.tag, s.fab.nextOp⟩] } }
        (sendFlagSet s (.dexca (leadHalf s)) 0x3FF a, [])) s

/-- FLAG_POISON (R227, R460). -/
def execFlagPoison (h : HalfId) (ch : ChanId) (s : State) : Host.Outcome State Fault Refusal :=
  runCmd ⟨0x0402, true, 2, [jsRunning], false⟩ h ch (fun s _ args =>
    let i := arg args 0
    let n := arg args 1
    if 32768 ≤ i then (s, statusD dsBadArg 0)
    else if n = 0 ∨ 32768 < i + n then (s, statusD dsBadArg 1)
    else (poisonFlags s (flagRange i n) (srcRanger s (leadHalf s)) 4, status dsOk)) s

/-- The refused descriptor of a stopped stream leaves its ring (R460). -/
def dropDesc (s : State) (m : StreamId) : State :=
  let x := s.stream m
  if x.count = 0 then s
  else putStream s m { x with head := (x.head + 1) % max 1 x.size, count := x.count - 1, flag := none, woken := false }

/-- STREAM_RESTART (R460). -/
def execStreamRestart (h : HalfId) (ch : ChanId) (s : State) : Host.Outcome State Fault Refusal :=
  runCmd ⟨0x0403, true, 1, anyState, false⟩ h ch (fun s _ args =>
    let m : StreamId := Fin.ofNat 256 (arg args 0)
    if s.rb .DXC_STR_STAT_STOP 0 m.val then
      ((if bit (arg args 0) 8 then dropDesc s m else s).wf .DXC_STR_STAT_STOP 0 0 m.val, status dsOk)
    else (s, status dsOk)) s

end Sys2Proof.Machine
end

