-- ==== Sys2Proof/Machine/HealthCmds.lean ====
section
/-!
DEFINITION. The HEALTH commands of Dexca (R461, R462).
-/

namespace Sys2Proof.Machine

/-- The checkpoint interval in force, in steps (R388); free while no schedule says how long a step is (log 56). -/
def intervalWord (s : State) : Nat := if s.beat.sched = 0 then s.freeVal else ckptInterval s

/-- CKPT_CFG (R462): the new interval applies from the next step. -/
def execCkptCfg (h : HalfId) (ch : ChanId) (s : State) : Host.Outcome State Fault Refusal :=
  runCmd ⟨0x0501, true, 4, anyState, false⟩ h ch (fun s _ args =>
    if arg args 0 < arg args 1 then (s, statusD dsBadArg 1)
    else
      let b := fun i => arg args 2 / 2 ^ (8 * i) % 256
      ({ s.used with dx := { s.dx with
        iBase := arg args 0, iMin := arg args 1, weights := [b 0, b 1, b 2, b 3, arg args 3 % 256] } },
        [0, intervalWord s])) s

/-- CORR of a pair in the armature in force. -/
def pairCorr (s : State) (p : Nat × Nat) : Bool :=
  (jobEntries s).any (fun e => namesDevice (entNode s e) && refDev (entNode s e) == p.1 && entPartner s e != 0 &&
    refDev (entPartner s e) == p.2 && entCorr s e)

/-- RISK (R461): as the last RISK_SCORE left it. -/
def execRisk (h : HalfId) (ch : ChanId) (s : State) : Host.Outcome State Fault Refusal :=
  runCmd ⟨0x0502, true, 0, anyState, false⟩ h ch (fun s _ _ =>
    let p := s.dx.topPair
    (s, [0, s.dx.level, p.1 % 2 ^ 14 + p.2 % 2 ^ 14 * 2 ^ 16, s.dx.topScore % 256 + b2n (pairCorr s p) * 2 ^ 8])) s

/-- The unit that UNIT_DISABLE names. -/
inductive HealthUnit where
  | core (c : CoreId)
  | grove (g : GroveId)
  | port (p : PortId)
  deriving DecidableEq, Repr

/-- The unit of the arguments of UNIT_DISABLE (R461): a core or grove of this device by a physical reference, or a port. -/
def healthUnit (s : State) (args : List Nat) : Option HealthUnit :=
  let w := arg args 1
  if bit (arg args 0) 16 then (if w < 18 then some (.port (Fin.ofNat 18 w)) else none)
  else if !refValid w ∨ refSlot w then none
  else match localNode s w with
    | some (.core c) => some (.core c)
    | some (.grove g) => some (.grove g)
    | _ => none

/-- A unit closed for a disable (R209, R306). -/
def closeUnit (s : State) (u : HealthUnit) : State :=
  match u with
  | .core c => if canClose s c then closeCore (s.wf .CORE_DIS_CTL_CORE 1 c.val) c else s
  | .grove g =>
    let s := s.wf .GRV_DIS_CTL_GROVE 1 g.val
    if nodeState s (.grove g) = .active then
      let s := { s with groveSt := aset s.groveSt g .closing }
      closeCores (closeSlot s (.half (halfOfGrove g)) (nodeRefOf s (.grove g))) (coresOfGrove g)
    else s
  | .port p =>
    let h := (portHalf p).val
    closePorts (s.wf .FAB_DIS_CTL_PORT (setBit (s.rf .FAB_DIS_CTL_PORT h) (portIdx p) true) h) [p]

/-- The disable of a unit is still draining. -/
def unitDrains (s : State) (u : HealthUnit) : Bool :=
  match u with
  | .core c => (s.core c).node == .closing
  | .grove g => nodeState s (.grove g) == .closing
  | .port p => (s.port p).closing && s.pf .FAB_PORT_STAT_DIS p == 0

/-- The opcode of UNIT_DISABLE. -/
abbrev opUnitDisable : Nat := 0x0503

/-- UNIT_DISABLE (R462). -/
def execUnitDisable (h : HalfId) (ch : ChanId) (s : State) : Host.Outcome State Fault Refusal :=
  runCmd ⟨opUnitDisable, true, 2, [jsLoaded, jsRunning], true⟩ h ch (fun s r args =>
    match healthUnit s args with
    | none => (s, statusD dsBadArg 1)
    | some u => (beginLong (closeUnit s u) r args [] 1 (some 0), started args)) s

/-- EXPEL (R462): the hall principal declares the device without a probe. -/
def execExpel (h : HalfId) (ch : ChanId) (s : State) : Host.Outcome State Fault Refusal :=
  runCmd ⟨0x0504, true, 1, [jsRunning], false⟩ h ch (fun s _ args => (expel s (arg args 0 % 2 ^ 14) 4, status dsOk)) s

/-- The opcode of SURVEY_LOAD. -/
abbrev opSurveyLoad : Nat := 0x0505

/-- A survey package of `n` bytes at `a` is accepted (R407, R462, R473): checks 2 to 8 of R471, KIND 2, and all its bytes
given. -/
def surveyGood (s : State) (a n : Nat) : Bool :=
  firstCause (imageChecks s a 2) == 0 && decide (4096 + imgField s a 0x10 4 ≤ n)

/-- SURVEY_LOAD (R462). -/
def execSurveyLoad (h : HalfId) (ch : ChanId) (s : State) : Host.Outcome State Fault Refusal :=
  runCmd ⟨opSurveyLoad, true, 3, anyState, true⟩ h ch (fun s r args =>
    match gladeBlock s r.half (arg args 1) (arg args 2) with
    | none => (s, status dsBadAddress)
    | some a =>
      if surveyGood s a (arg args 2) then
        (beginLong s r args (s.read a (4096 + imgField s a 0x10 4)) 1 (some 0), started args)
      else (beginLong s r args [] 1 (some (statusWord dsVerify 0 0)), started args)) s

/-- A package accepted takes the place of the one in force, and is measured (R462, R477). -/
def finishSurvey (s : State) (bs : List Byte) : State :=
  let s := extendBoth (extendBoth s 2 (sm3 (bs.take 4096))) 2 ((bs.drop 0x20).take 32)
  { s with dx := { s.dx with package := bs.drop 4096 } }

/-- PORT_RELEASE (R304, R462). -/
def execPortRelease (h : HalfId) (ch : ChanId) (s : State) : Host.Outcome State Fault Refusal :=
  runCmd ⟨0x0506, true, 1, anyState, false⟩ h ch (fun s _ args =>
    if 18 ≤ arg args 0 then (s, statusD dsBadArg 0) else (releasePorts s [Fin.ofNat 18 (arg args 0)], status dsOk)) s

/-- FAB_MODE (R309, R462). -/
def execFabMode (h : HalfId) (ch : ChanId) (s : State) : Host.Outcome State Fault Refusal :=
  runCmd ⟨0x0507, true, 1, [jsEmpty], false⟩ h ch (fun s _ args => (s.wfBoth .FAB_CFG_MODE (arg args 0 % 2), status dsOk)) s

/-- A register of a unit as its fields spell it. -/
def regWord (s : State) (r : Reg) (u i : Nat) : Nat :=
  r.fields.foldl (fun n f => n + s.rf f u i * 2 ^ f.info.lo) 0

/-- The record of a port as PEERS writes it (R462); one of the other half's ports is zero. Its counters that clear on a read
stand (log 57). -/
def peerRecord (s : State) (h : HalfId) (p : PortId) : List Byte :=
  if portHalf p = h then
    [Reg.FAB_PORT_SER, .FAB_PORT_PEER, .FAB_PORT_STAT].flatMap (fun r => natLE 8 (regWord s r h.val (portIdx p)))
  else List.replicate 24 0

/-- PEERS (R462). -/
def execPeers (h : HalfId) (ch : ChanId) (s : State) : Host.Outcome State Fault Refusal :=
  runCmd ⟨0x0508, false, 1, anyState, false⟩ h ch (fun s r args =>
    match if arg args 0 % 8 = 0 then gladeBlock s r.half (arg args 0) 432 else none with
    | none => (s, status dsBadAddress)
    | some a => (s.post r.half a (allPorts.flatMap (peerRecord s r.half)), status dsOk)) s

end Sys2Proof.Machine
end

