-- ==== Sys2Proof/Machine/SecCmds.lean ====
section
/-!
DEFINITION. The SEC commands of Dexca (R463, R476 to R483).
-/

namespace Sys2Proof.Machine

/-! ### Attestation (R476, R478) -/

/-- The report without its signature (R478), with the nonce given; every field is the lead half's. -/
def reportBody (s : State) (nonce : List Byte) : List Byte :=
  let l := leadHalf s
  let lc := s.rf .SEC_LC_STATE l.val + s.rf .SEC_LC_PEND l.val * 2 ^ 3 + (s.rf .SEC_AUTH_STAT_GRANTS l.val) % 8 * 2 ^ 4 +
    b2n (bootLocked s 0 && bootLocked s 1) * 2 ^ 7
  natLE 2 1 ++ natLE 2 0x1C0 ++ natLE 4 lc ++ natLE 8 Config.serial ++ padTo 32 nonce ++
    (List.range 8).flatMap (measBytes s l) ++ natLE 4 s.sec.svn ++ natLE 4 (s.rf .SEC_LC_MINSVN l.val) ++ natLE 2 s.sec.version ++
    natLE 2 0xB0 ++ natLE 4 (jobTag s) ++ natLE 4 (epochNow s) ++ natLE 4 (ownDev s) ++ natLE 8 (beatNow s l) ++
    padTo 32 s.sec.bootNonce ++ List.replicate 16 0

/-- The whole report: SIG is r then s (R474, R478; log 4). -/
def report (s : State) (nonce : List Byte) : List Byte :=
  let l := leadHalf s
  let body := reportBody (s.wf .SEC_AUTH_STAT_GRANTS (shownGrants s l) l.val) nonce
  let g := Config.sm2Sign Config.serial (beNat body) s.freeVal
  body ++ natBE 32 g.1 ++ natBE 32 g.2

/-- ATTEST (R476, R478, R480). -/
def execAttest (h : HalfId) (ch : ChanId) (s : State) : Host.Outcome State Fault Refusal :=
  runCmd ⟨0x0601, true, 2, anyState, false⟩ h ch (fun s r args =>
    let lc := s.rf .SEC_LC_STATE (leadHalf s).val
    if lc = 3 ∨ lc = 4 ∨ s.sec.keyGone then (s, status dsLifecycle)
    else if !Config.certMatches then (s, status dsVerify)
    else match gladeBlock s r.half (arg args 0) 32, gladeBlock s r.half (arg args 1) 448 with
      | some a, some b => (s.used.post r.half b (report s (s.read a 32)), [0, 448])
      | _, _ => (s, status dsBadAddress)) s

/-- CERT_CHAIN (R463, R476): its length is answered also where the chain does not fit. -/
def execCertChain (h : HalfId) (ch : ChanId) (s : State) : Host.Outcome State Fault Refusal :=
  runCmd ⟨0x0602, true, 2, anyState, false⟩ h ch (fun s r args =>
    let n := certChain.length
    if !Config.certMatches then (s, status dsVerify)
    else if arg args 1 < n then (s, [statusWord dsBadArg 0 1, n])
    else match gladeBlock s r.half (arg args 0) n with
      | none => (s, status dsBadAddress)
      | some a => (s.post r.half a certChain, [0, n])) s

/-! ### Authorisations and lifecycle requests (R481 to R483) -/

/-- The record at a glade offset, 192 bytes of the bytes given. -/
def recordAt (s : State) (h : HalfId) (off n : Nat) : Option (List Byte) :=
  match gladeBlock s h off n with
  | none => none
  | some a => some (s.read a n)

/-- AUTH_LOAD (R477, R483). -/
def execAuthLoad (h : HalfId) (ch : ChanId) (s : State) : Host.Outcome State Fault Refusal :=
  runCmd ⟨0x0603, true, 2, anyState, false⟩ h ch (fun s r args =>
    match recordAt s r.half (arg args 0) (arg args 1) with
    | none => (s, status dsBadAddress)
    | some bs =>
      if bs.length = 192 ∧ recordGood s bs 3 [4, 5] then
        (setAuth (extendBoth s 4 (sm3 bs)) true (dfld bs 0x30 2 0), status dsOk)
      else (s, status dsVerify)) s

/-- AUTH_CLEAR (R483, R521). -/
def execAuthClear (h : HalfId) (ch : ChanId) (s : State) : Host.Outcome State Fault Refusal :=
  runCmd ⟨0x0604, true, 0, anyState, false⟩ h ch (fun s _ _ => (setAuth s false 0, status dsOk)) s

/-- A transition that R480 and R481 allow. -/
def lcAllowed (now dst : Nat) : Bool := now == dst || (now == 1 && dst == 2) || (now == 2 && dst == 3) || dst == 4

/-- The image slots that a state accepts (R480). -/
def imageSlots (lc : Nat) : List Nat :=
  match lc with
  | 1 => [0, 1, 2, 3]
  | 2 => [0, 1, 2]
  | 3 => [0, 1, 2]
  | _ => []

/-- TARGET of a request. -/
abbrev rqTarget (bs : List Byte) : Nat := dfld bs 0x34 2 0
/-- REVOKE of a request. -/
abbrev rqRevoke (bs : List Byte) : Nat := dfld bs 0x34 15 8
/-- MINSVN of a request. -/
abbrev rqMinSvn (bs : List Byte) : Nat := dfld bs 0x34 22 16

/-- The request may be applied (R480, R481): the state accepted is that of TARGET, of which some image slot is left. -/
def requestAllowed (s : State) (bs : List Byte) : Bool :=
  let rev := s.sec.revoked ||| rqRevoke bs
  let slots := imageSlots (rqTarget bs)
  lcAllowed s.sec.lc (rqTarget bs) && decide (s.sec.minsvn ≤ rqMinSvn bs) && decide (rqMinSvn bs ≤ 64) &&
  !(bit rev 6 && bit rev 7) && (slots.isEmpty || slots.any (fun k => !bit rev k))

/-- A request applied (R477, R481): the fuses burned, shown in SEC_LC of both halves, and d destroyed on entry to RETURNED or
SCRAPPED. The state in force is the old one until the next reset. -/
def burnRequest (s : State) (bs : List Byte) : State :=
  let rev := s.sec.revoked ||| rqRevoke bs
  let dst := rqTarget bs
  let gone := s.sec.keyGone || ((dst == 3 || dst == 4) && s.sec.lc != dst)
  let s := { s with sec := { s.sec with revoked := rev, minsvn := rqMinSvn bs, lc := dst, keyGone := gone } }
  let s := (((s.wfBoth .SEC_LC_REVOKED rev).wfBoth .SEC_LC_MINSVN (rqMinSvn bs)).wfBoth .SEC_LC_NEXT dst).wfBoth .SEC_LC_PEND
    (b2n (s.rf .SEC_LC_STATE != dst))
  extendBoth s 5 (sm3 bs)

/-- LIFECYCLE (R463, R481). -/
def execLifecycle (h : HalfId) (ch : ChanId) (s : State) : Host.Outcome State Fault Refusal :=
  runCmd ⟨0x0605, true, 2, anyState, false⟩ h ch (fun s r args =>
    match recordAt s r.half (arg args 1) 192 with
    | none => (s, status dsBadAddress)
    | some bs =>
      if !recordGood s bs 4 [6, 7] then (s, status dsVerify)
      else if arg args 0 ≠ rqTarget bs then (s, statusD dsBadArg 0)
      else if !requestAllowed s bs then (s, status dsLifecycle)
      else (burnRequest s bs, status dsOk)) s

end Sys2Proof.Machine
end

