-- ==== Sys2Proof/Machine/Ends.lean ====
section
/-!
DEFINITION. The ends of Dexca's long commands (R443, R449 to R464), of fabric operations (R315, R460), and the arming of an
injection (R524).
-/

namespace Sys2Proof.Machine

/-! ### XFER (R457) -/

/-- Blocks verified in order from number `i` on, and the number of the first that escalates (R270, R271). -/
def verifyRun (s : State) (bs : List Nat) (i transient : Nat) : State × Option Nat :=
  match bs with
  | [] => (s, none)
  | b :: rest =>
    let r := verifyBlock s b (0 < transient)
    if r.2 then (r.1, some i) else verifyRun r.1 rest (i + 1) (transient - 1)

/-- Whole blocks of host data. -/
abbrev wholeBlocksOf (d : List Byte) : Nat := d.length / 2048

/-- `n` blocks from the host written at `a`, each with its CRC in a tier (R268, R457). -/
def xferWrite (s : State) (a n : Nat) (d : List Byte) : State :=
  let s := s.write a (padTo (2048 * n) d)
  if inTier a (2048 * n) then writeCrcs s (blocksOf a (2048 * n)) else s

/-- The flag of an XFER set at its end (R456). -/
def xferFlag (s : State) (args : List Nat) : State :=
  if bit (arg args 6) 31 then setFlag s (Fin.ofNat 32768 (arg args 6)) (srcRanger s (leadHalf s)) else s

/-- An XFER to the device that ends: an abort or a PCIe error leaves the blocks moved before it. -/
def endXferIn (s : State) (args : List Nat) (st : Option Nat) (d : List Byte) (err : Bool) : State × Nat × Nat :=
  let n := xferBlocks args
  let a := xferAddr args
  let k := min n (wholeBlocksOf d)
  match st with
  | some w => (xferWrite s a k d, w, k)
  | none =>
    if err then (xferWrite s a k d, statusWord dsOpFailed stInvalidAddress 0, k)
    else (xferFlag (xferWrite s a n d) args, 0, n)

/-- An XFER to the host that ends: what it has moved is the reply's bytes; a second mismatch ends it with the block's number. -/
def endXferOut (s : State) (args : List Nat) (st : Option Nat) (d : List Byte) (err : Bool) (transient : Nat) : State × Nat × Nat :=
  let n := xferBlocks args
  let a := xferAddr args
  let cut := st.isSome || err
  let k := if cut then min n (wholeBlocksOf d) else n
  let v := if inTier a (2048 * n) then verifyRun s (blocksOf a (2048 * k)) 0 transient else (s, none)
  let sent := fun (m : Nat) => { v.1 with reply := .bytes (v.1.read a (2048 * m)) }
  match v.2 with
  | some i => (sent i, statusWord dsChecksum 0 0, i)
  | none =>
    match st with
    | some w => (sent k, w, k)
    | none => if err then (sent k, statusWord dsOpFailed stInvalidAddress 0, k) else (xferFlag (sent n) args, 0, n)

/-! ### OP_DONE (R443, R464) -/

/-- A fabric operation of Dexca has packets without an answer. -/
def dexcaOps (s : State) : Bool :=
  s.fab.ops.any (fun x => (match x.2.owner with | .dexca _ => true | _ => false) && x.2.openPkts != 0)

/-- A load is among the long commands. -/
def loadRuns (s : State) : Bool := s.dx.long.any (fun x => x.2.cmd == opJobLoad)

/-- A long command can end now. -/
def longReady (s : State) (o : LongOp) : Bool :=
  if o.cmd = opJobLoad then true
  else if o.cmd = opXfer then !rangeBusy s (xferAddr o.args) (2048 * xferBlocks o.args)
  else if o.cmd = opUnitDisable then
    (match healthUnit s o.args with
      | some u => !unitDrains s u
      | none => true)
  else if o.cmd = opJobStop then o.status.isSome && !loadRuns s
  else if o.cmd = 0x0204 then !loadRuns s && !allCores.any (fun c => (s.core c).node == .closing)
  else if o.cmd = 0x0207 then !dexcaOps s
  else o.status.isSome

/-- What the end of a long command does, its status word, and the units done. -/
def endEffect (s : State) (o : LongOp) (d : List Byte) (err : Bool) (bad : Nat) : State × Nat × Nat :=
  let w := o.status.getD 0
  let u := b2n (w % 256 == 0)
  if o.cmd = opJobLoad then
    match o.status with
    | none => (finishLoad s o, statusWord 0 0 (failedPorts s), 1)
    | some w => (if s.dx.job = jsLoading then setJob s jsEmpty else s, w, 0)
  else if o.cmd = opXfer then
    if xferOut o.args then endXferOut s o.args o.status d err bad else endXferIn s o.args o.status d err
  else if o.cmd = 0x0204 then (finishUnload s, w, u)
  else if o.cmd = opUnitDisable then
    (if bit (arg o.args 0) 16 then s else postEvent s (leadHalf s) evUnitOut [arg o.args 1, 3], w, u)
  else if o.cmd = opSurveyLoad then (if w = 0 then finishSurvey s o.block else s, w, u)
  else (s, w, u)

/-- A long command leaves those that run, and its end is posted (R443, R464). -/
def closeLong (s : State) (n word done total : Nat) : State :=
  let s := { s with dx := { s.dx with
    long := adrop s.dx.long (fun k => k == n), ended := aset s.dx.ended n (done, total) } }
  postEvent s (leadHalf s) evOpDone [n, word, done]

/-- OP_DONE (R443, R464): a long command that can end does so. -/
def execOpDone (handle : Nat) (hostData : List Byte) (hostError : Bool) (badReads : Nat) (s : State) :
    Host.Outcome State Fault Refusal :=
  match aget? s.dx.long handle with
  | none => .next s
  | some o =>
    if dexcaServes s (leadHalf s) ∧ longReady s o then
      match endEffect s o hostData hostError badReads with
      | (t, word, done) => .next (drainAll (closeLong t handle word done o.total))
    else .next s

/-! ### FABRIC_COMPLETE (R315, R460) -/

/-- The FLAG_SET that waits for an operation is answered. -/
def answerFlag (s : State) (op st : Nat) : State :=
  match s.dx.flagWaits.find? (fun w => w.op == op) with
  | none => s
  | some w =>
    let s := { s with dx := { s.dx with flagWaits := s.dx.flagWaits.filter (fun x => x.op != op) } }
    answer s ⟨w.half, w.chan, w.tag, 0x0401⟩ [if st = stOK then 0 else statusWord dsOpFailed st 0]

/-- The failure of a core's or Dexca's operation by FAB_TIMEOUT is noted of its device when its packet is given up; here the
operation's status is that of R315. -/
def fabricStatus (x : FabOp) : Nat := lowestFail x.fails

/-- What completes with a fabric operation (R315): the command of a core, or what Dexca waited for. A completion for a command that
its core has aborted is dropped and counted (R210; log 136). -/
def fabricEnd (s : State) (op : Nat) (x : FabOp) : State :=
  match x.owner with
  | .core c _ num =>
    let s := match slotWard s x with
      | some w => refreshPut s x w
      | none => s
    match (s.core c).ops.find? (fun o => o.num == num) with
    | none => s.setCore c { s.core c with doneDrops := (s.core c).doneDrops + 1 }
    | some o => if o.cls = clFlag then endFlagOp s c o (fabricStatus x) 0 else completeOp s c o (fabricStatus x) 0
  | .dexca _ =>
    if x.code = 0 then answerFlag s op (fabricStatus x) else if x.code = foPut then refreshSent s x
    else if x.code = foGet then outlierFetched s x else s
  | _ => s

/-- The operations that settle by themselves when their last packet is answered, and here where none was sent for want of a path: a
collective's parts, and what is forwarded (R328, R333). -/
def endsElsewhere (x : FabOp) : Bool :=
  match x.owner with
  | .coll _ _ _ => true
  | .fwd _ _ => true
  | _ => false

/-- FABRIC_COMPLETE (R315). -/
def execFabricComplete (op : Nat) (s : State) : Host.Outcome State Fault Refusal :=
  match aget? s.fab.ops op with
  | none => .next s
  | some x =>
    if x.openPkts ≠ 0 then .next s
    else if endsElsewhere x then .next (drainAll (settle s op))
    else .next (drainAll (dropFabOp (fabricEnd s op x) op))

/-! ### TST_INJ_ARM (R521, R524) -/

/-- The fields of TST_INJ as written. -/
def writeInj (s : State) (h : HalfId) (v : Nat) : State :=
  (((s.wf .TST_INJ_KIND (bits v 61 59) h.val).wf .TST_INJ_COUNT (bits v 58 56) h.val).wf .TST_INJ_UNIT (bits v 55 51) h.val).wf
    .TST_INJ_BLOCK (bits v 49 11) h.val

/-- TST_INJ_ARM (R521, R524): without access it is a privilege fault; an ARM of an unknown kind, or while an injection is
armed, is ignored and sets ERR. -/
def execTstInjArm (_a : Agent) (h : HalfId) (value : Nat) (s : State) : Host.Outcome State Fault Refusal :=
  if !grants s h 0 then .next s.privFault
  else if s.rb .TST_INJ_ARMED h.val ∨ bits value 61 59 = 0 ∨ 4 < bits value 61 59 then .next (s.wf .TST_STAT_ERR 1 h.val)
  else
    let s := (writeInj s h value).wf .TST_INJ_ARMED 1 h.val
    .next (s.setHalf h { s.half h with injLeft := max 1 (bits value 58 56) })

end Sys2Proof.Machine
end

