-- ==== Sys2Proof/Machine/RegView.lean ====
section
/-!
DEFINITION. Register fields that the rest of the state gives and no register stores: the tiles, the contexts, the mailbox queues
and the sum of the reservation shares (R121, R212, R307, R437).
-/

namespace Sys2Proof.Machine

/-- STATE of a context (R182). -/
def ctxCode (x : CtxSt) : Nat :=
  match x with
  | .idle => 0
  | .ready => 1
  | .blocked => 2
  | .waiting => 3
  | .stopping => 4

/-- FAR of a tile: at least one of its elements is in far form (R98, R121). -/
def tileFar (s : State) (c : CoreId) (t : Nat) : Bool :=
  (s.acc c).elems.any (fun kv => elemTile kv.1 == t && kv.2.anchor == 255)

/-- ORD of a tile: a Begin, Read or Release on it is in progress or waiting, the commit or cancel of its shadow among them
(R108, R121). -/
def tileOrd (s : State) (c : CoreId) (t : Nat) : Bool :=
  ((s.core c).ops ++ (if inPair s c ∧ c.val % 2 = 1 then (s.core (pairMate c)).ops else [])).any (fun o =>
    match tileUse c o with
    | some (u, y) => u == t && y != .add
    | none => false) ||
  (match (s.core c).spec with
    | some z => z.shadow == t && z.resolved.isSome
    | none => false)

/-- The valid shares of a half's reservation slots (R296). -/
def shareSum (s : State) (h : Nat) : Nat :=
  ((List.range 8).map (fun i => s.rf .FAB_RSV_VALID h i * s.rf .FAB_RSV_SHARE h i)).sum

/-- LOCK, MSGS, FREE and USED of a mailbox queue (R426, R427, R437). -/
def queueView (q : MQueue) : Nat × Nat × Nat × Nat := (b2n q.lock.isSome, mqMsgs q, 8 - q.words.length, q.words.length)

/-- A field of ACC_TILE_STAT (R121). -/
def tileView (s : State) (c : CoreId) (f : Fld) : Option Nat :=
  match f with
  | .ACC_TILE_STAT_EXH0 => some (b2n (s.tile c 0).exh)
  | .ACC_TILE_STAT_EXH1 => some (b2n (s.tile c 1).exh)
  | .ACC_TILE_STAT_EXH2 => some (b2n (s.tile c 2).exh)
  | .ACC_TILE_STAT_FAR0 => some (b2n (tileFar s c 0))
  | .ACC_TILE_STAT_FAR1 => some (b2n (tileFar s c 1))
  | .ACC_TILE_STAT_FAR2 => some (b2n (tileFar s c 2))
  | .ACC_TILE_STAT_SHADOW0 => some (b2n (s.tile c 0).shadow)
  | .ACC_TILE_STAT_SHADOW1 => some (b2n (s.tile c 1).shadow)
  | .ACC_TILE_STAT_SHADOW2 => some (b2n (s.tile c 2).shadow)
  | .ACC_TILE_STAT_ORD0 => some (b2n (tileOrd s c 0))
  | .ACC_TILE_STAT_ORD1 => some (b2n (tileOrd s c 1))
  | .ACC_TILE_STAT_ORD2 => some (b2n (tileOrd s c 2))
  | _ => none

/-- A field of CORE_CTX_STATn (R212). -/
def ctxView (s : State) (c : CoreId) (n : CtxId) (f : Fld) : Option Nat :=
  match f with
  | .CORE_CTX_STAT_RUNAHEAD => some (b2n ((s.ctx c n).cond.isSome && (s.core c).runAhead.any (fun x => x.ctx == n)))
  | .CORE_CTX_STAT_SPEC => some (b2n (s.ctx c n).spec)
  | .CORE_CTX_STAT_STATE => some (ctxCode (ctxState s c n))
  | .CORE_CTX_STAT_RPTR => some ((s.ctx c n).rptr % 256)
  | .CORE_CTX_STAT_OPS => some ((s.core c).ops.filter (fun o => o.ctx == n && holdsEntry o)).length
  | .CORE_CTX_STAT_PTR => some (s.ctx c n).ptr
  | _ => none

/-- A field of MBX_IN_STAT or MBX_OUT_STAT (R437). -/
def mbxView (s : State) (h : HalfId) (ch : ChanId) (f : Fld) : Option Nat :=
  let i := queueView (inQueue s h ch)
  let o := queueView (outQueue s h ch)
  match f with
  | .MBX_IN_STAT_LOCK => some i.1
  | .MBX_IN_STAT_MSGS => some i.2.1
  | .MBX_IN_STAT_FREE => some i.2.2.1
  | .MBX_IN_STAT_USED => some i.2.2.2
  | .MBX_OUT_STAT_LOCK => some o.1
  | .MBX_OUT_STAT_MSGS => some o.2.1
  | .MBX_OUT_STAT_FREE => some o.2.2.1
  | .MBX_OUT_STAT_USED => some o.2.2.2
  | _ => none

/-- A core that falls due for a survey (R410). -/
def dueable (x : CoreSt) : Bool :=
  match x.node with
  | .active => true
  | .spare => true
  | .paired => true
  | _ => false

/-- A field as a read shows it: of unit `u`, index `i` of its family. PWR_RAIL.MEAS is a measurement, BEAT_SUB.NS
the place in a running beat (R346), and CORE_SURV_STAT.AGE and the moment at which a core falls due tell of time (R410): free
values (log 5); the bits
that tell of work within one command's effect read zero between commands (log 63). -/
def State.view (s : State) (f : Fld) (u i : Nat) : Nat :=
  let r := f.info.reg
  let v :=
    if r = .ACC_TILE_STAT then tileView s (Fin.ofNat 80 u) f
    else if r = .CORE_CTX_STAT then ctxView s (Fin.ofNat 80 u) (Fin.ofNat 8 i) f
    else if r = .MBX_IN_STAT ∨ r = .MBX_OUT_STAT then mbxView s (Fin.ofNat 2 u) (Fin.ofNat 16 i) f
    else if f = .MAT_STAT_PAIRED then some (b2n (inPair s (Fin.ofNat 80 u) && u % 2 == 0))
    else if f = .FAB_RSV_ERR_OVER then some (b2n (decide (256 < shareSum s u)))
    else if f = .SEC_AUTH_STAT_GRANTS then some (shownGrants s (Fin.ofNat 2 u))
    else if f = .PMC_STAT_BUSY then some (b2n (recordBusy s (Fin.ofNat 2 u)))
    else if f = .PWR_RAIL_MEAS then some (s.freeVal % 2 ^ 16)
    else if f = .CORE_SURV_STAT_AGE then some (s.freeVal % 2 ^ 16)
    else if f = .CORE_SURV_STAT_STATE ∧ s.rf f u i = 0 ∧ dueable (s.core (Fin.ofNat 80 u)) then some (s.freeVal / 2 ^ 16 % 2)
    else if f = .BEAT_SUB_NS ∧ s.rb .BEAT_CFG_EN then some (s.freeVal % beatNs s)
    else none
  v.getD (s.rf f u i)

end Sys2Proof.Machine
end

