-- ==== Sys2Proof/Machine/RegWrite.lean ====
section
/-!
DEFINITION. Writes to registers by their place in register space (R15, R418 to R420, R437 to R439, R547).
-/

namespace Sys2Proof.Machine

/-! ### Places (R419, R420) -/

/-- A place in register space: a register, its unit, its index in a family, and the byte within it. -/
structure RegLoc where
  reg : Reg
  unit : Nat
  idx : Nat
  byte : Nat
  deriving DecidableEq, Repr

/-- The bytes of a register: eight, or as many as its fields take. -/
def regBytes (r : Reg) : Nat := (r.fields.foldl (fun n f => max n (f.info.hi / 64)) 0 + 1) * 8

/-- The register of a scope at offset `y` of its block. -/
def findReg (sc : RScope) (unit y : Nat) (rs : List Reg) : Option RegLoc :=
  match rs with
  | [] => none
  | r :: rest =>
    let i := r.info
    let k := (y - i.offset) / i.stride
    if i.scope = sc ∧ i.offset ≤ y ∧ k < i.count ∧ (y - i.offset) % i.stride < regBytes r then
      some ⟨r, unit, k, (y - i.offset) % i.stride⟩
    else findReg sc unit y rest

/-- The register at a BAR0 offset; none in a hole. -/
def locate (o : Nat) : Option RegLoc :=
  if 0x1000000 ≤ o ∧ o < 0x3000000 then
    let h := (o - 0x1000000) / 0x1000000
    let y := o % 0x1000000
    if y < 0x200000 then findReg .half h y Reg.all
    else if y < 0x250000 then findReg .grove (5 * h + (y - 0x200000) / 0x10000) (y % 0x10000) Reg.all
    else if 0x400000 ≤ y ∧ y < 0x680000 then findReg .core (40 * h + (y - 0x400000) / 0x10000) (y % 0x10000) Reg.all
    else none
  else if 0x3000000 ≤ o ∧ o < 0x3005000 then findReg .device 0 (o - 0x3000000) Reg.all
  else if 0x3020000 ≤ o ∧ o < 0x3030000 then findReg .module 0 (o - 0x3020000) Reg.all
  else none

/-! ### Fields (R15) -/

/-- The bits of a field that a write of `len` bytes at byte `b` of a register covers, as a mask. -/
def coverOf (f : Fld) (b len : Nat) : Nat := (2 ^ (8 * len) - 1) * 2 ^ (8 * b) / 2 ^ f.info.lo % 2 ^ f.width
/-- The written bits of a field. -/
def onesOf (f : Fld) (b len v : Nat) : Nat := v % 2 ^ (8 * len) * 2 ^ (8 * b) / 2 ^ f.info.lo % 2 ^ f.width

/-- A field that reads and writes. -/
def isRw (f : Fld) : Bool := f.info.ty == .rw || f.info.ty == .rwl

/-- The least value of a field: HIGH of an occupancy is raised to USED whenever USED exceeds it (R121, R212, R307). -/
def fieldFloor (s : State) (f : Fld) (u : Nat) : Nat :=
  match f with
  | .ACC_SPILL_STAT_HIGH => s.rf .ACC_SPILL_STAT_USED u
  | .ACC_OVF_STAT_HIGH => s.rf .ACC_OVF_STAT_USED u
  | .CORE_TRK_STAT_HIGH => s.rf .CORE_TRK_STAT_USED u
  | .FAB_TRK_STAT_HIGH => s.rf .FAB_TRK_STAT_USED u
  | _ => 0

/-- What a write gives a field: the merged value of one that reads and writes, otherwise the written ones. -/
def fieldIn (s : State) (l : RegLoc) (len v : Nat) (f : Fld) : Nat :=
  if isRw f then
    let old := s.rf f l.unit l.idx
    max (fieldFloor s f l.unit) (old - (old &&& coverOf f l.byte len) + onesOf f l.byte len v)
  else onesOf f l.byte len v

/-- The whole register as a write gives it. -/
def wordIn (s : State) (l : RegLoc) (len v : Nat) : Nat :=
  l.reg.fields.foldl (fun n f => n + fieldIn s l len v f * 2 ^ f.info.lo) 0

/-- Fields whose writes have rules of their own; the register's action treats them. -/
def ownField (f : Fld) : Bool :=
  let rs : List Reg := [.CLK_PLL_CFG, .CLK_SSC, .TST_INJ]
  let fs : List Fld := [.CORE_DIS_CTL_CORE, .CORE_DIS_CTL_MAT, .CORE_DIS_CTL_VEC, .CORE_DIS_CTL_LOAD, .CORE_DIS_CTL_STORE,
    .GRV_DIS_CTL_GROVE, .FAB_DIS_CTL_PORT, .HLF_HB_CTL_SELFFAIL, .CLK_MUX_SEL, .PWR_DOM_RST_HOLD]
  rs.contains f.info.reg || fs.contains f

/-- A field that ignores writes at present: by the lock of HLF_NODE_ID (R49), while the beat unit is enabled (R364), while its
region or partition is in use (R122, R212, R345), or by the boot lock (R15). -/
def fieldLocked (s : State) (l : RegLoc) (f : Fld) : Bool :=
  let ids : List Fld := [.HLF_NODE_ID_GROUP, .HLF_NODE_ID_ROW, .HLF_NODE_ID_COL]
  let beats : List Fld := [.BEAT_CFG_PERIOD, .BEAT_CFG_ROLE, .BEAT_NOW_BEAT, .BEAT_STEP_START]
  let ovf : List Fld := [.ACC_OVF_BASE_BASE, .ACC_OVF_CFG_SLOTS]
  let und : List Fld := [.COL_UND_CFG_BASE, .COL_UND_CFG_SIZE]
  (ids.contains f && s.rb .HLF_NODE_ID_LOCK l.unit) || (beats.contains f && s.rb .BEAT_CFG_EN) ||
    (ovf.contains f && s.rb .ACC_OVF_STAT_USED l.unit) || (und.contains f && s.rb .COL_UND_OCC_KEYS l.unit) ||
    (f == .CORE_SPEC_CFG_PART && (s.core (Fin.ofNat 80 l.unit)).spec.isSome) || (f.info.ty == .rwl && bootLocked s 0)

/-- The registers of the beat unit, which both halves read alike (R364). -/
def sharedReg (r : Reg) : Bool :=
  [Reg.BEAT_CFG, .BEAT_NOW, .BEAT_SUB, .BEAT_OFS, .BEAT_CAD, .BEAT_STAT, .BEAT_SCHED, .BEAT_STEP, .BEAT_LOG_BASE, .BEAT_LOG_IDX].contains r

/-- A field set in its unit, or in both halves. -/
def setField (s : State) (l : RegLoc) (f : Fld) (v : Nat) : State :=
  if sharedReg l.reg then s.wfBoth f v l.idx else s.wf f v l.unit l.idx

/-- One field written by its access type (R15); `t` is the state before the write. Of the fields that read as zero only
SEC_EXT_Dk keep a value (R484). COL_ARM_ADDR.ADDR is RW, so a write by Dexca changes it at once, though R49 has it change at a
fence alone: DESIGN CHOICE (log 149). -/
def writeField (t : State) (l : RegLoc) (len v : Nat) (s : State) (f : Fld) : State :=
  if ownField f || fieldLocked t l f then s
  else
    let x := fieldIn t l len v f
    let old := t.rf f l.unit l.idx
    match f.info.ty with
    | .rw => setField s l f x
    | .rwl => setField s l f x
    | .wo => if f = .SEC_EXT_D_VAL ∧ coverOf f l.byte len ≠ 0 then setField s l f x else s
    | .w1c => setField s l f (old - (old &&& x))
    | .w1s => setField s l f (old ||| x)
    | .ro => s
    | .rc => s

/-- Every field of a register written. -/
def writeFields (s : State) (l : RegLoc) (len v : Nat) : State :=
  l.reg.fields.foldl (writeField s l len v) s

/-- A register with a field whose value is free. -/
def freeReg (r : Reg) : Bool := [Reg.PWR_RAIL, .BEAT_SUB, .CORE_SURV_STAT].contains r

/-- A read of `len` bytes of a register by its fields' access types (R15): a WO field reads zero, and an RC field that the read
covers is cleared by it. -/
def readRegister (s : State) (l : RegLoc) (len : Nat) : State × Nat :=
  let clear := fun (t : State) (f : Fld) => if f.info.ty == .rc && coverOf f l.byte len != 0 then setField t l f 0 else t
  let word := l.reg.fields.foldl (fun n f => if f.info.ty == .wo then n else n + s.view f l.unit l.idx * 2 ^ f.info.lo) 0
  (l.reg.fields.foldl clear (if freeReg l.reg then s.used else s), word / 2 ^ (8 * l.byte) % 2 ^ (8 * len))

/-! ### Actions -/

/-- The state that an outcome leaves. -/
def after (s : State) (o : Host.Outcome State Fault Refusal) : State :=
  match o with
  | .next t => t
  | _ => s

/-- The unit that a PWR_CTL write names (R500, R510). -/
def pwrUnit (v : Nat) : Option PowerUnit :=
  if bit v 7 then (if v % 64 < 5 then some (.grove (Fin.ofNat 5 v)) else none)
  else if v % 64 < 40 then some (.core (Fin.ofNat 40 (v % 64))) else none

/-- A PWR_CTL write (R500, R501); one that names no unit is refused. -/
def pwrWrite (s : State) (a : Agent) (h : HalfId) (v : Nat) : State :=
  match pwrUnit (v % 2 ^ 9) with
  | none => if isDexca a then refusePower s h else s.privFault
  | some u => after s (if bit v 8 then execWakeRequest a h u s else execPowerOffRequest a h u s)

/-- The bits of CORE_DIS_CTL that a write sets (R209). -/
def disWrite (s : State) (a : Agent) (c : CoreId) (v : Nat) : State :=
  let s := if bit v 1 then after s (execDisableMat a c s) else s
  let s := if bit v 2 then after s (execDisableVec a c s) else s
  let s := if bit v 3 then after s (execDisableLoad a c s) else s
  let s := if bit v 4 then after s (execDisableStore a c s) else s
  if bit v 0 then after s (execDisableCore a c s) else s

/-- An entry of the group route table of half `h` copied to the other half: both hold equal tables (R308; log 142). -/
def mirrorRoute (s : State) (h : HalfId) (g : Nat) : State :=
  [Fld.FAB_GRT_VALID, .FAB_GRT_VIA, .FAB_GRT_DEV, .FAB_GRT_PORT].foldl (fun s f => s.wf f (s.rf f h.val g) (1 - h.val) g) s

/-- SRC after a write to BEAT_CFG (R352): OFF while EN is 0, and the fabric's exchanges alone once the count starts. -/
def beatSource (s : State) : State :=
  if !s.rb .BEAT_CFG_EN then s.wfBoth .BEAT_STAT_SRC srcOff
  else if s.rf .BEAT_STAT_SRC = srcOff then s.wfBoth .BEAT_STAT_SRC srcFabric else s

/-- What a write of `v` to a register of a half does beyond its fields; one to BEAT_LOG_IDX restarts NEXT (R365; log 146). -/
def halfAct (s : State) (r : Reg) (a : Agent) (h : HalfId) (i v : Nat) : State :=
  let on := fun (b : Nat) (o : Host.Outcome State Fault Refusal) => if bit v b then after s o else s
  let n : PllId := Fin.ofNat 4 i
  let ch : ChanId := Fin.ofNat 16 i
  match r with
  | .GLD_CLR_CTL => on 0 (execGladeClear a h s)
  | .HBM_INIT_CTL => on 0 (execHbmInit a h s)
  | .LPX_INIT_CTL => on 0 (execLpxInit a h s)
  | .FAB_GRT => mirrorRoute s h i
  | .BEAT_CFG => beatSource s
  | .BEAT_LOG_IDX => s.wfBoth .BEAT_LOG_IDX_NEXT 0
  | .FAB_QCLR => after s (execFabQclr a h (v % 512) s)
  | .FAB_DIS_CTL => after s (execPortDisable a h (v % 512) s)
  | .HLF_HB_CTL => let s := if bit v 0 then after s (execKick a h s) else s; if bit v 1 then after s (execSelffail a h s) else s
  | .HLF_FO_CTL => on 0 (execFailsetClear a h s)
  | .MBX_IN_WR => after s (execMbxInWr a h ch v s)
  | .MBX_OUT_WR => after s (execMbxOutWr a h ch v s)
  | .MBX_CTL => let s := if bit v 0 then after s (execFlushIn h ch s) else s; if bit v 1 then after s (execFlushOut h ch s) else s
  | .IRQ_PEND => irqSettle s h
  | .IRQ_EN => irqSettle s h
  | .SEC_BOOT_CTL => on 0 (execBootGo h false s)
  | .SEC_EXT_CTL => on 3 (execMeasExtend a h (Fin.ofNat 8 v) s)
  | .CLK_PLL_CFG => after s (execPllConfigWrite a h n v s)
  | .CLK_SSC => after s (execSscWrite a h n v s)
  | .CLK_MUX => after s (if bit v 2 then execForceSwitch a h (Fin.ofNat 5 i) (Fin.ofNat 4 v) s
      else execMuxSelect a h (Fin.ofNat 5 i) (Fin.ofNat 4 v) s)
  | .CLK_FMON_CTL => on 4 (execFmonGo a h (bit v 3) (Fin.ofNat 8 v) s)
  | .PWR_CTL => pwrWrite s a h v
  | .PWR_DOM_RST => after s (execDomainReset a h (v % 32) s)
  | .AGE_CTL => on 0 (execAgeMeasure a h s)
  | .TST_INJ => if bit v 63 then after s (execTstInjArm a h v s) else writeInj s h v
  | _ => s

/-- A write covers some bit of a field: one that meets reserved bits alone has no effect (R13). -/
def covers (l : RegLoc) (len : Nat) : Bool := l.reg.fields.any (fun f => coverOf f l.byte len != 0)

/-- What a write to a register does beyond its fields. -/
def regAct (s : State) (l : RegLoc) (a : Agent) (v : Nat) : State :=
  match l.reg.info.scope with
  | .half => halfAct s l.reg a (Fin.ofNat 2 l.unit) l.idx v
  | .core =>
    let c : CoreId := Fin.ofNat 80 l.unit
    if l.reg = .CORE_DIS_CTL then disWrite s a c v
    else if l.reg = .MAT_CTL ∧ bit v 0 then after s (execTagClr a c s)
    else s
  | .grove => if l.reg = .GRV_DIS_CTL ∧ bit v 0 then after s (execDisableGrove a (Fin.ofNat 10 l.unit) s) else s
  | _ => s

/-! ### Who may write -/

/-- The half that a place belongs to. -/
def locHalf (l : RegLoc) : HalfId :=
  match l.reg.info.scope with
  | .half => Fin.ofNat 2 l.unit
  | .core => Fin.ofNat 2 (l.unit / 40)
  | .grove => Fin.ofNat 2 (l.unit / 5)
  | _ => 0

/-- An agent may write a register (R49, R121, R437, R438, R484, R510, R521, R547); PLLs and spreads also by the plinth before
Dexca runs. -/
def mayWrite (s : State) (a : Agent) (l : RegLoc) : Bool :=
  let h := locHalf l
  match l.reg.info.writer with
  | .any => true
  | .dexca => isDexca a || ((l.reg == .CLK_PLL_CFG || l.reg == .CLK_SSC) && clkWriter s a h)
  | .dexcaOrPeer => dexcaOrPeer a h
  | .ranger => isRanger a h
  | .test => grants s h 0
  | .bootHost => a == .host && !bootLocked s h

/-- A write that is not allowed: a privilege fault, but for SEC_BOOT_CTL, which ignores it (R484). -/
def writeRefused (s : State) (l : RegLoc) : State := if l.reg = .SEC_BOOT_CTL then s else s.privFault

/-! ### The write -/

/-- A write to the MSI-X table (R436). -/
def msixWrite (s : State) (o len v : Nat) : State :=
  let t := (natLE len v).zipIdx.foldl (fun m x => aset m (o + x.2) x.1) s.host.msixTable
  msixFlush { s with host := { s.host with msixTable := t } }

/-- A write of 4 or 8 bytes, applied by the fields' access types and the register's own rules (R13, R15, R418, R419); a host's
write of another width or to the flag window is BADACC, one within a stream window sets OVF, and one to a hole is dropped. -/
def writeAt (s : State) (a : Agent) (offset len value : Nat) : State :=
  let bad := if a = .host then s.incSat .DXC_HOST_STAT_BADACC else s
  if inSubmit offset then s.wf .DXC_STR_STAT_OVF 1 0 ((offset - 0x3000000) / 64)
  else if !bar0Good offset len then bad
  else if offset < 0x40000 then bad
  else if 0x3010000 ≤ offset ∧ offset + len ≤ 0x3010400 then msixWrite s (offset - 0x3010000) len value
  else match locate offset with
    | none => s
    | some l =>
      if outOfReach s a (locHalf l) then s
      else if mayWrite s a l then
        let t := writeFields s l len value
        if covers l len then regAct t l a (wordIn s l len value) else t
      else writeRefused s l

/-! ### The read -/

/-- The bytes of the MSI-X table and of its pending bit array (R419, R436). -/
def msixRead (s : State) (o len : Nat) : Nat :=
  if o < 0x400 then leNat ((List.range len).map (fun i => msixByte s (o + i)))
  else (s.host.msixPending.eraseDups.foldl (fun n v => n + 2 ^ v) 0) / 2 ^ (8 * (o - 0x400)) % 2 ^ (8 * len)

/-- A read answers a value. -/
def replyValue (s : State) (v : Nat) : State := { s with reply := .value v }

/-- A read of a register whose reads have rows of their own, or of a plain one (R15, R431, R433). -/
def readLoc (s : State) (a : Agent) (l : RegLoc) (len : Nat) : State :=
  let h := locHalf l
  let ch : ChanId := Fin.ofNat 16 l.idx
  if covers l len ∧ l.reg = .MBX_IN_RD then after s (execMbxInRd a h ch s)
  else if covers l len ∧ l.reg = .MBX_OUT_RD then after s (execMbxOutRd a h ch s)
  else if covers l len ∧ l.reg = .IRQ_CLAIM then after s (execIrqClaim a h s)
  else
    let r := readRegister s l len
    replyValue r.1 r.2

/-- A read of 4 or 8 bytes of register space (R15, R216, R418, R419): a hole and a stream window read as zero, and the flag
window as its flag words; a host's read of another width completes with Completer Abort. -/
def readAt (s : State) (a : Agent) (offset len : Nat) : State :=
  if !bar0Good offset len then
    (if a = .host then { s.incSat .DXC_HOST_STAT_BADACC with reply := .completerAbort } else { s with reply := .none })
  else if inSubmit offset then replyValue s 0
  else if offset < 0x40000 then replyValue s (flagWord s (Fin.ofNat 32768 (offset / 8)) / 2 ^ (8 * (offset % 8)) % 2 ^ (8 * len))
  else if 0x3010000 ≤ offset ∧ offset + len ≤ 0x3010408 then replyValue s (msixRead s (offset - 0x3010000) len)
  else match locate offset with
    | none => replyValue s 0
    | some l => if outOfReach s a (locHalf l) then { s with reply := .none } else readLoc s a l len

/-- REGISTER_WRITE (R9, R15, R418, R419): a write of a value, or a read where none is given (log 63). -/
def execRegisterWrite (a : Agent) (offset len : Nat) (value : Option Nat) (s : State) : Host.Outcome State Fault Refusal :=
  match value with
  | none => .next (readAt s a offset len)
  | some v => .next (writeAt s a offset len v)

end Sys2Proof.Machine
end

