-- ==== Sys2Proof/Machine/Dispatch.lean ====
section
/-!
DEFINITION. `exec`: one arm for each constructor of `Instr`, each one call of its meaning.
-/

namespace Sys2Proof.Machine

/-- The effect of a command on everything but the queue. -/
def exec (i : Instr) (s : State) : Host.Outcome State Fault Refusal :=
  match i with
  | .mainInputRise => Sys2Proof.Machine.execMainInputRise s
  | .railsGood => Sys2Proof.Machine.execRailsGood s
  | .mainInputFault high => Sys2Proof.Machine.execMainInputFault high s
  | .powerExcursionTrip => Sys2Proof.Machine.execPowerExcursionTrip s
  | .railFaultTrip => Sys2Proof.Machine.execRailFaultTrip s
  | .thermalTrip => Sys2Proof.Machine.execThermalTrip s
  | .auxLoss => Sys2Proof.Machine.execAuxLoss s
  | .shutdownCauseRead => Sys2Proof.Machine.execShutdownCauseRead s
  | .shutdownCauseClear value => Sys2Proof.Machine.execShutdownCauseClear value s
  | .perstNAssert => Sys2Proof.Machine.execPerstNAssert s
  | .perstNRelease => Sys2Proof.Machine.execPerstNRelease s
  | .moduleResetRelease feedPins leadSel => Sys2Proof.Machine.execModuleResetRelease feedPins leadSel s
  | .oscAmplitudeLow => Sys2Proof.Machine.execOscAmplitudeLow s
  | .oscillatorStable => Sys2Proof.Machine.execOscillatorStable s
  | .pllLock h n failed => Sys2Proof.Machine.execPllLock h n failed s
  | .pllLockTimeout h n => Sys2Proof.Machine.execPllLockTimeout h n s
  | .selftestDone => Sys2Proof.Machine.execSelftestDone s
  | .stagingWrite offset data => Sys2Proof.Machine.execStagingWrite offset data s
  | .bootGo h sameCycleWrite => Sys2Proof.Machine.execBootGo h sameCycleWrite s
  | .bootCheckDone => Sys2Proof.Machine.execBootCheckDone s
  | .bootBridgeTimeout => Sys2Proof.Machine.execBootBridgeTimeout s
  | .measExtend a h slot => Sys2Proof.Machine.execMeasExtend a h slot s
  | .measExtendDone h => Sys2Proof.Machine.execMeasExtendDone h s
  | .refLoss h r => Sys2Proof.Machine.execRefLoss h r s
  | .refReturn h r => Sys2Proof.Machine.execRefReturn h r s
  | .relock a h n => Sys2Proof.Machine.execRelock a h n s
  | .pllConfigWrite a h n value => Sys2Proof.Machine.execPllConfigWrite a h n value s
  | .fbdivSlewStep h => Sys2Proof.Machine.execFbdivSlewStep h s
  | .sscWrite a h n value => Sys2Proof.Machine.execSscWrite a h n value s
  | .sscApply h n => Sys2Proof.Machine.execSscApply h n s
  | .muxSelect a h d sel => Sys2Proof.Machine.execMuxSelect a h d sel s
  | .muxSwitchDone h d => Sys2Proof.Machine.execMuxSwitchDone h d s
  | .muxHang h d => Sys2Proof.Machine.execMuxHang h d s
  | .forceSwitch a h d sel => Sys2Proof.Machine.execForceSwitch a h d sel s
  | .domainReset a h hold => Sys2Proof.Machine.execDomainReset a h hold s
  | .fmonGo a h base target => Sys2Proof.Machine.execFmonGo a h base target s
  | .fmonDone h count => Sys2Proof.Machine.execFmonDone h count s
  | .powerOffRequest a h u => Sys2Proof.Machine.execPowerOffRequest a h u s
  | .powerDownDone h u => Sys2Proof.Machine.execPowerDownDone h u s
  | .wakeRequest a h u => Sys2Proof.Machine.execWakeRequest a h u s
  | .wakeRampDone h u => Sys2Proof.Machine.execWakeRampDone h u s
  | .wakeComplete h u failed => Sys2Proof.Machine.execWakeComplete h u failed s
  | .tokenHeartbeat h => Sys2Proof.Machine.execTokenHeartbeat h s
  | .peerTokenHeartbeat h => Sys2Proof.Machine.execPeerTokenHeartbeat h s
  | .halfFence h => Sys2Proof.Machine.execHalfFence h s
  | .tokenGrant h => Sys2Proof.Machine.execTokenGrant h s
  | .bridgeLinkFail => Sys2Proof.Machine.execBridgeLinkFail s
  | .ageMeasure a h => Sys2Proof.Machine.execAgeMeasure a h s
  | .ageMeasureDone h counts => Sys2Proof.Machine.execAgeMeasureDone h counts s
  | .marginReplan => Sys2Proof.Machine.execMarginReplan s
  | .powerAverageCheck avg now vin => Sys2Proof.Machine.execPowerAverageCheck avg now vin s
  | .junctionRead half0 half1 inlet tenMs => Sys2Proof.Machine.execJunctionRead half0 half1 inlet tenMs s
  | .cadRegenWrite a regen => Sys2Proof.Machine.execCadRegenWrite a regen s
  | .cadRegenApply => Sys2Proof.Machine.execCadRegenApply s
  | .pcieConfigRequest offset data => Sys2Proof.Machine.execPcieConfigRequest offset data s
  | .bar0BadAccess write offset len => Sys2Proof.Machine.execBar0BadAccess write offset len s
  | .registerWrite a offset len value => Sys2Proof.Machine.execRegisterWrite a offset len value s
  | .bar2Access offset len data => Sys2Proof.Machine.execBar2Access offset len data s
  | .streamSubmit m tlps desc => Sys2Proof.Machine.execStreamSubmit m tlps desc s
  | .work m => Sys2Proof.Machine.execWork m s
  | .wait m => Sys2Proof.Machine.execWait m s
  | .streamSet m => Sys2Proof.Machine.execStreamSet m s
  | .mbxInWr a h ch word => Sys2Proof.Machine.execMbxInWr a h ch word s
  | .mbxOutWr a h ch word => Sys2Proof.Machine.execMbxOutWr a h ch word s
  | .mbxInRd a h ch => Sys2Proof.Machine.execMbxInRd a h ch s
  | .mbxOutRd a h ch => Sys2Proof.Machine.execMbxOutRd a h ch s
  | .flushIn h ch => Sys2Proof.Machine.execFlushIn h ch s
  | .flushOut h ch => Sys2Proof.Machine.execFlushOut h ch s
  | .irqClaim a h => Sys2Proof.Machine.execIrqClaim a h s
  | .irqCoalesceTimeout h => Sys2Proof.Machine.execIrqCoalesceTimeout h s
  | .info h ch => Sys2Proof.Machine.execInfo h ch s
  | .status h ch => Sys2Proof.Machine.execStatus h ch s
  | .nodeDesc h ch => Sys2Proof.Machine.execNodeDesc h ch s
  | .opQuery h ch => Sys2Proof.Machine.execOpQuery h ch s
  | .chLog h ch => Sys2Proof.Machine.execChLog h ch s
  | .jobLoad h ch => Sys2Proof.Machine.execJobLoad h ch s
  | .jobStart h ch => Sys2Proof.Machine.execJobStart h ch s
  | .jobStop h ch => Sys2Proof.Machine.execJobStop h ch s
  | .jobUnload h ch => Sys2Proof.Machine.execJobUnload h ch s
  | .armInstall h ch => Sys2Proof.Machine.execArmInstall h ch s
  | .schedSet h ch => Sys2Proof.Machine.execSchedSet h ch s
  | .restore h ch => Sys2Proof.Machine.execRestore h ch s
  | .xfer h ch => Sys2Proof.Machine.execXfer h ch s
  | .xferAbort h ch => Sys2Proof.Machine.execXferAbort h ch s
  | .b2win h ch => Sys2Proof.Machine.execB2win h ch s
  | .flagSet h ch => Sys2Proof.Machine.execFlagSet h ch s
  | .flagPoison h ch => Sys2Proof.Machine.execFlagPoison h ch s
  | .streamRestart h ch => Sys2Proof.Machine.execStreamRestart h ch s
  | .ckptCfg h ch => Sys2Proof.Machine.execCkptCfg h ch s
  | .risk h ch => Sys2Proof.Machine.execRisk h ch s
  | .unitDisable h ch => Sys2Proof.Machine.execUnitDisable h ch s
  | .expel h ch => Sys2Proof.Machine.execExpel h ch s
  | .surveyLoad h ch => Sys2Proof.Machine.execSurveyLoad h ch s
  | .portRelease h ch => Sys2Proof.Machine.execPortRelease h ch s
  | .fabMode h ch => Sys2Proof.Machine.execFabMode h ch s
  | .peers h ch => Sys2Proof.Machine.execPeers h ch s
  | .attest h ch => Sys2Proof.Machine.execAttest h ch s
  | .certChain h ch => Sys2Proof.Machine.execCertChain h ch s
  | .authLoad h ch => Sys2Proof.Machine.execAuthLoad h ch s
  | .authClear h ch => Sys2Proof.Machine.execAuthClear h ch s
  | .lifecycle h ch => Sys2Proof.Machine.execLifecycle h ch s
  | .badOpcode h ch => Sys2Proof.Machine.execBadOpcode h ch s
  | .channel15Discard h => Sys2Proof.Machine.execChannel15Discard h s
  | .opDone handle hostData hostError badReads => Sys2Proof.Machine.execOpDone handle hostData hostError badReads s
  | .eventPost h => Sys2Proof.Machine.execEventPost h s
  | .workEntryOp nd q => Sys2Proof.Machine.execWorkEntryOp nd q s
  | .workEntryProg nd q => Sys2Proof.Machine.execWorkEntryProg nd q s
  | .partStart c => Sys2Proof.Machine.execPartStart c s
  | .partComplete c n => Sys2Proof.Machine.execPartComplete c n s
  | .cmdEnd c n => Sys2Proof.Machine.execEnd c n s
  | .invalidClass c n => Sys2Proof.Machine.execInvalidClass c n s
  | .coreClockGate c => Sys2Proof.Machine.execCoreClockGate c s
  | .mat c n => Sys2Proof.Machine.execMat c n s
  | .beginClearPoint c => Sys2Proof.Machine.execBeginClearPoint c s
  | .kBlockLoad c => Sys2Proof.Machine.execKBlockLoad c s
  | .kBlockStream c => Sys2Proof.Machine.execKBlockStream c s
  | .deposit c => Sys2Proof.Machine.execDeposit c s
  | .residueDeposit c col => Sys2Proof.Machine.execResidueDeposit c col s
  | .farDeposit c => Sys2Proof.Machine.execFarDeposit c s
  | .gladeDeposit c => Sys2Proof.Machine.execGladeDeposit c s
  | .promotionTimeout c => Sys2Proof.Machine.execPromotionTimeout c s
  | .matComplete c => Sys2Proof.Machine.execMatComplete c s
  | .drain c n => Sys2Proof.Machine.execDrain c n s
  | .drainStart c => Sys2Proof.Machine.execDrainStart c s
  | .drainComplete c => Sys2Proof.Machine.execDrainComplete c s
  | .tagClr a c => Sys2Proof.Machine.execTagClr a c s
  | .pairCfgWrite a g en => Sys2Proof.Machine.execPairCfgWrite a g en s
  | .vadd c n => Sys2Proof.Machine.execVadd c n s
  | .vsub c n => Sys2Proof.Machine.execVsub c n s
  | .vmul c n => Sys2Proof.Machine.execVmul c n s
  | .vfma c n => Sys2Proof.Machine.execVfma c n s
  | .vmax c n => Sys2Proof.Machine.execVmax c n s
  | .vmin c n => Sys2Proof.Machine.execVmin c n s
  | .vaxpy c n => Sys2Proof.Machine.execVaxpy c n s
  | .vexp c n => Sys2Proof.Machine.execVexp c n s
  | .vlog c n => Sys2Proof.Machine.execVlog c n s
  | .vsqrt c n => Sys2Proof.Machine.execVsqrt c n s
  | .vrsq c n => Sys2Proof.Machine.execVrsq c n s
  | .vdiv c n => Sys2Proof.Machine.execVdiv c n s
  | .vabs c n => Sys2Proof.Machine.execVabs c n s
  | .cvt c n => Sys2Proof.Machine.execCvt c n s
  | .qcvt c n => Sys2Proof.Machine.execQcvt c n s
  | .scupd c n => Sys2Proof.Machine.execScupd c n s
  | .rsum c n => Sys2Proof.Machine.execRsum c n s
  | .rsumsq c n => Sys2Proof.Machine.execRsumsq c n s
  | .rdot c n => Sys2Proof.Machine.execRdot c n s
  | .ramax c n => Sys2Proof.Machine.execRamax c n s
  | .smcomb c n => Sys2Proof.Machine.execSmcomb c n s
  | .exdep c n => Sys2Proof.Machine.execExdep c n s
  | .exred c n => Sys2Proof.Machine.execExred c n s
  | .optstep c n => Sys2Proof.Machine.execOptstep c n s
  | .rngu c n => Sys2Proof.Machine.execRngu c n s
  | .rngdrop c n => Sys2Proof.Machine.execRngdrop c n s
  | .vecInvalidOp c n => Sys2Proof.Machine.execVecInvalidOp c n s
  | .vecComplete c => Sys2Proof.Machine.execVecComplete c s
  | .load c n => Sys2Proof.Machine.execLoad c n s
  | .store c n => Sys2Proof.Machine.execStore c n s
  | .transferComplete c id badReads => Sys2Proof.Machine.execTransferComplete c id badReads s
  | .cond c n => Sys2Proof.Machine.execCond c n s
  | .condResolve c n => Sys2Proof.Machine.execCondResolve c n s
  | .runAheadRead c n k badReads => Sys2Proof.Machine.execRunAheadRead c n k badReads s
  | .specCommit c => Sys2Proof.Machine.execSpecCommit c s
  | .specExpire h handle => Sys2Proof.Machine.execSpecExpire h handle s
  | .disableCore a c => Sys2Proof.Machine.execDisableCore a c s
  | .disableMat a c => Sys2Proof.Machine.execDisableMat a c s
  | .disableVec a c => Sys2Proof.Machine.execDisableVec a c s
  | .disableLoad a c => Sys2Proof.Machine.execDisableLoad a c s
  | .disableStore a c => Sys2Proof.Machine.execDisableStore a c s
  | .disableGrove a g => Sys2Proof.Machine.execDisableGrove a g s
  | .disableDrainExpire u => Sys2Proof.Machine.execDisableDrainExpire u s
  | .set c n => Sys2Proof.Machine.execSet c n s
  | .clear c n => Sys2Proof.Machine.execClear c n s
  | .claim c n => Sys2Proof.Machine.execClaim c n s
  | .unclaim c n => Sys2Proof.Machine.execUnclaim c n s
  | .fence c n => Sys2Proof.Machine.execFence c n s
  | .setReachesFlag f src more => Sys2Proof.Machine.execSetReachesFlag f src more s
  | .add32 addr operand => Sys2Proof.Machine.execAdd32 addr operand s
  | .add64 addr operand => Sys2Proof.Machine.execAdd64 addr operand s
  | .swap32 addr operand => Sys2Proof.Machine.execSwap32 addr operand s
  | .swap64 addr operand => Sys2Proof.Machine.execSwap64 addr operand s
  | .merge addr m => Sys2Proof.Machine.execMerge addr m s
  | .bistRegionStart u failWord => Sys2Proof.Machine.execBistRegionStart u failWord s
  | .bistForce u stolen => Sys2Proof.Machine.execBistForce u stolen s
  | .bistRegionEnd u readBackBad => Sys2Proof.Machine.execBistRegionEnd u readBackBad s
  | .gladeClear a h => Sys2Proof.Machine.execGladeClear a h s
  | .gladeClearEnd h => Sys2Proof.Machine.execGladeClearEnd h s
  | .hbmInit a h => Sys2Proof.Machine.execHbmInit a h s
  | .lpxInit a h => Sys2Proof.Machine.execLpxInit a h s
  | .initEnd h lpx => Sys2Proof.Machine.execInitEnd h lpx s
  | .hbmTempReading st reading corrected => Sys2Proof.Machine.execHbmTempReading st reading corrected s
  | .lpddrRefreshRead b extraRefresh corrected => Sys2Proof.Machine.execLpddrRefreshRead b extraRefresh corrected s
  | .portEnable p => Sys2Proof.Machine.execPortEnable p s
  | .detectRetry p => Sys2Proof.Machine.execDetectRetry p s
  | .peerSignal p => Sys2Proof.Machine.execPeerSignal p s
  | .equaliseDone p lanes => Sys2Proof.Machine.execEqualiseDone p lanes s
  | .identityRecord p copies => Sys2Proof.Machine.execIdentityRecord p copies s
  | .identTimeout p => Sys2Proof.Machine.execIdentTimeout p s
  | .quarantineBeacon p => Sys2Proof.Machine.execQuarantineBeacon p s
  | .flitReceive p f => Sys2Proof.Machine.execFlitReceive p f s
  | .retrainTimeout p => Sys2Proof.Machine.execRetrainTimeout p s
  | .portAckTimeout p => Sys2Proof.Machine.execPortAckTimeout p s
  | .signalLoss p => Sys2Proof.Machine.execSignalLoss p s
  | .fabQclr a h ports => Sys2Proof.Machine.execFabQclr a h ports s
  | .portDisable a h ports => Sys2Proof.Machine.execPortDisable a h ports s
  | .portDrainExpire p => Sys2Proof.Machine.execPortDrainExpire p s
  | .put c n => Sys2Proof.Machine.execPut c n s
  | .get c n => Sys2Proof.Machine.execGet c n s
  | .exadd c n => Sys2Proof.Machine.execExadd c n s
  | .atomic c n => Sys2Proof.Machine.execAtomic c n s
  | .token c n => Sys2Proof.Machine.execToken c n s
  | .confirm c n => Sys2Proof.Machine.execConfirm c n s
  | .cancel c n => Sys2Proof.Machine.execCancel c n s
  | .fabricInvalidOp c n => Sys2Proof.Machine.execFabricInvalidOp c n s
  | .reduceScatter c n => Sys2Proof.Machine.execReduceScatter c n s
  | .allGather c n => Sys2Proof.Machine.execAllGather c n s
  | .allReduce c n => Sys2Proof.Machine.execAllReduce c n s
  | .permute c n => Sys2Proof.Machine.execPermute c n s
  | .fabricComplete op => Sys2Proof.Machine.execFabricComplete op s
  | .collComplete op => Sys2Proof.Machine.execCollComplete op s
  | .putPacket p pkt => Sys2Proof.Machine.execPutPacket p pkt s
  | .packetResend p pkt => Sys2Proof.Machine.execPacketResend p pkt s
  | .getPacket p pkt badReads => Sys2Proof.Machine.execGetPacket p pkt badReads s
  | .getdata p pkt => Sys2Proof.Machine.execGetdata p pkt s
  | .exaddPacket p pkt => Sys2Proof.Machine.execExaddPacket p pkt s
  | .flagset p pkt => Sys2Proof.Machine.execFlagset p pkt s
  | .tokenPacket p pkt => Sys2Proof.Machine.execTokenPacket p pkt s
  | .atomicPacket p pkt => Sys2Proof.Machine.execAtomicPacket p pkt s
  | .confirmPacket p pkt => Sys2Proof.Machine.execConfirmPacket p pkt s
  | .cancelPacket p pkt => Sys2Proof.Machine.execCancelPacket p pkt s
  | .done p pkt => Sys2Proof.Machine.execDone p pkt s
  | .packetBadtype p pkt => Sys2Proof.Machine.execPacketBadtype p pkt s
  | .transit p pkt => Sys2Proof.Machine.execTransit p pkt s
  | .fabTimeout tag => Sys2Proof.Machine.execFabTimeout tag s
  | .sync p pkt t2 t3 => Sys2Proof.Machine.execSync p pkt t2 t3 s
  | .reply p pkt t4 => Sys2Proof.Machine.execReply p pkt t4 s
  | .late p pkt => Sys2Proof.Machine.execLate p pkt s
  | .decide p pkt => Sys2Proof.Machine.execDecide p pkt s
  | .shift p pkt => Sys2Proof.Machine.execShift p pkt s
  | .beatmarkBadkind p pkt => Sys2Proof.Machine.execBeatmarkBadkind p pkt s
  | .heartbeat p pkt => Sys2Proof.Machine.execHeartbeat p pkt s
  | .failnote p pkt => Sys2Proof.Machine.execFailnote p pkt s
  | .probe p pkt => Sys2Proof.Machine.execProbe p pkt s
  | .probeReply p pkt => Sys2Proof.Machine.execProbeReply p pkt s
  | .probeTimeout dev => Sys2Proof.Machine.execProbeTimeout dev s
  | .declare p pkt => Sys2Proof.Machine.execDeclare p pkt s
  | .stop p pkt => Sys2Proof.Machine.execStop p pkt s
  | .digest p pkt => Sys2Proof.Machine.execDigest p pkt s
  | .stopReq p pkt => Sys2Proof.Machine.execStopReq p pkt s
  | .expelReq p pkt => Sys2Proof.Machine.execExpelReq p pkt s
  | .armAck p pkt => Sys2Proof.Machine.execArmAck p pkt s
  | .table p pkt => Sys2Proof.Machine.execTable p pkt s
  | .mgmtUnknown p pkt => Sys2Proof.Machine.execMgmtUnknown p pkt s
  | .beatBoundary => Sys2Proof.Machine.execBeatBoundary s
  | .phaseDeadline ph => Sys2Proof.Machine.execPhaseDeadline ph s
  | .extendDecide ph => Sys2Proof.Machine.execExtendDecide ph s
  | .decideTimeout ph => Sys2Proof.Machine.execDecideTimeout ph s
  | .beatFence => Sys2Proof.Machine.execBeatFence s
  | .armCancel => Sys2Proof.Machine.execArmCancel s
  | .cadenceMark bits stamp => Sys2Proof.Machine.execCadenceMark bits stamp s
  | .cadenceLoss => Sys2Proof.Machine.execCadenceLoss s
  | .beatExchange t1 => Sys2Proof.Machine.execBeatExchange t1 s
  | .holdover => Sys2Proof.Machine.execHoldover s
  | .beatLost => Sys2Proof.Machine.execBeatLost s
  | .watchdogExpire h => Sys2Proof.Machine.execWatchdogExpire h s
  | .kick a h => Sys2Proof.Machine.execKick a h s
  | .selffail a h => Sys2Proof.Machine.execSelffail a h s
  | .failsetClear a h => Sys2Proof.Machine.execFailsetClear a h s
  | .failoverExtension => Sys2Proof.Machine.execFailoverExtension s
  | .shiftTimeout => Sys2Proof.Machine.execShiftTimeout s
  | .takeoverComplete => Sys2Proof.Machine.execTakeoverComplete s
  | .riskScore m => Sys2Proof.Machine.execRiskScore m s
  | .blockRepair addr partnerData => Sys2Proof.Machine.execBlockRepair addr partnerData s
  | .echoCheck h slot => Sys2Proof.Machine.execEchoCheck h slot s
  | .echoArbiter h slot => Sys2Proof.Machine.execEchoArbiter h slot s
  | .surveySlice c => Sys2Proof.Machine.execSurveySlice c s
  | .surveyProgramEnd c records => Sys2Proof.Machine.execSurveyProgramEnd c records s
  | .surveyDeadline c => Sys2Proof.Machine.execSurveyDeadline c s
  | .tstInjArm a h value => Sys2Proof.Machine.execTstInjArm a h value s
  | .auxReturn => Sys2Proof.Machine.execAuxReturn s
  | .equaliseRetry p => Sys2Proof.Machine.execEqualiseRetry p s

end Sys2Proof.Machine
end

