-- ==== Sys2Proof/Safety.lean ====
section
/-!
DEFINITION. What the statements call a good state, a reset register file, and the parts of the state that a command leaves as they
are.
-/

namespace Sys2Proof.Machine

/-- What every step keeps: the list of memory is in its canonical form, and every register field holds a value of its own width. -/
def State.Inv (s : State) : Prop := s.mem.wf = true ∧ ∀ f u i, s.rf f u i < 2 ^ f.width

/-- Every register field but those of the fuses (SEC_LC) and the count of bypass closures is at its reset value (R14, R529). -/
def ResetRegs (t : State) : Prop :=
  ∀ f u i, f ≠ .SEC_LC_STATE → f ≠ .SEC_LC_NEXT → f ≠ .SEC_LC_MINSVN → f ≠ .SEC_LC_REVOKED → f ≠ .MOD_CAD_CLOSES →
    t.rf f u i = fldReset f u i

/-- Every register field but those listed is as before. -/
def RegsBut (s t : State) (fs : List Fld) : Prop := ∀ f u i, f ∉ fs → t.rf f u i = s.rf f u i

/-- Every byte of memory reads as before. -/
def SameMem (s t : State) : Prop := ∀ a, t.mem.get a = s.mem.get a

/-- Every byte of memory reads as before, but those of the distribution tables of the nodes listed (R36, R40). -/
def TablesOnly (s t : State) (ns : List NodeId) : Prop :=
  ∀ a, (∀ nd ∈ ns, a < tablePlace nd (s.table nd).version ∨
    tablePlace nd (s.table nd).version + 16 + 8 * (s.table nd).slots.length ≤ a) → t.mem.get a = s.mem.get a

/-- Every port has room for `n` flits: it queues nothing, and its replay buffer takes them (R285). -/
def PortsIdle (s : State) (n : Nat) : Prop := ∀ p, (s.port p).queue = [] ∧ (s.port p).outstanding + n ≤ 1024

/-- A trip with a cause (R528, R529, R532, R538). -/
def Tripped (s t : State) (cause : Nat) : Prop :=
  t.mod.stages = false ∧ t.mod.rails = false ∧ t.mod.tripped = true ∧ t.mod.inReset = true ∧ t.mod.cause = cause ∧
  ResetRegs t ∧ t.mem = [] ∧ t.pending = s.pending

/-- Dexca takes the message at the front of a channel as a request `r` for command `k` with arguments `args`, and finds nothing
to refuse before it looks at them; `t` is the state with the message popped (R440 to R449). -/
def Takes (k : CmdSpec) (s : State) (h : HalfId) (ch : ChanId) (r : Req) (args : List Nat) (t : State) : Prop :=
  ∃ a, nextRequest s h ch k.device = some (r, a, args, t) ∧ r.op = k.op ∧ ch.val ≠ 15 ∧ refusal s k r a args = none

/-- A record of `n` bytes may be written at `a` by a unit of half `h`, and its memory takes it at once (R191, R248, R251, R266). -/
def Writable (s : State) (h : HalfId) (a n : Nat) : Prop :=
  recordPlace a n = true ∧ touchesHidden s (a, n) = false ∧ memWaits s h a n = false

/-- No context of core `c` but `n` can accept a command (R186). -/
def OthersIdle (s : State) (c : CoreId) (n : CtxId) : Prop := ∀ m : CtxId, m ≠ n → ctxState s c m ≠ .ready

/-- Context `n` of core `c` accepts its next command `k` at once: its DEP is none and nothing holds it back (R185, R189, R209). -/
def Accepts (s : State) (c : CoreId) (n : CtxId) (k : Cmd) : Prop :=
  nextCmd s (s.ctx c n) = some k ∧ ctxRuns (s.ctx c n) = true ∧ fenced (s.core c) n = false ∧ coreTakes (s.core c) = true ∧
  hasRoom s c n k.cls = true ∧ k.dep = 0 ∧ itsTurn s c n = true

/-- A command that is accepted at once and is not refused for its mode, its engine or the place of its descriptor (R183, R202,
R209). -/
def Sound (s : State) (c : CoreId) (n : CtxId) (k : Cmd) : Prop :=
  Accepts s c n k ∧ specRefuses (s.ctx c n) k = false ∧ engineClosed s c k.cls = false ∧
  descCheck s c k (fromRing (s.ctx c n)) (s.ctx c n).spec = none

/-- A command of a context has failed with a status (R188, R191): the context has moved past it and stops if STOPERR is set; the
part's status is that of the first failed command; with REC = 0 no byte of memory changes. A set of DFLAG may wake contexts, so this is
said of a command with SETF = 0. -/
def CmdFails (s t : State) (c : CoreId) (n : CtxId) (k : Cmd) (st : Nat) : Prop :=
  k.setf = false →
  (t.ctx c n).ptr = (s.ctx c n).ptr + 1 ∧
  ((s.ctx c n).fail = none → (t.ctx c n).fail = some ((s.ctx c n).ptr, st)) ∧
  ((s.ctx c n).stopErr = true → (t.ctx c n).st = .stopping ∧ (t.ctx c n).ended = true) ∧
  (k.reco = false → SameMem s t) ∧ t.flags = s.flags

/-- A command has entered the tracker of its core as operation `o`, and waits there for its engine (R185, R189). -/
def CmdEntered (s t : State) (c : CoreId) (n : CtxId) (o : Op) : Prop :=
  (t.core c).ops = (s.core c).ops ++ [o] ∧ (t.ctx c n).ptr = (s.ctx c n).ptr + 1 ∧ (t.ctx c n).prev = some (s.core c).nextNum ∧
  SameMem s t ∧ t.flags = s.flags ∧ t.entries = s.entries

/-- A vector command of code `op` that is sound and passes the checks of R550, in a core whose engine is free, with no glade that it
uses under a clear (R251). -/
def VecReady (s : State) (c : CoreId) (n : CtxId) (k : Cmd) (op : Nat) : Prop :=
  Sound s c n k ∧ k.cls = clVec ∧ vdOp k.desc = op ∧ k.desc.length = 64 ∧ vecCheck s c (s.ctx c n).spec k.desc = none ∧
  (s.core c).ops = [] ∧ (s.core c).spec = none ∧ (vopRegions k.desc).any (fun r => rangeBusy s r.addr r.len) = false

/-- A vector command has run, and waits to complete with a status, a RESULT and a record merge (R153, R168, R189, R193). -/
def VecRan (s t : State) (c : CoreId) (n : CtxId) (k : Cmd) (status result : Nat) (mg : Option (Nat × MergeOp)) : Prop :=
  (t.core c).ops = [{ opOf s c n k none with started := true, pre := some status, result := result, merge := mg }] ∧
  (t.ctx c n).ptr = (s.ctx c n).ptr + 1 ∧ t.flags = s.flags ∧ t.entries = s.entries

/-- Element `i` of an array of a format of one byte or more (R157). -/
def elemOf (s : State) (code a i : Nat) : FVal := codeValue code (s.readN (a + i * elemBytes code) (elemBytes code))

/-- `n` elements written from `a` on, each of `z` bytes. -/
def wroteElems (s t : State) (a z n : Nat) (g : Nat → Nat) : Prop := t.mem = s.mem.setBytes a ((List.range n).flatMap (fun i => natLE z (g i)))

/-- The packet of a request that context `n` of core `c` sends (R286, R289): its header fields, its order number to the device, and no
tag yet. -/
def sentPacket (s : State) (c : CoreId) (n : CtxId) (d : List Byte) (ptype tc dst : Nat) (payload : List Byte) (trailer : List Nat) : Packet where
  ptype := ptype
  pclass := 0
  tc := tc
  chk := if ptype = 1 ∨ ptype = 2 then fbChk d else false
  srcDev := ownDev s
  srcAgent := 8 * c.val + n.val
  hops := 0
  dst := dst
  job := jobTag s
  epoch := epochNow s
  oseq := aget s.fab.oseqOut (addrDev dst) 0
  tag := 0
  via := 0
  viaValid := false
  payload := payload
  trailer := trailer

/-- A fabric command of a context that is sound, in a core and a fabric with no operation in flight (R185, R290). -/
def FabricReady (s : State) (c : CoreId) (n : CtxId) (k : Cmd) (op : Nat) : Prop :=
  Sound s c n k ∧ k.cls = clFabric ∧ fbOp k.desc = op ∧ fabricCheck s c k = none ∧ s.fab.tracker = [] ∧ s.fab.unsent = [] ∧
  fbAdapt k.desc = false ∧ k.desc.length = 64 ∧ (s.core c).ops = []

/-- A packet of this device that arrives at a port that carries packets, in its turn, of this job and epoch, with no packet of any device
waiting before it, no decision kept for it from an earlier arrival, and ports that can send at once (R285, R289, R295, R332). -/
def InTurn (s : State) (p : PortId) (pkt : Packet) (ptype : Nat) : Prop :=
  arrives s p pkt = true ∧ pkt.ptype = ptype ∧ failedDev s pkt.srcDev = false ∧ pkt.oseq = aget s.fab.oseqIn pkt.srcDev 0 ∧
  pkt.oseq < 65536 ∧ s.fab.store = [] ∧ aget? s.fab.verdicts (pkt.srcDev, pkt.oseq) = none ∧ PortsIdle s 20

/-- A packet in its turn that is of this job and epoch, and whose half serves (R291, R295, R332). -/
def Served (s : State) (p : PortId) (pkt : Packet) (ptype : Nat) : Prop :=
  InTurn s p pkt ptype ∧ pkt.job = jobTag s ∧ pkt.epoch = epochNow s ∧ destFault s (addrLocal pkt.dst) = false

/-- The DONE that answers a request (R287, R290). -/
def donePacket (s : State) (pkt : Packet) (st old : Nat) : Packet where
  ptype := 0x0A
  pclass := 0
  tc := pkt.tc
  chk := false
  srcDev := ownDev s
  srcAgent := 0x3FD
  hops := 0
  dst := globalAddr pkt.srcDev 0
  job := pkt.job
  epoch := pkt.epoch
  oseq := pkt.oseq
  tag := pkt.tag
  via := 0
  viaValid := false
  payload := [BitVec.ofNat 8 st] ++ natLE 2 pkt.oseq ++ natLE 5 0 ++ natLE 8 old
  trailer := []

/-- What a packet leaves on a port when it is sent (R292, R294): nothing where it goes to this device itself (log 69). -/
def sentBy (s : State) (pkt : Packet) : List (PortId × Packet) :=
  if toSelf s pkt then []
  else match nextPort s pkt false with
  | some (q, x) => [(q, { x with hops := x.hops + 1 })]
  | none => []

/-- What packets sent one after the other leave on the ports: each that a port sends takes a free value (R294; log 72). -/
def sentAll (s : State) (ps : List Packet) : List (PortId × Packet) :=
  match ps with
  | [] => []
  | x :: rest => sentBy s x ++ sentAll (if toSelf s x then s else s.used) rest

/-- A request has been answered with a status and an old value, after the packets `more` (R289, R290): the next order number of its source
is expected, the answer is kept for a duplicate, and a DONE goes back where a path is left, or waits here where this device is its own
source (log 69). -/
def Answered (s t : State) (pkt : Packet) (more : List Packet) (st old : Nat) : Prop :=
  aget t.fab.oseqIn pkt.srcDev 0 = (pkt.oseq + 1) % 65536 ∧ aget? t.fab.answered (pkt.srcDev, pkt.oseq) = some (st, old) ∧
  t.fab.store = [] ∧ t.fab.sent = s.fab.sent ++ sentAll s (more ++ [donePacket s pkt st old]) ∧
  t.fab.selfQ = s.fab.selfQ ++ (more ++ [donePacket s pkt st old]).filter (toSelf s)

/-- The oldest packet of this device to itself, the rest being `rest`, on a device that serves and holds no
stored packet (R289, R295; log 69). -/
def TakenFromSelf (s : State) (p : PortId) (pkt : Packet) (rest : List Packet) : Prop :=
  arrives s p pkt = false ∧ s.fab.selfQ = pkt :: rest ∧ s.fab.mgmtOnly = false ∧ s.fab.store = [] ∧ pkt.srcDev = ownDev s ∧
  failedDev s (ownDev s) = false

/-- The state with `rest` left of this device's packets to itself. -/
def selfLeft (s : State) (rest : List Packet) : State := { s with fab := { s.fab with selfQ := rest } }

/-- Control packets of a type sent by Dexca to devices other than this one, in turn (R351, R372, R375). -/
def controlsTo (s : State) (ptype : Nat) (payload : List Byte) (ds : List Nat) : List (PortId × Packet) :=
  sentAll s ((ds.filter (fun d => d != ownDev s)).map (fun d =>
    mkPacket s ptype 3 (0x3FD + (leadHalf s).val) (globalAddr d 0) false false payload []))

/-- Every port can send at once what the hall principal sends to its hall (R285, R359, R375). -/
def HallIdle (s : State) : Prop := PortsIdle s ((groupPrincipals s).length + (groupDevices s).length)

/-- A control packet of a type that arrives at this device from one that is not declared failed (R295, R379). -/
def ControlArrives (s : State) (p : PortId) (pkt : Packet) (ptype : Nat) : Prop :=
  arrives s p pkt = true ∧ pkt.ptype = ptype ∧ (ptype ≠ 0x20 → failedDev s pkt.srcDev = false)

/-- Both halves hold a value of a field (R364). -/
def BothHold (t : State) (f : Fld) (v : Nat) : Prop := t.rf f 0 = v ∧ t.rf f 1 = v

end Sys2Proof.Machine
end

