-- ==== Sys2Proof/Certificates/Slice0/Obligations.lean ====
section
/-!
DEFINITION. The statements for the provers, in the order of OBLIGATIONS.json.
-/

open Sys2Proof Sys2Proof.Machine

/-- A step takes the command at the front of the queue and executes it with the rest of the queue in place; on an empty queue
the block idles (the model's own choice, log 1). -/
def Obligations.StepRunsTheCommandInFront : Prop :=
  (∀ (s : State) (c : Instr) (rest : List Instr), s.pending = c :: rest → step s = exec c { s with pending := rest }) ∧
  (∀ s : State, s.pending = [] → step s = .next s)

/-- The state right after reset (from R14, R218, R469): every register field is at the value its table gives, no flag is set,
memory lists nothing, the cause is none, and what every step keeps holds. -/
def Obligations.ResetLeavesTheGivenValues : Prop :=
  State.Inv State.reset ∧ ResetRegs State.reset ∧ State.reset.pending = [] ∧ State.reset.mem = [] ∧
  (∀ f : FlagId, (State.reset.flag f).set = false ∧ (State.reset.flag f).poison = false ∧ (State.reset.flag f).owner = none) ∧
  State.reset.mod.cause = 0 ∧ State.reset.dx.job = 0 ∧ (∀ h : HalfId, bootStage State.reset h = 0)

/-- Every step keeps memory in its canonical form, and every register field within its width. -/
def Obligations.EveryStepKeepsTheInvariant : Prop :=
  ∀ s t : State, s.Inv → step s = .next t → t.Inv

/-- Every command completes: in every state it answers a next state with the queue as it was, so that a step always answers a
next state, whose queue is the rest of the queue. -/
def Obligations.EveryCommandCompletes : Prop :=
  (∀ (i : Instr) (s : State), ∃ t, exec i s = .next t ∧ t.pending = s.pending) ∧
  (∀ s : State, ∃ t, step s = .next t ∧ t.pending = s.pending.tail)

/-- The standby controller forgets a shutdown cause only at the write of 0xA5, or when the auxiliary input returns (from R538). -/
def Obligations.OnlyItsWriteClearsTheCause : Prop :=
  ∀ (s t : State) (i : Instr), s.mod.cause ≠ 0 → exec i s = .next t → t.mod.cause = 0 → i = .shutdownCauseClear 0xA5 ∨ i = .auxReturn

/-- A trip with the main stages on (from R528, R532, R535, R538): the stages and rails go, module reset is asserted, the cause
is latched and every register but the fuses' and the count of bypass closures is at its reset value. The standby domain (from
R528, R538): reading and clearing the cause, the return of the auxiliary input, and the rise of the main input, each with the
whole next state. -/
def Obligations.SuppliesTripAndRestart : Prop :=
  (∀ (s : State), s.mod.stages = true →
      (∃ t, exec .powerExcursionTrip s = .next t ∧ Tripped s t 3 ∧ t.mod.mainIn = s.mod.mainIn ∧ t.mod.auxIn = s.mod.auxIn) ∧
      (∃ t, exec .railFaultTrip s = .next t ∧ Tripped s t 4 ∧ t.mod.mainIn = s.mod.mainIn ∧ t.mod.auxIn = s.mod.auxIn) ∧
      (∃ t, exec .thermalTrip s = .next t ∧ Tripped s t 5 ∧ t.mod.mainIn = s.mod.mainIn ∧ t.mod.auxIn = s.mod.auxIn) ∧
      (∃ t, exec (.mainInputFault false) s = .next t ∧ Tripped s t 1 ∧ t.mod.mainIn = false ∧ t.mod.auxIn = s.mod.auxIn) ∧
      (∃ t, exec (.mainInputFault true) s = .next t ∧ Tripped s t 2 ∧ t.mod.mainIn = false ∧ t.mod.auxIn = s.mod.auxIn) ∧
      (s.mod.auxIn = true → ∃ t, exec .auxLoss s = .next t ∧ Tripped s t 6 ∧ t.mod.mainIn = s.mod.mainIn ∧ t.mod.auxIn = false)) ∧
  (∀ (s : State),
      (s.mod.auxIn = true →
        exec .shutdownCauseRead s = .next { s with reply := .value s.mod.cause } ∧
        exec (.shutdownCauseClear 0xA5) s = .next { s with mod := { s.mod with
          tripped := false, cause := 0, stages := s.mod.stages || s.mod.mainIn } } ∧
        (∀ v, v ≠ 0xA5 → exec (.shutdownCauseClear v) s = .next s) ∧
        exec .mainInputRise s = .next { s with mod := { s.mod with mainIn := true, stages := s.mod.stages || !s.mod.tripped } }) ∧
      (s.mod.auxIn = false →
        exec .auxReturn s = .next { s with mod := { s.mod with
          auxIn := true, tripped := false, auxFailed := false, cause := if s.mod.auxFailed then 6 else 0,
          stages := s.mod.stages || s.mod.mainIn } }) ∧
      (s.mod.stages = true → exec .railsGood s = .next { s with mod := { s.mod with rails := true } }))

/-- PERST_N and module reset (from R502, R529, R541): a low of PERST_N resets the device and keeps the standby domain; the
release with PERST_N high, the rails good and no trip samples LEAD_SEL and FEED_ID. The cadence bypass (from R544, R545, R547):
Dexca alone writes REGEN; the change takes effect at the gap, and a closure counts. -/
def Obligations.ModuleResetAndCadenceBypass : Prop :=
  (∀ (s : State),
      (s.mod.inReset = false → ∃ t, exec .perstNAssert s = .next t ∧ ResetRegs t ∧ t.mem = [] ∧ t.pending = s.pending ∧
        t.mod = { s.mod with inReset := true, perst := false }) ∧
      exec .perstNRelease s = .next { s with mod := { s.mod with perst := true } } ∧
      (∀ pins lead, pins < 256 → s.mod.inReset = true → s.mod.perst = true → s.mod.rails = true → s.mod.tripped = false →
        ∃ t, exec (.moduleResetRelease pins lead) s = .next t ∧ t.mod = { s.mod with inReset := false } ∧
          t.rf .MOD_FEED_FEED = pins ∧
          (∀ h : HalfId, t.rf .HLF_LEAD_STAT_LEAD h.val = b2n lead ∧ t.rf .HLF_LEAD_STAT_STRAP h.val = b2n lead ∧
            t.rf .HLF_LEAD_STAT_MINE h.val = b2n (decide (h.val = b2n lead))) ∧
          (∀ f u i, f ≠ .MOD_FEED_FEED → f ≠ .HLF_LEAD_STAT_LEAD → f ≠ .HLF_LEAD_STAT_STRAP → f ≠ .HLF_LEAD_STAT_MINE →
            t.rf f u i = s.rf f u i) ∧
          (∀ a, t.mem.get a = s.mem.get a) ∧ t.pending = s.pending)) ∧
  (∀ (s : State),
      (∀ h b, exec (.cadRegenWrite (.dexca h) b) s = .next (s.wf .MOD_CAD_REGEN (b2n b))) ∧
      (∀ a b, (∀ h, a ≠ .dexca h) → exec (.cadRegenWrite a b) s = .next { s with privFaults := s.privFaults + 1 }) ∧
      (s.rf .MOD_CAD_REGEN = 1 → s.mod.inReset = false → s.mod.auxIn = true →
        exec .cadRegenApply s = .next (s.wf .MOD_CAD_OPEN 1)) ∧
      (s.rf .MOD_CAD_REGEN = 0 → s.rf .MOD_CAD_OPEN = 1 → ∃ t, exec .cadRegenApply s = .next t ∧ t.rf .MOD_CAD_OPEN = 0 ∧
        t.rf .MOD_CAD_CLOSES = min (s.rf .MOD_CAD_CLOSES + 1) 65535 ∧
        (∀ f u i, f ≠ .MOD_CAD_OPEN → f ≠ .MOD_CAD_CLOSES → t.rf f u i = s.rf f u i) ∧ t = { s with regs := t.regs }))

/-- The oscillator count, the references and the PLLs (from R486, R487, R490, R491): a restarted count, the start of every PLL,
the loss and the return of a reference, and RELOCK. For the oscillator the clause on its loss asks that no port of the half is
up, since a coasting fabric PLL takes the ports down. The lock of a PLL, with nothing that waits for memory, and its failure to
lock after boot (from R488, R489, R491). -/
def Obligations.PllsFollowTheirReferencesAndLock : Prop :=
  (∀ (s : State) (h : HalfId),
      (s.clk.oscCount < 65536 → exec .oscAmplitudeLow s = .next { s with clk := { s.clk with oscCount := 0 } }) ∧
      (s.clk.oscCount < 65536 → s.mod.inReset = false → ∃ t, exec .oscillatorStable s = .next t ∧ t.clk.oscCount = 65536 ∧
        (∀ k n, (t.pll k n).locking = true) ∧ RegsBut s t [.CLK_STAT_LOCK] ∧ t = { s with clk := t.clk, regs := t.regs }) ∧
      (∀ r, 65536 ≤ s.clk.oscCount → refLost s h r = false →
        (r = .osc → ∀ p ∈ portsOfHalf h, portState s p = psDown) →
        ∃ t, exec (.refLoss h r) s = .next t ∧ refLost t h r = true ∧
          (match r with
            | .osc => t.rf .CLK_STAT_XOLOSS h.val = 1
            | .pcie => t.rf .CLK_STAT_RCLOSS h.val = 1) ∧
          (∀ n, bit (t.rf .CLK_STAT_COAST h.val) n.val = (decide (pllRef s h n = r) || bit (s.rf .CLK_STAT_COAST h.val) n.val)) ∧
          (s.mem.wf = true → ∀ a, (inHbmHalf h a = false ∨ pllRef s h 2 ≠ r) → (inLpxHalf h a = false ∨ pllRef s h 3 ≠ r) →
            t.mem.get a = s.mem.get a)) ∧
      (∀ r, refLost s h r = true → ∃ t, exec (.refReturn h r) s = .next t ∧ refLost t h r = false ∧
        (match r with
          | .osc => t.rf .CLK_STAT_XOOK h.val = 1 ∧ RegsBut s t [.CLK_STAT_XOOK, .IRQ_PEND_PEND]
          | .pcie => t.rf .CLK_STAT_RCOK h.val = 1 ∧ RegsBut s t [.CLK_STAT_RCOK, .IRQ_PEND_PEND]) ∧
        t = { s with clk := t.clk, regs := t.regs, halves := t.halves }) ∧
      (∀ n, ∀ k, refLost s h (pllRef s h n) = false → ∃ t, exec (.relock (.dexca k) h n) s = .next t ∧ (t.pll h n).locking = true ∧
        bit (t.rf .CLK_STAT_LOCK h.val) n.val = false ∧ t = { s with clk := t.clk, regs := t.regs }) ∧
      (∀ n, ∀ k, refLost s h (pllRef s h n) = true →
        exec (.relock (.dexca k) h n) s = .next (s.wf .CLK_PLL_CFG_ERR 1 h.val n.val))) ∧
  (∀ (s : State) (h : HalfId) (n : PllId), (s.pll h n).locking = true → bootStage s h = bsRun →
      (∀ failed, refLost s h (pllRef s h n) = false → s.held = [] → s.fab.store = [] → ∃ t, exec (.pllLock h n failed) s = .next t ∧
        (t.pll h n).locking = false ∧ (t.pll h n).cur = s.rf .CLK_PLL_CFG_FBDIV h.val n.val ∧
        bit (t.rf .CLK_STAT_LOCK h.val) n.val = true ∧ bit (t.rf .CLK_STAT_COAST h.val) n.val = false ∧
        RegsBut s t [.CLK_STAT_LOCK, .CLK_STAT_COAST] ∧ t = { s with clk := t.clk, regs := t.regs }) ∧
      (∃ t, exec (.pllLockTimeout h n) s = .next t ∧ (t.pll h n).locking = false ∧ bit (t.rf .CLK_STAT_LOCK h.val) n.val = false ∧
        bit (t.rf .CLK_STAT_COAST h.val) n.val = true ∧ t.rf .CLK_PLL_CFG_ERR h.val n.val = 1 ∧
        (s.dx.job = jsRunning → t.rf .HLF_HB_CTL_SELFFAIL h.val = 1) ∧ (∀ a, t.mem.get a = s.mem.get a)))

/-- A write of a PLL's configuration, the slew of a core PLL, and spread (from R488, R492, R493). The multiplexers, a held
domain and the frequency monitor (from R494 to R498). -/
def Obligations.PllConfigurationAndMultiplexers : Prop :=
  (∀ (s : State) (h k : HalfId),
      (∀ value, bits value 31 30 = 0 → 128 ≤ bits value 7 0 → bits value 7 0 ≤ 255 →
        bits value 12 8 = s.rf .CLK_PLL_CFG_POSTDIV h.val 0 → bits value 12 8 ∈ [2, 4, 8, 16] →
        bits value 29 29 = s.rf .CLK_PLL_CFG_REF h.val 0 →
        exec (.pllConfigWrite (.dexca k) h 0 value) s = .next (s.wf .CLK_PLL_CFG_FBDIV (bits value 7 0) h.val 0)) ∧
      (∀ value, bits value 31 30 = 0 → (bits value 7 0 < 128 ∨ bits value 12 8 ∉ [2, 4, 8, 16]) →
        exec (.pllConfigWrite (.dexca k) h 0 value) s = .next (s.wf .CLK_PLL_CFG_ERR 1 h.val 0)) ∧
      (∀ n value, n ≠ 0 → bootLocked s h = true → bits value 31 30 = 0 →
        exec (.pllConfigWrite (.dexca k) h n value) s = .next s) ∧
      (bit (s.rf .CLK_STAT_LOCK h.val) 0 = true → ∃ t, exec (.fbdivSlewStep h) s = .next t ∧
        ((s.pll h 0).cur < s.rf .CLK_PLL_CFG_FBDIV h.val 0 → (t.pll h 0).cur = (s.pll h 0).cur + 1) ∧
        (s.rf .CLK_PLL_CFG_FBDIV h.val 0 < (s.pll h 0).cur → (t.pll h 0).cur = (s.pll h 0).cur - 1) ∧
        ((s.pll h 0).cur = s.rf .CLK_PLL_CFG_FBDIV h.val 0 → (t.pll h 0).cur = (s.pll h 0).cur) ∧
        t = { s with clk := t.clk }) ∧
      (∀ n value, n ≠ 1 → ∃ t, exec (.sscWrite (.dexca k) h n value) s = .next t ∧
        t.rf .CLK_SSC_RATE h.val n.val = bits value 13 8 ∧ t.rf .CLK_SSC_DEPTH h.val n.val = bits value 4 0 ∧
        (t.pll h n).sscWaits = true ∧ RegsBut s t [.CLK_SSC_RATE, .CLK_SSC_DEPTH] ∧ t = { s with clk := t.clk, regs := t.regs }) ∧
      (∀ value, exec (.sscWrite (.dexca k) h 1 value) s = .next s) ∧
      (∀ n, (s.pll h n).sscWaits = true → ∃ t, exec (.sscApply h n) s = .next t ∧ (t.pll h n).sscWaits = false ∧
        (t.pll h n).depth = min 20 (s.rf .CLK_SSC_DEPTH h.val n.val) ∧
        (t.pll h n).rate = max 25 (min 50 (s.rf .CLK_SSC_RATE h.val n.val)) ∧ t = { s with clk := t.clk })) ∧
  (∀ (s : State) (h k : HalfId) (d : MuxId),
      (∀ sel, selGood d sel.val = true → s.rf .CLK_MUX_BUSY h.val d.val = 0 → sel.val ≠ muxCur s h d →
        exec (.muxSelect (.dexca k) h d sel) s = .next ((s.wf .CLK_MUX_SEL sel.val h.val d.val).wf .CLK_MUX_BUSY 1 h.val d.val)) ∧
      (∀ sel, (selGood d sel.val = false ∨ s.rf .CLK_MUX_BUSY h.val d.val = 1) →
        exec (.muxSelect (.dexca k) h d sel) s = .next (s.wf .CLK_MUX_ERR 1 h.val d.val)) ∧
      (s.rf .CLK_MUX_BUSY h.val d.val = 1 → srcRuns s h (muxCur s h d) = true → srcRuns s h (s.rf .CLK_MUX_SEL h.val d.val) = true →
        ∃ t, exec (.muxSwitchDone h d) s = .next t ∧ muxCur t h d = s.rf .CLK_MUX_SEL h.val d.val ∧
          t.rf .CLK_MUX_BUSY h.val d.val = 0 ∧ RegsBut s t [.CLK_MUX_SEL, .CLK_MUX_BUSY, .IRQ_PEND_PEND] ∧
          t = { s with clk := t.clk, regs := t.regs, halves := t.halves }) ∧
      (srcRuns s h (muxCur s h d) = false → exec (.muxSwitchDone h d) s = .next s) ∧
      (s.rf .CLK_MUX_BUSY h.val d.val = 1 → ∃ t, exec (.muxHang h d) s = .next t ∧
        bit (t.rf .CLK_STAT_HANG h.val) d.val = true ∧ RegsBut s t [.CLK_STAT_HANG, .IRQ_PEND_PEND] ∧
        t = { s with regs := t.regs, halves := t.halves }) ∧
      (∀ sel, selGood d sel.val = true → bit (s.rf .PWR_DOM_RST_HOLD h.val) d.val = true →
        ∃ t, exec (.forceSwitch (.dexca k) h d sel) s = .next t ∧ muxCur t h d = sel.val ∧ t.rf .CLK_MUX_SEL h.val d.val = sel.val ∧
          t.rf .CLK_MUX_BUSY h.val d.val = 0 ∧ RegsBut s t [.CLK_MUX_SEL, .CLK_MUX_BUSY, .IRQ_PEND_PEND] ∧
          t = { s with clk := t.clk, regs := t.regs, halves := t.halves }) ∧
      (∀ sel, bit (s.rf .PWR_DOM_RST_HOLD h.val) d.val = false →
        exec (.forceSwitch (.dexca k) h d sel) s = .next (s.wf .CLK_MUX_ERR 1 h.val d.val)) ∧
      (s.rf .PWR_DOM_RST_HOLD h.val = 0 → ∃ t, exec (.domainReset (.dexca k) h 2) s = .next t ∧
        t.rf .PWR_DOM_RST_HOLD h.val = 2 ∧ (t.half h).rangerStopped = true ∧ RegsBut s t [.PWR_DOM_RST_HOLD] ∧
        t = { s with regs := t.regs, halves := t.halves }) ∧
      (s.rf .PWR_DOM_RST_HOLD h.val = 2 → ∃ t, exec (.domainReset (.dexca k) h 0) s = .next t ∧
        t.rf .PWR_DOM_RST_HOLD h.val = 0 ∧ (t.half h).rangerStopped = false ∧ RegsBut s t [.PWR_DOM_RST_HOLD] ∧
        t = { s with regs := t.regs, halves := t.halves }) ∧
      (s.rf .CLK_FMON_STAT_BUSY h.val = 0 → ∀ b tg, ∃ t, exec (.fmonGo (.dexca k) h b tg) s = .next t ∧
        t.rf .CLK_FMON_STAT_BUSY h.val = 1 ∧ t.rf .CLK_FMON_CTL_BASE h.val = b2n b ∧ t.rf .CLK_FMON_CTL_TARGET h.val = tg.val ∧
        RegsBut s t [.CLK_FMON_STAT_BUSY, .CLK_FMON_CTL_BASE, .CLK_FMON_CTL_TARGET] ∧ t = { s with regs := t.regs }) ∧
      (s.rf .CLK_FMON_STAT_BUSY h.val = 1 → ∀ b tg, exec (.fmonGo (.dexca k) h b tg) s = .next s) ∧
      (s.rf .CLK_FMON_STAT_BUSY h.val = 1 → ∀ c, ∃ t, exec (.fmonDone h c) s = .next t ∧ t.rf .CLK_FMON_STAT_BUSY h.val = 0 ∧
        t.rf .CLK_FMON_STAT_DONE h.val = 1 ∧ t.rf .CLK_FMON_STAT_COUNT h.val = min c 16777215 ∧
        RegsBut s t [.CLK_FMON_STAT_BUSY, .CLK_FMON_STAT_DONE, .CLK_FMON_STAT_COUNT] ∧ t = { s with regs := t.regs }))

/-- Power-off and wake of a unit (from R249, R500, R501). A ramp starts while at most eight cores of the half ramp. Ring
gauges, the margin plan with no job running, input power and junction temperature (from R507, R508, R528, R534). By how much
the frequency falls for the 1 s average is a free value (log 48): the clause says that it does not rise. -/
def Obligations.UnitsPowerAndPlans : Prop :=
  (∀ (s : State) (h k : HalfId) (u : PowerUnit),
      (mayPowerOff s h u = true →
        exec (.powerOffRequest (.dexca k) h u) s = .next { s with clk := { s.clk with pdown := s.clk.pdown ++ [(h, u)] } }) ∧
      (mayPowerOff s h u = false → ∃ t, exec (.powerOffRequest (.dexca k) h u) s = .next t ∧ t.rf .PWR_STAT_REFUSED h.val = 1 ∧
        RegsBut s t [.PWR_STAT_REFUSED, .IRQ_PEND_PEND] ∧ t = { s with regs := t.regs, halves := t.halves }) ∧
      (∀ c, u = .core c → s.clk.pdown.contains (h, u) = true → s.clk.wakeQ = [] → ∃ t, exec (.powerDownDone h u) s = .next t ∧
        (t.core (coreOf h c.val)).node = .off ∧ bit (t.rf .PWR_OFF_CORES h.val) c.val = true ∧ t.clk.pdown.contains (h, u) = false) ∧
      (unitOff s h u = true → unitMoving s h u = false → groveOff s h u = false → s.clk.wakeQ = [] → s.clk.ramp = [] →
        ∃ t, exec (.wakeRequest (.dexca k) h u) s = .next t ∧ t.clk.ramp = [(h, u)] ∧ t.clk.wakeQ = [] ∧
          t.rf .PWR_STAT_RAMPING h.val = unitWeight u ∧ t.rf .PWR_STAT_QUEUED h.val = 0 ∧
          RegsBut s t [.PWR_STAT_RAMPING, .PWR_STAT_QUEUED] ∧ t = { s with clk := t.clk, regs := t.regs }) ∧
      (groveOff s h u = true → ∃ t, exec (.wakeRequest (.dexca k) h u) s = .next t ∧ t.rf .PWR_STAT_REFUSED h.val = 1 ∧
        t = { s with regs := t.regs, halves := t.halves }) ∧
      (∀ c, u = .core c → s.clk.ramp = [(h, u)] → s.clk.wakeQ = [] → ∃ t, exec (.wakeRampDone h u) s = .next t ∧
        t.clk.ramp = [] ∧ (h, u) ∈ t.clk.clearing ∧ t.rf .PWR_STAT_RAMPING h.val = 0 ∧
        (s.mem.wf = true → ∀ a, scratchBase (coreOf h c.val) ≤ a → a < scratchBase (coreOf h c.val) + scratchSize → t.mem.get a = 0) ∧
        (s.mem.wf = true → ∀ a, ¬ (scratchBase (coreOf h c.val) ≤ a ∧ a < scratchBase (coreOf h c.val) + scratchSize) →
          t.mem.get a = s.mem.get a)) ∧
      (∀ c, u = .core c → s.clk.clearing.contains (h, u) = true → ∃ t, exec (.wakeComplete h u []) s = .next t ∧
        ((t.core (coreOf h c.val)).node = .active ∨ (t.core (coreOf h c.val)).node = .spare) ∧
        bit (t.rf .PWR_OFF_CORES h.val) c.val = false ∧
        t.rf .CORE_WAKE_STAT_WAKES (coreOf h c.val).val = (s.rf .CORE_WAKE_STAT_WAKES (coreOf h c.val).val + 1) % 65536 ∧
        SameMem s t)) ∧
  (∀ (s : State) (h k : HalfId),
      (∃ t, exec (.ageMeasure (.dexca k) h) s = .next t ∧ t.rf .AGE_CTL_BUSY h.val = 1 ∧ RegsBut s t [.AGE_CTL_BUSY] ∧
        t = { s with regs := t.regs }) ∧
      (∀ counts, s.rf .AGE_CTL_BUSY h.val = 1 → counts.length = 64 → (∀ c ∈ counts, c.2 ≠ 0) →
        ∃ t, exec (.ageMeasureDone h counts) s = .next t ∧ t.rf .AGE_CTL_BUSY h.val = 0 ∧
          t.rf .AGE_STAT_RUNS h.val = (s.rf .AGE_STAT_RUNS h.val + 1) % 1024 ∧
          (∀ i, i < 64 → fromSigned16 (t.rf .AGE_GAUGE_DRIFT h.val i) ≤ fromSigned16 (t.rf .AGE_STAT_WORST h.val)) ∧
          t.rf .AGE_STAT_WORST h.val = t.rf .AGE_GAUGE_DRIFT h.val (t.rf .AGE_STAT_IDX h.val) ∧
          (∀ i, ∀ hi : i < counts.length, t.rf .AGE_GAUGE_UCNT h.val i = counts[i].1 % 16777216 ∧
            t.rf .AGE_GAUGE_SCNT h.val i = counts[i].2 % 16777216) ∧ SameMem s t) ∧
      (s.dx.job ≠ jsRunning → ∃ t, exec .marginReplan s = .next t ∧ t.clk.margin = ceilDrift s ∧
        (∀ j : HalfId, t.rf .PWR_RAIL_SET j.val = min 920 (850 + 5 * ceilDrift s)) ∧
        (∀ j : HalfId, t.rf .CLK_PLL_CFG_FBDIV j.val 0 = plannedFb t) ∧
        t.clk.top = 144 - 2 * ((850 + 5 * ceilDrift s - 920 + 4) / 5) ∧ RegsBut s t [.PWR_RAIL_SET, .CLK_PLL_CFG_FBDIV]) ∧
      (∀ avg now vin, avg < 65536 → now < 65536 → vin < 65536 → 2200 < avg → 128 < plannedFb s →
        ∃ t, exec (.powerAverageCheck avg now vin) s = .next t ∧ t.rf .MOD_PWR_AVG = avg ∧ t.rf .MOD_PWR_NOW = now ∧
          t.rf .MOD_PWR_VIN = vin ∧ t.rf .MOD_ALERT_POWER = 1 ∧ plannedFb t ≤ plannedFb s ∧
          (∀ j : HalfId, t.rf .CLK_PLL_CFG_FBDIV j.val 0 = plannedFb t % 256) ∧
          t = { s with clk := t.clk, regs := t.regs, fresh := t.fresh }) ∧
      (∀ t0 t1 inlet, t0 < 256 → t1 < 256 → inlet < 256 → 103 ≤ max t0 t1 → 128 < plannedFb s →
        ∃ t, exec (.junctionRead t0 t1 inlet true) s = .next t ∧ t.rf .MOD_THERM_HALF0 = t0 ∧ t.rf .MOD_THERM_HALF1 = t1 ∧
          t.rf .MOD_THERM_INLET = inlet ∧ t.rf .MOD_ALERT_HOT = 1 ∧ t.rf .MOD_ALERT_THROTTLE = 1 ∧
          plannedFb t = max 128 (plannedFb s - 8) ∧ t = { s with clk := t.clk, regs := t.regs }) ∧
      (∀ t0 t1 inlet, t0 < 256 → t1 < 256 → inlet < 256 → max t0 t1 < 103 →
        ∃ t, exec (.junctionRead t0 t1 inlet false) s = .next t ∧ t.rf .MOD_THERM_HALF0 = t0 ∧ t.rf .MOD_THERM_HALF1 = t1 ∧
          t.rf .MOD_THERM_INLET = inlet ∧ RegsBut s t [.MOD_THERM_HALF0, .MOD_THERM_HALF1, .MOD_THERM_INLET] ∧ t = { s with regs := t.regs }))

/-- The lead token (from R503 to R506): heartbeats and their relay, the fence, the grant and a bridge failure. -/
def Obligations.LeadTokenFencesAndGrants : Prop :=
  ∀ (s : State) (h : HalfId), s.mod.inReset = false →
    (s.rf .HLF_HB_STAT_WDOG_EXP h.val = 0 → halfLost s h = false → ∃ t, exec (.tokenHeartbeat h) s = .next t ∧
      aget t.clk.relay (otherHalf h) 0 = aget s.clk.relay (otherHalf h) 0 + 1 ∧ t = { s with clk := t.clk }) ∧
    (s.rf .HLF_HB_STAT_WDOG_EXP h.val = 1 → exec (.tokenHeartbeat h) s = .next s) ∧
    (aget s.clk.relay h 0 ≠ 0 → ∃ t, exec (.peerTokenHeartbeat h) s = .next t ∧ t.rf .HLF_LEAD_STAT_FENCED h.val = 0 ∧
      aget t.clk.relay h 0 + 1 = aget s.clk.relay h 0 ∧ RegsBut s t [.HLF_LEAD_STAT_FENCED] ∧
      t = { s with clk := t.clk, regs := t.regs }) ∧
    (aget s.clk.relay h 0 = 0 → s.rf .HLF_LEAD_STAT_FENCED h.val = 0 → s.rf .HLF_LEAD_STAT_PEERLOST h.val = 0 →
      ∃ t, exec (.halfFence h) s = .next t ∧ t.rf .HLF_LEAD_STAT_FENCED h.val = 1 ∧
        RegsBut s t [.HLF_LEAD_STAT_FENCED, .IRQ_PEND_PEND] ∧ t = { s with regs := t.regs, halves := t.halves }) ∧
    (s.rf .HLF_HB_STAT_WDOG_EXP h.val = 0 → halfLost s h = false → s.rf .HLF_LEAD_STAT_PEERLOST h.val = 0 →
      aget s.clk.relay h 0 = 0 → ∃ t, exec (.tokenGrant h) s = .next t ∧
        t.rf .HLF_LEAD_STAT_LEAD 0 = h.val ∧ t.rf .HLF_LEAD_STAT_LEAD 1 = h.val ∧ t.rf .HLF_LEAD_STAT_MINE h.val = 1 ∧
        t.rf .HLF_LEAD_STAT_MINE (otherHalf h).val = 0 ∧ t.rf .HLF_LEAD_STAT_FENCED h.val = 0 ∧
        t.rf .HLF_LEAD_STAT_PEERLOST h.val = 1 ∧ halfLost t (otherHalf h) = true ∧ t.rf .HLF_HB_CTL_SELFFAIL h.val = 1 ∧
        SameMem s t ∧ t.pending = s.pending) ∧
    (∃ t, exec .bridgeLinkFail s = .next t ∧ t.rf .HLF_LEAD_STAT_BRIDGE 0 = 1 ∧ t.rf .HLF_LEAD_STAT_BRIDGE 1 = 1 ∧
      t.rf .HLF_HB_CTL_SELFFAIL (leadHalf s).val = 1 ∧ t.rf .HLF_LEAD_STAT_LEAD 0 = s.rf .HLF_LEAD_STAT_LEAD 0 ∧
      t.rf .HLF_LEAD_STAT_LEAD 1 = s.rf .HLF_LEAD_STAT_LEAD 1 ∧ SameMem s t)

/-- Self-test, staging and GO (from R469 to R471): the privileged region cleared and the window opened, window writes applied
in WAIT and refused otherwise, and the image copied out of the window as the checks start. The outcome of the checks (from
R471, R472): rejection with its cause, success with the boot lock, and a bridge that does not answer. The SM2 verdict is a
constant that the model leaves free (log 4). Measurement (from R477, R485): Dexca extends slots 2 to 5 of its own half, in
order; any other agent's attempt is counted, and the slot becomes the SM3 of itself and the value. -/
def Obligations.BootRunsChecksAndMeasures : Prop :=
  (∀ (s : State), s.mem.wf = true →
      (bootStage s 0 = bsSelftest → bootStage s 1 = bsSelftest → ∃ t, exec .selftestDone s = .next t ∧
        bootStage t 0 = bsWait ∧ bootStage t 1 = bsWait ∧ RegsBut s t [.SEC_BOOT_STAT_STAGE] ∧
        (∀ a, t.mem.get a = if privBase ≤ a ∧ a < privBase + privSize then 0 else s.mem.get a)) ∧
      (∀ offset data, bootStage s 0 = bsWait → offset + data.length ≤ 0x3000000 →
        exec (.stagingWrite offset data) s = .next { s with mem := s.mem.setBytes (0x1000000000000 + offset) data }) ∧
      (∀ offset data, bootStage s 0 ≠ bsWait → ∃ t, exec (.stagingWrite offset data) s = .next t ∧
        t.rf .DXC_HOST_STAT_B2REF = min (s.rf .DXC_HOST_STAT_B2REF + 1) (2 ^ Fld.width .DXC_HOST_STAT_B2REF - 1) ∧
        t = { s with regs := t.regs }) ∧
      (bootStage s 0 = bsWait → ∃ t, exec (.bootGo 0 false) s = .next t ∧
        (∀ h : HalfId, t.rf .SEC_BOOT_STAT_STAGE h.val = bsCheck ∧
          t.rf .SEC_BOOT_STAT_ATTEMPTS h.val = min (s.rf .SEC_BOOT_STAT_ATTEMPTS h.val + 1) 255) ∧
        RegsBut s t [.SEC_BOOT_STAT_STAGE, .SEC_BOOT_STAT_ATTEMPTS] ∧
        (∀ i, i < 4096 + min 0x02FFF000 (s.readN (stagingBase + 0x10) 4) →
          t.mem.get (imageCopy + i) = s.mem.get (stagingBase + i)) ∧
        (∀ a, (a < imageCopy ∨ imageCopy + 4096 + min 0x02FFF000 (s.readN (stagingBase + 0x10) 4) ≤ a) → t.mem.get a = s.mem.get a)) ∧
      (bootStage s 0 ≠ bsWait → exec (.bootGo 0 false) s = .next s) ∧ exec (.bootGo 1 false) s = .next s) ∧
  (∀ (s : State), s.mem.wf = true → bootStage s 0 = bsCheck → bootStage s 1 = bsCheck →
      (∃ t, exec .bootCheckDone s = .next t ∧ (∀ h : HalfId, t.rf .SEC_BOOT_STAT_CAUSE h.val = bootCause s) ∧
        (bootCause s = 0 →
          (∀ h : HalfId, t.rf .SEC_BOOT_STAT_STAGE h.val = bsRun ∧ t.rf .SEC_BOOT_STAT_LOCK h.val = 1) ∧
          t.rf .DXC_B2WIN_VALID 0 0 = 0 ∧ t.sec.svn = s.readN (imageCopy + 8) 4 ∧ t.sec.version = s.readN (imageCopy + 0x0C) 2 ∧
          SameMem s t) ∧
        (bootCause s ≠ 0 →
          (∀ h : HalfId, t.rf .SEC_BOOT_STAT_STAGE h.val = bsWait ∧ t.rf .SEC_BOOT_STAT_LOCK h.val = s.rf .SEC_BOOT_STAT_LOCK h.val) ∧
          (∀ a, imageCopy ≤ a → a < imageCopy + 4096 → t.mem.get a = 0) ∧
          (∀ h : HalfId, ∀ a, gladeBase h ≤ a → a < gladeBase h + gladeSize → t.mem.get a = 0) ∧
          RegsBut s t [.SEC_BOOT_STAT_STAGE, .SEC_BOOT_STAT_CAUSE, .SEC_BOOT_STAT_KEY])) ∧
      (s.rf .SEC_LC_STATE = 4 → bootCause s = 9) ∧
      (s.rf .SEC_LC_STATE ≠ 4 → s.readN imageCopy 4 ≠ 0x41435844 → bootCause s = 1) ∧
      (∃ t, exec .bootBridgeTimeout s = .next t ∧
        (∀ h : HalfId, t.rf .SEC_BOOT_STAT_STAGE h.val = bsHalt ∧ t.rf .SEC_BOOT_STAT_CAUSE h.val = 11) ∧
        RegsBut s t [.SEC_BOOT_STAT_STAGE, .SEC_BOOT_STAT_CAUSE] ∧ t = { s with regs := t.regs })) ∧
  (∀ (s : State) (h : HalfId) (slot : Fin 8),
      (2 ≤ slot.val → slot.val ≤ 5 → exec (.measExtend (.dexca h) h slot) s = .next { s with sec := { s.sec with
        exts := s.sec.exts ++ [⟨h, slot.val, (List.range 4).flatMap (fun k => natLE 8 (s.rf .SEC_EXT_D_VAL h.val k))⟩] } }) ∧
      (∀ a, a ≠ .dexca h → a ≠ .plinth h → exec (.measExtend a h slot) s = .next { s with privFaults := s.privFaults + 1 }) ∧
      (∀ e rest, s.sec.exts = e :: rest → e.half = h → e.slot < 8 → ∃ t, exec (.measExtendDone h) s = .next t ∧
        t.sec.exts = rest ∧ measBytes t h e.slot = sm3 (measBytes s h e.slot ++ padTo 32 e.value) ∧
        (∀ f u i, (f, u, i / 4) ≠ (.SEC_MEAS_VAL, h.val, e.slot) → t.rf f u i = s.rf f u i) ∧
        t = { s with sec := t.sec, regs := t.regs }))

/-- Configuration space and refused BAR0 accesses (from R417, R418): a dword read or written, but for the class code, and an
access of a wrong width counted. BAR2 (from R421, R422): an access to HBM user space is made raw, waits for an initialisation,
or is refused. -/
def Obligations.ConfigurationAndBar2Accesses : Prop :=
  (∀ (s : State) (offset : Nat), offset < 4096 →
      (∀ o, o = offset / 4 * 4 → exec (.pcieConfigRequest offset none) s = .next { s with
        reply := .value (leNat [cfgByte s o, cfgByte s (o + 1), cfgByte s (o + 2), cfgByte s (o + 3)]) }) ∧
      (∀ v, ∃ t, exec (.pcieConfigRequest offset (some v)) s = .next t ∧
        (∀ i, i < 4 → classByte (offset / 4 * 4 + i) = none → cfgByte t (offset / 4 * 4 + i) = BitVec.ofNat 8 (v / 256 ^ i)) ∧
        (∀ o, (o < offset / 4 * 4 ∨ offset / 4 * 4 + 4 ≤ o ∨ classByte o ≠ none) → cfgByte t o = cfgByte s o) ∧
        t = { s with host := t.host }) ∧
      leNat [cfgByte s 9, cfgByte s 10, cfgByte s 11] = 0x120000 ∧
      (∀ len, bar0Good offset len = false → ∃ t, exec (.bar0BadAccess false offset len) s = .next t ∧ t.reply = .completerAbort ∧
        t.rf .DXC_HOST_STAT_BADACC = min (s.rf .DXC_HOST_STAT_BADACC + 1) 65535 ∧ RegsBut s t [.DXC_HOST_STAT_BADACC] ∧
        t = { s with regs := t.regs, reply := t.reply }) ∧
      (∀ len, bar0Good offset len = false → ∃ t, exec (.bar0BadAccess true offset len) s = .next t ∧
        t.rf .DXC_HOST_STAT_BADACC = min (s.rf .DXC_HOST_STAT_BADACC + 1) 65535 ∧ RegsBut s t [.DXC_HOST_STAT_BADACC] ∧
        t = { s with regs := t.regs, reply := t.reply })) ∧
  (∀ (s : State) (offset len : Nat),
      (∀ a, bar2Addr s offset len = some a → rawCheck s false a len = none → bridgeCut s 0 a len = false → rangeBusy s a len = false → regionOf a len = some .hbm →
        exec (.bar2Access offset len none) s = .next { s with reply := .bytes (s.mem.getBytes a len) }) ∧
      (∀ a bs, bar2Addr s offset len = some a → rawCheck s true a len = none → bridgeCut s 0 a len = false → rangeBusy s a len = false → bs.length = len →
        exec (.bar2Access offset len (some bs)) s = .next { s with mem := s.mem.setBytes a bs, reply := .none }) ∧
      (∀ a data, bar2Addr s offset len = some a → rawCheck s data.isSome a len = none → bridgeCut s 0 a len = false → rangeBusy s a len = true →
        exec (.bar2Access offset len data) s = .next { s with held := s.held ++ [.host a len data] }) ∧
      (bar2Addr s offset len = none → ∃ t, exec (.bar2Access offset len none) s = .next t ∧ t.reply = .completerAbort ∧
        t.rf .DXC_HOST_STAT_B2REF = min (s.rf .DXC_HOST_STAT_B2REF + 1) 65535 ∧ RegsBut s t [.DXC_HOST_STAT_B2REF] ∧
        t = { s with regs := t.regs, reply := t.reply }))

/-- A write to a register (from R15, R418, R419): what a field that reads and writes takes from a write that its register
allows and that starts nothing else, and the writes that change nothing but a count; and a read, which answers the fields and
clears those of type RC that it covers. -/
def Obligations.RegisterWritesFollowTheirTypes : Prop :=
  ∀ (s : State) (a : Agent) (offset len value : Nat) (l : RegLoc),
    inSubmit offset = false → bar0Good offset len = true → 0x40000 ≤ offset → (offset < 0x3010000 ∨ 0x3010408 < offset + len) →
    locate offset = some l → outOfReach s a (locHalf l) = false →
    (mayWrite s a l = true → (∀ t v, regAct t l a v = t) → ∃ t, exec (.registerWrite a offset len (some value)) s = .next t ∧
      (∀ f ∈ l.reg.fields, f.info.ty = .rw → ownField f = false → fieldLocked s l f = false → sharedReg l.reg = false →
        t.rf f l.unit l.idx = fieldIn s l len value f % 2 ^ f.width) ∧
      (∀ f ∈ l.reg.fields, f.info.ty = .w1c → ownField f = false → fieldLocked s l f = false → sharedReg l.reg = false →
        t.rf f l.unit l.idx =
          (s.rf f l.unit l.idx - (s.rf f l.unit l.idx &&& onesOf f l.byte len value)) % 2 ^ f.width) ∧
      (∀ f ∈ l.reg.fields, f.info.ty = .ro ∨ fieldLocked s l f = true → t.rf f l.unit l.idx = s.rf f l.unit l.idx) ∧
      RegsBut s t l.reg.fields ∧ t = { s with regs := t.regs }) ∧
    (mayWrite s a l = false → l.reg ≠ .SEC_BOOT_CTL →
      exec (.registerWrite a offset len (some value)) s = .next { s with privFaults := s.privFaults + 1 }) ∧
    (l.reg ≠ .MBX_IN_RD → l.reg ≠ .MBX_OUT_RD → l.reg ≠ .IRQ_CLAIM → ∃ t, exec (.registerWrite a offset len none) s = .next t ∧
      (∀ f, l.reg.fields = [f] → l.byte = 0 → f.info.lo = 0 → f.width ≤ 8 * len → f.info.ty ≠ .wo → s.view f l.unit l.idx < 2 ^ f.width →
        t.reply = .value (s.view f l.unit l.idx)) ∧
      (∀ f ∈ l.reg.fields, sharedReg l.reg = false → f.info.ty = .rc → coverOf f l.byte len ≠ 0 → t.rf f l.unit l.idx = 0) ∧
      (∀ f ∈ l.reg.fields, f.info.ty ≠ .rc ∨ coverOf f l.byte len = 0 → t.rf f l.unit l.idx = s.rf f l.unit l.idx) ∧
      RegsBut s t l.reg.fields ∧ t = { s with regs := t.regs, reply := t.reply, fresh := t.fresh })

/-- Streams (from R423 to R425): a submission, and the three kinds of descriptor at the front of a ring; a WORK to a slot that
is not Active completes its entry with NOT_ACTIVE, and one to an invalid node stops its stream. -/
def Obligations.StreamsTakeAndRunDescriptors : Prop :=
  ∀ (s : State) (m : StreamId),
    (∀ desc, desc.length = 64 → (s.stream m).count < (s.stream m).size → ∃ t, exec (.streamSubmit m 1 desc) s = .next t ∧
      t.mem = s.mem.setBytes ((s.stream m).base + 64 * (((s.stream m).head + (s.stream m).count) % (s.stream m).size)) desc ∧
      t.stream m = { s.stream m with count := (s.stream m).count + 1 } ∧ RegsBut s t [.DXC_STR_STAT_FREE] ∧
      t = { s with mem := t.mem, streams := t.streams, regs := t.regs }) ∧
    (∀ tlps desc, (tlps ≠ 1 ∨ (s.stream m).size ≤ (s.stream m).count) →
      exec (.streamSubmit m tlps desc) s = .next (s.wf .DXC_STR_STAT_OVF 1 0 m.val)) ∧
    (∀ d, s.rf .DXC_STR_STAT_STOP 0 m.val = 0 → (s.stream m).count ≠ 0 →
      d = s.read ((s.stream m).base + 64 * (s.stream m).head) 64 →
      (∀ nd, sdKind d = 1 → workNode s (sdNode d) = .ok nd → workAddr s (sdAddr d) = none → rangeBusy s (sdAddr d) 128 = false →
        (nodeQueue s nd (Fin.ofNat 8 (sdQueue d))).length < s.qDepth → ∃ t, exec (.work m) s = .next t ∧
        nodeQueue t nd (Fin.ofNat 8 (sdQueue d)) = nodeQueue s nd (Fin.ofNat 8 (sdQueue d)) ++ [s.read (sdAddr d) 128] ∧
        (t.stream m).count + 1 = (s.stream m).count ∧ t.rf .DXC_STR_STAT_SEQ 0 m.val = sdSeq d ∧ t.mem = s.mem ∧
        t = { s with nodeQ := t.nodeQ, streams := t.streams, regs := t.regs }) ∧
      (sdKind d = 1 → workNode s (sdNode d) = .error 0x04 → workAddr s (sdAddr d) = none → rangeBusy s (sdAddr d) 128 = false →
        let e := s.read (sdAddr d) 128
        weDoneFlag e = 0 → recordPlace (weRec e) 16 = true → weRec e ≠ 0 → ∃ t, exec (.work m) s = .next t ∧
        t.readN (weRec e) 1 = 0x04 ∧ t.nodeQ = s.nodeQ ∧ t.flags = s.flags ∧ (t.stream m).count + 1 = (s.stream m).count ∧
        t.rf .DXC_STR_STAT_STOP 0 m.val = 0 ∧ t.rf .DXC_STR_STAT_SEQ 0 m.val = sdSeq d) ∧
      (sdKind d = 1 → workNode s (sdNode d) = .error 0x02 → ∃ t, exec (.work m) s = .next t ∧ t.rf .DXC_STR_STAT_STOP 0 m.val = 1 ∧
        t.rf .DXC_STR_STAT_ERR 0 m.val = 0x02 ∧ t.mem = s.mem ∧ t.nodeQ = s.nodeQ) ∧
      (∀ f, sdKind d = 2 → (s.stream m).woken = false → (s.stream m).flag = none → flagOfLocal (addrLocal (sdFlag d)) = some f →
        addrDev (sdFlag d) = ownDev s → flagIsPoisoned s f = false → (s.flag f).set = true → ∃ t, exec (.wait m) s = .next t ∧
        (t.flag f).set = false ∧ (t.stream m).count + 1 = (s.stream m).count ∧ t.rf .DXC_STR_STAT_SEQ 0 m.val = sdSeq d ∧
        t = { s with flags := t.flags, streams := t.streams, regs := t.regs }) ∧
      (∀ f, sdKind d = 2 → (s.stream m).woken = false → (s.stream m).flag = none → flagOfLocal (addrLocal (sdFlag d)) = some f →
        addrDev (sdFlag d) = ownDev s → flagIsPoisoned s f = false → (s.flag f).set = false → ∃ t, exec (.wait m) s = .next t ∧
        (t.flag f).waiters = (s.flag f).waiters ++ [.stream m] ∧ t.rf .DXC_STR_STAT_WAIT 0 m.val = 1 ∧
        (t.stream m).count = (s.stream m).count ∧ t = { s with flags := t.flags, streams := t.streams, regs := t.regs }) ∧
      (∀ f, sdKind d = 3 → flagOfLocal (addrLocal (sdFlag d)) = some f → addrDev (sdFlag d) = ownDev s →
        setsOpen s m (addrDev (sdFlag d)) = false → flagDead s f = none → (s.flag f).set = false → (s.flag f).waiters = [] →
        s.beat.phases = [] → ∃ t, exec (.streamSet m) s = .next t ∧ (t.flag f).set = true ∧ (t.flag f).src = srcHost s ∧
        (t.stream m).count + 1 = (s.stream m).count ∧ t.mem = s.mem) ∧
      (sdKind d ≠ 1 → sdKind d ≠ 2 → sdKind d ≠ 3 → ∃ t, exec (.work m) s = .next t ∧ t.rf .DXC_STR_STAT_STOP 0 m.val = 1 ∧
        t.rf .DXC_STR_STAT_ERR 0 m.val = 0x0A ∧ t.mem = s.mem))

/-- Words written to a mailbox (from R9, R426 to R428): a header with no arguments and the last argument complete a message and
make the channel's source pending; the agent that holds the lock alone writes on; a header of more than seven arguments, and a
word to a full queue, are discarded, and what the host asks of half 1 across a bridge that carries no traffic is lost (log
131). Words popped from a mailbox, and flushes (from R428, R431, R432). -/
def Obligations.MailboxesQueueTheirWords : Prop :=
  (∀ (s : State) (a : Agent) (h : HalfId) (ch : ChanId) (w : Nat), w < 2 ^ 32 → irqStopped s h = false → (outOfReach s a h = true →
        exec (.mbxInWr a h ch w) s = .next s ∧ exec (.mbxOutRd a h ch) s = .next { s with reply := .none }) ∧
      (outOfReach s a h = false →
      ((inQueue s h ch).lock = none → (inQueue s h ch).words.length < 8 → hdrLen w ≤ 7 → ∃ t, exec (.mbxInWr a h ch w) s = .next t ∧
        (inQueue t h ch).words = (inQueue s h ch).words ++ [⟨w, true, a⟩] ∧
        (hdrLen w = 0 → (inQueue t h ch).lock = none ∧ irqPending t h ch.val = true ∧
          t.dx.order = s.dx.order ++ [(h, ch, hdrOp w)]) ∧
        (hdrLen w ≠ 0 → (inQueue t h ch).lock = some (a, hdrLen w) ∧ t.regs = s.regs) ∧
        RegsBut s t [.IRQ_PEND_PEND] ∧
        t = { s with halves := t.halves, regs := t.regs, dx := { s.dx with order := t.dx.order } }) ∧
      (∀ n, (inQueue s h ch).lock = some (a, n + 1) → (inQueue s h ch).broken = false → (inQueue s h ch).words.length < 8 →
        ∃ t, exec (.mbxInWr a h ch w) s = .next t ∧ (inQueue t h ch).words = (inQueue s h ch).words ++ [⟨w, false, a⟩] ∧
          (inQueue t h ch).lock = (if n = 0 then none else some (a, n)) ∧ (n = 0 → irqPending t h ch.val = true)) ∧
      (∀ b n, (inQueue s h ch).lock = some (b, n) → a ≠ b → ∃ t, exec (.mbxInWr a h ch w) s = .next t ∧
        inQueue t h ch = inQueue s h ch ∧ t.rf .MBX_IN_STAT_COLL h.val ch.val = min (s.rf .MBX_IN_STAT_COLL h.val ch.val + 1) 255) ∧
      ((inQueue s h ch).lock = none → 7 < hdrLen w → ∃ t, exec (.mbxInWr a h ch w) s = .next t ∧
        inQueue t h ch = inQueue s h ch ∧ t.rf .MBX_IN_STAT_BADLEN h.val ch.val = 1) ∧
      ((inQueue s h ch).lock = none → 8 ≤ (inQueue s h ch).words.length → hdrLen w ≤ 7 → ∃ t, exec (.mbxInWr a h ch w) s = .next t ∧
        (inQueue t h ch).words = (inQueue s h ch).words ∧ t.rf .MBX_IN_STAT_OVF h.val ch.val = 1)) ∧
      (isRanger a h = true → (outQueue s h ch).lock = none → (outQueue s h ch).words.length < 8 → hdrLen w ≤ 7 →
        ∃ t, exec (.mbxOutWr a h ch w) s = .next t ∧ (outQueue t h ch).words = (outQueue s h ch).words ++ [⟨w, true, a⟩] ∧
          t.regs = s.regs) ∧
      (isRanger a h = false → exec (.mbxOutWr a h ch w) s = .next { s with privFaults := s.privFaults + 1 } ∧
        exec (.mbxInRd a h ch) s = .next { s with privFaults := s.privFaults + 1, reply := .value 0 })) ∧
  (∀ (s : State) (a : Agent) (h : HalfId) (ch : ChanId),
      (isRanger a h = true → (inQueue s h ch).words = [] → ∃ t, exec (.mbxInRd a h ch) s = .next t ∧ t.reply = .value 0 ∧
        t.rf .MBX_IN_STAT_UNDER h.val ch.val = 1 ∧ RegsBut s t [.MBX_IN_STAT_UNDER] ∧ t = { s with regs := t.regs, reply := t.reply }) ∧
      (∀ w rest, isRanger a h = true → (inQueue s h ch).words = w :: rest → ∃ t, exec (.mbxInRd a h ch) s = .next t ∧
        t.reply = .value w.word ∧ (inQueue t h ch).words = rest ∧ (inQueue t h ch).lock = (inQueue s h ch).lock ∧
        (w.hdr = true → t.rf .MBX_RX_SRC_VALID h.val ch.val = 1 ∧
          t.rf .MBX_RX_SRC_KIND h.val ch.val = (match w.stamp with
            | .host => 0
            | .dexca _ => 1
            | .plinth _ => 1
            | .smbus _ => 2
            | .debug => 3
            | .remote _ => 4
            | .core _ => 4) ∧
          (∀ d, w.stamp = .remote d → d < 2 ^ 14 → t.rf .MBX_RX_SRC_DEV h.val ch.val = d)) ∧
        (w.hdr = false → t.regs = s.regs)) ∧
      (outOfReach s a h = false → (outQueue s h ch).words = [] → ∃ t, exec (.mbxOutRd a h ch) s = .next t ∧ t.reply = .value 0 ∧
        t.rf .MBX_OUT_STAT_UNDER h.val ch.val = 1 ∧ RegsBut s t [.MBX_OUT_STAT_UNDER]) ∧
      (∀ w rest, outOfReach s a h = false → (outQueue s h ch).words = w :: rest → aget (s.half h).replyQ ch [] = [] → ∃ t, exec (.mbxOutRd a h ch) s = .next t ∧
        t.reply = .value w.word ∧ (outQueue t h ch).words = rest ∧
        (irqStopped s h = false → rest = [] → irqPending t h (16 + ch.val) = true) ∧ RegsBut s t [.IRQ_PEND_PEND]) ∧
      (∃ t, exec (.flushIn h ch) s = .next t ∧ inQueue t h ch = ⟨[], none, false⟩ ∧ t.rf .MBX_RX_SRC_VALID h.val ch.val = 0 ∧
        RegsBut s t [.MBX_RX_SRC_VALID] ∧ (∀ x ∈ t.dx.order, x.1 ≠ h ∨ x.2.1 ≠ ch) ∧
        t = { s with halves := t.halves, regs := t.regs, dx := { s.dx with order := t.dx.order } }) ∧
      (aget (s.half h).replyQ ch [] = [] → ∃ t, exec (.flushOut h ch) s = .next t ∧ outQueue t h ch = ⟨[], none, false⟩ ∧
        RegsBut s t [.IRQ_PEND_PEND] ∧ t = { s with halves := t.halves, regs := t.regs }))

/-- Claims, the time limit of coalescing, and the events that go out on channel 15 (from R433, R434, R465). -/
def Obligations.ClaimsCoalescingAndEvents : Prop :=
  ∀ (s : State) (a : Agent) (h : HalfId), outOfReach s a h = false →
    ((∀ i, i < 512 → (irqPending s h i && irqEnabled s h i) = false) →
      exec (.irqClaim a h) s = .next { s with reply := .value 0x80000000 }) ∧
    (∀ i, i < 512 → irqPending s h i = true → irqEnabled s h i = true →
      (∀ j, i < j → j < 512 → (irqPending s h j && irqEnabled s h j) = false) → ∃ t, exec (.irqClaim a h) s = .next t ∧
      t.reply = .value i ∧ irqPending t h i = false ∧ (∀ j, j < 512 → j ≠ i → irqPending t h j = irqPending s h j) ∧
      RegsBut s t [.IRQ_PEND_PEND] ∧ t = { s with reply := t.reply, regs := t.regs, halves := t.halves } ∧
      (irqStopped s h = false → irqPending (raiseIrq t h i) h i = true)) ∧
    (∀ i, i < 512 → irqPending s h i = true → irqEnabled s h i = true → s.rf .IRQ_COAL_TIME h.val ≠ 0 → (s.half h).irqCount ≠ 0 →
      exec (.irqCoalesceTimeout h) s = .next (s.setHalf h { s.half h with irqLine := true })) ∧
    (∀ e rest, eventsOf s h = e :: rest → e ≠ [] → e.headD 0 < 256 → (outQueue s h 15).lock = none → (outQueue s h 15).broken = false →
       (outQueue s h 15).words.length + e.length ≤ 8 →
      ∃ t, exec (.eventPost h) s = .next t ∧ eventsOf t h = rest ∧
        (outQueue t h 15).words.map MWord.word = (outQueue s h 15).words.map MWord.word ++
          (((e.length - 1) * 65536 + 0x700 + e.headD 0) :: e.drop 1).map (fun w => w % 2 ^ 32) ∧
        t.rf .DXC_EVT_STAT_BACKLOG h.val = min 255 rest.length ∧ RegsBut s t [.DXC_EVT_STAT_BACKLOG] ∧ SameMem s t) ∧
    (eventsOf s h = [] → exec (.eventPost h) s = .next s)

/-- The QUERY commands (from R450) and what Dexca answers to each of them. A reply goes out on the channel of its request with
its TAG and opcode (from R440), shown for INFO: its words enter the outbound queue, and the request is noted in the channel's
log. -/
def Obligations.QueriesAndReplies : Prop :=
  (∀ (s t : State) (h : HalfId) (ch : ChanId) (r : Req) (args : List Nat),
      (Takes ⟨0x0101, false, 0, [0, 1, 2, 3, 4, 5], false⟩ s h ch r args t →
        exec (.info h ch) s = .next (answer t r [0, Config.serial % 2 ^ 32, Config.serial / 2 ^ 32 % 2 ^ 32,
          0xB0 + s.sec.version % 65536 * 65536,
          s.dx.job % 8 + s.rf .SEC_LC_STATE r.half.val * 256 + b2n (leadHalf s == r.half) * 65536])) ∧
      (Takes ⟨0x0102, true, 0, [0, 1, 2, 3, 4, 5], false⟩ s h ch r args t →
        exec (.status h ch) s = .next (answer t r [0, epochNow s, s.rf .BEAT_STEP_STEP,
          s.dx.level % 4 + aget s.dx.scores (ownDev s) 0 % 256 * 256, failedCount s])) ∧
      (∀ nd, Takes ⟨0x0103, false, 2, [0, 1, 2, 3, 4, 5], false⟩ s h ch r args t → describedNode s (arg args 0) = some nd →
        arg args 1 % 64 = 0 → arg args 1 + 64 ≤ gladeSize → touchesUnderstory s r.half (gladeBase r.half + arg args 1) 64 = false →
        memWaits s r.half (gladeBase r.half + arg args 1) 64 = false →
        exec (.nodeDesc h ch) s = .next (answer { t with mem := s.mem.setBytes (gladeBase r.half + arg args 1) (nodeDesc s nd) } r
          [0, (s.table nd).version, epochNow s]) ∧ (nodeDesc s nd).length = 64) ∧
      (Takes ⟨0x0104, true, 1, [0, 1, 2, 3, 4, 5], false⟩ s h ch r args t →
        (∀ o, aget? s.dx.long (arg args 0 % 65536) = some o → exec (.opQuery h ch) s = .next (answer t r [0, 1, o.done, o.total])) ∧
        (∀ d n, aget? s.dx.long (arg args 0 % 65536) = none → aget? s.dx.ended (arg args 0 % 65536) = some (d, n) →
          exec (.opQuery h ch) s = .next (answer t r [0, 2, d, n])) ∧
        (aget? s.dx.long (arg args 0 % 65536) = none → aget? s.dx.ended (arg args 0 % 65536) = none →
          exec (.opQuery h ch) s = .next (answer t r [0, 0, 0, 0]))) ∧
      (Takes ⟨0x0105, false, 0, [0, 1, 2, 3, 4, 5], false⟩ s h ch r args t →
        exec (.chLog h ch) s = .next (answer t r (0 :: (aget s.dx.log (r.half, r.chan) [] ++ List.replicate 6 0).take 6)))) ∧
  (∀ (s t : State) (h : HalfId) (ch : ChanId) (r : Req) (args : List Nat),
      Takes ⟨0x0101, false, 0, [0, 1, 2, 3, 4, 5], false⟩ s h ch r args t → outQueue s h ch = ⟨[], none, false⟩ →
      ∃ u, exec (.info h ch) s = .next u ∧
        (outQueue u h ch).words.head? = some ⟨r.tag * 0x1000000 + 0x50101, true, .dexca h⟩ ∧ (outQueue u h ch).words.length = 6 ∧
        (outQueue u h ch).lock = none ∧
        (aget u.dx.log (h, ch) []).head? = some (r.tag * 0x1000000 + 0x10100) ∧ SameMem s u)

/-- Refusals before the arguments are looked at (from R441, R443, R444, R446, R449): PERM, BAD_LEN, BAD_STATE, HANDLE and BUSY,
in this order (log 49), for every command of Dexca's tables; an opcode of no table; and the inbound messages of channel 15. -/
def Obligations.RefusalsHaveTheirStatuses : Prop :=
  ∀ (s t : State) (h : HalfId) (ch : ChanId) (r : Req) (a : Agent) (args : List Nat),
    let any := [0, 1, 2, 3, 4, 5]
    let rows : List (CmdSpec × Instr) := [
      (⟨0x0101, false, 0, any, false⟩, .info h ch), (⟨0x0102, true, 0, any, false⟩, .status h ch),
      (⟨0x0103, false, 2, any, false⟩, .nodeDesc h ch), (⟨0x0104, true, 1, any, false⟩, .opQuery h ch),
      (⟨0x0105, false, 0, any, false⟩, .chLog h ch), (⟨0x0201, true, 2, [0], true⟩, .jobLoad h ch),
      (⟨0x0202, true, 3, [2], false⟩, .jobStart h ch), (⟨0x0203, true, 2, [1, 3], true⟩, .jobStop h ch),
      (⟨0x0204, true, 1, [1, 2, 4, 5], true⟩, .jobUnload h ch), (⟨0x0205, true, 4, [3], true⟩, .armInstall h ch),
      (⟨0x0206, true, 1, [2, 3], false⟩, .schedSet h ch), (⟨0x0207, true, 4, [2], true⟩, .restore h ch),
      (⟨0x0301, true, 7, [2, 3, 4], true⟩, .xfer h ch), (⟨0x0302, true, 1, any, false⟩, .xferAbort h ch),
      (⟨0x0303, false, 3, any, false⟩, .b2win h ch), (⟨0x0401, true, 2, [3], false⟩, .flagSet h ch),
      (⟨0x0402, true, 2, [3], false⟩, .flagPoison h ch), (⟨0x0403, true, 1, any, false⟩, .streamRestart h ch),
      (⟨0x0501, true, 4, any, false⟩, .ckptCfg h ch), (⟨0x0502, true, 0, any, false⟩, .risk h ch),
      (⟨0x0503, true, 2, [2, 3], true⟩, .unitDisable h ch), (⟨0x0504, true, 1, [3], false⟩, .expel h ch),
      (⟨0x0505, true, 3, any, true⟩, .surveyLoad h ch), (⟨0x0506, true, 1, any, false⟩, .portRelease h ch),
      (⟨0x0507, true, 1, [0], false⟩, .fabMode h ch), (⟨0x0508, false, 1, any, false⟩, .peers h ch),
      (⟨0x0601, true, 2, any, false⟩, .attest h ch), (⟨0x0602, true, 2, any, false⟩, .certChain h ch),
      (⟨0x0603, true, 2, any, false⟩, .authLoad h ch), (⟨0x0604, true, 0, any, false⟩, .authClear h ch),
      (⟨0x0605, true, 2, any, false⟩, .lifecycle h ch)]
    let handle := args.headD 0 % 65536
    (∀ x ∈ rows, nextRequest s h ch x.1.device = some (r, a, args, t) → r.op = x.1.op → ch.val ≠ 15 →
      (permitted s h ch a r.op = false → exec x.2 s = .next (answer t r [2])) ∧
      (permitted s h ch a r.op = true → args.length ≠ x.1.nargs → exec x.2 s = .next (answer t r [4])) ∧
      (permitted s h ch a r.op = true → args.length = x.1.nargs →
        (s.dx.job ∉ x.1.states → exec x.2 s = .next (answer t r [6])) ∧
        (s.dx.job ∈ x.1.states → x.1.long = true →
          (handle = 0 ∨ (aget? s.dx.long handle).isSome = true → exec x.2 s = .next (answer t r [15])) ∧
          (handle ≠ 0 → aget? s.dx.long handle = none → 64 ≤ s.dx.long.length → exec x.2 s = .next (answer t r [7]))))) ∧
    (nextRequest s h ch false = some (r, a, args, t) → ch.val ≠ 15 → knownOp r.op = false →
      exec (.badOpcode h ch) s = .next (answer t r [if permitted s h ch a r.op then 3 else 2])) ∧
    (nextRequest s h 15 false = some (r, a, args, t) → exec (.channel15Discard h) s = .next (t.incSat .DXC_EVT_STAT_IN15 1 h.val))

/-- The JOB commands (from R451 to R455): what each accepted command starts or does, and what it answers. -/
def Obligations.JobCommandsMoveTheJob : Prop :=
  ∀ (s t : State) (h : HalfId) (ch : ChanId) (r : Req) (args : List Nat),
    (∀ b, Takes ⟨0x0201, true, 2, [0], true⟩ s h ch r args t → gladeBlock s r.half (arg args 1) 64 = some b →
      touchesUnderstory s r.half b ((jobBlockAt s b).span s) = false → jobCause s r.half (jobBlockAt s b) = 0 →
      ∃ v, exec (.jobLoad h ch) s = .next (answer (prepareJob v (jobBlockAt s b)) r [1, arg args 0 % 65536]) ∧
        v.dx.job = 1 ∧ (aget? v.dx.long (arg args 0 % 65536)).map LongOp.cmd = some 0x0201 ∧ v = { t with dx := v.dx, fresh := v.fresh }) ∧
    (∀ b, Takes ⟨0x0201, true, 2, [0], true⟩ s h ch r args t → gladeBlock s r.half (arg args 1) 64 = some b →
      (jobBlockAt s b).good s r.half = false →
      ∃ u, exec (.jobLoad h ch) s = .next (answer u r [1, arg args 0 % 65536]) ∧
        (aget? u.dx.long (arg args 0 % 65536)).map LongOp.status = some (some 0x8000A) ∧ SameMem s u) ∧
    (Takes ⟨0x0202, true, 3, [2], false⟩ s h ch r args t → ∃ u, exec (.jobStart h ch) s = .next (answer u r [0]) ∧ u.dx.job = 3 ∧
      (∀ k : HalfId, u.rf .BEAT_STEP_START k.val = arg64 args 0 % 2 ^ Fld.width .BEAT_STEP_START ∧
        u.rf .BEAT_STEP_STEP k.val = arg args 2 % 2 ^ 32) ∧
      RegsBut t u [.BEAT_STEP_START, .BEAT_STEP_STEP] ∧ SameMem s u) ∧
    (Takes ⟨0x0203, true, 2, [1, 3], true⟩ s h ch r args t → s.dx.job = 1 →
      ∃ u, exec (.jobStop h ch) s = .next (answer u r [1, arg args 0 % 65536]) ∧ u.dx.job = 0 ∧
        (aget? u.dx.long (arg args 0 % 65536)).map LongOp.status = some (some 0) ∧ SameMem s u) ∧
    (Takes ⟨0x0204, true, 1, [1, 2, 4, 5], true⟩ s h ch r args t → s.dx.job ≠ 1 →
      exec (.jobUnload h ch) s = .next (answer (beginLong (stopUnits t) r args [] 1 (some 0)) r [1, arg args 0 % 65536])) ∧
    (Takes ⟨0x0205, true, 4, [3], true⟩ s h ch r args t →
      (isHall s = false → exec (.armInstall h ch) s = .next (answer t r [0x0D])) ∧
      (isHall s = true → arg64 args 2 % 4 ≠ 0 → exec (.armInstall h ch) s = .next (answer t r [0x20005])) ∧
      (∀ b n, isHall s = true → arg64 args 2 % 4 = 0 → gladeBlock s r.half (arg args 1) 64 = some b →
        n = armLen s b + mapLen s (b + armLen s b) → gladeBlock s r.half (arg args 1) n = some b → s.beat.armed = none →
        armCause s b (b + armLen s b) (epochNow s + 1) = 0 → ∃ v, exec (.armInstall h ch) s =
          .next (answer (installArm v (arg64 args 2) (s.read b n)) r [1, arg args 0 % 65536]) ∧
        (aget? v.dx.long (arg args 0 % 65536)).map LongOp.cmd = some 0x0205)) ∧
    (∀ b, Takes ⟨0x0206, true, 1, [2, 3], false⟩ s h ch r args t → gladeBlock s r.half (arg args 0) 32 = some b →
      gladeBlock s r.half (arg args 0) (schedLen s b) = some b →
      (schedGood s b (jobTag s) = true → schedPeriod s b = s.rf .BEAT_CFG_PERIOD →
        ∃ u, exec (.schedSet h ch) s = .next (answer u r [0]) ∧
          (∀ k : HalfId, u.rf .BEAT_SCHED_ADDR k.val = schedPlace s % 2 ^ Fld.width .BEAT_SCHED_ADDR) ∧
          u.mem = s.mem.setBytes (schedPlace s) (s.read b (schedLen s b))) ∧
      (schedGood s b (jobTag s) = false → exec (.schedSet h ch) s = .next (answer t r [0x4000A]))) ∧
    (∀ b n, Takes ⟨0x0207, true, 4, [2], true⟩ s h ch r args t → gladeBlock s r.half (arg args 1) 64 = some b →
      n = s.readN (b + 0x0C) 4 → gladeBlock s r.half (arg args 1) (64 + 4 * n) = some b →
      crc32c (restoreBytes s b n) = s.readN (b + 0x10) 4 →
      (s.readN b 4 ≠ arg args 2 → ∃ u, exec (.restore h ch) s = .next (answer u r [1, arg args 0 % 65536]) ∧
        (aget? u.dx.long (arg args 0 % 65536)).map LongOp.status = some (some 0x0B) ∧ u = { t with dx := u.dx }) ∧
      (s.readN b 4 = arg args 2 → s.readN (b + 4) 2 = arg args 3 % 65536 → partnerOf s (ownDev s) = none →
        ∃ u, exec (.restore h ch) s = .next (answer u r [1, arg args 0 % 65536]) ∧
        (∀ k : HalfId, u.rf .VEC_RNG_STEP_STEP k.val = arg args 2 % 2 ^ 32) ∧ SameMem s u))

/-- The MEM and SYNC commands (from R456 to R460). -/
def Obligations.MemAndSyncCommandsAct : Prop :=
  ∀ (s t : State) (h : HalfId) (ch : ChanId) (r : Req) (args : List Nat),
    (Takes ⟨0x0301, true, 7, [2, 3, 4], true⟩ s h ch r args t →
      (arg args 5 ≠ 0 → xferPlace s (arg64 args 3) (arg args 5) = true →
        ∃ u, exec (.xfer h ch) s = .next (answer u r [1, arg args 0 % 65536]) ∧
        (aget? u.dx.long (arg args 0 % 65536)).map (fun o => (o.cmd, o.args, o.total, o.status)) = some (0x0301, args, arg args 5, none) ∧
        u = { t with dx := u.dx }) ∧
      (arg args 5 ≠ 0 → xferPlace s (arg64 args 3) (arg args 5) = false → exec (.xfer h ch) s = .next (answer t r [8]))) ∧
    (∀ o, Takes ⟨0x0302, true, 1, [0, 1, 2, 3, 4, 5], false⟩ s h ch r args t → aget? s.dx.long (arg args 0 % 65536) = some o →
      o.cmd = 0x0301 → o.status = none → ∃ u, exec (.xferAbort h ch) s = .next (answer u r [0]) ∧
      aget? u.dx.long (arg args 0 % 65536) = some { o with status := some 0x11 } ∧ u = { t with dx := u.dx }) ∧
    (Takes ⟨0x0302, true, 1, [0, 1, 2, 3, 4, 5], false⟩ s h ch r args t → aget? s.dx.long (arg args 0 % 65536) = none →
      exec (.xferAbort h ch) s = .next (answer t r [15])) ∧
    (Takes ⟨0x0303, false, 3, [0, 1, 2, 3, 4, 5], false⟩ s h ch r args t → arg args 0 ≤ 15 → arg64 args 1 < 2 ^ 64 →
      apertureGood s (arg64 args 1 % 2 ^ 50) = true → ∃ u, exec (.b2win h ch) s = .next (answer u r [0]) ∧
      u.rf .DXC_B2WIN_BASE 0 (arg args 0) = arg64 args 1 % 2 ^ 50 ∧ u.rf .DXC_B2WIN_VALID 0 (arg args 0) = arg64 args 1 / 2 ^ 63 ∧
      RegsBut t u [.DXC_B2WIN_BASE, .DXC_B2WIN_VALID] ∧ u = { t with regs := u.regs }) ∧
    (∀ f, Takes ⟨0x0401, true, 2, [3], false⟩ s h ch r args t → flagOfLocal (addrLocal (arg64 args 0)) = some f →
      addrDev (arg64 args 0) = ownDev s → exec (.flagSet h ch) s = .next (answer (setFlag t f ⟨ownDev s, 0x3FF⟩) r [0])) ∧
    (Takes ⟨0x0402, true, 2, [3], false⟩ s h ch r args t → arg args 1 = 1 → ∀ f : FlagId, arg args 0 = f.val →
      (s.flag f).waiters = [] → ∃ u, exec (.flagPoison h ch) s = .next (answer u r [0]) ∧ (u.flag f).set = true ∧
      (u.flag f).poison = true ∧ (u.flag f).cause = 4 ∧ (∀ g, g ≠ f → u.flag g = s.flag g) ∧ SameMem s u) ∧
    (Takes ⟨0x0402, true, 2, [3], false⟩ s h ch r args t → arg args 0 < 32768 → 32768 < arg args 0 + arg args 1 →
      exec (.flagPoison h ch) s = .next (answer t r [0x10005])) ∧
    (∀ m : StreamId, Takes ⟨0x0403, true, 1, [0, 1, 2, 3, 4, 5], false⟩ s h ch r args t → arg args 0 = m.val →
      s.rf .DXC_STR_STAT_STOP 0 m.val = 1 → exec (.streamRestart h ch) s = .next (answer (t.wf .DXC_STR_STAT_STOP 0 0 m.val) r [0]))

/-- The HEALTH commands (from R461, R462). The ends of long commands (from R443, R453, R457, R464): OP_DONE frees the handle,
and an XFER to the device has written its blocks, those of a tier with their CRCs. -/
def Obligations.HealthAndLongCommands : Prop :=
  (∀ (s t : State) (h : HalfId) (ch : ChanId) (r : Req) (args : List Nat),
      (Takes ⟨0x0501, true, 4, [0, 1, 2, 3, 4, 5], false⟩ s h ch r args t →
        (arg args 0 < arg args 1 → exec (.ckptCfg h ch) s = .next (answer t r [0x10005])) ∧
        (arg args 1 ≤ arg args 0 → s.beat.sched ≠ 0 → ∃ u, exec (.ckptCfg h ch) s = .next (answer u r [0, ckptInterval s]) ∧
          u.dx.iBase = arg args 0 ∧ u.dx.iMin = arg args 1 ∧
          u.dx.weights = [arg args 2 % 256, arg args 2 / 256 % 256, arg args 2 / 65536 % 256, arg args 2 / 16777216 % 256,
            arg args 3 % 256] ∧ RegsBut t u [] ∧ SameMem s u)) ∧
      (Takes ⟨0x0502, true, 0, [0, 1, 2, 3, 4, 5], false⟩ s h ch r args t → s.dx.topPair.1 < 2 ^ 14 → s.dx.topPair.2 < 2 ^ 14 →
        exec (.risk h ch) s = .next (answer t r [0, s.dx.level, s.dx.topPair.1 + s.dx.topPair.2 * 65536,
          s.dx.topScore % 256 + b2n (pairCorr s s.dx.topPair) * 256])) ∧
      (∀ g, Takes ⟨0x0503, true, 2, [2, 3], true⟩ s h ch r args t → healthUnit s args = some g →
        exec (.unitDisable h ch) s = .next (answer (beginLong (closeUnit t g) r args [] 1 (some 0)) r [1, arg args 0 % 65536])) ∧
      (Takes ⟨0x0503, true, 2, [2, 3], true⟩ s h ch r args t → healthUnit s args = none →
        exec (.unitDisable h ch) s = .next (answer t r [0x10005])) ∧
      (Takes ⟨0x0504, true, 1, [3], false⟩ s h ch r args t →
        exec (.expel h ch) s = .next (answer (expel t (arg args 0 % 2 ^ 14) 4) r [0])) ∧
      (∀ a, Takes ⟨0x0505, true, 3, [0, 1, 2, 3, 4, 5], true⟩ s h ch r args t → gladeBlock s r.half (arg args 1) (arg args 2) = some a →
        ∃ u, exec (.surveyLoad h ch) s = .next (answer u r [1, arg args 0 % 65536]) ∧ u = { t with dx := u.dx } ∧
          (aget? u.dx.long (arg args 0 % 65536)).map LongOp.status = some (some (if surveyGood s a (arg args 2) then 0 else 9))) ∧
      (∀ p : PortId, Takes ⟨0x0506, true, 1, [0, 1, 2, 3, 4, 5], false⟩ s h ch r args t → arg args 0 = p.val →
        portState s p = psQuarantine → ∃ u, exec (.portRelease h ch) s = .next (answer u r [0]) ∧ portState u p = psDown ∧
        u.pf .FAB_PORT_STAT_QCAUSE p = 0 ∧ SameMem s u) ∧
      (Takes ⟨0x0507, true, 1, [0], false⟩ s h ch r args t → ∃ u, exec (.fabMode h ch) s = .next (answer u r [0]) ∧
        (∀ k : HalfId, u.rf .FAB_CFG_MODE k.val = arg args 0 % 2) ∧ RegsBut t u [.FAB_CFG_MODE] ∧ u = { t with regs := u.regs }) ∧
      (∀ a, Takes ⟨0x0508, false, 1, [0, 1, 2, 3, 4, 5], false⟩ s h ch r args t → arg args 0 % 8 = 0 →
        gladeBlock s r.half (arg args 0) 432 = some a → memWaits s r.half a 432 = false → ∃ u bs, exec (.peers h ch) s = .next (answer u r [0]) ∧
        u = { t with mem := s.mem.setBytes a bs } ∧ bs.length = 432 ∧
        (∀ p : PortId, portHalf p ≠ r.half → (bs.drop (24 * p.val)).take 24 = List.replicate 24 0))) ∧
  (∀ (s : State) (n : Nat) (o : LongOp), aget? s.dx.long n = some o → dexcaServes s (leadHalf s) = true → o.status = none →
      (∀ d, o.cmd = 0x0301 → bit (arg o.args 0) 16 = false → bit (arg o.args 6) 31 = false →
        rangeBusy s (arg64 o.args 3) (2048 * arg o.args 5) = false → d.length = 2048 * arg o.args 5 →
        ∃ v, exec (.opDone n d false 0) s = .next (drainAll (closeLong v n 0 (arg o.args 5) o.total)) ∧
          v.mem = s.mem.setBytes (arg64 o.args 3) d ∧
          (inTier (arg64 o.args 3) (2048 * arg o.args 5) = false → v = { s with mem := v.mem }) ∧
          (inTier (arg64 o.args 3) (2048 * arg o.args 5) = true → v = { s with mem := v.mem, crc := v.crc } ∧
            ∀ b ∈ blocksOf (arg64 o.args 3) (2048 * arg o.args 5), v.crcOf b = crc32c (v.read b 2048))) ∧
      (o.cmd = 0x0201 → exec (.opDone n [] false 0) s =
        .next (drainAll (closeLong (finishLoad s o) n (statusWord 0 0 (failedPorts s)) 1 o.total)) ∧
        (finishLoad s o).dx.job = 2) ∧
      (∀ w d : Nat, ∀ v : State, ∃ u, u = closeLong v n w d o.total ∧ aget? u.dx.long n = none ∧
        aget? u.dx.ended n = some (d, o.total)))

/-- The SEC commands (from R463, R476, R480 to R483). The SM2 verdicts and the certificate are constants that the model leaves
free (log 4). -/
def Obligations.SecCommandsAttestAndAuthorise : Prop :=
  ∀ (s t : State) (h : HalfId) (ch : ChanId) (r : Req) (args : List Nat),
    (∀ a b, Takes ⟨0x0601, true, 2, [0, 1, 2, 3, 4, 5], false⟩ s h ch r args t → s.rf .SEC_LC_STATE (leadHalf s).val = 2 →
      s.sec.keyGone = false → gladeBlock s r.half (arg args 0) 32 = some a → gladeBlock s r.half (arg args 1) 448 = some b →
      memWaits s r.half b 448 = false → ∃ u w, exec (.attest h ch) s = .next (answer u r w) ∧ (Config.certMatches = false → w = [9] ∧ u = t) ∧
      (Config.certMatches = true → w = [0, 448] ∧ u = { t with mem := u.mem, fresh := u.fresh } ∧ ∃ bs, u.mem = s.mem.setBytes b bs ∧
        bs.length = 448 ∧ bs.take 4 = [1, 0, 0xC0, 1] ∧ (bs.drop 0x10).take 32 = s.read a 32)) ∧
    (Takes ⟨0x0601, true, 2, [0, 1, 2, 3, 4, 5], false⟩ s h ch r args t → s.rf .SEC_LC_STATE (leadHalf s).val = 3 →
      exec (.attest h ch) s = .next (answer t r [14])) ∧
    (Takes ⟨0x0602, true, 2, [0, 1, 2, 3, 4, 5], false⟩ s h ch r args t →
      ∃ u w, exec (.certChain h ch) s = .next (answer u r w) ∧ (Config.certMatches = false → w = [9] ∧ u = t) ∧
      (Config.certMatches = true → arg args 1 < certChain.length → w = [0x10005, certChain.length] ∧ u = t) ∧
      (Config.certMatches = true → certChain.length ≤ arg args 1 →
        (gladeBlock s r.half (arg args 0) certChain.length = none → w = [8] ∧ u = t) ∧
        (∀ a, gladeBlock s r.half (arg args 0) certChain.length = some a → memWaits s r.half a certChain.length = false → w = [0, certChain.length] ∧
          u = { t with mem := s.mem.setBytes a certChain }))) ∧
    (∀ a, Takes ⟨0x0603, true, 2, [0, 1, 2, 3, 4, 5], false⟩ s h ch r args t → gladeBlock s r.half (arg args 0) 192 = some a →
      arg args 1 = 192 → ∃ u w, exec (.authLoad h ch) s = .next (answer u r [w]) ∧ SameMem s u ∧
      (recordGood s (s.read a 192) 3 [4, 5] = true → w = 0 ∧
        ∀ k : HalfId, u.rf .SEC_AUTH_STAT_VALID k.val = 1 ∧ u.rf .SEC_AUTH_STAT_GRANTS k.val = s.readN (a + 0x30) 1 % 8) ∧
      (recordGood s (s.read a 192) 3 [4, 5] = false → w = 9 ∧ u = t)) ∧
    (Takes ⟨0x0604, true, 0, [0, 1, 2, 3, 4, 5], false⟩ s h ch r args t → ∃ u, exec (.authClear h ch) s = .next (answer u r [0]) ∧
      (∀ k : HalfId, u.rf .SEC_AUTH_STAT_VALID k.val = 0 ∧ u.rf .SEC_AUTH_STAT_GRANTS k.val = 0) ∧ SameMem s u) ∧
    (∀ a, Takes ⟨0x0605, true, 2, [0, 1, 2, 3, 4, 5], false⟩ s h ch r args t → gladeBlock s r.half (arg args 1) 192 = some a →
      arg args 0 = rqTarget (s.read a 192) → ∃ u w, exec (.lifecycle h ch) s = .next (answer u r [w]) ∧ SameMem s u ∧
      (recordGood s (s.read a 192) 4 [6, 7] = false → w = 9 ∧ u = t) ∧
      (recordGood s (s.read a 192) 4 [6, 7] = true → requestAllowed s (s.read a 192) = false → w = 14 ∧ u = t) ∧
      (recordGood s (s.read a 192) 4 [6, 7] = true → requestAllowed s (s.read a 192) = true → w = 0 ∧
        u.sec.minsvn = rqMinSvn (s.read a 192) ∧ u.sec.lc = rqTarget (s.read a 192) ∧
        u.sec.revoked = s.sec.revoked ||| rqRevoke (s.read a 192) ∧
        ∀ k : HalfId, u.rf .SEC_LC_STATE k.val = s.rf .SEC_LC_STATE k.val))

/-- A node takes the entry at the front of a queue (from R178, R180, R39, R29): an entry that it refuses completes at once,
with the status of the case in the record at REC, and leaves nothing behind. A grove's dispatcher spreads an entry over its
Active slots (from R38, R179, R180): one part for each, in slot order, which waits for a context of its core; a fenced half
accepts none (from R504). -/
def Obligations.WorkEntriesAreRefusedOrSpread : Prop :=
  (∀ (s : State) (nd : NodeId) (q : Fin 8) (e : List Byte) (rest : List (List Byte)),
      nodeQueue s nd q = e :: rest → s.rf .HLF_LEAD_STAT_FENCED (servingHalf s nd).val = 0 →
      weDoneFlag e = 0 → weRec e ≠ 0 → Writable s (entryHalf nd) (weRec e) 16 →
      let done := fun st : Nat => ({ s with
        nodeQ := aset s.nodeQ (nd, q) rest, fresh := s.fresh + 1, entries := adrop s.entries (fun k => k == s.nextEntry),
        mem := s.mem.setBytes (weRec e) (natLE 4 (st + 15 * 2 ^ 11 + weTag e * 2 ^ 16) ++ natLE 4 1 ++
          natLE 4 (beatNow s (entryHalf nd)) ++ natLE 4 (Config.free s.fresh % 2 ^ 32)) } : State)
      (weKind e ≠ 1 → weKind e ≠ 2 → exec (.workEntryOp nd q) s = .next (done stInvalidOp)) ∧
      (weKind e = 1 → (weClass e ∉ [clMat, clVec, clLoad, clStore]) → exec (.workEntryOp nd q) s = .next (done stInvalidOp)) ∧
      (weKind e = 1 → weClass e ∈ [clMat, clVec, clLoad, clStore] →
        (weGrain e = 0 → exec (.workEntryOp nd q) s = .next (done stInvalidShape)) ∧
        (weGrain e ≠ 0 →
          (nodeState s nd = .paired → exec (.workEntryOp nd q) s = .next (done stNodePaired)) ∧
          (nodeState s nd ≠ .paired → nodeState s nd ≠ .active → exec (.workEntryOp nd q) s = .next (done stNotActive)) ∧
          (nodeState s nd = .active → (∀ c, nd ≠ .core c) → activeSlots s nd = [] →
            exec (.workEntryOp nd q) s = .next (done stNodeEmpty)))) ∧
      (weKind e = 2 → nodeState s nd = .active → ((∀ c, nd ≠ .core c) → activeSlots s nd ≠ []) →
        (spread s false 6 nd 0 (weNItems e)).length ≠ weNSlotExp e → exec (.workEntryProg nd q) s = .next (done stSlotMismatch))) ∧
  (∀ (s : State) (g : GroveId) (q : Fin 8) (e : List Byte) (rest : List (List Byte)) (cs : List CoreId),
      nodeQueue s (.grove g) q = e :: rest → nodeState s (.grove g) = .active → cs ≠ [] →
      (activeSlots s (.grove g)).map (fun x => localNode s x.child) = cs.map (fun c => some (.core c)) →
      (∀ c ∈ cs, groveOfCore c = g ∧ surveying s c = false) →
      (s.rf .HLF_LEAD_STAT_FENCED (halfOfGrove g).val ≠ 0 →
        exec (.workEntryOp (.grove g) q) s = .next s ∧ exec (.workEntryProg (.grove g) q) s = .next s) ∧
      (s.rf .HLF_LEAD_STAT_FENCED (halfOfGrove g).val = 0 → weKind e = 2 → weNSlotExp e = cs.length →
        ∃ t, exec (.workEntryProg (.grove g) q) s = .next t ∧
          aget? t.entries s.nextEntry = some ⟨e, .grove g, cs.zipIdx.map (fun x => ⟨x.2, some x.1, none⟩), [], s.fresh⟩ ∧
          aget t.waiting g [] = aget s.waiting g [] ++ cs.zipIdx.map (fun x => ⟨s.nextEntry, x.2, x.1, none⟩) ∧
          t.nextEntry = s.nextEntry + 1 ∧ nodeQueue t (.grove g) q = rest ∧ RegsBut s t [] ∧ SameMem s t) ∧
      (s.rf .HLF_LEAD_STAT_FENCED (halfOfGrove g).val = 0 → weKind e = 1 → weSplit e = 1 → weAdv e = 0 →
        weClass e = clLoad ∨ weClass e = clStore → weGrain e ≠ 0 →
        (∀ k < cs.length, 0 < (k + 1) * weNItems e / cs.length - k * weNItems e / cs.length ∧
          ((k + 1) * weNItems e / cs.length - k * weNItems e / cs.length) * weGrain e < 65536) →
        ∃ t, exec (.workEntryOp (.grove g) q) s = .next t ∧
          aget? t.entries s.nextEntry = some ⟨e, .grove g, cs.zipIdx.map (fun x => ⟨x.2, some x.1, none⟩), [], s.fresh⟩ ∧
          aget t.waiting g [] = aget s.waiting g [] ++ cs.zipIdx.map (fun x => ⟨s.nextEntry, x.2, x.1, some (setDfld (weDesc e) 4 2 15 0
            (((x.2 + 1) * weNItems e / cs.length - x.2 * weNItems e / cs.length) * weGrain e))⟩) ∧
          t.nextEntry = s.nextEntry + 1 ∧ nodeQueue t (.grove g) q = rest ∧ RegsBut s t [] ∧ SameMem s t))

/-- A waiting part starts on the lowest-numbered Idle context of its core, or ends at once where its ring or its tiles are
refused (from R180, R182, R201, R203). PART_COMPLETE (from R181, R206, R217): the context is Idle again and owns no flag; with
the last part of its entry the record is written at REC and DONE_FLAG is set; a speculative part waits for its resolution. -/
def Obligations.PartsStartAndComplete : Prop :=
  (∀ (s : State) (c : CoreId) (n : CtxId) (w : WaitingPart) (ws : List WaitingPart) (en : Entry),
      idleCtx (s.core c) = some n → coreTakes (s.core c) = true → surveying s c = false →
      (aget s.waiting (groveOfCore c) []).filter (fun w => w.core == c) = w :: ws → aget? s.entries w.entry = some en →
      let ring := weProg en.raw + 64 * wePStride en.raw * w.k
      let left := (aget s.waiting (groveOfCore c) []).filter (fun x => !(x.entry == w.entry && x.k == w.k))
      (weSpec en.raw = 0 → (w.desc.isSome = true ∨ (ringOk c ring (wePlen en.raw) = true ∧ wePlen en.raw ≠ 0)) →
        ∃ t, exec (.partStart c) s = .next t ∧ t.ctx c n = { Ctx.reset with
            st := .ready, entry := w.entry, k := w.k, ring := ring, plen := wePlen en.raw, crec := weCRec en.raw, mb := weMb en.raw,
            stopErr := weStopErr en.raw, opCls := weClass en.raw, opTag := weTag en.raw, opDesc := w.desc } ∧
          (∀ m, m ≠ n → t.ctx c m = s.ctx c m) ∧ aget t.waiting (groveOfCore c) [] = left ∧ t.entries = s.entries ∧
          RegsBut s t [] ∧ SameMem s t) ∧
      (weSpec en.raw = 0 → w.desc = none → ringOk c ring (wePlen en.raw) = false →
        en.parts = [⟨w.k, some c, none⟩] → weRec en.raw = 0 → weDoneFlag en.raw = 0 → en.excs = [] →
        ∃ t, exec (.partStart c) s = .next t ∧ aget? t.entries w.entry = none ∧ t.cores = s.cores ∧
          aget t.waiting (groveOfCore c) [] = left ∧ RegsBut s t [] ∧ SameMem s t) ∧
      (∀ key, weSpec en.raw ≠ 0 → (s.core c).spec = none → keyOfHandle s (halfOfCore c) (weSpec en.raw) = some key →
        key.resolved = none →
        (weShadow en.raw = 3 ∨ weTarget en.raw = 3 ∨ weShadow en.raw = weTarget en.raw → en.parts = [⟨w.k, some c, none⟩] →
          weRec en.raw = 0 → weDoneFlag en.raw = 0 → en.excs = [] →
          ∃ t, exec (.partStart c) s = .next t ∧ aget? t.entries w.entry = none ∧ t.cores = s.cores ∧
            (t.half (halfOfCore c)).und = (s.half (halfOfCore c)).und.map (fun x => if sameKey key x then { key with dead := true } else x) ∧
            SameMem s t) ∧
        (weShadow en.raw ≠ 3 → weTarget en.raw ≠ 3 → weShadow en.raw ≠ weTarget en.raw →
          (s.tile c (weShadow en.raw)).released = false → ws = [] → exec (.partStart c) s = .next s) ∧
        (weShadow en.raw ≠ 3 → weTarget en.raw ≠ 3 → weShadow en.raw ≠ weTarget en.raw →
          (s.tile c (weShadow en.raw)).released = true → s.rf .CORE_SPEC_CFG_PART c.val ≠ 0 →
          key.recs.flatten.length ≤ min 16 (s.rf .CORE_SPEC_CFG_PART c.val) * 65536 →
          (w.desc.isSome = true ∨ ringOk c ring (wePlen en.raw) = true) →
          ∃ t, exec (.partStart c) s = .next t ∧ t.mem = s.mem.setBytes (partBase s c) key.recs.flatten ∧
            (t.core c).spec = some ⟨(key.sender, key.tag), n, w.entry, w.k, weShadow en.raw, weTarget en.raw, none, none, key.dead, []⟩ ∧
            (t.ctx c n).spec = true ∧ t.rf .CORE_SPEC_STAT_STATE c.val = 1 ∧ (t.tile c (weShadow en.raw)).shadow = true))) ∧
  (∀ (s : State) (c : CoreId) (n : CtxId),
      (partOver s c n = false → exec (.partComplete c n) s = .next s) ∧
      (∀ (en : Entry) (f : FlagId), partOver s c n = true → (s.ctx c n).spec = false → aget? s.entries (s.ctx c n).entry = some en →
        en.parts = [⟨(s.ctx c n).k, some c, none⟩] → en.excs = [] → weRec en.raw ≠ 0 → Writable s (entryHalf en.node) (weRec en.raw) 16 →
        (∀ r ∈ (s.core c).runAhead, r.ctx ≠ n) → weDoneFlag en.raw ≠ 0 → flagOfLocal (addrLocal (weDoneFlag en.raw)) = some f → addrDev (weDoneFlag en.raw) = ownDev s →
        s.beat.phases = [] → flagDead s f = none → (s.flag f).set = false → (s.flag f).waiters = [] →
        ∃ t, exec (.partComplete c n) s = .next t ∧ t.ctx c n = Ctx.reset ∧ aget? t.entries (s.ctx c n).entry = none ∧
          t.mem = s.mem.setBytes (weRec en.raw) (natLE 4 (partStatus (s.ctx c n) + 15 * 2 ^ 11 + weTag en.raw * 2 ^ 16) ++ natLE 4 1 ++
            natLE 4 (beatNow s (entryHalf en.node)) ++ natLE 4 (Config.free s.fresh % 2 ^ 32)) ∧
          (t.flag f).set = true ∧ (t.flag f).src = ⟨ownDev s, 0x3FC⟩ ∧ (∀ g, (s.flag g).owner = some (c, n) → (t.flag g).owner = none) ∧
          (∀ m, m ≠ n → t.ctx c m = s.ctx c m) ∧ RegsBut s t []) ∧
      (∀ (en : Entry) (p : PartRec), partOver s c n = true → (s.ctx c n).spec = false → (∀ r ∈ (s.core c).runAhead, r.ctx ≠ n) →
        aget? s.entries (s.ctx c n).entry = some en → p ∈ en.parts → p.k ≠ (s.ctx c n).k → p.status = none →
        ∃ t, exec (.partComplete c n) s = .next t ∧ t.ctx c n = Ctx.reset ∧ SameMem s t ∧ RegsBut s t [] ∧
          aget? t.entries (s.ctx c n).entry = some { en with parts := en.parts.map (fun p =>
            if p.k = (s.ctx c n).k then { p with status := some (partStatus (s.ctx c n)) } else p) }) ∧
      (∀ z : SpecSt, partOver s c n = true → (s.ctx c n).spec = true → (s.core c).spec = some z →
        (∀ r ∈ (s.core c).runAhead, r.ctx ≠ n) →
        ∃ t, exec (.partComplete c n) s = .next t ∧ t.ctx c n = Ctx.reset ∧ t.entries = s.entries ∧ SameMem s t ∧
          (t.core c).spec = some { z with
            partDone := some (partStatus (s.ctx c n)), dead := z.dead || (s.ctx c n).fail.map Prod.snd == some stSpecForbidden } ∧
          t.rf .CORE_SPEC_STAT_STATE c.val = 2 ∧ RegsBut s t [.CORE_SPEC_STAT_STATE]))

/-- Commands of a ring (from R183 to R192): END ends the part, an unmet DEP blocks, a wait consumes its flag or begins, a class
of no table completes with INVALID_OP and its record; an idle core gates its clocks (from R187). -/
def Obligations.RingCommandsFollowDepAndRecords : Prop :=
  ∀ (s : State) (c : CoreId) (n : CtxId) (k : Cmd),
    (Accepts s c n k → k.cls = clEnd → (∀ o ∈ (s.core c).ops, o.num ≠ (s.core c).nextNum) →
      (k.reco = false → k.setf = false → ∃ t, exec (.cmdEnd c n) s = .next t ∧ t.ctx c n = { s.ctx c n with
        ptr := (s.ctx c n).ptr + 1, prev := some (s.core c).nextNum, depMet := false, st := .stopping, ended := true } ∧
        (t.core c).ops = (s.core c).ops ∧ t.flags = s.flags ∧ t.entries = s.entries ∧ SameMem s t) ∧
      (k.reco = true → k.setf = false → (s.ctx c n).crec ≠ 0 → (s.ctx c n).spec = false →
        Writable s (halfOfCore c) ((s.ctx c n).crec + 4096 * (s.ctx c n).k + 16 * (s.ctx c n).rptr) 16 →
        ∃ t, exec (.cmdEnd c n) s = .next t ∧ (t.ctx c n).st = .stopping ∧
          t.mem = s.mem.setBytes ((s.ctx c n).crec + 4096 * (s.ctx c n).k + 16 * (s.ctx c n).rptr)
            (natLE 4 (n.val * 2 ^ 8 + k.tag * 2 ^ 16) ++ natLE 4 0 ++ natLE 4 (beatNow s (halfOfCore c)) ++
              natLE 4 (Config.free s.fresh % 2 ^ 32)))) ∧
    (nextCmd s (s.ctx c n) = some k → k.cls = clEnd → (k.dep = 1 ∨ k.dep = 2) → depMet (s.core c) n (s.ctx c n) k.dep = false →
      exec (.cmdEnd c n) s = .next s) ∧
    (∀ y, y = s.ctx c n → nextCmd s y = some k → k.cls = clEnd → k.dep = 3 → y.depMet = false → ctxRuns y = true →
      fenced (s.core c) n = false → coreTakes (s.core c) = true → hasRoom s c n clEnd = true → OthersIdle s c n → k.reco = false →
      k.setf = false → flagDead s k.wflag = none →
      (s.flag k.wflag).poison = false →
      ((s.flag k.wflag).set = false → ∃ t, exec (.cmdEnd c n) s = .next t ∧ (t.ctx c n).st = .waiting ∧ (t.ctx c n).ptr = y.ptr ∧
        (t.flag k.wflag).waiters = (s.flag k.wflag).waiters ++ [.ctx c n] ∧ RegsBut s t [] ∧ SameMem s t) ∧
      ((s.flag k.wflag).set = true → ∃ t, exec (.cmdEnd c n) s = .next t ∧ (t.ctx c n).st = .stopping ∧ (t.ctx c n).ptr = y.ptr + 1 ∧
        (t.flag k.wflag).set = false ∧ t.rf .FLG_WAKE_FLAG c.val n.val = k.wflag.val ∧ t.rf .FLG_WAKE_VALID c.val n.val = 1 ∧
        SameMem s t)) ∧
    (Accepts s c n k → 8 < k.cls → ∃ t, exec (.invalidClass c n) s = .next t ∧ CmdFails s t c n k stInvalidOp) ∧
    (Accepts s c n k → 8 < k.cls → k.reco = true → (s.ctx c n).crec ≠ 0 → (s.ctx c n).spec = false →
      Writable s (halfOfCore c) ((s.ctx c n).crec + 4096 * (s.ctx c n).k + 16 * (s.ctx c n).rptr) 16 → k.setf = false →
      ∃ t, exec (.invalidClass c n) s = .next t ∧ (t.ctx c n).rptr = ((s.ctx c n).rptr + 1) % 256 ∧
        t.mem = s.mem.setBytes ((s.ctx c n).crec + 4096 * (s.ctx c n).k + 16 * (s.ctx c n).rptr)
          (natLE 4 (stInvalidOp + n.val * 2 ^ 8 + k.cls * 2 ^ 11 + k.tag * 2 ^ 16) ++ natLE 4 0 ++
            natLE 4 (beatNow s (halfOfCore c)) ++ natLE 4 (Config.free s.fresh % 2 ^ 32))) ∧
    (∀ f : FlagId, Accepts s c n k → 8 < k.cls → k.setf = true → k.reco = false → (s.ctx c n).spec = false → k.dflag = f.val →
      s.fab.selfQ = [] → s.fab.unsent = [] → s.beat.phases = [] → flagDead s f = none → (s.flag f).set = false → (s.flag f).waiters = [] →
      ∃ t, exec (.invalidClass c n) s = .next t ∧ (t.flag f).set = true ∧ (t.flag f).src = ⟨ownDev s, 8 * c.val + n.val⟩ ∧
        (∀ g, g ≠ f → t.flag g = s.flag g) ∧ SameMem s t) ∧
    (s.rf .CORE_CTX_CFG_GATE_EN c.val = 1 → (∀ m : CtxId, ctxState s c m ≠ .ready) → trkUsed (s.core c) = 0 →
      exec (.coreClockGate c) s = .next (s.setCore c { s.core c with gated := true })) ∧
    ((s.rf .CORE_CTX_CFG_GATE_EN c.val = 0 ∨ (∃ m : CtxId, ctxState s c m = .ready) ∨ trkUsed (s.core c) ≠ 0) →
      exec (.coreClockGate c) s = .next s)

/-- LOAD and STORE at acceptance (from R194, R195): the first failing check decides the status; a sound one waits in its
engine. TRANSFER_COMPLETE (from R194, R196, R266, R268): every row is moved, transposed with TRANS = 1; a checked STORE leaves
each block with its CRC; a checked LOAD of a bad block completes with CHECKSUM; a transfer waits for an initialisation. -/
def Obligations.TransfersAreCheckedAndMoveTheirRows : Prop :=
  (∀ (s : State) (c : CoreId) (n : CtxId) (k : Cmd) (store : Bool),
      let i : Instr := if store then .store c n else .load c n
      let d := k.desc
      let rows := srcRows d ++ dstRows d
      let badShape := tdEsize d = 3 ∨ tdRows d = 0 ∨ tdRBytes d = 0 ∨ (tdTrans d = true ∧ tdRBytes d % 2 ^ tdEsize d ≠ 0)
      let priv := fun r : Nat × Nat => r.1 < 0x7000000000 + 0x300000000 ∧ 0x7000000000 < r.1 + r.2
      Sound s c n k → k.cls = (if store then clStore else clLoad) →
      (badShape → ∃ t, exec i s = .next t ∧ CmdFails s t c n k stInvalidShape ∧ t.privFaults = s.privFaults) ∧
      (¬badShape → (∃ r ∈ rows, priv r) → ∃ t, exec i s = .next t ∧ CmdFails s t c n k stPrivFault ∧ t.privFaults = s.privFaults + 1) ∧
      (¬badShape → (∀ r ∈ rows, ¬priv r) →
        ((∃ r ∈ rows, touchesUnderstory s 0 r.1 r.2 = true ∨ touchesUnderstory s 1 r.1 r.2 = true ∨
          ((s.ctx c n).spec = false ∧ ∃ x : CoreId, inPartition s x r.1 r.2 = true)) →
          ∃ t, exec i s = .next t ∧ CmdFails s t c n k stSpecHidden)) ∧
      (¬badShape → (∀ r ∈ rows, ¬priv r) →
        (∀ r ∈ rows, touchesUnderstory s 0 r.1 r.2 = false ∧ touchesUnderstory s 1 r.1 r.2 = false ∧
          ∀ x : CoreId, inPartition s x r.1 r.2 = false) →
        (∃ r ∈ (if store then srcRows d else dstRows d), ∀ x, regionOf r.1 r.2 = some (.scratch x) → x ≠ c ∧ inPair s c = false) →
        ∃ t, exec i s = .next t ∧ CmdFails s t c n k stInvalidAddress) ∧
      (transferCheck s c store (s.ctx c n).spec d = none →
        ∃ t, exec i s = .next t ∧ CmdEntered s t c n (opOf s c n k none) ∧ t.crc = s.crc)) ∧
  (∀ (s : State) (c : CoreId) (o : Op) (bad : Nat),
      findOp (s.core c) o.num = some o → o.reco = false → o.setf = false → (s.core c).runAhead = [] →
      let d := o.desc
      let busy := (srcRows d ++ dstRows d).any (fun r => rangeBusy s r.1 r.2)
      let moved := ((dstRows d).zip (srcRows d)).foldl (fun m x => m.setBytes x.1.1 (s.read x.2.1 x.2.2)) s.mem
      let turned := ((dstRows d).zip (List.range (tdRBytes d / 2 ^ tdEsize d))).foldl (fun m x =>
        m.setBytes x.1.1 ((srcRows d).flatMap (fun r => s.read (r.1 + x.2 * 2 ^ tdEsize d) (2 ^ tdEsize d)))) s.mem
      let done := fun t : State => (t.core c).ops = (s.core c).ops.filter (fun p => p.num != o.num) ∧
        (∀ m, t.ctx c m = s.ctx c m) ∧ t.flags = s.flags
      (o.cls = clLoad ∨ o.cls = clStore → busy = true → exec (.transferComplete c o.num bad) s = .next s) ∧
      (o.cls = clLoad → busy = false → tdCheck d = false →
        ∃ t, exec (.transferComplete c o.num bad) s = .next t ∧ t.mem = (if tdTrans d then turned else moved) ∧ t.crc = s.crc ∧ done t) ∧
      (o.cls = clStore → busy = false →
        ∃ t, exec (.transferComplete c o.num bad) s = .next t ∧ t.mem = (if tdTrans d then turned else moved) ∧ done t ∧
          (tdCheck d = false → t.crc = s.crc) ∧
          (tdCheck d = true → ∀ b ∈ tierBlocks (dstRows d), t.crcOf b = crc32c (t.read b 2048))) ∧
      (o.cls = clLoad → busy = false → tdCheck d = true → s.rf .TST_INJ_ARMED 0 = 0 → s.rf .TST_INJ_ARMED 1 = 0 → bad = 0 →
        (∀ b ∈ tierBlocks (srcRows d), crc32c (s.read b 2048) = s.crcOf b) →
        ∃ t, exec (.transferComplete c o.num bad) s = .next t ∧ t.mem = (if tdTrans d then turned else moved) ∧ t.crc = s.crc ∧ done t) ∧
      (∀ b, o.cls = clLoad → busy = false → tdCheck d = true → s.rf .TST_INJ_ARMED 0 = 0 → s.rf .TST_INJ_ARMED 1 = 0 →
        tierBlocks (srcRows d) = [b] → b < hbmSize → crc32c (s.read b 2048) ≠ s.crcOf b → (s.ctx c o.ctx).fail = none →
        ∃ t, exec (.transferComplete c o.num bad) s = .next t ∧ (t.ctx c o.ctx).fail = some (o.idx, stChecksum) ∧
          ((s.ctx c o.ctx).stopErr = true → (t.ctx c o.ctx).st = .stopping ∧ (t.ctx c o.ctx).cond = (s.ctx c o.ctx).cond ∧
            ((s.ctx c o.ctx).st = .waiting → ∀ f, .ctx c o.ctx ∉ (t.flag f).waiters)) ∧
          t.rf .HBM_ERR_STAT_CRC2 (tierHalf b).val = min (s.rf .HBM_ERR_STAT_CRC2 (tierHalf b).val + 1) (2 ^ Fld.width .HBM_ERR_STAT_CRC2 - 1) ∧
          t.rf .HBM_ERR_LOG_VALID (tierHalf b).val = (if s.rf .HBM_ERR_LOG_VALID (tierHalf b).val = 0 then 1 else s.rf .HBM_ERR_LOG_VALID (tierHalf b).val)))

/-- COND, its run-ahead and its resolution (from R197 to R200): SKIP = 0 is refused, an accepted COND blocks its context until
it reads its flag, which it does not consume; LOADs behind it are read into the buffer only. -/
def Obligations.ConditionsSkipAndReadAhead : Prop :=
  ∀ (s : State) (c : CoreId) (n : CtxId) (k : Cmd),
    (Accepts s c n k → k.cls = clCond → specRefuses (s.ctx c n) k = false → k.descAddr % 256 = 0 →
      ∃ t, exec (.cond c n) s = .next t ∧
        ((∀ p ∈ (s.core c).ops, p.cls < 7) → CmdFails s t c n k stInvalidOp) ∧
        ((∃ p ∈ (s.core c).ops, 7 ≤ p.cls) → CmdEntered s t c n (opOf s c n k (some stInvalidOp)))) ∧
    (Accepts s c n k → k.cls = clCond → specRefuses (s.ctx c n) k = false → k.descAddr % 256 ≠ 0 →
      ∃ t, exec (.cond c n) s = .next t ∧ CmdEntered s t c n (opOf s c n k none) ∧
        (t.ctx c n).cond = some ⟨k.wflag, k.descAddr / 256 % 2 == 1, k.descAddr % 256⟩ ∧ ctxRuns (t.ctx c n) = false) ∧
    (∀ (x : Nat → Cmd) (i : Fin 16) (bad : Nat), (s.ctx c n).cond.isSome = true →
      (∀ j ≤ i.val, cmdAt s (s.ctx c n) ((s.ctx c n).ptr + j) = some (x j) ∧ (x j).cls = clLoad) →
      let d := (x i.val).desc
      transferCheck s c false (s.ctx c n).spec d = none → tdCheck d = false → (srcRows d).all (aheadPlace s) = true →
      (∀ r ∈ srcRows d, rangeBusy s r.1 r.2 = false) → runAheadBytes (s.core c) + tdRows d * tdRBytes d ≤ 128 * 1024 →
      (∀ r ∈ (s.core c).runAhead, r.ctx = n → r.idx ≠ (s.ctx c n).ptr + i.val) →
      exec (.runAheadRead c n i bad) s = .next (s.setCore c { s.core c with runAhead := (s.core c).runAhead ++
        [⟨n, (s.ctx c n).ptr + i.val, d, (srcRows d).map (fun r => s.read r.1 r.2), []⟩] })) ∧
    (∀ (x : CondSt) (o : Op), (s.ctx c n).cond = some x → (s.core c).ops = [o] → o.ctx = n → o.cls = clCond → o.pre = none →
      o.reco = false → o.setf = false →
      let skips := flagIsSet s x.flag = x.polarity
      (flagIsPoisoned s x.flag = false → ∃ t, exec (.condResolve c n) s = .next t ∧ (t.core c).ops = [] ∧ t.flags = s.flags ∧
        SameMem s t ∧ (t.ctx c n).cond = none ∧
        (skips → (t.ctx c n).ptr = (s.ctx c n).ptr + x.skip ∧
          (∀ r ∈ (t.core c).runAhead, r.ctx = n → r.idx < (s.ctx c n).ptr ∨ (s.ctx c n).ptr + x.skip ≤ r.idx) ∧
          ((s.ctx c n).ended = false → (s.ctx c n).plen ≤ (s.ctx c n).ptr + x.skip → 0 < x.skip → (t.ctx c n).ended = true ∧ (t.ctx c n).st = .stopping ∧
            (t.ctx c n).fail = (s.ctx c n).fail)) ∧
        (¬skips → (t.ctx c n).ptr = (s.ctx c n).ptr ∧ (t.core c).runAhead = (s.core c).runAhead ∧
          ((s.ctx c n).ptr < (s.ctx c n).plen → (t.ctx c n).st = (s.ctx c n).st ∧ (t.ctx c n).ended = (s.ctx c n).ended) ∧
          ((s.ctx c n).ended = false → (s.ctx c n).plen ≤ (s.ctx c n).ptr → (s.ctx c n).fail = none →
            (t.ctx c n).st = .stopping ∧ (t.ctx c n).fail = some ((s.ctx c n).plen, stInvalidOp))) ∧
        ((s.ctx c n).ended = true → (t.ctx c n).st = (s.ctx c n).st ∧ (t.ctx c n).ended = true ∧ (t.ctx c n).fail = (s.ctx c n).fail)) ∧
      (flagIsPoisoned s x.flag = true → ∃ t, exec (.condResolve c n) s = .next t ∧ (t.core c).ops = [] ∧ (t.ctx c n).cond = none ∧
        (t.ctx c n).st = .stopping ∧ (t.ctx c n).ended = true ∧ ((s.ctx c n).st ≠ .waiting → t.flags = s.flags) ∧ SameMem s t ∧
        ((s.ctx c n).fail = none → (t.ctx c n).fail = some (o.idx, stAbortedDisable)) ∧
        t.rf .FLG_WAKE_POISON c.val n.val = 1 ∧ t.rf .FLG_WAKE_FLAG c.val n.val = x.flag.val))

/-- The end of a speculation (from R206 to R208): a commit adds SHADOW into TARGET and clears the partition, and waits for the
part; an expiry cancels, and leaves TARGET as it was. -/
def Obligations.SpeculationsCommitOrExpire : Prop :=
  ∀ (s : State) (c : CoreId), s.fab.store = [] →
    (commitReady s c = none → exec (.specCommit c) s = .next s) ∧
    (∀ (z : SpecSt) (st : Nat) (en : Entry), (s.core c).spec = some z → z.partDone = some st → z.resolved = some true → z.dead = false →
      drainRuns s c z.target = false → z.shadow ≠ z.target → (s.acc c).elems = [] → (s.acc c).spill = [] → (s.half (halfOfCore c)).ovf = [] → z.excs = [] →
      (inPair s c = true → (s.acc (pairMate c)).elems = []) →
      aget? s.entries z.entry = some en → en.parts = [⟨z.k, some c, none⟩] → en.excs = [] → weRec en.raw = 0 → weDoneFlag en.raw = 0 →
      (s.core c).shadow = [] →
      ∃ t, exec (.specCommit c) s = .next t ∧ (t.core c).spec = none ∧ t.rf .CORE_SPEC_STAT_STATE c.val = 0 ∧
        t.mem = s.mem.clear (partBase s c) (scratchBase c + 0x300000) ∧ (t.tile c z.shadow).released = true ∧
        aget? t.entries z.entry = none ∧ t.flags = s.flags) ∧
    (∀ (z : SpecSt) (st i : Nat) (e : AccElem), (s.core c).spec = some z → z.partDone = some st → z.resolved = some true → z.dead = false →
      drainRuns s c z.target = false → z.shadow ≠ z.target → i < 16384 → ∀ d : CoreId, (d = c ∨ (pairHead s c = true ∧ d = pairMate c)) →
      (s.acc d).elems = [(z.shadow * 16384 + i, e)] → (inPair s c = true → (s.acc (if d = c then pairMate c else c)).elems = []) →
      e.anchor ≤ 12 → e.w ≠ 0 → fitsAnchor (e.w * 2 ^ (32 * e.anchor)) e.anchor = true →
      aget? s.entries z.entry = none →
      ∃ t a, exec (.specCommit c) s = .next t ∧ placeAnchor (e.w * 2 ^ (32 * e.anchor)) = some a ∧
        t.elem d (z.target * 16384 + i) = ⟨a, e.sc, e.w * 2 ^ (32 * e.anchor) / 2 ^ (32 * a), false, 0⟩ ∧
        t.elem d (z.shadow * 16384 + i) = AccElem.zero ∧ (t.tile c z.shadow).released = true) ∧
    (∀ (h : HalfId) (i : Nat), (∀ k, keyOfHandle s h i = some k → keyExpired s h k = false) → exec (.specExpire h i) s = .next s) ∧
    (∀ (h : HalfId) (i : Nat) (k : UKey), keyOfHandle s h i = some k → k.resolved = none → k.last = true → k.dead = true →
      k.beat + max 1 (s.rf .HLF_SPEC_CFG_LIFE h.val) ≤ s.fence →
      ∃ t, exec (.specExpire h i) s = .next t ∧ (t.half h).und = (s.half h).und.filter (fun x => !sameKey k x) ∧
        t.rf .COL_UND_EVT_EXPIRED h.val = min (s.rf .COL_UND_EVT_EXPIRED h.val + 1) (2 ^ Fld.width .COL_UND_EVT_EXPIRED - 1) ∧
        t.cores = s.cores ∧ SameMem s t) ∧
    (∀ (i : Nat) (k : UKey) (z : SpecSt), keyOfHandle s (halfOfCore c) i = some k → k.resolved = none → k.last = true → k.dead = false →
      k.started = true → k.beat + max 1 (s.rf .HLF_SPEC_CFG_LIFE (halfOfCore c).val) ≤ s.fence →
      specCores s (halfOfCore c) k.sender k.tag = [c] → (s.core c).spec = some z → (s.core c).ops = [] →
      aget? s.entries z.entry = none →
      ∃ t, exec (.specExpire (halfOfCore c) i) s = .next t ∧ (t.core c).spec = none ∧ (t.core c).shadow = [] ∧
        (∀ j, z.shadow ≠ z.target → j / 16384 = z.target → t.elem c j = s.elem c j) ∧
        (∀ j, j / 16384 = z.shadow → t.elem c j = AccElem.zero))

/-- MAT at acceptance (from R125, R126, R129, R202, R189): the first failing check decides the status, in acceptance order with
the earlier matrix operations; an accepted one holds its tile, and in speculative mode works on SHADOW. The clear point of a
begin (from R107, R109): the tile is +0 with an empty sidecar and its spill entries are free; every other element stays. The
deposits that follow leave their queues one by one and touch no other element (from R86, R100, R103, R104), and one that stalls
is given up (from R105). -/
def Obligations.MatrixOperationsHoldAndClearTheirTile : Prop :=
  (∀ (s : State) (c : CoreId) (n : CtxId) (k : Cmd),
      Sound s c n k → k.cls = clMat →
      let d := k.desc
      let refused := fun st : Nat => ∃ t, exec (.mat c n) s = .next t ∧
        ((∀ p ∈ (s.core c).ops, p.cls ≠ clMat) → CmdFails s t c n k st) ∧
        ((∃ p ∈ (s.core c).ops, p.cls = clMat) → st ≠ stSpecForbidden → CmdEntered s t c n (opOf s c n k (some st)))
      let formats := mdAfmt d < 6 ∧ mdBfmt d < 6 ∧
        (mdAfmt d = mdBfmt d ∨ (mdAfmt d = 3 ∧ mdBfmt d = 4) ∨ (mdAfmt d = 4 ∧ mdBfmt d = 3)) ∧
        (mdFp32p d = 0 ∨ (mdAfmt d = 0 ∧ mdBfmt d = 0 ∧ mdFp32p d ≠ 3))
      let shape := mdK d ≠ 0 ∧ (mdAfmt d = 5 → mdK d % 32 = 0) ∧ (mdN d ≤ 128 ∨ (inPair s c = true ∧ c.val % 2 = 0))
      (mdTile d = 3 → refused stInvalidTile) ∧
      (mdTile d ≠ 3 → ¬formats → refused stInvalidFormat) ∧
      (mdTile d ≠ 3 → formats → ¬shape → refused stInvalidShape) ∧
      (mdTile d ≠ 3 → formats → shape →
        (mdAOff d % 64 ≠ 0 ∨ mdBOff d % 64 ≠ 0 ∨ mdLda d % 64 ≠ 0 ∨ mdLdb d % 64 ≠ 0 ∨ mdExcAddr d % 32 ≠ 0 ∨
          0x300000 ≤ mdAOff d) → refused stInvalidAddress) ∧
      (matCheck s c n k = none → (∀ p ∈ (s.core c).ops, p.num ≠ (s.core c).nextNum) → (s.core c).spec = none →
        ∃ t, exec (.mat c n) s = .next t ∧ CmdEntered s t c n (opOf s c n k none) ∧ (t.tile c (mdTile d)).released = false ∧
          (∀ j, t.elem c j = s.elem c j) ∧
          (t.core c).mats = (s.core c).mats ++ [⟨(s.core c).nextNum, false, 0, 0, false, excZero, none⟩]) ∧
      (∀ z, matCheck s c n k = none → (∀ p ∈ (s.core c).ops, p.num ≠ (s.core c).nextNum) → (s.core c).spec = some z →
        (s.ctx c n).spec = true → z.shadow < 3 →
        ∃ t o, exec (.mat c n) s = .next t ∧ (t.core c).ops = (s.core c).ops ++ [o] ∧ mdTile o.desc = z.shadow ∧ mdTile d = z.target ∧
          (t.tile c z.shadow).released = false ∧ (z.shadow ≠ z.target → t.tile c z.target = s.tile c z.target))) ∧
  (∀ (s : State) (c : CoreId), s.fab.store = [] →
      ((∀ o ∈ (s.core c).ops, o.cls = clMat → mdBegin o.desc = false) → exec (.beginClearPoint c) s = .next s) ∧
      (∀ (o : Op) (r : MatRun),
        (s.core c).ops.find? (fun o => o.cls == clMat && o.pre.isNone && mdBegin o.desc && !begunClear (s.core c) o.num) = some o →
        (tileReady s c o = false → exec (.beginClearPoint c) s = .next s) ∧
        (tileReady s c o = true → findRun (s.core c) o.num = some r → pairHead s c = false →
          ∃ t, exec (.beginClearPoint c) s = .next t ∧
            (∀ j, j / 16384 = mdTile o.desc → t.elem c j = AccElem.zero) ∧
            (∀ j, j / 16384 ≠ mdTile o.desc → t.elem c j = s.elem c j) ∧
            (∀ e ∈ (t.acc c).spill, e.2.owner / 16384 ≠ mdTile o.desc) ∧
            (findRun (t.core c) o.num).map MatRun.cleared = some true ∧ (t.core c).ops = (s.core c).ops ∧
            ((s.half (halfOfCore c)).ovf = [] → SameMem s t))) ∧
      (∀ (d : Dep) (rest : List Dep),
        let only := fun t : State => ∀ j, j ≠ d.elem → t.elem c j = s.elem c j
        ((s.acc c).depQ = d :: rest → depReady s c d = true → (s.elem c d.elem).anchor ≤ 12 → (s.acc c).spill.length < 1024 →
          ∃ t, exec (.deposit c) s = .next t ∧ (t.acc c).depQ = rest ∧ only t) ∧
        (∀ col, aget (s.acc c).residue col [] = d :: rest → depReady s c d = true → (s.elem c d.elem).anchor ≤ 12 →
          (s.acc c).spill.length < 1024 →
          ∃ t, exec (.residueDeposit c col) s = .next t ∧ aget (t.acc c).residue col [] = rest ∧ only t) ∧
        ((s.acc c).farQ = d :: rest → ∃ t, exec (.farDeposit c) s = .next t ∧ (t.acc c).farQ = rest ∧ only t) ∧
        ((s.acc c).gladeQ = d :: rest → s.rf .GLD_CLR_CTL_BUSY (halfOfCore c).val = 0 →
          ∃ t, exec (.gladeDeposit c) s = .next t ∧ (t.acc c).gladeQ = rest ∧ only t) ∧
        (stalledDeposit s c = some d →
          ∃ t, exec (.promotionTimeout c) s = .next t ∧ t.rf .ACC_OVF_STAT_EXHAUST (halfOfCore c).val = 1)))

/-- K_BLOCK_LOAD (from R127, R131 to R133): the loader captures the elements of the next k-block of B column by column and sets
the tag, or with KEEPB = 1 keeps the resident block where the tag matches. K_BLOCK_STREAM (from R82 to R86): what one row and
one column of a k-block send to their element is exactly the sum of their finite products: the window sum as one deposit, and
every product below the window on the residue path. -/
def Obligations.KBlocksLoadAndDepositTheExactSum : Prop :=
  (∀ (s : State) (c : CoreId),
      (nextLoad (s.core c) = none → exec (.kBlockLoad c) s = .next s) ∧
      (∀ (o : Op) (r : MatRun), nextLoad (s.core c) = some (o, r) → mdBfmt o.desc < 5 → mdN o.desc ≤ 128 →
        let d := o.desc
        let b := elemBytes (mdBfmt d)
        (mdKeepB d = false ∨ r.loaded ≠ 0 → ∃ t, exec (.kBlockLoad c) s = .next t ∧
          ∃ xa, (t.core c).bufs.getLast? = some ⟨o.num, r.loaded, (List.range (mdN d)).map (fun n =>
            (List.range (min 128 (mdK d - 128 * r.loaded))).map (fun k => s.readN (scratchBase c + (if mdBTrans d
              then mdBOff d + n * mdLdb d + (128 * r.loaded + k) * b else mdBOff d + (128 * r.loaded + k) * mdLdb d + n * b)) b)), xa⟩ ∧ (mdATrans d = true → xa = rowCodes s c d r.loaded) ∧
          (t.core c).bufs.length ≤ 2 ∧ t.rf .MAT_TAG_VALID c.val = 1 ∧
          t.rf .MAT_TAG_BADDR c.val =
            (mdBOff d + 128 * r.loaded * (if mdBTrans d then b else mdLdb d)) % 2 ^ Fld.width .MAT_TAG_BADDR ∧
          RegsBut s t [.MAT_TAG_K_1, .MAT_TAG_N_1, .MAT_TAG_VALID, .MAT_TAG_BTRANS, .MAT_TAG_BFMT, .MAT_TAG_LDB, .MAT_TAG_BADDR] ∧
          SameMem s t) ∧
        (∀ buf, mdKeepB d = true → r.loaded = 0 → tagMatches s c d = true → (s.core c).bufs.getLast? = some buf →
          ∃ t, exec (.kBlockLoad c) s = .next t ∧ (t.core c).bufs.getLast? =
            some { buf with num := o.num, block := 0, xa := if mdATrans d then rowCodes s c d 0 else [] } ∧
            RegsBut s t [] ∧ SameMem s t))) ∧
  (∀ (s : State) (c : CoreId),
      (nextStream s c = none → exec (.kBlockStream c) s = .next s) ∧
      (∀ (o : Op) (r : MatRun) (b : StatBuf), nextStream s c = some (o, r, b) → mdM o.desc = 1 → mdN o.desc = 1 → mdAfmt o.desc ≠ 0 →
        let d := o.desc
        let ps := (((blockRows s c d r.streamed b).getD 0 []).zip ((b.cols.getD 0 []).map (codeValue (mdBfmt d)))).map (fun x => classify x.1 x.2)
        ∃ t dep div, exec (.kBlockStream c) s = .next t ∧ (t.acc c).depQ = (s.acc c).depQ ++ dep ∧
          aget (t.acc c).residue 0 [] = aget (s.acc c).residue 0 [] ++ div ∧
          (∀ x ∈ dep ++ div, x.op = some o.num ∧ x.elem = mdTile d * 16384) ∧
          ((dep ++ div).map Dep.d).sum = (ps.map (fun p => match p with | .val v _ _ => v | _ => 0)).sum ∧
          (dep.map Dep.sc).foldl (fun a x => a ||| x) 0 = (ps.map prodSc).foldl (fun a x => a ||| x) 0 ∧
          (∀ j, t.elem c j = s.elem c j) ∧ SameMem s t))

/-- A deposit is exact (from R99 to R104): whatever form the element takes, its value grows by just what was deposited and its
sidecar keeps every bit; entries of the spill table stay; a far element's deposit waits for the far adder. PROMOTION_TIMEOUT
(from R105): the stalled deposit's tile drains as NaN, whatever it held, and the half's EXHAUST is set; with nothing stalled it
changes nothing. -/
def Obligations.DepositsAreExactOrExhaust : Prop :=
  (∀ (s : State) (c : CoreId) (d : Dep) (rest : List Dep),
      let sum := (elemValue s c d.elem).l + d.d
      let exact := fun t : State => (elemValue t c d.elem).l = sum ∧ (t.elem c d.elem).sc = ((s.elem c d.elem).sc ||| d.sc) ∧
        (∀ j, j ≠ d.elem → t.elem c j = s.elem c j) ∧ (∀ i e, aget? (s.acc c).spill i = some e → aget? (t.acc c).spill i = some e)
      ((s.acc c).depQ = d :: rest → depReady s c d = true → (s.elem c d.elem).anchor ≤ 12 → longInRange sum = true → (s.acc c).spill.length < 1024 →
        ∃ t, exec (.deposit c) s = .next t ∧ exact t ∧ (t.acc c).depQ = rest ∧ SameMem s t) ∧
      (∀ col, aget (s.acc c).residue col [] = d :: rest → depReady s c d = true → (s.elem c d.elem).anchor ≤ 12 → longInRange sum = true →
        (s.acc c).spill.length < 1024 →
        ∃ t, exec (.residueDeposit c col) s = .next t ∧ exact t ∧ aget (t.acc c).residue col [] = rest ∧ SameMem s t) ∧
      ((s.acc c).farQ = d :: rest → (s.elem c d.elem).anchor = 255 → (s.elem c d.elem).loc = false → longInRange sum = true →
        ∃ t, exec (.farDeposit c) s = .next t ∧ (elemValue t c d.elem).l = sum ∧
          (t.elem c d.elem).sc = ((s.elem c d.elem).sc ||| d.sc) ∧ (t.elem c d.elem).anchor = 255 ∧ (t.acc c).farQ = rest ∧
          (∀ i e, i ≠ (s.elem c d.elem).idx → aget? (s.acc c).spill i = some e → aget? (t.acc c).spill i = some e) ∧ SameMem s t) ∧
      ((s.acc c).gladeQ = d :: rest → (s.elem c d.elem).anchor = 255 → (s.elem c d.elem).loc = true → longInRange sum = true →
        s.rf .GLD_CLR_CTL_BUSY (halfOfCore c).val = 0 →
        ∃ t, exec (.gladeDeposit c) s = .next t ∧ (elemValue t c d.elem).l = sum ∧ (t.acc c).gladeQ = rest ∧
          (∀ x, (x < ovfSlot s (halfOfCore c) (s.elem c d.elem).idx ∨ ovfSlot s (halfOfCore c) (s.elem c d.elem).idx + 128 ≤ x) →
            t.mem.get x = s.mem.get x)) ∧
      ((s.acc c).depQ = d :: rest → depReady s c d = true → (s.elem c d.elem).anchor = 255 → (s.elem c d.elem).loc = false →
        ((s.acc c).farQ.length < 32 → ∃ t, exec (.deposit c) s = .next t ∧ (t.acc c).farQ = (s.acc c).farQ ++ [d] ∧
          (t.acc c).depQ = rest ∧ (∀ j, t.elem c j = s.elem c j)) ∧
        (32 ≤ (s.acc c).farQ.length → exec (.deposit c) s = .next s)) ∧
      (∀ r, (s.acc c).depQ = d :: rest → depReady s c d = true → 13 ≤ (s.elem c d.elem).anchor → (s.elem c d.elem).anchor ≤ 254 → inPair s c = false →
        d.op = some r.num → findRun (s.core c) r.num = some r →
        ∃ t, exec (.deposit c) s = .next t ∧ t.elem c d.elem = s.elem c d.elem ∧ (t.acc c).depQ = rest ∧
          (findRun (t.core c) r.num).map MatRun.failed = some (some stAccCorrupt))) ∧
  (∀ (s : State) (c : CoreId), s.fab.store = [] →
      (stalledDeposit s c = none → commitReady s c = none → exec (.promotionTimeout c) s = .next s) ∧
      (∀ d, stalledDeposit s c = some d → ∃ t, exec (.promotionTimeout c) s = .next t ∧
        t.rf .ACC_OVF_STAT_EXHAUST (halfOfCore c).val = 1 ∧ (t.tile c (d.elem / 16384)).exh = true ∧
        (∀ j, j / 16384 = d.elem / 16384 → (t.elem c j).sc &&& scNanIn = scNanIn ∧
          (t.elem c j).sc &&& (s.elem c j).sc = (s.elem c j).sc ∧ (t.elem c j).anchor = (s.elem c j).anchor) ∧
        (∀ j, j / 16384 ≠ d.elem / 16384 → t.elem c j = s.elem c j) ∧
        (∀ n, d.op = some n → ∀ x ∈ (t.acc c).depQ, x.op ≠ some n) ∧
        (inPair s c = true → (t.tile (pairMate c) (d.elem / 16384)).exh = true ∧
          (∀ j, j / 16384 = d.elem / 16384 → (t.elem (pairMate c) j).sc &&& scNanIn = scNanIn) ∧
          (∀ n, d.op = some n → ∀ x ∈ (t.acc (pairMate c)).depQ, x.op ≠ some n))))

/-- MAT_COMPLETE (from R91, R136): the first matrix operation completes once every k-block has streamed and every deposit has
landed, and writes its exception record at EXC_ADDR. TAG_CLR and PAIR_CFG_WRITE (from R147, R149): the tag's VALID, and Dexca's
request of pairs; any other agent's is a privilege fault. Dexca's disable requests (from R209, R213) set their bits and close
what they name, and the end of the drain time is done (from R210). -/
def Obligations.MatrixOperationsCompleteAndTags : Prop :=
  (∀ (s : State) (c : CoreId) (o : Op) (r : MatRun),
      (s.core c).ops = [o] → o.cls = clMat → o.pre = none → findRun (s.core c) o.num = some r → pairHead s c = false →
      (r.failed ≠ some stAccExhausted → (r.streamed ≠ kBlocks o.desc ∨ depsDone (s.acc c) o.num = false) →
        exec (.matComplete c) s = .next s) ∧
      (r.failed = none → r.streamed = kBlocks o.desc → depsDone (s.acc c) o.num = true → aget? s.entries o.entry = none →
        o.spec = false → o.reco = false → o.setf = false → (mdExcAddr o.desc ≠ 0 → memWaits s (halfOfCore c) (mdExcAddr o.desc) 32 = false) →
        ∃ t, exec (.matComplete c) s = .next t ∧ (t.core c).ops = [] ∧ findRun (t.core c) o.num = none ∧ t.rf .MAT_STAT_OPS c.val = 0 ∧
          t.mem = (if mdExcAddr o.desc = 0 then s.mem else s.mem.setBytes (mdExcAddr o.desc) (excBytes r.exc)) ∧
          (∀ m, t.ctx c m = s.ctx c m) ∧ (∀ j, t.elem c j = s.elem c j)) ∧
      (∀ st, r.failed = some st → st ≠ stOK → (st = stAccExhausted ∨ (r.streamed = kBlocks o.desc ∧ depsDone (s.acc c) o.num = true)) →
        aget? s.entries o.entry = none → o.reco = false → o.setf = false →
        (s.ctx c o.ctx).fail = none →
        ∃ t, exec (.matComplete c) s = .next t ∧ (t.core c).ops = [] ∧ (t.ctx c o.ctx).fail = some (o.idx, st))) ∧
  (∀ (s : State) (a : Agent),
      (∀ c : CoreId, ∃ t, exec (.tagClr a c) s = .next t ∧ t.rf .MAT_TAG_VALID c.val = 0 ∧ (∀ u, u ≠ c.val →
        t.rf .MAT_TAG_VALID u = s.rf .MAT_TAG_VALID u) ∧ RegsBut s t [.MAT_TAG_VALID] ∧ t = { s with regs := t.regs }) ∧
      (∀ (g : GroveId) (en : Fin 16), isDexca a = true → ∃ t, exec (.pairCfgWrite a g en) s = .next t ∧
        t.rf .GRV_PAIR_CFG_EN g.val = en.val ∧ t.rf .GRV_PAIR_CFG_ACT g.val = s.rf .GRV_PAIR_CFG_ACT g.val ∧
        RegsBut s t [.GRV_PAIR_CFG_EN] ∧ t = { s with regs := t.regs }) ∧
      (∀ (g : GroveId) (en : Fin 16), isDexca a = false →
        exec (.pairCfgWrite a g en) s = .next { s with privFaults := s.privFaults + 1 }) ∧
      (∀ c : CoreId, isDexca a = true →
        let set := fun (t : State) (f : Fld) => t.rf f c.val ≠ 0 ∧ RegsBut s t [f, .CORE_DIS_STAT_PHASE] ∧ t = { s with regs := t.regs }
        (∃ t, exec (.disableMat a c) s = .next t ∧ set t .CORE_DIS_CTL_MAT) ∧
        (∃ t, exec (.disableVec a c) s = .next t ∧ set t .CORE_DIS_CTL_VEC) ∧
        (∃ t, exec (.disableLoad a c) s = .next t ∧ set t .CORE_DIS_CTL_LOAD) ∧
        (∃ t, exec (.disableStore a c) s = .next t ∧ set t .CORE_DIS_CTL_STORE) ∧
        (canClose s c = true → (aget s.waiting (groveOfCore c) []).filter (fun w => w.core == c) = [] →
          ∃ t, exec (.disableCore a c) s = .next t ∧ (t.core c).node = .closing ∧ t.rf .CORE_DIS_CTL_CORE c.val = 1) ∧
        (canClose s c = false → exec (.disableCore a c) s = .next s)) ∧
      (∀ g : GroveId, isDexca a = true → aget s.waiting g [] = [] → ∃ t, exec (.disableGrove a g) s = .next t ∧
        t.rf .GRV_DIS_CTL_GROVE g.val = 1 ∧ (nodeState s (.grove g) = .active → nodeState t (.grove g) = .closing)) ∧
      (∀ c : CoreId, s.fab.store = [] → (s.core c).ops = [] → (s.core c).spec = none →
        (s.rf .CORE_DIS_CTL_LOAD c.val ≠ 0 → ∃ t, exec (.disableDrainExpire (.engine c .load)) s = .next t ∧
          t.rf .CORE_DIS_STAT_DONE c.val = 1 ∧ (t.core c).ops = []) ∧
        ((s.core c).node = .closing → s.rf .CORE_DIS_CTL_CORE c.val ≠ 0 → (∀ n, (s.ctx c n).st = .idle) →
          (∀ f : FlagId, f.val / 256 = c.val → (s.flag f).waiters = []) →
          ∃ t, exec (.disableDrainExpire (.core c)) s = .next t ∧ (t.core c).node = .disabled ∧ t.rf .CORE_DIS_STAT_DONE c.val = 1)))

/-- DRAIN (from R109, R111 to R114): its checks, its start once the scoreboard allows, and its output: each element rounded
once at its place, the tile released only with RELEASE = 1. -/
def Obligations.DrainsRoundEachElementOnce : Prop :=
  ∀ (s : State) (c : CoreId) (n : CtxId) (k : Cmd),
    let z := fun d : List Byte => if ddOfmt d = 6 then 16 else elemBytes (ddOfmt d)
    (Sound s c n k → k.cls = clDrain → (∀ p ∈ (s.core c).ops, p.cls ≠ clDrain) →
      (ddTile k.desc = 3 → ∃ t, exec (.drain c n) s = .next t ∧ CmdFails s t c n k stInvalidTile) ∧
      (ddTile k.desc ≠ 3 → (ddOfmt k.desc = 5 ∨ ddOfmt k.desc = 7 ∨ 5 ≤ ddRmode k.desc) →
        ∃ t, exec (.drain c n) s = .next t ∧ CmdFails s t c n k stInvalidFormat) ∧
      (ddTile k.desc ≠ 3 → ddOfmt k.desc ≠ 5 → ddOfmt k.desc ≠ 7 → ddRmode k.desc < 5 → inPair s c = false →
        (ddStride k.desc < 128 * z k.desc ∨ ddStride k.desc % z k.desc ≠ 0 ∨ regionOf (ddDst k.desc) 1 = some .hbm) →
        ∃ t, exec (.drain c n) s = .next t ∧ CmdFails s t c n k stInvalidAddress) ∧
      (drainCheck s c k = none → ∃ t, exec (.drain c n) s = .next t ∧ CmdEntered s t c n (opOf s c n k none))) ∧
    (∀ o, (s.core c).ops.find? (fun o => o.cls == clDrain && !o.started && o.pre.isNone) = some o →
      (tileReady s c o = true → exec (.drainStart c) s = .next (s.setCore c (putOp (s.core c) { o with started := true }))) ∧
      (tileReady s c o = false → exec (.drainStart c) s = .next s)) ∧
    (∀ o, (s.core c).ops = [o] → o.cls = clDrain → o.pre = none → s.fab.store = [] →
      ((o.started = false ∨ drainWaits s c o.desc = true) → exec (.drainComplete c) s = .next s) ∧
      (o.started = true → o.reco = false → o.setf = false → ddOfmt o.desc = 0 → ddRmode o.desc = 0 → ddTrans o.desc = false →
        ddStat o.desc = 0 → pairHead s c = false → (∀ x ∈ (s.acc c).elems, elemCorrupt x.2 = false) →
        (s.half (halfOfCore c)).ovf = [] → drainWaits s c o.desc = false →
        ∃ t, exec (.drainComplete c) s = .next t ∧ (t.core c).ops = [] ∧
          t.mem = (List.range 128).foldl (fun m r => m.setBytes (ddDst o.desc + r * ddStride o.desc) ((List.range 128).flatMap (fun j =>
            natLE 4 (fp32.ofLong .rne (ddSat o.desc) (elemValue s c ((ddTile o.desc * 128 + r) * 128 + j)))))) s.mem ∧
          (ddRelease o.desc = true → (t.tile c (ddTile o.desc)).released = true ∧
            ∀ j, j / 16384 = ddTile o.desc → t.elem c j = AccElem.zero) ∧
          (ddRelease o.desc = false → t.tile c (ddTile o.desc) = s.tile c (ddTile o.desc) ∧ ∀ j, t.elem c j = s.elem c j)))

/-- Element-wise arithmetic (from R153 to R155): each destination element is one rounding of the exact result of the elements
at its place, and nothing else is written. The functions of one source and the division (from R153, R155, R117): one correctly
rounded value for each element, with the special values that the spec lists. -/
def Obligations.VectorArithmeticAndFunctionsRoundOnce : Prop :=
  (∀ (s : State) (c : CoreId) (n : CtxId) (k : Cmd),
      let d := k.desc
      let rm := vdRm s c (opOf s c n k none)
      let x := elemOf s (vdSfmt d) (vdSrc0 d)
      let y := elemOf s (vdSfmt d) (vdSrc1 d)
      let w := elemOf s (vdSfmt d) (vdSrc2 d)
      let sc := fp32.decode (s.readN (vdAux d) 4)
      let runs := fun (op : Nat) (i : Instr) (g : Nat → FVal) => VecReady s c n k op →
        ∃ t f, exec i s = .next t ∧ fmtOf (vdDfmt d) = some f ∧ VecRan s t c n k stOK 0 none ∧
          wroteElems s t (vdDst d) (elemBytes (vdDfmt d)) (vdCount d) (fun j => f.encode (rm j) (vdSat d) (g j))
      runs 0x00 (.vadd c n) (fun j => (x j).add (rm j) (y j)) ∧
      runs 0x01 (.vsub c n) (fun j => (x j).add (rm j) (y j).neg) ∧
      runs 0x02 (.vmul c n) (fun j => (x j).mul (y j)) ∧
      runs 0x03 (.vfma c n) (fun j => ((x j).mul (y j)).add (rm j) (w j)) ∧
      runs 0x04 (.vmax c n) (fun j => (x j).max (y j)) ∧
      runs 0x05 (.vmin c n) (fun j => (x j).min (y j)) ∧
      runs 0x06 (.vaxpy c n) (fun j => (sc.mul (x j)).add (rm j) (y j)) ∧
      runs 0x25 (.vabs c n) (fun j => match x j with
        | .nan => .nan
        | .inf _ => .inf false
        | .fin _ m e => .fin false m e)) ∧
  (∀ (s : State) (c : CoreId) (n : CtxId) (k : Cmd),
      let d := k.desc
      let rm := vdRm s c (opOf s c n k none)
      let x := elemOf s (vdSfmt d) (vdSrc0 d)
      let y := elemOf s (vdSfmt d) (vdSrc1 d)
      let runs := fun (op : Nat) (i : Instr) (g : Fmt → Nat → Nat) => VecReady s c n k op →
        ∃ t f, exec i s = .next t ∧ fmtOf (vdDfmt d) = some f ∧ VecRan s t c n k stOK 0 none ∧
          wroteElems s t (vdDst d) (elemBytes (vdDfmt d)) (vdCount d) (g f)
      runs 0x20 (.vexp c n) (fun f j => f.exp (rm j) (vdSat d) (x j)) ∧
      runs 0x21 (.vlog c n) (fun f j => match x j with
        | .fin neg m e =>
          if m = 0 then f.ofInf (vdSat d) true else if neg then f.qnan
          else if m = 2 ^ Nat.log2 m ∧ e + Nat.log2 m = 0 then f.signed false 0
          else f.round (rm j) (vdSat d) (magLog m e).1 (magLog m e).2
        | .inf false => f.ofInf (vdSat d) false
        | _ => f.qnan) ∧
      runs 0x22 (.vsqrt c n) (fun f j => match x j with
        | .fin neg m e => if m = 0 then f.signed neg 0 else if neg then f.qnan else f.round (rm j) (vdSat d) false (magSqrtBin m e)
        | .inf false => f.ofInf (vdSat d) false
        | _ => f.qnan) ∧
      runs 0x23 (.vrsq c n) (fun f j => match x j with
        | .fin neg m e => if m = 0 then f.ofInf (vdSat d) neg else if neg then f.qnan else f.round (rm j) (vdSat d) false (magRsqBin m e)
        | .inf false => f.signed false 0
        | _ => f.qnan) ∧
      runs 0x24 (.vdiv c n) (fun f j => f.div (rm j) (vdSat d) (x j) (y j)))

/-- Conversions and scale records (from R77, R157, R169, R170): CVT rounds each element, QCVT scales it first and notes what it
saw, SCUPD sets the estimate and SCALE of the next use. -/
def Obligations.ConversionsAndScaleRecords : Prop :=
  ∀ (s : State) (c : CoreId) (n : CtxId) (k : Cmd),
    let d := k.desc
    let rm := vdRm s c (opOf s c n k none)
    let a := vdAux d
    let amax := fp32.decode (s.readN (a + 0x10) 4)
    let decay := s.readN (a + 8) 4 / 256 % 32
    let head := s.readN (a + 8) 4 % 16
    (VecReady s c n k 0x40 → vdSfmt d ≠ 5 → vdDfmt d ≠ 5 →
      ∃ t f, exec (.cvt c n) s = .next t ∧ fmtOf (vdDfmt d) = some f ∧ VecRan s t c n k stOK 0 none ∧
        wroteElems s t (vdDst d) (elemBytes (vdDfmt d)) (vdCount d) (fun j =>
          f.encode (rm j) (vdSat d) (elemOf s (vdSfmt d) (vdSrc0 d) j))) ∧
    (VecReady s c n k 0x40 → vdSfmt d = 5 → vdDfmt d ≠ 5 →
      ∃ t f, exec (.cvt c n) s = .next t ∧ fmtOf (vdDfmt d) = some f ∧ VecRan s t c n k stOK 0 none ∧
        wroteElems s t (vdDst d) (elemBytes (vdDfmt d)) (vdCount d) (fun j => f.encode (rm j) (vdSat d)
          (fp4Scaled (s.readN (vdSrc0 d + j / 2) 1 / (if j % 2 = 0 then 1 else 16) % 16) (s.readN (vdSrc2 d + j / 32) 1)))) ∧
    (VecReady s c n k 0x40 → vdSfmt d ≠ 5 → vdDfmt d = 5 → vdCount d = 32 →
      ∃ t, exec (.cvt c n) s = .next t ∧ VecRan s t c n k stOK 0 none ∧
        let b := fp4Block rm ((List.range 32).map (elemOf s (vdSfmt d) (vdSrc0 d)))
        t.mem = (s.mem.setBytes (vdSrc1 d) [BitVec.ofNat 8 b.1]).setBytes (vdDst d) (packNibbles b.2)) ∧
    (VecReady s c n k 0x41 → vdSfmt d ≠ 5 → vdDfmt d ≠ 5 →
      ∃ t f m v, exec (.qcvt c n) s = .next t ∧ fmtOf (vdDfmt d) = some f ∧
        VecRan s t c n k stOK 0 (some (a + 0x10, .scale m v
          ((List.range (vdCount d)).filter (fun j => (elemOf s (vdSfmt d) (vdSrc0 d) j).nonFinite)).length)) ∧
        wroteElems s t (vdDst d) (elemBytes (vdDfmt d)) (vdCount d) (fun j =>
          f.encode (rm j) true ((elemOf s (vdSfmt d) (vdSrc0 d) j).mul (fp32.decode (s.readN (a + 4) 4))))) ∧
    (VecReady s c n k 0x42 →
      (amax = .nan ∨ (∃ b, amax = .inf b) → s.readN (a + 0x14) 4 ≠ 0 ∨ decay = 0 →
        ∃ t, exec (.scupd c n) s = .next t ∧ VecRan s t c n k stScaleNonfinite 0 none ∧ SameMem s t) ∧
      (∀ m e, amax = .fin false m e → m ≠ 0 → s.readN (a + 0x14) 4 ≠ 0 ∨ decay = 0 →
        ∃ t, exec (.scupd c n) s = .next t ∧ VecRan s t c n k stOK 0 none ∧
          t.mem = (s.mem.setBytes a (natLE 4 (fp32Bits amax) ++ natLE 4 (fp32Bits (pow2 (max (-126) (min 127
            (scaleFmtExp (vdDfmt d) - ceilLog2 m e - head))))))).setBytes (a + 0xC) (natLE 4 (if s.readN (a + 0x14) 4 = 0 then s.readN (a + 0xC) 4
              else min (s.readN (a + 0xC) 4 + 1) 0xFFFFFFFF) ++ natLE 12 0)))

/-- Reductions (from R154, R156, R161): the exact sum of the terms, or the largest magnitude, rounded once into one element;
SMCOMB combines the softmax pairs of each row; exchange bytes give their value back (from R65, R66, R68). Exchange arrays and
the optimiser (from R159, R160, R162 to R168): EXDEP sends one deposit for each value to the tile, EXRED sums the arrays
element by element, OPTSTEP with SKIPNF writes nothing where it finds a value that is not finite. -/
def Obligations.ReductionsAndExchangeArrays : Prop :=
  (∀ (s : State) (c : CoreId) (n : CtxId) (k : Cmd),
      let d := k.desc
      let rm := vdRm s c (opOf s c n k none) 0
      let x := elemOf s (vdSfmt d) (vdSrc0 d)
      let y := elemOf s (vdSfmt d) (vdSrc1 d)
      let runs := fun (op : Nat) (i : Instr) (term : Nat → LVal) => VecReady s c n k op →
        let v := sumTerms ((List.range (vdCount d)).map term)
        (vdDfmt d = 6 → ∃ t, exec i s = .next t ∧ VecRan s t c n k stOK (if 16 < (exchEncode v).length then 1 else 0) none ∧
          t.mem = s.mem.setBytes (vdDst d) (exchEncode v)) ∧
        (vdDfmt d ≠ 6 → ∃ t f, exec i s = .next t ∧ fmtOf (vdDfmt d) = some f ∧ VecRan s t c n k stOK 0 none ∧
          t.mem = s.mem.setBytes (vdDst d) (natLE (elemBytes (vdDfmt d)) (f.ofLong rm (vdSat d) v)))
      runs 0x60 (.rsum c n) (fun j => (x j).toLong) ∧
      runs 0x61 (.rsumsq c n) (fun j => prodTerm (x j) (x j)) ∧
      runs 0x62 (.rdot c n) (fun j => prodTerm (x j) (y j)) ∧
      (VecReady s c n k 0x63 → ∃ t, exec (.ramax c n) s = .next t ∧ VecRan s t c n k stOK 0 none ∧
        t.mem = s.mem.setBytes (vdDst d) (natLE 4 (fp32.encode rm (vdSat d) (maxOf ((List.range (vdCount d)).map (fun j => (x j).abs)))))) ∧
      (VecReady s c n k 0x64 → ∃ t, exec (.smcomb c n) s = .next t ∧ VecRan s t c n k stOK 0 none ∧
        t.mem = s.mem.setBytes (vdDst d) ((List.range (vdCount d)).flatMap (fun i =>
          let ps := (List.range (vdNsrc d + 1)).map (fun j =>
            (fp32.decode (s.readN (vdSrc0 d + j * vdSrc1 d + 8 * i) 4), fp32.decode (s.readN (vdSrc0 d + j * vdSrc1 d + 8 * i + 4) 4)))
          natLE 4 (combinePairs ps).1 ++ natLE 4 (combinePairs ps).2))) ∧
      (∀ ts : List LVal, (∀ v ∈ ts, v.sc = 0) → -(2 ^ 639 : Int) ≤ (ts.map LVal.l).sum → (ts.map LVal.l).sum < (2 ^ 639 : Int) →
        sumTerms ts = ⟨0, (ts.map LVal.l).sum⟩) ∧
      (∀ v : LVal, v.sc < 32 → -(2 ^ 639 : Int) ≤ v.l → v.l < (2 ^ 639 : Int) →
        exchDecode (exchEncode v) = some ⟨v.sc, if v.sc = 0 then v.l else 0⟩ ∧
        ((exchEncode v).length = 16 ∨ (exchEncode v).length = 96))) ∧
  (∀ (s : State) (c : CoreId) (n : CtxId) (k : Cmd),
      let d := k.desc
      let o := opOf s c n k none
      (VecReady s c n k 0x80 →
        (readPacked s (vdSrc0 d) (vdCount d) (vdSrc0 d + 16 * vdCount d) = none →
          ∃ t, exec (.exdep c n) s = .next t ∧ VecRan s t c n k stBadExchange 0 none ∧ (t.acc c).depQ = (s.acc c).depQ ∧ SameMem s t) ∧
        (∀ vs, readPacked s (vdSrc0 d) (vdCount d) (vdSrc0 d + 16 * vdCount d) = some vs →
          localPlace c (vdSrc0 d + 16 * vdCount d) (80 * longSlots s (vdSrc0 d) (vdCount d)) = true →
          ∃ t, exec (.exdep c n) s = .next t ∧ (t.core c).ops = [{ o with started := true }] ∧
            (t.acc c).depQ = vs.zipIdx.map (fun v => ⟨some o.num, (vdDst d - accBase c) / 32 + v.2, v.1.l, v.1.sc⟩) ++ (s.acc c).depQ ∧
            (t.tile c ((vdDst d - accBase c) / 524288)).released = false ∧ SameMem s t)) ∧
      (VecReady s c n k 0x81 →
        (exredArrays s d (vdNsrc d + 1) = none →
          ∃ t, exec (.exred c n) s = .next t ∧ VecRan s t c n k stBadExchange 0 none ∧ SameMem s t) ∧
        (∀ arrs f, exredArrays s d (vdNsrc d + 1) = some arrs → fmtOf (vdDfmt d) = some f → ∃ t, exec (.exred c n) s = .next t ∧
          VecRan s t c n k stOK 0 none ∧ wroteElems s t (vdDst d) (elemBytes (vdDfmt d)) (vdCount d) (fun i =>
            f.ofLong (vdRm s c o i) (vdSat d) (sumTerms (arrs.map (fun vs => vs.getD i LVal.zero)))))) ∧
      (VecReady s c n k 0xA0 → vdCount d ≤ 128 → ∀ f, fmtOf (vdSfmt d) = some f →
        let es := optBlock s c o (readHyper s (vdAux d)) f 0
        let bad := (es.filter (fun e => e.g.nonFinite || e.w.nonFinite)).length
        (vdSkipNf d = true → 0 < bad → ∃ t u v x, exec (.optstep c n) s = .next t ∧ SameMem s t ∧
          VecRan s t c n k stOptNonfinite 0 (some (vdAux d + 0x30, .opt u bad v x))) ∧
        ((vdSkipNf d = false ∨ bad = 0) → ∃ t u v x, exec (.optstep c n) s = .next t ∧
          VecRan s t c n k stOK 0 (some (vdAux d + 0x30, .opt u bad v x)) ∧
          t.mem = (((s.mem.setBytes (vdSrc0 d) (es.flatMap (fun e => natLE (elemBytes (vdSfmt d)) e.p1))).setBytes (vdSrc2 d)
            ((requant (es.map OptElem.m1)).2.flatMap (natLE 1))).setBytes (vdSrc2 d + 128)
            ((requant (es.map OptElem.v1)).2.flatMap (natLE 1))).setBytes (vdDst d)
            (natLE 4 (requant (es.map OptElem.m1)).1 ++ natLE 4 (requant (es.map OptElem.v1)).1))))

/-- Random streams (from R171 to R175): RNGU writes the draws of its elements' places, RNGDROP keeps an element, scaled, where
its draw is at least the threshold, and writes +0 elsewhere. Vector commands at acceptance and completion (from R550, R168,
R189): the first failing check decides the status; the oldest operation completes first, and merges its record. -/
def Obligations.RandomStreamsAndVectorChecks : Prop :=
  (∀ (s : State) (c : CoreId) (n : CtxId) (k : Cmd),
      let d := k.desc
      let u := fun i dr : Nat => draw (s.rf .VEC_RNG_SEED_SEED (halfOfCore c).val) (vdStream d) (s.rf .VEC_RNG_STEP_STEP (halfOfCore c).val)
        (s.ctx c n).mb ((vdCoords d i).1 % 2 ^ 32) ((vdCoords d i).2 % 2 ^ 32) (dr % 256)
      (VecReady s c n k 0xC0 → ∃ t, exec (.rngu c n) s = .next t ∧ VecRan s t c n k stOK 0 none ∧
        wroteElems s t (vdDst d) 4 (vdCount d) (fun i => u i (vdDraw d))) ∧
      (VecReady s c n k 0xC1 → vdRmode d < 4 → ∃ t rm, exec (.rngdrop c n) s = .next t ∧ VecRan s t c n k stOK 0 none ∧
        rmodeOf (vdRmode d) 0 = some rm ∧
        wroteElems s t (vdDst d) 4 (vdCount d) (fun i => if s.readN (vdAux d) 4 ≤ u i (vdDraw d) then
          fp32.encode rm (vdSat d) ((elemOf s 0 (vdSrc0 d) i).mul (fp32.decode (s.readN (vdAux d + 4) 4))) else 0))) ∧
  (∀ (s : State) (c : CoreId) (n : CtxId) (k : Cmd),
      let d := k.desc
      (Sound s c n k → k.cls = clVec → (s.core c).ops = [] →
        (vopKnown (vdOp d) = false → ∃ t, exec (.vecInvalidOp c n) s = .next t ∧ CmdFails s t c n k stInvalidOp) ∧
        (vdOp d = 0 → (vdNsrc d ≠ 0 ∨ vdSrc2 d ≠ 0 ∨ vdAux d ≠ 0) → ∃ t, exec (.vadd c n) s = .next t ∧ CmdFails s t c n k stInvalidOp) ∧
        (vdOp d = 0 → vopUnusedSet d = false → (5 ≤ vdSfmt d ∨ 5 ≤ vdDfmt d ∨ 5 ≤ vdRmode d) →
          ∃ t, exec (.vadd c n) s = .next t ∧ CmdFails s t c n k stInvalidFormat) ∧
        (vdOp d = 0 → vopUnusedSet d = false → vdSfmt d < 5 → vdDfmt d < 5 → vdRmode d < 5 → vdCount d = 0 →
          ∃ t, exec (.vadd c n) s = .next t ∧ CmdFails s t c n k stInvalidShape) ∧
        (vdOp d = 0 → vopUnusedSet d = false → vdSfmt d < 5 → vdDfmt d < 5 → vdRmode d < 5 → vdCount d ≠ 0 →
          regionOf (vdDst d) 1 = some .hbm → ∃ t, exec (.vadd c n) s = .next t ∧ CmdFails s t c n k stInvalidAddress)) ∧
      ((∀ o ∈ (s.core c).ops, o.cls ≠ clVec) → exec (.vecComplete c) s = .next s) ∧
      (∀ o : Op, (s.core c).ops = [o] → o.cls = clVec → o.started = true → depsDone (s.acc c) o.num = false →
        exec (.vecComplete c) s = .next (startVec s c) ∧ (startVec s c).cores = s.cores ∧ SameMem s (startVec s c)) ∧
      (∀ (o : Op) (st : Nat), (s.core c).ops = [o] → o.cls = clVec → o.started = true → o.pre = some st → o.reco = false → o.setf = false →
        o.merge = none → depsDone (s.acc c) o.num = true → ∃ t, exec (.vecComplete c) s = .next t ∧ (t.core c).ops = [] ∧ SameMem s t ∧ t.rf .VEC_STAT_OPS c.val = 0 ∧
          ((s.ctx c o.ctx).st ≠ .waiting → t.flags = s.flags) ∧ (st = stOK → ∀ m, t.ctx c m = s.ctx c m) ∧
          (st ≠ stOK → (s.ctx c o.ctx).fail = none → (t.ctx c o.ctx).fail = some (o.idx, st))) ∧
      (∀ (o : Op) (st a m v z : Nat), (s.core c).ops = [o] → o.cls = clVec → o.started = true → o.pre = some st → o.reco = false →
        o.setf = false → o.merge = some (a, .scale m v z) → depsDone (s.acc c) o.num = true → ∃ t, exec (.vecComplete c) s = .next t ∧ (t.core c).ops = [] ∧
          t.mem = s.mem.setBytes a (natLE 4 (fp32Bits ((fp32.decode (s.readN a 4)).max (fp32.decode m))) ++
            natLE 4 (min (s.readN (a + 4) 4 + v) 0xFFFFFFFF) ++ natLE 4 (min (s.readN (a + 8) 4 + z) 0xFFFFFFFF))))

/-- FLAG commands (from R216, R217, R220, R223): SET sets the flag or wakes its first waiter, CLEAR, CLAIM and UNCLAIM act on
COUNT flags from the one named, and no other flag changes. -/
def Obligations.FlagCommandsActOnTheirFlags : Prop :=
  ∀ (s : State) (c : CoreId) (n : CtxId) (k : Cmd) (f : FlagId),
    Sound s c n k → k.cls = clFlag → k.desc.length = 64 → (s.core c).ops = [] → k.reco = false → k.setf = false →
    flagTarget (opOf s c n k none) = some f → (fdIdx k.desc = true → fdISrc k.desc ≤ 2) → addrDev (fdAddr k.desc) = ownDev s →
    let range := fun g : FlagId => f.val ≤ g.val ∧ g.val < f.val + max 1 (dfld k.desc 0 31 16)
    let whole := f.val + max 1 (dfld k.desc 0 31 16) ≤ 32768
    let behind := selfPending s (8 * c.val + n.val)
    (fdOp k.desc = 1 → behind = false → s.beat.phases = [] → flagDead s f = none → (s.flag f).set = false → (s.flag f).waiters = [] →
      ∃ t, exec (.set c n) s = .next t ∧ t.flag f = { s.flag f with set := true, src := ⟨ownDev s, 8 * c.val + n.val⟩, cause := 0 } ∧
        (∀ g, g ≠ f → t.flag g = s.flag g) ∧ (t.core c).ops = [] ∧ (t.ctx c n).ptr = (s.ctx c n).ptr + 1 ∧ SameMem s t) ∧
    (∀ x m w, fdOp k.desc = 1 → behind = false → s.beat.phases = [] → flagDead s f = none → (s.flag f).set = false → (s.flag f).waiters = .ctx x m :: w →
      x ≠ c → ∃ t, exec (.set c n) s = .next t ∧ (t.flag f).set = false ∧ (t.flag f).waiters = w ∧ (t.ctx x m).st = .ready ∧
        (t.ctx x m).depMet = true ∧ t.rf .FLG_WAKE_SRCCTX x.val m.val = 8 * c.val + n.val ∧ t.rf .FLG_WAKE_FLAG x.val m.val = f.val ∧
        t.rf .FLG_WAKE_POISON x.val m.val = 0 ∧ SameMem s t) ∧
    (fdOp k.desc = 1 → behind = true → ∃ t, exec (.set c n) s = .next t ∧ t.flags = s.flags ∧
      (t.core c).ops = [{ opOf s c n k none with started := true }] ∧ (t.ctx c n).ptr = (s.ctx c n).ptr + 1 ∧ SameMem s t) ∧
    (fdOp k.desc = 2 → whole → ∃ t, exec (.clear c n) s = .next t ∧ (t.core c).ops = [] ∧ SameMem s t ∧
      (∀ g, range g → flagDead s g = none → (t.flag g).set = false ∧ (t.flag g).poison = false ∧
        (t.flag g).owner = (s.flag g).owner ∧ (t.flag g).waiters = (s.flag g).waiters) ∧
      (∀ g, ¬range g → t.flag g = s.flag g)) ∧
    (fdOp k.desc = 3 → whole → ∃ t, exec (.claim c n) s = .next t ∧ (t.core c).ops = [] ∧ SameMem s t ∧
      (∀ g, range g → t.flag g = { s.flag g with owner := some (c, n) }) ∧ (∀ g, ¬range g → t.flag g = s.flag g)) ∧
    (fdOp k.desc = 4 → whole → ∃ t, exec (.unclaim c n) s = .next t ∧ (t.core c).ops = [] ∧ SameMem s t ∧
      (∀ g, range g → (s.flag g).owner = some (c, n) → t.flag g = { s.flag g with owner := none }) ∧
      (∀ g, (¬range g ∨ (s.flag g).owner ≠ some (c, n)) → t.flag g = s.flag g)) ∧
    (¬whole → (fdOp k.desc = 2 → ∃ t, exec (.clear c n) s = .next t ∧ CmdFails s t c n k stInvalidAddress) ∧
      (fdOp k.desc = 3 → ∃ t, exec (.claim c n) s = .next t ∧ CmdFails s t c n k stInvalidAddress) ∧
      (fdOp k.desc = 4 → ∃ t, exec (.unclaim c n) s = .next t ∧ CmdFails s t c n k stInvalidAddress)) ∧
    ((fdOp k.desc = 0 ∨ 5 < fdOp k.desc) → ∃ t, exec (.set c n) s = .next t ∧ CmdFails s t c n k stInvalidOp)

/-- The index of a flag descriptor with IDX = 1 (from R223): INDEX + (n × ISTRIDE mod IMOD), modulo the flags of a device,
where n is the part, the micro-batch or the step; FENCE waits for the fence of its beat (from R234, R235); a command behind one
that waits takes effect, and completes after it (from R189). -/
def Obligations.FlagIndexesAndFencesFollowTheirDescriptor : Prop :=
  ∀ (s : State) (c : CoreId) (n : CtxId) (k : Cmd),
    (∀ f : FlagId, k.desc.length = 64 → flagOfLocal (addrLocal (fdAddr k.desc)) = some f →
      (fdIdx k.desc = false → flagTarget (opOf s c n k none) = some f) ∧
      (fdIdx k.desc = true → fdISrc k.desc ≤ 2 → ∃ g, flagTarget (opOf s c n k none) = some g ∧
        let m := if fdISrc k.desc = 0 then (s.ctx c n).k else if fdISrc k.desc = 1 then (s.ctx c n).mb
          else s.rf .VEC_RNG_STEP_STEP (halfOfCore c).val
        g.val = (f.val + m * fdIStride k.desc % (if fdIMod k.desc = 0 then 32768 else fdIMod k.desc)) % 32768)) ∧
    (Sound s c n k → k.cls = clFlag → k.desc.length = 64 → (s.core c).ops = [] → k.reco = false → k.setf = false → fdOp k.desc = 5 →
      (fdIdx k.desc = true → fdISrc k.desc ≤ 2) →
      fdBeat k.desc ≤ beatNow s (halfOfCore c) + 2 ^ 32 →
      (fdBeat k.desc ≤ s.fence → ∃ t, exec (.fence c n) s = .next t ∧ (t.core c).ops = [] ∧ (t.ctx c n).ptr = (s.ctx c n).ptr + 1 ∧
        (t.ctx c n).fail = (advanceCtx (s.ctx c n) 0).fail ∧ t.flags = s.flags ∧ SameMem s t) ∧
      (s.fence < fdBeat k.desc → ∃ t, exec (.fence c n) s = .next t ∧ CmdEntered s t c n { opOf s c n k none with started := true } ∧
        fenced (t.core c) n = true ∧ ctxState t c n ≠ .waiting ∧ ((t.ctx c n).st = .ready → ctxState t c n = .blocked) ∧
        ∀ f ∈ [Fld.FLG_WAKE_VALID, .FLG_WAKE_FLAG, .FLG_WAKE_WAIT, .FLG_WAKE_POISON, .FLG_WAKE_CAUSE, .FLG_WAKE_SRCDEV, .FLG_WAKE_SRCCTX], ∀ u i, t.rf f u i = s.rf f u i)) ∧
    (Sound s c n k → k.cls = clFlag → k.desc.length = 64 → (s.core c).ops = [] → fdIdx k.desc = true → 2 < fdISrc k.desc →
      fdOp k.desc = 5 → ∃ t, exec (.fence c n) s = .next t ∧ CmdFails s t c n k stInvalidOp) ∧
    (Sound s c n k → k.cls = clFlag → k.desc.length = 64 → (s.core c).ops = [] → fdOp k.desc = 5 →
      (fdIdx k.desc = true → fdISrc k.desc ≤ 2) → beatNow s (halfOfCore c) + 2 ^ 32 < fdBeat k.desc → ∃ t, exec (.fence c n) s = .next t ∧ CmdFails s t c n k stInvalidShape) ∧
    (∀ p : Op, Sound s c n k → k.cls = clFlag → k.desc.length = 64 → (s.core c).ops = [p] → 7 ≤ p.cls → flagDone s p = false →
      p.num ≠ (s.core c).nextNum → fdOp k.desc = 2 → flagCheck s (halfOfCore c) (opOf s c n k none) = none →
      ∃ t, exec (.clear c n) s = .next t ∧
        (t.core c).ops = [p, { opOf s c n k none with started := true, pre := some stOK }] ∧
        (∀ f, flagTarget (opOf s c n k none) = some f → flagDead s f = none → (t.flag f).set = false) ∧ SameMem s t)

/-- A set of another source reaches a flag (from R221, R226, R228): it sets the flag, is absorbed by one already set, or by a
flag of a dead unit, or wakes the waiter that has waited longest. Atomics at a bank (from R244, R245): one read and write of an
aligned word, whose old value is answered; anything else is answered with its status and changes nothing. -/
def Obligations.SetsAndAtomicsReachTheirWord : Prop :=
  (∀ (s : State) (f : FlagId) (dev agent : Nat), s.beat.phases = [] →
      let half := (if f.val < 20480 then f.val / 256 / 40 else if f.val < 26624 then 0 else 1)
      (flagDead s f = none → (s.flag f).set = false → (s.flag f).waiters = [] →
        exec (.setReachesFlag f ⟨dev, agent⟩ 0) s = .next (s.setFlagSt f { s.flag f with set := true, src := ⟨dev, agent⟩, cause := 0 })) ∧
      (flagDead s f = none → (s.flag f).set = true → ∃ t, exec (.setReachesFlag f ⟨dev, agent⟩ 0) s = .next t ∧
        t.rf .FLG_HALF_STAT_ABSORB half = min (s.rf .FLG_HALF_STAT_ABSORB half + 1) (2 ^ Fld.width .FLG_HALF_STAT_ABSORB - 1) ∧
        RegsBut s t [.FLG_HALF_STAT_ABSORB] ∧ t = { s with regs := t.regs }) ∧
      ((flagDead s f).isSome = true → ∃ t, exec (.setReachesFlag f ⟨dev, agent⟩ 0) s = .next t ∧
        t.rf .FLG_HALF_STAT_DEADSET half = min (s.rf .FLG_HALF_STAT_DEADSET half + 1) (2 ^ Fld.width .FLG_HALF_STAT_DEADSET - 1) ∧
        RegsBut s t [.FLG_HALF_STAT_DEADSET] ∧ t = { s with regs := t.regs }) ∧
      (∀ more : Nat, flagDead s f = none → (s.flag f).set = false → (s.flag f).waiters = [] →
        ∃ t, exec (.setReachesFlag f ⟨dev, agent⟩ more) s = .next t ∧ t.flag f = { s.flag f with set := true, src := ⟨dev, agent⟩, cause := 0 } ∧
          t.rf .FLG_HALF_STAT_ABSORB half = (if more = 0 then s.rf .FLG_HALF_STAT_ABSORB half
            else min (s.rf .FLG_HALF_STAT_ABSORB half + more) (2 ^ Fld.width .FLG_HALF_STAT_ABSORB - 1)) ∧
          RegsBut s t [.FLG_HALF_STAT_ABSORB] ∧ (∀ g, g ≠ f → t.flag g = s.flag g) ∧ SameMem s t) ∧
      (∀ c n w, flagDead s f = none → (s.flag f).set = false → (s.flag f).waiters = .ctx c n :: w →
        ∃ t, exec (.setReachesFlag f ⟨dev, agent⟩ 0) s = .next t ∧ (t.flag f).waiters = w ∧ (t.flag f).set = false ∧ (t.ctx c n).st = .ready ∧
          (t.core c).gated = false ∧ t.rf .FLG_WAKE_SRCDEV c.val n.val = dev % 2 ^ Fld.width .FLG_WAKE_SRCDEV ∧
          t.rf .FLG_WAKE_VALID c.val n.val = 1 ∧ (∀ g, g ≠ f → t.flag g = s.flag g) ∧ SameMem s t)) ∧
  (∀ (s : State) (a v : Nat),
      let place := fun n : Nat => a % n = 0 ∧ ∃ c, regionOf a n = some (.scratch c) ∧ touchesPartition s c a n = false
      let done := fun (n w : Nat) => ({ s with mem := s.mem.setBytes a (natLE n w), reply := .value (s.readN a n) } : State)
      (place 4 → exec (.add32 a v) s = .next (done 4 ((s.readN a 4 + v) % 2 ^ 32)) ∧
        exec (.swap32 a v) s = .next (done 4 (v % 2 ^ 32))) ∧
      (place 8 → exec (.add64 a v) s = .next (done 8 ((s.readN a 8 + v) % 2 ^ 64)) ∧
        exec (.swap64 a v) s = .next (done 8 (v % 2 ^ 64))) ∧
      (∀ h, a % 4 = 0 → regionOf a 4 = some (.glade h) → touchesUnderstory s h a 4 = false → s.rf .GLD_CLR_CTL_BUSY h.val = 0 →
        ∃ t, exec (.add32 a v) s = .next t ∧ t.mem = s.mem.setBytes a (natLE 4 ((s.readN a 4 + v) % 2 ^ 32)) ∧
          t.reply = .value (s.readN a 4)) ∧
      (∀ h m, regionOf a 4 = some (.glade h) → s.rf .GLD_CLR_CTL_BUSY h.val ≠ 0 →
        exec (.add32 a v) s = .next { s with held := s.held ++ [.atomic 0 a v] } ∧
        (regionOf a 16 = some (.glade h) → exec (.merge a m) s = .next { s with held := s.held ++ [.merge a m] })) ∧
      (rangeBusy s a 4 = false → a % 4 ≠ 0 → exec (.add32 a v) s = .next { s with reply := .status stInvalidAddress } ∧
        exec (.swap32 a v) s = .next { s with reply := .status stInvalidAddress }) ∧
      (∀ c, a % 4 = 0 → regionOf a 4 = some (.acc c) → exec (.swap32 a v) s = .next { s with reply := .status stAccRaw }) ∧
      (a % 8 = 0 → regionOf a 8 = some .priv → exec (.add64 a v) s = .next { s with privFaults := s.privFaults + 1, reply := .status stPrivFault }) ∧
      (∀ m sat nf, place 16 → exec (.merge a (.scale m sat nf)) s = .next { s with
        mem := s.mem.setBytes a (natLE 4 (fp32Bits ((fp32.decode (s.readN a 4)).max (fp32.decode m))) ++
          natLE 4 (min (s.readN (a + 4) 4 + sat) 0xFFFFFFFF) ++ natLE 4 (min (s.readN (a + 8) 4 + nf) 0xFFFFFFFF)),
        reply := .status stOK }) ∧
      (∀ m, rangeBusy s a 16 = false → a % 16 ≠ 0 → exec (.merge a m) s = .next { s with reply := .status stInvalidAddress }))

/-- Disabling (from R209 to R213, R228): step 1 closes the unit, and only Dexca asks for it; the end of the drain time aborts
what is left, and poisons the flags of a core. -/
def Obligations.DisablesCloseAbortAndPoison : Prop :=
  ∀ (s : State) (a : Agent) (c : CoreId) (g : GroveId),
    (isDexca a = false → let p : State := { s with privFaults := s.privFaults + 1 }
      exec (.disableCore a c) s = .next p ∧ exec (.disableMat a c) s = .next p ∧ exec (.disableVec a c) s = .next p ∧
      exec (.disableLoad a c) s = .next p ∧ exec (.disableStore a c) s = .next p ∧ exec (.disableGrove a g) s = .next p) ∧
    (isDexca a = true → (canClose s c = false → exec (.disableCore a c) s = .next s) ∧
      (canClose s c = true → (aget s.waiting (groveOfCore c) []).filter (fun w => w.core == c) = [] →
        ∃ t, exec (.disableCore a c) s = .next t ∧ (t.core c).node = .closing ∧ t.rf .CORE_DIS_CTL_CORE c.val = 1 ∧
          t.rf .CORE_DIS_STAT_PHASE c.val = 1 ∧ (t.core c).ops = (s.core c).ops ∧ (∀ n, t.ctx c n = s.ctx c n) ∧
          (∀ k : GroveId, halfOfGrove k = halfOfCore c → ∀ x ∈ activeSlots t (.grove k), x.child ≠ nodeRefOf s (.core c)) ∧
          RegsBut s t [.CORE_DIS_CTL_CORE, .CORE_DIS_STAT_PHASE] ∧
          TablesOnly s t ((grovesOfHalf (halfOfCore c)).map NodeId.grove))) ∧
    (isDexca a = true → (s.core c).node ≠ .closing →
      (s.rf .CORE_DIS_CTL_MAT c.val = 0 →
        exec (.disableMat a c) s = .next ((s.wf .CORE_DIS_CTL_MAT 1 c.val).wf .CORE_DIS_STAT_PHASE 1 c.val)) ∧
      (s.rf .CORE_DIS_CTL_VEC c.val = 0 →
        exec (.disableVec a c) s = .next ((s.wf .CORE_DIS_CTL_VEC 1 c.val).wf .CORE_DIS_STAT_PHASE 1 c.val)) ∧
      (s.rf .CORE_DIS_CTL_LOAD c.val = 0 →
        exec (.disableLoad a c) s = .next ((s.wf .CORE_DIS_CTL_LOAD 1 c.val).wf .CORE_DIS_STAT_PHASE 1 c.val)) ∧
      (s.rf .CORE_DIS_CTL_STORE c.val = 0 →
        exec (.disableStore a c) s = .next ((s.wf .CORE_DIS_CTL_STORE 1 c.val).wf .CORE_DIS_STAT_PHASE 1 c.val)) ∧
      (s.rf .CORE_DIS_CTL_LOAD c.val ≠ 0 → exec (.disableLoad a c) s = .next s)) ∧
    (isDexca a = true → (s.core c).node = .closing →
      (s.rf .CORE_DIS_CTL_MAT c.val = 0 → exec (.disableMat a c) s = .next (s.wf .CORE_DIS_CTL_MAT 1 c.val)) ∧
      (s.rf .CORE_DIS_CTL_VEC c.val = 0 → exec (.disableVec a c) s = .next (s.wf .CORE_DIS_CTL_VEC 1 c.val)) ∧
      (s.rf .CORE_DIS_CTL_LOAD c.val = 0 → exec (.disableLoad a c) s = .next (s.wf .CORE_DIS_CTL_LOAD 1 c.val)) ∧
      (s.rf .CORE_DIS_CTL_STORE c.val = 0 → exec (.disableStore a c) s = .next (s.wf .CORE_DIS_CTL_STORE 1 c.val))) ∧
    (isDexca a = true → nodeState s (.grove g) = .active → aget s.waiting g [] = [] →
      (∀ i : CoreId, groveOfCore i = g → (s.core i).node = .active) →
      ∃ t, exec (.disableGrove a g) s = .next t ∧ nodeState t (.grove g) = .closing ∧ t.rf .GRV_DIS_CTL_GROVE g.val = 1 ∧
        (∀ i : CoreId, groveOfCore i = g → (t.core i).node = .closing) ∧
        (∀ i : CoreId, groveOfCore i ≠ g → t.core i = s.core i) ∧
        TablesOnly s t (.half (halfOfGrove g) :: (grovesOfHalf (halfOfGrove g)).map NodeId.grove)) ∧
    (s.fab.store = [] → (s.core c).node = .closing → s.rf .CORE_DIS_CTL_CORE c.val ≠ 0 → (s.core c).ops = [] → (s.core c).spec = none →
      (∀ n, (s.ctx c n).st = .idle) → (∀ f : FlagId, f.val / 256 = c.val → (s.flag f).waiters = []) →
      ∃ t, exec (.disableDrainExpire (.core c)) s = .next t ∧ (t.core c).node = .disabled ∧ t.rf .CORE_DIS_STAT_PHASE c.val = 4 ∧
        t.rf .CORE_DIS_STAT_DONE c.val = 1 ∧ SameMem s t ∧
        (∀ f : FlagId, f.val / 256 = c.val → (s.flag f).owner = none → (t.flag f).set = true ∧ (t.flag f).poison = true ∧
          (t.flag f).cause = 3) ∧
        (∀ f : FlagId, (f.val / 256 ≠ c.val ∨ (s.flag f).owner ≠ none) → t.flag f = s.flag f)) ∧
    (∀ o : Op, s.fab.store = [] → s.rf .CORE_DIS_CTL_LOAD c.val ≠ 0 → (s.core c).ops = [o] →
      o.cls = clLoad → o.pre = none → o.reco = false → (s.core c).runAhead = [] → (s.ctx c o.ctx).fail = none → pairHead s c = false →
      ∃ t, exec (.disableDrainExpire (.engine c .load)) s = .next t ∧ (t.core c).ops = [] ∧
        (t.ctx c o.ctx).fail = some (o.idx, stAbortedDisable) ∧ ((s.ctx c o.ctx).st ≠ .waiting → t.flags = s.flags) ∧ t.rf .CORE_DIS_STAT_DONE c.val = 1 ∧
        t.rf .CORE_DIS_STAT_PHASE c.val = (if (s.core c).node = .closing then s.rf .CORE_DIS_STAT_PHASE c.val else 4) ∧
        t.rf .CORE_DIS_STAT_ABORTS c.val = min (s.rf .CORE_DIS_STAT_ABORTS c.val + 1) (2 ^ Fld.width .CORE_DIS_STAT_ABORTS - 1) ∧
        (∀ x, t.mem.get x = s.mem.get x ∨
          t.mem.get x = (placeData s o.desc ((srcRows o.desc).map (fun r => s.read r.1 r.2))).mem.get x)) ∧
    (((s.core c).node ≠ .closing ∨ s.rf .CORE_DIS_CTL_CORE c.val = 0) → exec (.disableDrainExpire (.core c)) s = .next s) ∧
    (nodeState s (.grove g) ≠ .closing → exec (.disableDrainExpire (.grove g)) s = .next s)

/-- The background test (from R252 to R256): a region is taken while the test is enabled and has not failed, a failing word
stops the test and raises an interrupt, a restored region moves the test on, and a sweep's end is counted. Clears and
initialisations (from R251, R266, R279): only Dexca starts one, the bytes of the part are zero from then on with their CRCs
valid, no other byte changes, and the end shows in BUSY and DONE. Memory health (from R274 to R277) and an injection (from
R521, R524): a valid reading moves a stack's throttle level by at most one, a failed one asks for level 4; entering level 3 or
4 raises the stack's interrupt; TST_INJ is armed only with access and while none is. -/
def Obligations.ClearsTestsAndMemoryHealth : Prop :=
  (∀ (s : State) (c : CoreId),
      (bistRuns s (.core c) = true →
        exec (.bistRegionStart (.core c) none) s = .next (s.wf .CORE_BIST_STAT_ACTIVE 1 c.val) ∧
        (∀ w, ∃ t, exec (.bistRegionStart (.core c) (some w)) s = .next t ∧ t.rf .CORE_BIST_STAT_FAIL c.val = 1 ∧
          t.rf .CORE_BIST_STAT_FWORD c.val = (64 * s.rf .CORE_BIST_STAT_REGION c.val + w % 64) % 2 ^ Fld.width .CORE_BIST_STAT_FWORD ∧
          t.rf .CORE_BIST_STAT_ACTIVE c.val = 1 ∧ SameMem s t)) ∧
      ((s.rf .CORE_BIST_CFG_EN c.val ≠ 1 ∨ s.rf .CORE_BIST_STAT_FAIL c.val ≠ 0 ∨ (s.core c).node = .disabled) →
        ∀ w, exec (.bistRegionStart (.core c) w) s = .next s) ∧
      (∀ n, (s.rf .CORE_BIST_STAT_ACTIVE c.val ≠ 1 ∨ s.rf .CORE_BIST_CFG_FORCE c.val ≠ 1) → exec (.bistForce (.core c) n) s = .next s) ∧
      (∀ n, s.rf .CORE_BIST_STAT_ACTIVE c.val = 1 → s.rf .CORE_BIST_CFG_FORCE c.val = 1 →
        ∃ t, exec (.bistForce (.core c) n) s = .next t ∧ SameMem s t ∧
          t.rf .CORE_BIST_STAT_STOLEN c.val = min (s.rf .CORE_BIST_STAT_STOLEN c.val + n) (2 ^ Fld.width .CORE_BIST_STAT_STOLEN - 1)) ∧
      (∀ b, s.rf .CORE_BIST_STAT_ACTIVE c.val = 1 → s.rf .CORE_BIST_STAT_FAIL c.val = 0 →
        (s.rf .CORE_BIST_STAT_REGION c.val + 1 < 768 → ∃ t, exec (.bistRegionEnd (.core c) b) s = .next t ∧
          t.rf .CORE_BIST_STAT_ACTIVE c.val = 0 ∧ t.rf .CORE_BIST_STAT_REGION c.val = s.rf .CORE_BIST_STAT_REGION c.val + 1 ∧
          RegsBut s t [.CORE_BIST_STAT_ACTIVE, .CORE_BIST_STAT_REGION] ∧ t = { s with regs := t.regs }) ∧
        (s.rf .CORE_BIST_STAT_REGION c.val = 767 → ∃ t, exec (.bistRegionEnd (.core c) b) s = .next t ∧
          t.rf .CORE_BIST_STAT_REGION c.val = 0 ∧
          t.rf .CORE_BIST_STAT_SWEEPS c.val = (s.rf .CORE_BIST_STAT_SWEEPS c.val + 1) % 2 ^ Fld.width .CORE_BIST_STAT_SWEEPS ∧
          t.rf .CORE_BIST_STAT_PAT c.val = (s.rf .CORE_BIST_STAT_SWEEPS c.val + 1) % 2 ∧ SameMem s t)) ∧
      (∀ b, s.rf .CORE_BIST_STAT_ACTIVE c.val ≠ 1 → exec (.bistRegionEnd (.core c) b) s = .next s)) ∧
  (∀ (s : State) (a : Agent) (h : HalfId), s.held = [] → s.fab.store = [] →
      (isDexca a = false → let p : State := { s with privFaults := s.privFaults + 1 }
        exec (.gladeClear a h) s = .next p ∧ exec (.hbmInit a h) s = .next p ∧ exec (.lpxInit a h) s = .next p) ∧
      (isDexca a = true → s.rf .GLD_CLR_CTL_BUSY h.val = 0 → ∃ t, exec (.gladeClear a h) s = .next t ∧ t.rf .GLD_CLR_CTL_BUSY h.val = 1 ∧
        (∀ x, gladeBase h ≤ x → x < gladeBase h + 0x4000000 → t.mem.get x = 0) ∧
        (∀ x, (x < gladeBase h ∨ gladeBase h + 0x4000000 ≤ x) → t.mem.get x = s.mem.get x) ∧ RegsBut s t [.GLD_CLR_CTL_BUSY]) ∧
      (isDexca a = true → s.rf .HBM_INIT_CTL_BUSY h.val = 0 → ∃ t, exec (.hbmInit a h) s = .next t ∧ t.rf .HBM_INIT_CTL_BUSY h.val = 1 ∧
        (∀ x, x < 432000000000 → x / 4096 % 12 / 6 = h.val → t.mem.get x = 0 ∧ t.crcOf x = 0xA489834F) ∧
        (∀ x, (432000000000 ≤ x ∨ x / 4096 % 12 / 6 ≠ h.val) → t.mem.get x = s.mem.get x ∧ t.crcOf x = s.crcOf x) ∧
        RegsBut s t [.HBM_INIT_CTL_BUSY]) ∧
      (isDexca a = true → s.rf .LPX_INIT_CTL_BUSY h.val = 0 → ∃ t, exec (.lpxInit a h) s = .next t ∧ t.rf .LPX_INIT_CTL_BUSY h.val = 1 ∧
        (∀ x, x < 512000000000 → x / 4096 % 8 / 4 = h.val → t.mem.get (0x8000000000 + x) = 0) ∧
        (∀ x, (x < 0x8000000000 ∨ 0x8000000000 + 512000000000 ≤ x ∨ (x - 0x8000000000) / 4096 % 8 / 4 ≠ h.val) →
          t.mem.get x = s.mem.get x) ∧ RegsBut s t [.LPX_INIT_CTL_BUSY]) ∧
      (isDexca a = true → (s.rf .GLD_CLR_CTL_BUSY h.val ≠ 0 → exec (.gladeClear a h) s = .next s) ∧
        (s.rf .HBM_INIT_CTL_BUSY h.val ≠ 0 → exec (.hbmInit a h) s = .next s) ∧
        (s.rf .LPX_INIT_CTL_BUSY h.val ≠ 0 → exec (.lpxInit a h) s = .next s)) ∧
      (∃ t, exec (.gladeClearEnd h) s = .next t ∧ t.rf .GLD_CLR_CTL_BUSY h.val = 0 ∧ RegsBut s t [.GLD_CLR_CTL_BUSY] ∧ SameMem s t) ∧
      (s.rf .HBM_INIT_CTL_BUSY h.val ≠ 0 → ∃ t, exec (.initEnd h false) s = .next t ∧ t.rf .HBM_INIT_CTL_BUSY h.val = 0 ∧
        t.rf .HBM_INIT_CTL_DONE h.val = 1 ∧ RegsBut s t [.HBM_INIT_CTL_BUSY, .HBM_INIT_CTL_DONE] ∧ SameMem s t) ∧
      (s.rf .LPX_INIT_CTL_BUSY h.val ≠ 0 → ∃ t, exec (.initEnd h true) s = .next t ∧ t.rf .LPX_INIT_CTL_BUSY h.val = 0 ∧
        t.rf .LPX_INIT_CTL_DONE h.val = 1 ∧ RegsBut s t [.LPX_INIT_CTL_BUSY, .LPX_INIT_CTL_DONE] ∧ SameMem s t)) ∧
  (∀ (s : State) (st : StackId) (corrected : Nat),
      let h := st.val / 6
      let i := st.val % 6
      let l := s.rf .HBM_STK_LEVEL h i
      let th := max 40 (min 105 (s.rf .HBM_THR_CFG_THRESH h))
      let d := max 1 (s.rf .HBM_THR_CFG_STEP h)
      let corr := fun t : State => t.rf .HBM_STK_CORR h i = min (s.rf .HBM_STK_CORR h i + corrected) (2 ^ Fld.width .HBM_STK_CORR - 1)
      (s.rf .HBM_THR_CFG_EN h = 1 → l ≤ 4 →
        (∃ t, exec (.hbmTempReading st none corrected) s = .next t ∧ t.rf .HBM_STK_LEVEL h i = 4 ∧ t.rf .HBM_STK_SENSOR_ERR h i = 1 ∧
          corr t ∧ SameMem s t) ∧
        (∀ x, l < 4 → th + l * d ≤ x → ∃ t, exec (.hbmTempReading st (some x) corrected) s = .next t ∧
          t.rf .HBM_STK_LEVEL h i = l + 1 ∧ t.rf .HBM_STK_TEMP h i = x % 2 ^ Fld.width .HBM_STK_TEMP ∧ corr t ∧
          (l + 1 < 3 → t.halves = s.halves)) ∧
        (∀ x, 1 ≤ l → x + s.rf .HBM_THR_CFG_HYST h < th + (l - 1) * d → ∃ t, exec (.hbmTempReading st (some x) corrected) s = .next t ∧
          t.rf .HBM_STK_LEVEL h i = l - 1 ∧ corr t ∧ t.halves = s.halves)) ∧
      (∀ x, s.rf .HBM_THR_CFG_EN h = 0 → ∃ t, exec (.hbmTempReading st x corrected) s = .next t ∧ t.rf .HBM_STK_LEVEL h i = 0 ∧ corr t) ∧
      (∀ (b : BusId) (extra : Nat), ∃ t, exec (.lpddrRefreshRead b extra corrected) s = .next t ∧ RegsBut s t [] ∧ SameMem s t ∧
        (t.half (Fin.ofNat 2 (b.val / 4))).lpxCorr = min ((s.half (Fin.ofNat 2 (b.val / 4))).lpxCorr + (extra + corrected)) 65535) ∧
      (∀ (a : Agent) (k : HalfId) (v : Nat),
        (grants s k 0 = false → exec (.tstInjArm a k v) s = .next { s with privFaults := s.privFaults + 1 }) ∧
        (grants s k 0 = true → (s.rf .TST_INJ_ARMED k.val ≠ 0 ∨ v / 2 ^ 59 % 8 = 0 ∨ 4 < v / 2 ^ 59 % 8) →
          exec (.tstInjArm a k v) s = .next (s.wf .TST_STAT_ERR 1 k.val)) ∧
        (grants s k 0 = true → s.rf .TST_INJ_ARMED k.val = 0 → 1 ≤ v / 2 ^ 59 % 8 → v / 2 ^ 59 % 8 ≤ 4 →
          ∃ t, exec (.tstInjArm a k v) s = .next t ∧ t.rf .TST_INJ_ARMED k.val = 1 ∧ t.rf .TST_INJ_KIND k.val = v / 2 ^ 59 % 8 ∧
            (t.half k).injLeft = max 1 (v / 2 ^ 56 % 8) ∧ SameMem s t)))

/-- Training (from R299): each event moves a port one state on, or back to DOWN, and touches no other port. Identity (from R301
to R304, R307): CHECK compares the peer's place, serial and versions; a failure quarantines the port with its cause and raises
its link interrupt; FAB_QCLR, which only Dexca writes, releases the ports it names. -/
def Obligations.PortsTrainAndCheckTheirPeers : Prop :=
  (∀ (s : State) (p : PortId),
      let st := s.pf .FAB_PORT_STAT_STATE p
      let kept := fun t : State => SameMem s t ∧ t.flags = s.flags ∧ t.fab.sent = s.fab.sent ∧
        ∀ q, q ≠ p → t.port q = s.port q ∧ t.pf .FAB_PORT_STAT_STATE q = s.pf .FAB_PORT_STAT_STATE q
      let dst := fun (t : State) (x : Nat) => t.pf .FAB_PORT_STAT_STATE p = x ∧ t.pf .FAB_PORT_STAT_VER p = 0 ∧ kept t
      let up := s.pf .FAB_PORT_STAT_DIS p = 0 ∧ (s.port p).closing = false ∧
        (s.pf .FAB_PORT_EXP_VALID p = 1 ∨ s.rf .FAB_CFG_MODE (portHalf p).val ≠ 0)
      (st = 0 → up → (s.port p).eqFailed = false → ∃ t, exec (.portEnable p) s = .next t ∧ dst t 1 ∧ t.port p = s.port p) ∧
      (¬(st = 0 ∧ up) → exec (.portEnable p) s = .next s) ∧
      (st = 1 → (∃ t, exec (.detectRetry p) s = .next t ∧ dst t 1 ∧ t.port p = s.port p) ∧
        (∃ t, exec (.peerSignal p) s = .next t ∧ dst t 2 ∧ t.port p = s.port p)) ∧
      (st ≠ 1 → exec (.detectRetry p) s = .next s ∧ exec (.peerSignal p) s = .next s) ∧
      (∀ l : Fin 16, st = 2 ∨ st = 7 → (l.val = 15 → ∃ t, exec (.equaliseDone p l) s = .next t ∧ dst t 3 ∧ t.pf .FAB_PORT_STAT_WIDTH p = 2 ∧
          t.fab.beacons = s.fab.beacons ++ [(p, identityBytes (ownRecord s p))]) ∧
        (l.val ≠ 15 → (l.val % 4 = 3 ∨ 12 ≤ l.val) → ∃ t, exec (.equaliseDone p l) s = .next t ∧ dst t 3 ∧ t.pf .FAB_PORT_STAT_WIDTH p = 1) ∧
        (l.val % 4 ≠ 3 → l.val < 12 → (s.port p).unacked = [] → (s.port p).queue = [] → ∃ t, exec (.equaliseDone p l) s = .next t ∧ dst t 0 ∧
          t.pf .FAB_PORT_STAT_WIDTH p = 0 ∧ (t.port p).eqFailed = (st == 2))) ∧
      (∀ l, st ≠ 2 → st ≠ 7 → exec (.equaliseDone p l) s = .next s) ∧
      (st = 0 → up → (s.port p).eqFailed = true → ∃ t, exec (.equaliseRetry p) s = .next t ∧ dst t 1 ∧ (t.port p).eqFailed = false) ∧
      ((s.port p).unacked = [] → (s.port p).queue = [] → (st = 3 → ∃ t, exec (.identTimeout p) s = .next t ∧ dst t 0) ∧
        (st = 7 → ∃ t, exec (.retrainTimeout p) s = .next t ∧ dst t 0) ∧
        (st ≠ 0 → st ≠ 6 → ∃ t, exec (.signalLoss p) s = .next t ∧ dst t 0 ∧ (t.port p).txSeq = 0 ∧ (t.port p).rxSeq = 0)) ∧
      (st = 4 → (s.port p).unacked = [] → (s.port p).queue = [] → ∃ t, exec (.identTimeout p) s = .next t ∧ dst t 6 ∧
        t.pf .FAB_PORT_STAT_QCAUSE p = 5 ∧ (t.port p).pass = false) ∧
      (st ≠ 3 → st ≠ 4 → exec (.identTimeout p) s = .next s) ∧ (st ≠ 7 → exec (.retrainTimeout p) s = .next s) ∧
      (st = 6 → exec (.signalLoss p) s = .next s ∧ exec (.quarantineBeacon p) s = .next { s with fab := { s.fab with
        beacons := s.fab.beacons ++ [(p, identityBytes ⟨Config.serial % 2 ^ 64, p.val, vMin s p, vMax s p,
          s.rf .FAB_CFG_MODE (portHalf p).val != 0, (s.port p).pass, ownDev s, jobTag s, epochNow s⟩)] } }) ∧
      (st ≠ 6 → exec (.quarantineBeacon p) s = .next s)) ∧
  (∀ (s : State) (p : PortId) (b : List Byte) (r : IdRecord), (s.port p).unacked = [] → (s.port p).queue = [] →
      b.length = 32 → crc32c (b.take 0x1C) = dfld b 0x1C 31 0 → r = identityOf b →
      let copies := [b, b, b]
      let st := s.pf .FAB_PORT_STAT_STATE p
      let h := portHalf p
      let lo := max (max 2 (min 3 (s.rf .FAB_CFG_VMIN h.val))) r.vmin
      let v := min (max 2 (min 3 (s.rf .FAB_CFG_VMAX h.val))) r.vmax
      let same := r.coord = s.pf .FAB_PORT_EXP_DEV p ∧ r.port = s.pf .FAB_PORT_EXP_PORT p
      let found := fun t : State => t.pf .FAB_PORT_SER_SERIAL p = r.serial % 2 ^ 64 ∧ t.pf .FAB_PORT_PEER_DEV p = r.coord % 2 ^ 14 ∧
        t.pf .FAB_PORT_PEER_PORT p = r.port % 32 ∧ t.pf .FAB_PORT_PEER_VMAX p = r.vmax % 256 ∧ t.pf .FAB_PORT_PEER_VMIN p = r.vmin % 256
      let held := fun (t : State) (c : Nat) => t.pf .FAB_PORT_STAT_STATE p = 6 ∧ t.pf .FAB_PORT_STAT_QCAUSE p = c ∧
        t.pf .FAB_PORT_STAT_VER p = 0 ∧ found t ∧ SameMem s t ∧
        (irqStopped s h = false → bit (t.rf .IRQ_PEND_PEND h.val 1) (portIdx p) = true)
      let mode := s.rf .FAB_CFG_MODE h.val
      let passed := r.coord = s.pf .FAB_PORT_PEER_DEV p ∧ r.port = s.pf .FAB_PORT_PEER_PORT p
      let ok4 := r.serial ≠ Config.serial % 2 ^ 64 ∧ ((s.port p).discover = false → passed) ∧ lo ≤ v
      let ok := r.serial ≠ Config.serial % 2 ^ 64 ∧ (mode = 0 → same) ∧ lo ≤ v
      (st = 3 → r.serial = Config.serial % 2 ^ 64 → ∃ t, exec (.identityRecord p copies) s = .next t ∧ held t 3) ∧
      (st = 3 → r.serial ≠ Config.serial % 2 ^ 64 → mode = 0 → ¬same → ∃ t, exec (.identityRecord p copies) s = .next t ∧ held t 1) ∧
      (st = 3 → r.serial ≠ Config.serial % 2 ^ 64 → (mode = 0 → same) → v < lo → ∃ t, exec (.identityRecord p copies) s = .next t ∧ held t 2) ∧
      (st = 3 → ok → r.pass = false → ∃ t, exec (.identityRecord p copies) s = .next t ∧ t.pf .FAB_PORT_STAT_STATE p = 4 ∧ (t.port p).pass = true ∧
        (t.port p).discover = (mode != 0) ∧ found t ∧ SameMem s t ∧ t.halves = s.halves ∧
        t.fab.beacons = s.fab.beacons ++ [(p, identityBytes { ownRecord s p with pass := true })]) ∧
      (st = 3 → ok → r.pass = true → ∃ t, exec (.identityRecord p copies) s = .next t ∧ t.pf .FAB_PORT_STAT_STATE p = 5 ∧
        t.pf .FAB_PORT_STAT_VER p = v ∧ (t.port p).pass = true ∧ found t ∧ SameMem s t ∧ t.halves = s.halves) ∧
      (st = 4 → r.serial = Config.serial % 2 ^ 64 → ∃ t, exec (.identityRecord p copies) s = .next t ∧ held t 3) ∧
      (st = 4 → r.serial ≠ Config.serial % 2 ^ 64 → (s.port p).discover = false → ¬passed →
        ∃ t, exec (.identityRecord p copies) s = .next t ∧ held t 1) ∧
      (st = 4 → r.serial ≠ Config.serial % 2 ^ 64 → ((s.port p).discover = false → passed) → v < lo →
        ∃ t, exec (.identityRecord p copies) s = .next t ∧ held t 2) ∧
      (st = 4 → ok4 → r.pass = true → ∃ t, exec (.identityRecord p copies) s = .next t ∧ t.pf .FAB_PORT_STAT_STATE p = 5 ∧
        t.pf .FAB_PORT_STAT_VER p = v ∧ found t) ∧
      (st = 4 → ok4 → r.pass = false → ∃ t, exec (.identityRecord p copies) s = .next t ∧ held t 5) ∧
      (st = 6 → ∃ t, exec (.identityRecord p copies) s = .next t ∧ t.pf .FAB_PORT_STAT_STATE p = 6 ∧
        t.pf .FAB_PORT_STAT_QCAUSE p = s.pf .FAB_PORT_STAT_QCAUSE p ∧ found t ∧ t = { s with regs := t.regs }) ∧
      (st ≠ 3 → st ≠ 4 → st ≠ 6 → exec (.identityRecord p copies) s = .next s) ∧
      (∀ bs : List (List Byte), identityTaken bs = none → exec (.identityRecord p bs) s = .next s) ∧
      (∀ x y z : List Byte, (x ≠ y ∨ y ≠ z ∨ x.length ≠ 32 ∨ crc32c (x.take 0x1C) ≠ dfld x 0x1C 31 0) → identityTaken [x, y, z] = none) ∧
      (∀ (a : Agent) (m : Nat), (isDexca a = false → exec (.fabQclr a h m) s = .next { s with privFaults := s.privFaults + 1 }) ∧
        (isDexca a = true → ∃ t, exec (.fabQclr a h m) s = .next t ∧ t = { s with regs := t.regs } ∧
          RegsBut s t [.FAB_PORT_STAT_STATE, .FAB_PORT_STAT_VER, .FAB_PORT_STAT_QCAUSE] ∧
          (st = 6 → bit m (portIdx p) = true → t.pf .FAB_PORT_STAT_STATE p = 0 ∧ t.pf .FAB_PORT_STAT_QCAUSE p = 0) ∧
          ((st ≠ 6 ∨ bit m (portIdx p) = false) → t.pf .FAB_PORT_STAT_STATE p = st ∧
            t.pf .FAB_PORT_STAT_QCAUSE p = s.pf .FAB_PORT_STAT_QCAUSE p))))

/-- The link layer (from R284, R285, R305): a good flit in order advances FSEQ and frees what it acknowledges, any other is
discarded and a replay asked for; errors retrain a port, and too many retrains quarantine it; a port that goes DOWN hands its
packets to another path. -/
def Obligations.FlitsAreAcceptedInOrder : Prop :=
  ∀ (s : State) (p : PortId) (f : Flit),
    let st := s.pf .FAB_PORT_STAT_STATE p
    let h := (portHalf p).val
    let lim := max 1 (s.rf .FAB_CFG_ERRLIM h)
    let kept := fun t : State => SameMem s t ∧ t.flags = s.flags ∧ t.fab.sent = s.fab.sent ∧ ∀ q, q ≠ p → t.port q = s.port q
    let replay := fun t : State => (t.port p).rxSeq = (s.port p).rxSeq ∧ (t.port p).replayFrom = some (s.port p).rxSeq ∧
      (t.port p).unacked = (s.port p).unacked ∧ kept t
    (st ≠ 5 → exec (.flitReceive p f) s = .next s) ∧
    (st = 5 → flGood f = true → f.fecUncorrectable = 0 →
      let ack := dfld f.bytes 0 23 12
      let left := (s.port p).unacked.filter (fun u => decide (2048 ≤ (ack + 4096 - u.1) % 4096))
      let taken := fun t : State => (t.port p).rxSeq = ((s.port p).rxSeq + 1) % 4096 ∧ (t.port p).replayFrom = none ∧
        (t.port p).txSeq = (s.port p).txSeq ∧ (t.port p).unacked = left ∧ (t.port p).queue = [] ∧ t.pf .FAB_PORT_STAT_STATE p = 5 ∧
        (t.port p).txAck = (if (ack + 4097 - (s.port p).txAck) % 4096 ≤ (s.port p).outstanding then (ack + 1) % 4096 else (s.port p).txAck)
      (dfld f.bytes 0 11 0 = (s.port p).rxSeq → (s.port p).queue = [] → f.replay = none →
        ∃ t, exec (.flitReceive p f) s = .next t ∧ taken t ∧ kept t ∧
        (t.port p).credit = (if dfld f.bytes 0 31 29 = 0 then (s.port p).credit else aset (s.port p).credit (dfld f.bytes 0 28 24)
          (aget (s.port p).credit (dfld f.bytes 0 28 24) 0 + 4 * dfld f.bytes 0 31 29)) ∧
        t.pf .FAB_PORT_ERR_FECCOR p = min (s.pf .FAB_PORT_ERR_FECCOR p + ((s.port p).fecRem + f.fecCorrected) / 1024)
          (2 ^ Fld.width .FAB_PORT_ERR_FECCOR - 1)) ∧
      (∀ n, dfld f.bytes 0 11 0 = (s.port p).rxSeq → (s.port p).queue = [] → f.replay = some n →
        ∃ t, exec (.flitReceive p f) s = .next t ∧ taken t ∧
        t.fab.sent = s.fab.sent ++ (left.filter (fun u => decide ((u.1 + 4096 - n % 4096) % 4096 < 2048))).map (fun u => (p, u.2)) ∧
        t.pf .FAB_PORT_ERR_REPLAY p = min (s.pf .FAB_PORT_ERR_REPLAY p + 1) (2 ^ Fld.width .FAB_PORT_ERR_REPLAY - 1)) ∧
      (∀ k, dfld f.bytes 0 11 0 = (s.port p).rxSeq → (s.port p).queue = [k] → f.replay = none → (s.port p).unacked = [] →
        s.rf .TST_INJ_ARMED 0 = 0 → s.rf .TST_INJ_ARMED 1 = 0 → flitsOf k ≤ 1024 →
        (s.port p).outstanding = 1 → ack = ((s.port p).txSeq + 4095) % 4096 →
        ∃ t, exec (.flitReceive p f) s = .next t ∧ (t.port p).queue = [] ∧ t.fab.sent = s.fab.sent ++ [(p, k)] ∧
          (t.port p).unacked = [(((s.port p).txSeq + flitsOf k - 1) % 4096, k)]) ∧
      (dfld f.bytes 0 11 0 ≠ (s.port p).rxSeq → ∃ t, exec (.flitReceive p f) s = .next t ∧ replay t ∧ t.pf .FAB_PORT_STAT_STATE p = 5)) ∧
    (st = 5 → flGood f = false → s.pf .FAB_PORT_ERR_LCRC p < 65535 →
      (f.msErrors < lim → ∃ t, exec (.flitReceive p f) s = .next t ∧ replay t ∧ t.pf .FAB_PORT_STAT_STATE p = 5 ∧
        t.pf .FAB_PORT_ERR_LCRC p = s.pf .FAB_PORT_ERR_LCRC p + 1) ∧
      (lim ≤ f.msErrors → f.secRetrains + 1 < max 1 (s.rf .FAB_CFG_RTLIM h) → ∃ t, exec (.flitReceive p f) s = .next t ∧ replay t ∧
        t.pf .FAB_PORT_STAT_STATE p = 7 ∧ t.pf .FAB_PORT_STAT_VER p = 0 ∧
        t.pf .FAB_PORT_STAT_RETRAINS p = min (s.pf .FAB_PORT_STAT_RETRAINS p + 1) 65535) ∧
      (lim ≤ f.msErrors → max 1 (s.rf .FAB_CFG_RTLIM h) ≤ f.secRetrains + 1 → (s.port p).unacked = [] → (s.port p).queue = [] →
        ∃ t, exec (.flitReceive p f) s = .next t ∧ t.pf .FAB_PORT_STAT_STATE p = 6 ∧ t.pf .FAB_PORT_STAT_QCAUSE p = 4 ∧ kept t)) ∧
    (∀ (n : Nat) (pkt : Packet), st = 5 → (s.port p).unacked = [(n, pkt)] → PortsIdle s (flitsOf pkt) →
      let b := { pkt with hops := pkt.hops - 1 }
      let down := fun t : State => t.pf .FAB_PORT_STAT_STATE p = 0 ∧ (t.port p).unacked = [] ∧ SameMem s t
      (∀ q x, nextPort (setPortState s p 0) b false = some (q, x) → q ≠ p ∧
        ∃ t, exec (.portAckTimeout p) s = .next t ∧ down t ∧ t.fab.sent = s.fab.sent ++ [(q, { x with hops := x.hops + 1 })]) ∧
      (nextPort (setPortState s p 0) b false = none → isRequest pkt.ptype = false →
        ∃ t, exec (.portAckTimeout p) s = .next t ∧ down t ∧ t.fab.sent = s.fab.sent ∧
          t.rf .FAB_DROP_BADTYPE h = min (s.rf .FAB_DROP_BADTYPE h + 1) 65535)) ∧
    (st ≠ 5 ∨ (s.port p).unacked = [] → exec (.portAckTimeout p) s = .next s) ∧
    (∀ (a : Agent) (k : HalfId) (m : Nat), (isDexca a = false → exec (.portDisable a k m) s = .next { s with privFaults := s.privFaults + 1 }) ∧
      (isDexca a = true → s.rf .FAB_DIS_CTL_PORT k.val < 512 → ∃ t, exec (.portDisable a k m) s = .next t ∧ t.rf .FAB_DIS_CTL_PORT k.val = (s.rf .FAB_DIS_CTL_PORT k.val ||| m % 512) ∧
        RegsBut s t [.FAB_DIS_CTL_PORT] ∧ SameMem s t ∧ ∀ q, t.port q = { s.port q with
          closing := (s.port q).closing || (portHalf q == k && bit m (portIdx q)) })) ∧
    ((s.port p).closing = true → s.pf .FAB_PORT_STAT_DIS p = 0 → (s.port p).unacked = [] → (s.port p).queue = [] →
      ∃ t, exec (.portDrainExpire p) s = .next t ∧ t.pf .FAB_PORT_STAT_STATE p = 0 ∧ t.pf .FAB_PORT_STAT_DIS p = 1 ∧ kept t) ∧
    ((s.port p).closing = false → exec (.portDrainExpire p) s = .next s)

/-- Fabric commands at acceptance (from R310 to R312, R552): the first failing check decides the status. Fabric commands on
their way (from R286 to R290, R294, R313, R314): each sends its packet, in order, and holds a tracker entry until its DONE;
with no path it fails as UNREACHABLE; one to this device itself waits here (the model's reading, log 69); the FLAGSET of RFLAG
goes last. -/
def Obligations.FabricCommandsAreCheckedAndSent : Prop :=
  (∀ (s : State) (c : CoreId) (n : CtxId) (k : Cmd),
      let d := k.desc
      let op := fbOp d
      let i : Instr := match op with
        | 1 => .put c n
        | 2 => .get c n
        | 3 => .exadd c n
        | 4 => .atomic c n
        | 5 => .token c n
        | 6 => .confirm c n
        | 7 => .cancel c n
        | _ => .fabricInvalidOp c n
      let fails := fun st => ∃ t, exec i s = .next t ∧ CmdFails s t c n k st
      let badOp := (op = 4 ∧ 4 ≤ fbAtop d) ∨ (fbRflag d ≠ 0 ∧ op ≠ 1 ∧ op ≠ 3)
      let badShape := (op = 5 ∧ (fbLen d = 0 ∨ fbTBytes d % 16 ≠ 0 ∨ fbTBytes d < 16 ∨ 65536 < fbTBytes d)) ∨ (5 ≤ op ∧ fbSpec d = 0)
      let noLocal := op = 6 ∨ op = 7 ∨ (op = 4 ∧ fbLaddr d = 0)
      let badLocal := ¬noLocal ∧ ((op = 4 ∧ fbLaddr d % 8 ≠ 0) ∨ (∀ x, regionOf (fbLaddr d) (fbSpan s d) = some x →
        x ≠ .scratch c ∧ x ≠ .glade (halfOfCore c) ∧ (x = .hbm → op ≠ 1 ∧ op ≠ 2 ∧ op ≠ 5) ∧ (x = .lpddr → op ≠ 1 ∧ op ≠ 2)))
      Sound s c n k → k.cls = clFabric →
      (op = 0 ∨ 8 < op ∨ (op = 8 ∧ (dfld d 0 6 4 = 0 ∨ 4 < dfld d 0 6 4)) →
        ∃ t, exec (.fabricInvalidOp c n) s = .next t ∧ CmdFails s t c n k stInvalidOp) ∧
      (1 ≤ op → op ≤ 7 →
        (fbTc d = 3 → ∃ t, exec i s = .next t ∧ CmdFails s t c n k stPrivFault ∧ t.privFaults = s.privFaults + 1) ∧
        (fbTc d ≠ 3 → badOp → fails stInvalidOp) ∧
        (fbTc d ≠ 3 → ¬badOp → badShape → fails stInvalidShape) ∧
        (fbTc d ≠ 3 → ¬badOp → ¬badShape → badLocal → fails stInvalidAddress) ∧
        (fbTc d ≠ 3 → ¬badOp → ¬badShape → ¬noLocal → ¬badLocal → touchesHidden s (fbLaddr d, fbSpan s d) = true → fails stSpecHidden) ∧
        (fbTc d ≠ 3 → ¬badOp → ¬badShape → (noLocal ∨ (¬badLocal ∧ touchesHidden s (fbLaddr d, fbSpan s d) = false)) →
          (raddrForm d = false ∨ rflagGood d = false ∨ wholeBlocks d = false → fails stInvalidAddress) ∧
          (raddrForm d = true → rflagGood d = true → wholeBlocks d = true → op = 3 → exaddValues s d = none → fails stBadExchange)))) ∧
  (∀ (s : State) (c : CoreId) (n : CtxId) (k : Cmd),
      let d := k.desc
      let ra := fbRaddr d
      let la := fbLaddr d
      let o := { opOf s c n k none with started := true }
      let tracks := fun (t : State) (a num : Nat) => aget? t.fab.ops s.fab.nextOp =
          some ⟨.core c n (s.core c).nextNum, fbOp d, fbChk d, la, ra, fbLen d, num, [], 0⟩ ∧
        aget? t.fab.tracker 0 = some ⟨s.fab.nextOp, addrDev ra, aget s.fab.oseqOut (addrDev ra) 0, a⟩ ∧ t.rf .FAB_TRK_STAT_USED 0 = num ∧
        t.rf .FAB_TRK_STAT_USED 1 = num ∧ aget t.fab.oseqOut (addrDev ra) 0 = (aget s.fab.oseqOut (addrDev ra) 0 + num) % 65536 ∧
        (t.core c).ops = [o] ∧ (t.ctx c n).ptr = (s.ctx c n).ptr + 1 ∧ SameMem s t ∧ t.flags = s.flags
      let sends := fun (i : Instr) (x : Packet) => failedDev s (addrDev x.dst) = false → (sentBy s x ≠ [] → PortsIdle s 20 →
          ∃ t, exec i s = .next t ∧ tracks t x.dst 1 ∧ t.fab.sent = s.fab.sent ++ sentBy s x) ∧
        (toSelf s x = true → ∃ t, exec i s = .next t ∧ tracks t x.dst 1 ∧ t.fab.sent = s.fab.sent ∧ t.fab.selfQ = s.fab.selfQ ++ [x]) ∧
        (toSelf s x = false → sentBy s x = [] → ∃ t, exec i s = .next t ∧ t.fab.sent = s.fab.sent ∧ t.fab.tracker = [] ∧
          (aget? t.fab.ops s.fab.nextOp).map FabOp.fails = some [(x.dst, stUnreachable)] ∧
          (aget? t.fab.ops s.fab.nextOp).map FabOp.openPkts = some 0)
      let fits := 0 < fbLen d ∧ ra % 4096 + fbLen d ≤ 4096 ∧ fbRflag d = 0
      let bytes := s.read la (fbLen d)
      (FabricReady s c n k 1 → fits → sends (.put c n)
        (sentPacket s c n d 1 (fbTc d) ra bytes (trailerOf (fbChk d) bytes))) ∧
      (FabricReady s c n k 2 → fits → sends (.get c n)
        (sentPacket s c n d 2 (fbTc d) ra (natLE 8 la ++ natLE 4 (fbLen d) ++ natLE 4 0) [])) ∧
      (FabricReady s c n k 3 → fbLen d = 1 → fbRflag d = 0 → exchIsLong (s.read la 16) = false →
        sends (.exadd c n) (sentPacket s c n d 4 (fbTc d) ra (s.read la 16) [])) ∧
      (FabricReady s c n k 4 → sends (.atomic c n)
        (sentPacket s c n d 7 (fbTc d) ra (natLE 8 (fbAtop d) ++ natLE 8 (fbOperand d)) [])) ∧
      (FabricReady s c n k 5 → fbLen d = 1 → 32 + fbTBytes d ≤ 4096 → ∃ b : List Byte,
        sends (.token c n) (sentPacket s c n d 6 (fbTc d) ra b []) ∧ b.length = 32 + fbTBytes d ∧
        b.drop 4 = s.read (la + 4) (28 + fbTBytes d) ∧ trSpec b = fbSpec d ∧ trSender b = ownDev s % 2 ^ 14 ∧ trLast b = fbLast d) ∧
      (FabricReady s c n k 6 → sends (.confirm c n) (sentPacket s c n d 8 (fbTc d) (ra + fbSpec d) [] [])) ∧
      (FabricReady s c n k 7 → sends (.cancel c n) (sentPacket s c n d 9 (fbTc d) (ra + fbSpec d) [] [])) ∧
      (FabricReady s c n k 1 → 0 < fbLen d → ra % 4096 + fbLen d ≤ 4096 → fbRflag d ≠ 0 → failedDev s (addrDev ra) = false → PortsIdle s 20 →
        ∀ q x, sentBy s (sentPacket s c n d 1 (fbTc d) ra bytes (trailerOf (fbChk d) bytes)) = [(q, x)] →
        ∃ t, exec (.put c n) s = .next t ∧ tracks t ra 2 ∧ t.fab.sent = s.fab.sent ++ [(q, x),
          (q, { sentPacket s c n d 5 2 (fbRflag d) [] [] with oseq := (x.oseq + 1) % 65536, tag := 1, hops := 1, via := x.via, viaValid := x.viaValid })]) ∧
      (FabricReady s c n k 1 → fbLen d = 0 → fbRflag d = 0 → k.reco = false → k.setf = false →
        ∃ t, exec (.put c n) s = .next t ∧ (t.core c).ops = [] ∧
          (t.ctx c n).ptr = (s.ctx c n).ptr + 1 ∧ t.fab.sent = s.fab.sent ∧ t.fab.tracker = [] ∧ SameMem s t))

/-- Request packets (from R289, R290, R295, R332, R333, R379): one in its turn is taken, an early one waits, a duplicate is
answered again, another job's or epoch's is answered with its status, one of the previous epoch is forwarded where its data
moved, and one of this device to itself is taken in the same way (the model's reading, log 69). -/
def Obligations.RequestsAreTakenInOrder : Prop :=
  ∀ (s : State) (p : PortId) (pkt : Packet),
    let ty := pkt.ptype
    let i : Instr := match ty with
      | 1 => .putPacket p pkt
      | 2 => .getPacket p pkt 0
      | 4 => .exaddPacket p pkt
      | 5 => .flagset p pkt
      | 6 => .tokenPacket p pkt
      | 7 => .atomicPacket p pkt
      | 8 => .confirmPacket p pkt
      | _ => .cancelPacket p pkt
    let run := fun (t : State) => exec i s = .next t ∧ exec (.packetResend p pkt) s = .next t
    let h := portHalf p
    let ahead := (pkt.oseq + 65536 - aget s.fab.oseqIn pkt.srcDev 0) % 65536
    let stored := s.fab.store.any (fun x => x.2.2.srcDev == pkt.srcDev && x.2.2.oseq == pkt.oseq)
    let counted := fun (t : State) (f : Fld) => t.rf f h.val = min (s.rf f h.val + 1) (2 ^ f.width - 1)
    let e := epochNow s
    let near := pkt.epoch + 1 = e ∧ s.fence < armBeat s + 1
    isRequest ty = true →
    (arrives s p pkt = false → ownNext s p pkt = false → run s) ∧
    (arrives s p pkt = true → failedDev s pkt.srcDev = true →
      ∃ t, run t ∧ counted t .HLF_HB_STAT_ZOMBIE ∧ RegsBut s t [.HLF_HB_STAT_ZOMBIE] ∧ t = { s with regs := t.regs }) ∧
    (arrives s p pkt = true → failedDev s pkt.srcDev = false →
      (32768 ≤ ahead → ∃ t, run t ∧ counted t .FAB_DROP_DUP ∧ SameMem s t ∧ t.flags = s.flags ∧ t.fab.oseqIn = s.fab.oseqIn ∧
        (∀ st old, aget? s.fab.answered (pkt.srcDev, pkt.oseq) = some (st, old) → PortsIdle s 20 → t.fab.sent = s.fab.sent ++ sentBy s (donePacket s pkt st old) ∧
          t.fab.selfQ = s.fab.selfQ ++ [donePacket s pkt st old].filter (toSelf s)) ∧
        (aget? s.fab.answered (pkt.srcDev, pkt.oseq) = none → t.fab.sent = s.fab.sent)) ∧
      (ahead < 32768 → stored = true → ∃ t, run t ∧ counted t .FAB_DROP_DUP ∧ t = { s with regs := t.regs }) ∧
      (0 < ahead → ahead < 32768 → stored = false →
        ((s.fab.store.filter (fun x => x.1 == h)).length < 512 → ∃ t, run t ∧ t.fab.store = s.fab.store ++ [(h, p, pkt)] ∧ SameMem s t ∧
          t.flags = s.flags ∧ t.fab.sent = s.fab.sent ∧ t.fab.oseqIn = s.fab.oseqIn) ∧
        (512 ≤ (s.fab.store.filter (fun x => x.1 == h)).length →
          ∃ t, run t ∧ counted t .FAB_DROP_NAKRO ∧ RegsBut s t [.FAB_DROP_NAKRO] ∧ t = { s with regs := t.regs }))) ∧
    (InTurn s p pkt ty → pkt.job ≠ jobTag s → ∃ t, run t ∧ Answered s t pkt [] 0x41 0 ∧ counted t .FAB_DROP_JOBMIS ∧ SameMem s t ∧ t.flags = s.flags) ∧
    (InTurn s p pkt ty → pkt.job = jobTag s →
      (pkt.epoch ≠ e → ¬(pkt.epoch = e + 1 ∧ s.rf .COL_ARM_STAT_ARMED ≠ 0) → ¬near →
        ∃ t, run t ∧ Answered s t pkt [] 0x50 0 ∧ counted t .COL_FWD_STAT_STALE ∧ SameMem s t ∧ t.flags = s.flags) ∧
      (pkt.epoch = e + 1 → s.rf .COL_ARM_STAT_ARMED ≠ 0 →
        ∃ t, run t ∧ t.fab.store = [(h, p, pkt)] ∧ counted t .COL_FWD_STAT_HELD ∧ SameMem s t ∧ t.fab.oseqIn = s.fab.oseqIn ∧
          t.fab.sent = s.fab.sent) ∧
      (∀ dev addr, near → fwdMap s ≠ 0 → pkt.pclass = 0 → s.fab.tracker = [] → s.fab.unsent = [] → failedDev s dev = false → dev < 2 ^ 14 →
        fwdFind s (fwdMap s) (addrLocal pkt.dst) (min 65536 (s.readN (fwdMap s + 4) 4)) 0 = some (dev, addr) →
        let x : Packet := { pkt with
          srcDev := ownDev s, srcAgent := 0x3FD + h.val, hops := 0, dst := globalAddr dev addr, epoch := e, via := 0
          viaValid := false, oseq := aget s.fab.oseqOut dev 0, tag := 0 }
        sentBy s x ≠ [] → ∃ t, run t ∧ t.fab.sent = s.fab.sent ++ sentBy s x ∧ t.fab.store = [] ∧ SameMem s t ∧ t.flags = s.flags ∧
          aget t.fab.oseqIn pkt.srcDev 0 = (pkt.oseq + 1) % 65536 ∧
          (aget? t.fab.ops s.fab.nextOp).map FabOp.owner = some (.fwd h pkt)) ∧
      (pkt.epoch = e → destFault s (addrLocal pkt.dst) = true →
        ∃ t, run t ∧ Answered s t pkt [] 0x42 0 ∧ SameMem s t ∧ t.flags = s.flags)) ∧
    (∀ rest, TakenFromSelf s p pkt rest → pkt.oseq = aget s.fab.oseqIn pkt.srcDev 0 → pkt.oseq < 65536 → aget? s.fab.verdicts (pkt.srcDev, pkt.oseq) = none →
      (pkt.job ≠ jobTag s → ∃ t, run t ∧ Answered (selfLeft s rest) t pkt [] 0x41 0 ∧ counted t .FAB_DROP_JOBMIS ∧ SameMem s t ∧ t.flags = s.flags) ∧
      (∀ c, ty = 1 → pkt.job = jobTag s → pkt.epoch = e → destFault s (addrLocal pkt.dst) = false → pkt.payload ≠ [] → pkt.chk = false →
        regionOf (addrLocal pkt.dst) pkt.payload.length = some (.scratch c) →
        touchesHidden s (addrLocal pkt.dst, pkt.payload.length) = false → rangeBusy s (addrLocal pkt.dst) pkt.payload.length = false → chunkColl s pkt = none →
        ∃ t, run t ∧ Answered (selfLeft s rest) t pkt [] 0 0 ∧ t.mem = s.mem.setBytes (addrLocal pkt.dst) pkt.payload ∧ t.flags = s.flags))

/-- What served PUT, GET, ATOMIC, EXADD and FLAGSET packets do (from R110, R120, R229, R244, R270, R288): each answers with
DONE, a GET with GETDATA before it. -/
def Obligations.RequestsTakeEffectAndAreAnswered : Prop :=
  ∀ (s : State) (p : PortId) (pkt : Packet),
    let a := addrLocal pkt.dst
    let b := pkt.payload
    let n := b.length
    let open_ := fun (m : Nat) => (∃ x, regionOf a m = some x ∧ x ≠ .priv ∧ x ≠ .regs ∧ ∀ c, x ≠ .acc c) ∧ touchesHidden s (a, m) = false ∧
      rangeBusy s a m = false
    let waits := fun t : State => t.fab.store = [(portHalf p, p, pkt)] ∧ SameMem s t ∧ t.fab.sent = s.fab.sent ∧ t.fab.oseqIn = s.fab.oseqIn
    (Served s p pkt 1 →
      (n = 0 → ∃ t, exec (.putPacket p pkt) s = .next t ∧ Answered s t pkt [] stOK 0 ∧ SameMem s t) ∧
      (0 < n → open_ n → pkt.chk = false → chunkColl s pkt = none → ∃ t, exec (.putPacket p pkt) s = .next t ∧ Answered s t pkt [] stOK 0 ∧
        t.mem = s.mem.setBytes a b ∧ t.crc = s.crc ∧ t.flags = s.flags) ∧
      (∀ x, 0 < n → open_ n → pkt.chk = false → chunkColl s pkt = some x → ∃ t, exec (.putPacket p pkt) s = .next t ∧
        Answered s t pkt [] stOK 0 ∧ SameMem s t ∧ t.crc = s.crc ∧ t.flags = s.flags ∧
        t.fab.colls = if x.recvClosed ∨ x.ended then s.fab.colls
          else s.fab.colls.map (fun y => if y.id = x.id then { x with parts := x.parts ++ [(a, b)] } else y)) ∧
      (0 < n → open_ n → pkt.chk = true → chunkColl s pkt = none → a % 2048 = 0 → n % 2048 = 0 →
        (pkt.trailer = trailerOf true b → ∃ t, exec (.putPacket p pkt) s = .next t ∧ Answered s t pkt [] stOK 0 ∧ t.mem = s.mem.setBytes a b ∧
          (inTier a n = true → ∀ k ∈ blocksOf a n, t.crcOf k = crc32c (t.read k 2048)) ∧ (inTier a n = false → t.crc = s.crc)) ∧
        (pkt.trailer ≠ trailerOf true b → ∃ t, exec (.putPacket p pkt) s = .next t ∧ Answered s t pkt [] stChecksum 0 ∧ SameMem s t ∧ t.crc = s.crc)) ∧
      (0 < n → regionOf a n = some .priv → ∃ t, exec (.putPacket p pkt) s = .next t ∧ Answered s t pkt [] stPrivFault 0 ∧
        t.privFaults = s.privFaults + 1 ∧ SameMem s t) ∧
      (∀ c, 0 < n → regionOf a n = some (.acc c) → ∃ t, exec (.putPacket p pkt) s = .next t ∧ Answered s t pkt [] stAccRaw 0 ∧ SameMem s t) ∧
      (0 < n → (regionOf a n = none ∨ regionOf a n = some .regs) →
        ∃ t, exec (.putPacket p pkt) s = .next t ∧ Answered s t pkt [] stInvalidAddress 0 ∧ SameMem s t ∧ t.flags = s.flags) ∧
      (0 < n → regionOf a n = some .hbm → rangeBusy s a n = true → ∃ t, exec (.putPacket p pkt) s = .next t ∧ waits t)) ∧
    (∀ bad, Served s p pkt 2 →
      let m := leNat ((b.drop 8).take 4)
      let data := fun bs : List Byte => ({ donePacket s pkt 0 0 with
        ptype := 3, chk := pkt.chk, dst := globalAddr pkt.srcDev (leNat (b.take 8)), payload := bs, trailer := trailerOf pkt.chk bs } : Packet)
      (0 < m → open_ m → flagOfLocal a = none → pkt.chk = false → PortsIdle s (m / 248 + 20) → ∃ t, exec (.getPacket p pkt bad) s = .next t ∧
        Answered s t pkt [data (s.read a m)] stOK 0 ∧ SameMem s t ∧ t.flags = s.flags) ∧
      (∀ f, 0 < m → m ≤ 8 → flagOfLocal a = some f → rangeBusy s a m = false → ∃ t, exec (.getPacket p pkt bad) s = .next t ∧
        Answered s t pkt [data ((natLE 8 (flagWord s f)).take m)] stOK 0 ∧ t.flags = s.flags) ∧
      (0 < m → rangeBusy s a m = false → flagOfLocal a = none → regionOf a m = some .priv → ∃ t, exec (.getPacket p pkt bad) s = .next t ∧
        Answered s t pkt [] stPrivFault 0 ∧ t.privFaults = s.privFaults + 1) ∧
      (∀ c, 0 < m → rangeBusy s a m = false → flagOfLocal a = none → regionOf a m = some (.acc c) → rawAllowed s (halfOfCore c) = false →
        ∃ t, exec (.getPacket p pkt bad) s = .next t ∧ Answered s t pkt [] stAccRaw 0 ∧ SameMem s t) ∧
      (∀ c, 0 < m → rangeBusy s a m = false → flagOfLocal a = none → regionOf a m = some (.acc c) → rawAllowed s (halfOfCore c) = true →
        (touchesShadow s (a, m) = true → ∃ t, exec (.getPacket p pkt bad) s = .next t ∧ Answered s t pkt [] stSpecHidden 0 ∧ SameMem s t) ∧
        (touchesShadow s (a, m) = false → PortsIdle s (m / 248 + 20) → ∃ t, exec (.getPacket p pkt bad) s = .next t ∧
          Answered s t pkt [data (accBytes s c a m)] stOK 0 ∧ SameMem s t)) ∧
      (0 < m → rangeBusy s a m = true → ∃ t, exec (.getPacket p pkt bad) s = .next t ∧ waits t)) ∧
    (∀ v, Served s p pkt 7 → leNat (b.take 1) < 4 → v = leNat ((b.drop 8).take 8) →
      let code := leNat (b.take 1)
      let i : Instr := match code with
        | 0 => .add32 a v
        | 1 => .add64 a v
        | 2 => .swap32 a v
        | _ => .swap64 a v
      rangeBusy s a (if code % 2 = 0 then 4 else 8) = false →
      (∀ u old, exec i s = .next u → u.reply = .value old → ∃ t, exec (.atomicPacket p pkt) s = .next t ∧ Answered s t pkt [] stOK old ∧ t.mem = u.mem) ∧
      (∀ u st, exec i s = .next u → u.reply = .status st → ∃ t, exec (.atomicPacket p pkt) s = .next t ∧ Answered s t pkt [] st 0 ∧ SameMem s t)) ∧
    (Served s p pkt 7 → 4 ≤ leNat (b.take 1) → ∃ t, exec (.atomicPacket p pkt) s = .next t ∧ Answered s t pkt [] stInvalidOp 0 ∧ SameMem s t) ∧
    (∀ c v u r, Served s p pkt 4 → n = 16 → exchIsLong b = false → exchDecode b = some v → regionOf a 32 = some (.acc c) → a % 32 = 0 →
      let i := (a - accBase c) / 32
      deposit (useTile s c (elemTile i)) c i v.l v.sc = (u, r) →
      (r = .done → ∃ t, exec (.exaddPacket p pkt) s = .next t ∧ Answered s t pkt [] stOK 0 ∧ t.mem = u.mem ∧ ∀ j, t.elem c j = u.elem c j) ∧
      (r = .corrupt → ∃ t, exec (.exaddPacket p pkt) s = .next t ∧ Answered s t pkt [] stAccCorrupt 0 ∧ ∀ j, t.elem c j = s.elem c j) ∧
      (r = .exhausted → ∃ t, exec (.exaddPacket p pkt) s = .next t ∧ waits t ∧ t.cores = s.cores)) ∧
    (Served s p pkt 4 → n = 16 → exchIsLong b = false → exchDecode b = none →
      ∃ t, exec (.exaddPacket p pkt) s = .next t ∧ Answered s t pkt [] stBadExchange 0 ∧ t.cores = s.cores ∧ SameMem s t) ∧
    (∀ f, Served s p pkt 5 → flagOfLocal a = some f → s.beat.phases = [] → flagDead s f = none → (s.flag f).set = false → (s.flag f).waiters = [] →
      ∃ t, exec (.flagset p pkt) s = .next t ∧ Answered s t pkt [] stOK 0 ∧ SameMem s t ∧
        t.flag f = { s.flag f with set := true, src := ⟨pkt.srcDev, pkt.srcAgent⟩, cause := 0 } ∧ ∀ g, g ≠ f → t.flag g = s.flag g) ∧
    (Served s p pkt 5 → flagOfLocal a = none → seqPlace a = false →
      ∃ t, exec (.flagset p pkt) s = .next t ∧ Answered s t pkt [] stInvalidAddress 0 ∧ t.flags = s.flags ∧ SameMem s t)

/-- Tokens, confirms and cancels at a half (from R206 to R208, R334 to R338): a record joins its key or is answered with its
status, the LAST record posts the key's entry from its template, and a resolution reaches the key and the core that runs it. -/
def Obligations.TokensAndResolutionsReachTheirKey : Prop :=
  ∀ (s : State) (p : PortId) (pkt : Packet) (h : HalfId) (off : Nat),
    let r := pkt.payload
    let base := sramBase + h.val * halfStride
    let key := findKey s h (trSender r) (trSpec r)
    let used := (heldKeys s h).foldl (fun n k => n + k.granules) 0
    let g := (32 + trTBytes r + 255) / 256
    let room := used + g ≤ undGranules s h
    let run := fun t : State => exec (.tokenPacket p pkt) s = .next t
    let same := fun t : State => SameMem s t ∧ t.cores = s.cores ∧ t.flags = s.flags
    let res := fun confirm : Bool => exec (if confirm then .confirmPacket p pkt else .cancelPacket p pkt) s
    (Served s p pkt 6 → addrLocal pkt.dst = base → r.length = 32 + trTBytes r → aget (s.half h).undRx pkt.srcDev [] = [] →
      (∀ k, key = some k → k.void = true → ∃ t, run t ∧ Answered s t pkt [] stUnderstoryFull 0 ∧ same t ∧ (t.half h).und = (s.half h).und) ∧
      (∀ k, key = some k → k.void = false → k.last = true → ∃ t, run t ∧ Answered s t pkt [] stTagBusy 0 ∧ same t ∧ (t.half h).und = (s.half h).und) ∧
      (∀ k, key = some k → k.void = false → k.last = false →
        (¬room → ∃ t, run t ∧ Answered s t pkt [] stUnderstoryFull 0 ∧ same t ∧ let v := { k with recs := [], granules := 0, void := true }
          (t.half h).und = (s.half h).und.map (fun x => if sameKey k x then v else x)) ∧
        (room → trLast r = false → ∃ t, run t ∧ Answered s t pkt [] stOK 0 ∧ same t ∧
          let v := { k with recs := k.recs ++ [r], granules := k.granules + g, beat := beatNow s h }
          (t.half h).und = (s.half h).und.map (fun x => if sameKey k x then v else x))) ∧
      (key = none → ¬room → ∃ t k, run t ∧ Answered s t pkt [] stUnderstoryFull 0 ∧ same t ∧ (t.half h).und = (s.half h).und ++ [k] ∧
        k.sender = trSender r ∧ k.tag = trSpec r ∧ k.void = true ∧ k.recs = []) ∧
      (key = none → room → trLast r = false → ∃ t k, run t ∧ Answered s t pkt [] stOK 0 ∧ same t ∧ (t.half h).und = (s.half h).und ++ [k] ∧
        k.sender = trSender r ∧ k.tag = trSpec r ∧ k.recs = [r] ∧ k.granules = g ∧ k.last = false ∧ k.void = false ∧ k.resolved = none ∧
        (∀ x ∈ (s.half h).und, x.handle ≠ k.handle) ∧ 0 < k.handle ∧ t.nodeQ = s.nodeQ) ∧
      (key = none → room → trLast r = true → s.rf .COL_TPL_BASE_ADDR h.val = 0 →
        ∃ t, run t ∧ Answered s t pkt [] stNoTemplate 0 ∧ same t ∧ t.nodeQ = s.nodeQ ∧ findKey t h (trSender r) (trSpec r) = none) ∧
      (∀ nd, key = none → room → trLast r = true → s.rf .COL_TPL_BASE_ADDR h.val ≠ 0 →
        let tpl := s.rf .COL_TPL_BASE_ADDR h.val + 16 * (trExpert r % 256)
        bit (s.readN (tpl + 0x0C) 4) 3 = true → resolveLocal s (s.readN (tpl + 8) 4) = .ok nd →
        ∃ t k, run t ∧ Answered s t pkt [] stOK 0 ∧ same t ∧ (t.half h).und = (s.half h).und ++ [k] ∧ k.recs = [r] ∧ k.last = true ∧
          let q := (nd, Fin.ofNat 8 (s.readN (tpl + 0x0C) 4 % 8))
          ∃ e, aget t.nodeQ q [] = aget s.nodeQ q [] ++ [e] ∧ weSpec e = k.handle % 65536 ∧ dfld e 0x08 15 0 = trMb r ∧ dfld e 0x04 31 0 = 1 ∧
            e.drop 0x0E = (s.read (s.readN tpl 8) 128).drop 0x0E)) ∧
    (∀ confirm : Bool, Served s p pkt (if confirm then 8 else 9) → addrLocal pkt.dst = base + off → 0 < off → off < 65536 →
      let k? := findKey s h pkt.srcDev off
      (k? = none → ∃ t, res confirm = .next t ∧ Answered s t pkt [] stOK 0 ∧ same t ∧ (t.half h).und = (s.half h).und ∧
        (resolvedAlready s h pkt.srcDev off = true → t.rf .COL_UND_EVT_DOUBLE h.val = min (s.rf .COL_UND_EVT_DOUBLE h.val + 1) (2 ^ Fld.width .COL_UND_EVT_DOUBLE - 1)) ∧
        (resolvedAlready s h pkt.srcDev off = false → t.rf .COL_UND_EVT_UNKNOWN h.val = min (s.rf .COL_UND_EVT_UNKNOWN h.val + 1) (2 ^ Fld.width .COL_UND_EVT_UNKNOWN - 1))) ∧
      (∀ k, k? = some k → (k.void = true ∨ k.last = false) → ∃ t, res confirm = .next t ∧ Answered s t pkt [] stOK 0 ∧ same t ∧
        (t.half h).und = (s.half h).und.filter (fun x => !sameKey k x) ∧
        t.rf .COL_UND_EVT_UNKNOWN h.val = min (s.rf .COL_UND_EVT_UNKNOWN h.val + 1) (2 ^ Fld.width .COL_UND_EVT_UNKNOWN - 1)) ∧
      (∀ k, k? = some k → k.void = false → k.last = true → k.dead = false → k.started = false → specCores s h k.sender k.tag = [] →
        ∃ t, res confirm = .next t ∧ Answered s t pkt [] stOK 0 ∧ same t ∧ (t.half h).und = (s.half h).und.map (fun x => if sameKey k x then
          { k with resolved := some confirm, recs := if confirm then k.recs else [], granules := if confirm then k.granules else 0 } else x)) ∧
      (∀ k c z, k? = some k → k.void = false → k.last = true → k.dead = false → k.started = true → specCores s h k.sender k.tag = [c] →
        (s.core c).spec = some z →
        (confirm = true → ∃ t, res confirm = .next t ∧ Answered s t pkt [] stOK 0 ∧ (t.core c).spec = some { z with resolved := some true } ∧ SameMem s t ∧
          (t.half h).und = (s.half h).und.filter (fun x => !sameKey k x)) ∧
        (confirm = false → (s.core c).ops = [] → aget? s.entries z.entry = none → ∃ t, res confirm = .next t ∧ Answered s t pkt [] stOK 0 ∧
          (t.core c).spec = none ∧ (t.core c).shadow = [] ∧ (∀ j, j / 16384 = z.shadow → t.elem c j = AccElem.zero) ∧
          (z.shadow ≠ z.target → ∀ j, j / 16384 = z.target → t.elem c j = s.elem c j))))

/-- Responses and transit (from R287, R290, R294, R295, R311, R315): a DONE answers its packet, data is written at its return
address, an operation ends when every packet is answered, with the status of its lowest failed address, packets for others are
passed on, and a DONE of this device to itself answers its packet (the model's reading, log 69). -/
def Obligations.ResponsesCompleteOperations : Prop :=
  ∀ (s : State) (p : PortId) (pkt : Packet),
    let h := (portHalf p).val
    let dropped := fun (t : State) (f : Fld) => t.rf f h = min (s.rf f h + 1) (2 ^ f.width - 1) ∧ RegsBut s t [f] ∧ t = { s with regs := t.regs }
    let mine := arrives s p pkt = true ∧ failedDev s pkt.srcDev = false ∧ pkt.job = jobTag s
    let st := leNat (pkt.payload.take 1)
    let echo := leNat ((pkt.payload.drop 1).take 2)
    let old := leNat ((pkt.payload.drop 8).take 8)
    let a := addrLocal pkt.dst
    (∀ (e : FabEntry) (x : FabOp) (c : CoreId) (n : CtxId) (num : Nat), pkt.ptype = 0x0A → mine → s.fab.unsent = [] →
      aget? s.fab.tracker pkt.tag = some e → e.oseq = echo → aget? s.fab.ops e.op = some x → x.owner = .core c n num →
      (x.code = 4 → st = 0 → x.laddr ≠ 0 → memWaits s (halfOfCore c) x.laddr 8 = false) →
      ∃ t, exec (.done p pkt) s = .next t ∧ aget? t.fab.tracker pkt.tag = none ∧ t.flags = s.flags ∧ t.cores = s.cores ∧
        (∀ g, g ≠ pkt.tag → aget? t.fab.tracker g = aget? s.fab.tracker g) ∧ t.fab.sent = s.fab.sent ∧
        aget? t.fab.ops e.op = some { x with openPkts := x.openPkts - 1, old := old, fails := if st = 0 then x.fails else x.fails ++ [(e.addr, st)] } ∧
        t.mem = (if x.code = 4 ∧ st = 0 ∧ x.laddr ≠ 0 then s.mem.setBytes x.laddr (natLE 8 old) else s.mem)) ∧
    (pkt.ptype = 0x0A → mine → (∀ e, aget? s.fab.tracker pkt.tag = some e → e.oseq ≠ echo) →
      ∃ t, exec (.done p pkt) s = .next t ∧ dropped t .FAB_DROP_BADTYPE) ∧
    (arrives s p pkt = true → failedDev s pkt.srcDev = false → pkt.job ≠ jobTag s →
      (pkt.ptype = 0x0A → ∃ t, exec (.done p pkt) s = .next t ∧ dropped t .FAB_DROP_JOBMIS) ∧
      (pkt.ptype = 3 → ∃ t, exec (.getdata p pkt) s = .next t ∧ dropped t .FAB_DROP_JOBMIS)) ∧
    (∀ (e : FabEntry) (x : FabOp) (c : CoreId) (n : CtxId) (num : Nat), pkt.ptype = 3 → mine → aget? s.fab.tracker pkt.tag = some e →
      e.dev = pkt.srcDev → aget? s.fab.ops e.op = some x → x.owner = .core c n num → x.code = 2 →
      ((pkt.chk = false ∨ pkt.trailer = trailerOf true pkt.payload) → memWaits s (halfOfCore c) a pkt.payload.length = false →
        ∃ t, exec (.getdata p pkt) s = .next t ∧
        t.mem = s.mem.setBytes a pkt.payload ∧ t.fab = s.fab ∧ t.flags = s.flags ∧ (pkt.chk = false → t.crc = s.crc)) ∧
      (pkt.chk = true → pkt.trailer ≠ trailerOf true pkt.payload → ∃ t, exec (.getdata p pkt) s = .next t ∧ SameMem s t ∧
        aget? t.fab.ops e.op = some { x with fails := x.fails ++ [(e.addr, stChecksum)] })) ∧
    (∀ (g : Fin 1024) (e : FabEntry) (x : FabOp) (c : CoreId) (n : CtxId) (num : Nat), s.fab.unsent = [] → aget? s.fab.tracker g.val = some e →
      aget? s.fab.ops e.op = some x → x.owner = .core c n num → x.code ≠ 4 → (epochNow s = 0 ∨ deviceGone s e.dev = true) →
      ∃ t, exec (.fabTimeout g) s = .next t ∧ aget? t.fab.tracker g.val = none ∧ SameMem s t ∧
        (aget? t.fab.ops e.op).map FabOp.fails = some (x.fails ++ [(e.addr, 0x43)]) ∧
        (aget? t.fab.ops e.op).map FabOp.openPkts = some (x.openPkts - 1)) ∧
    (∀ (rest : List Packet) (e : FabEntry) (x : FabOp) (c : CoreId) (n : CtxId) (num : Nat), TakenFromSelf s p pkt rest →
      pkt.ptype = 0x0A → pkt.job = jobTag s → s.fab.unsent = [] → aget? s.fab.tracker pkt.tag = some e → e.oseq = echo →
      aget? s.fab.ops e.op = some x → x.owner = .core c n num → x.code ≠ 4 →
      ∃ t, exec (.done p pkt) s = .next t ∧ aget? t.fab.tracker pkt.tag = none ∧ t.fab.selfQ = rest ∧ SameMem s t ∧ t.flags = s.flags ∧
        aget? t.fab.ops e.op = some { x with openPkts := x.openPkts - 1, old := old, fails := if st = 0 then x.fails else x.fails ++ [(e.addr, st)] }) ∧
    (∀ g : Fin 1024, aget? s.fab.tracker g.val = none → exec (.fabTimeout g) s = .next s) ∧
    (∀ (i : Nat) (x : FabOp) (c : CoreId) (n : CtxId) (o : Op), aget? s.fab.ops i = some x → x.openPkts = 0 → x.owner = .core c n o.num →
      s.fab.store = [] → (s.core c).ops = [o] → o.cls = clFabric → o.reco = false → o.setf = false → slotWard s x = none →
      (x.fails = [] → ∃ t, exec (.fabricComplete i) s = .next t ∧ (t.core c).ops = [] ∧ aget? t.fab.ops i = none ∧ SameMem s t ∧
        t.flags = s.flags ∧ ∀ m, t.ctx c m = s.ctx c m) ∧
      (∀ a1 s1 a2 s2, x.fails = [(a1, s1), (a2, s2)] → (s.ctx c o.ctx).fail = none → s1 ≠ 0 → s2 ≠ 0 →
        ∃ t, exec (.fabricComplete i) s = .next t ∧ (t.core c).ops = [] ∧ aget? t.fab.ops i = none ∧
          (t.ctx c o.ctx).fail = some (o.idx, if a2 < a1 then s2 else s1))) ∧
    (∀ (i : Nat) (x : FabOp) (c : CoreId) (n : CtxId) (num : Nat), aget? s.fab.ops i = some x → x.openPkts = 0 → x.owner = .core c n num →
      s.fab.store = [] → (∀ o ∈ (s.core c).ops, o.num ≠ num) → slotWard s x = none → ∃ t, exec (.fabricComplete i) s = .next t ∧
        (t.core c).doneDrops = (s.core c).doneDrops + 1 ∧ (t.core c).ops = (s.core c).ops ∧ aget? t.fab.ops i = none ∧ SameMem s t ∧
        t.flags = s.flags ∧ t.entries = s.entries) ∧
    (∀ i, (∀ x, aget? s.fab.ops i = some x → x.openPkts ≠ 0) → exec (.fabricComplete i) s = .next s) ∧
    (s.pf .FAB_PORT_STAT_STATE p = 5 → (knownType pkt.ptype = false ∨ 1 < pkt.pclass) →
      ∃ t, exec (.packetBadtype p pkt) s = .next t ∧ dropped t .FAB_DROP_BADTYPE) ∧
    (s.pf .FAB_PORT_STAT_STATE p = 5 → addrDev pkt.dst ≠ ownDev s → knownType pkt.ptype = true → pkt.pclass = 0 →
      ((s.port p).discover = true → pkt.ptype < 0x10 → exec (.transit p pkt) s = .next s)) ∧
    (s.pf .FAB_PORT_STAT_STATE p = 5 → addrDev pkt.dst ≠ ownDev s → knownType pkt.ptype = true → pkt.pclass = 0 →
      ((s.port p).discover = false ∨ 0x10 ≤ pkt.ptype) → pkt.payload.length ≤ 4096 → PortsIdle s 20 →
      (pkt.ptype ≠ 0x10 → sentBy s pkt ≠ [] → ∃ t, exec (.transit p pkt) s = .next t ∧ t.fab.sent = s.fab.sent ++ sentBy s pkt ∧ SameMem s t ∧
        t.flags = s.flags ∧ t.cores = s.cores) ∧
      (pkt.ptype = 0x10 → pkt.payload.length = 32 → sentBy s pkt ≠ [] → ∃ t r, exec (.transit p pkt) s = .next t ∧
        let b := pkt.payload.take 0x14 ++ natLE 4 ((leNat ((pkt.payload.drop 0x14).take 4) + r) % 2 ^ 32) ++ pkt.payload.drop 0x18
        t.fab.sent = s.fab.sent ++ (sentBy s pkt).map (fun y => (y.1, { y.2 with payload := b })) ∧ SameMem s t ∧ t.flags = s.flags ∧
        t.cores = s.cores) ∧
      (sentBy s pkt = [] → isRequest pkt.ptype = true → ∃ t, exec (.transit p pkt) s = .next t ∧
        t.fab.sent = s.fab.sent ++ sentBy s.used (donePacket s pkt 0x40 0) ∧ SameMem s t) ∧
      (sentBy s pkt = [] → isRequest pkt.ptype = false → ∃ t, exec (.transit p pkt) s = .next t ∧ t.fab.sent = s.fab.sent ∧
        t.rf .FAB_DROP_BADTYPE h = min (s.rf .FAB_DROP_BADTYPE h + 1) (2 ^ Fld.width .FAB_DROP_BADTYPE - 1))) ∧
    (8 ≤ pkt.hops → sentBy s pkt = [])

/-- Collectives at acceptance (from R317 to R321, R327, R330): the first failing check decides the status; a sound one enters
its sequencer under the epoch in force, and a contributor sends each owner its exact contribution with the header of R321, then
the RFLAG. -/
def Obligations.CollectivesAreCheckedAndStart : Prop :=
  ∀ (s : State) (c : CoreId) (n : CtxId) (k : Cmd),
    let d := k.desc
    let i : Instr := match kdKind d with
      | 1 => .reduceScatter c n
      | 2 => .allGather c n
      | 3 => .allReduce c n
      | _ => .permute c n
    let fails := fun st => ∃ t, exec i s = .next t ∧ CmdFails s t c n k st
    let badShape := kdNContrib d = 0 ∨ 16384 < kdNContrib d ∨ kdNOwn d = 0 ∨ 16384 < kdNOwn d ∨ kdCount d = 0
    let stage := 64 ≤ kdStageLen d ∧ (regionOf (kdStage d) (kdStageLen d) = some .hbm ∨
      regionOf (kdStage d) (kdStageLen d) = some (.glade (halfOfCore c)))
    let armed := s.rf .COL_ARM_STAT_ARMED ≠ 0
    let enters := fun (t : State) (cs os : List Nat) => ∃ x, t.fab.colls = [x] ∧ x.id = s.fab.nextOp ∧ x.core = c ∧ x.ctx = n ∧ x.desc = d ∧
      x.epoch = epochNow s ∧ x.running = true ∧ x.contribs = cs ∧ x.owners = os ∧ x.incl = [] ∧ x.closed = [] ∧ x.got = [] ∧
      x.parts = [] ∧ t.rf .COL_SEQ_STAT_ACTIVE (halfOfCore c).val = 1 ∧ (t.core c).ops = [{ opOf s c n k none with started := true }] ∧ SameMem s t ∧ t.flags = s.flags
    let ready := (s.core c).ops = [] ∧ d.length = 64 ∧ s.fab.colls = [] ∧ s.fab.collEarly = [] ∧ collCheck s c k = none
    Sound s c n k → k.cls = clFabric → fbOp d = 8 → 1 ≤ kdKind d → kdKind d ≤ 4 →
    (kdFormats d = false → fails stInvalidFormat) ∧
    (kdFormats d = true → badShape → fails stInvalidShape) ∧
    (kdFormats d = true → ¬badShape → ¬stage → fails stInvalidAddress) ∧
    (kdFormats d = true → ¬badShape → stage → touchesHidden s (kdStage d, kdStageLen d) = true → fails stSpecHidden) ∧
    (kdFormats d = true → ¬badShape → stage → touchesHidden s (kdStage d, kdStageLen d) = false → kdKind d = 4 → ¬armed →
      fails stCollMismatch) ∧
    (kdFormats d = true → ¬badShape → stage → touchesHidden s (kdStage d, kdStageLen d) = false → (kdKind d = 4 → armed) →
      (kdContribs s d = none ∨ kdOwners s d = none ∨
        ∃ cs os, kdContribs s d = some cs ∧ kdOwners s d = some os ∧ ownDev s ∉ cs ∧ ownDev s ∉ os) → fails stCollMismatch) ∧
    (ready → kdKind d = 4 → ∀ new b, s.beat.armed = some (new, b) → (∀ q ∈ permParts s d new (kdNOwn d) 0, q.oldDev ≠ ownDev s) →
      ∃ t, exec (.permute c n) s = .next t ∧ enters t [] [] ∧ t.fab.sent = s.fab.sent ∧
        t.fab.colls.map Coll.perm = [permParts s d new (kdNOwn d) 0]) ∧
    (∀ cs os, ready → kdContribs s d = some cs → kdOwners s d = some os →
      (kdKind d = 1 → ownDev s ∉ cs → ∃ t, exec (.reduceScatter c n) s = .next t ∧ enters t cs os ∧ t.fab.sent = s.fab.sent) ∧
      (kdKind d = 2 → ownDev s ∉ os → ∃ t, exec (.allGather c n) s = .next t ∧ enters t cs os ∧ t.fab.sent = s.fab.sent) ∧
      (kdKind d = 3 → ownDev s ∉ cs → ∃ t, exec (.allReduce c n) s = .next t ∧ enters t cs os ∧ t.fab.sent = s.fab.sent)) ∧
    (∀ dev vals, ready → kdKind d = 1 → kdRoundx d = false → kdContribs s d = some [dev, ownDev s] → kdOwners s d = some [dev] → dev ≠ ownDev s →
      dev < 2 ^ 14 → failedDev s dev = false → s.fab.tracker = [] → s.fab.unsent = [] → kdValues s d = some vals →
      let read := verifyRead s (kdSrc d) (srcSpan s d)
      let enc := vals.map exchEncode
      let arr := enc.flatMap (fun b => b.take 16) ++ enc.flatMap (fun b => b.drop 16)
      let dsig := crc32c (d.take 0x18 ++ (d.drop 0x38).take 4)
      let z := (kdStageLen d - 64) / kdNContrib d / 16 * 16
      let body := natLE 4 (kdCollId d) ++ natLE 4 (epochNow s) ++ natLE 4 (ownDev s) ++ natLE 4 dsig ++ natLE 8 (digest 1 arr) ++
        natLE 4 ((vals.filter exchEscapes).length) ++ natLE 4 0 ++ arr
      let dst := globalAddr dev (kdStage d + 64 + z)
      let x : Packet := { donePacket s (mkPacket s 0 1 0 0 false false [] []) 0 0 with
        ptype := 1, srcAgent := 0x3FD + (halfOfCore c).val, dst := dst, oseq := aget s.fab.oseqOut dev 0, payload := body }
      (read.2 = true → ∃ t y, exec (.reduceScatter c n) s = .next t ∧ t.fab.colls = [y] ∧ y.cfails = [(0, stChecksum)] ∧
        t.fab.sent = s.fab.sent) ∧
      (read.2 = false → z < body.length → ∃ t y, exec (.reduceScatter c n) s = .next t ∧ t.fab.colls = [y] ∧ y.cfails = [(0, stStageShort)] ∧ t.fab.sent = s.fab.sent) ∧
      (read.2 = false → body.length ≤ z → dst % 4096 + body.length ≤ 4096 → PortsIdle s 20 → ∀ q y, sentBy s x = [(q, y)] →
        ∃ t, exec (.reduceScatter c n) s = .next t ∧ enters t [dev, ownDev s] [dev] ∧ t.fab.sent = s.fab.sent ++ [(q, y),
          (q, { y with ptype := 5, payload := [], oseq := (y.oseq + 1) % 65536, tag := 1, hops := 1 })]))

/-- An owner and the end of a collective (from R322, R323, R326, R328): a contribution is included whole or refused with its
status, the last one closes the chunk, whose exact sums are converted once, and the record is written at STAGE. -/
def Obligations.OwnersCloseAndCollectivesComplete : Prop :=
  ∀ (s : State) (p : PortId) (pkt : Packet) (x : Coll) (o : Op), s.fab.colls = [x] → x.running = true → s.fab.collEarly = [] →
    let d := x.desc
    let a := addrLocal pkt.dst
    let ans := fun (t : State) (st : Nat) => exec (.flagset p pkt) s = .next t ∧ Answered s t pkt [] st 0 ∧ t.flags = s.flags
    let h := (halfOfCore x.core).val
    (∀ j r, Served s p pkt 5 → flagOfLocal a = none → seqPlace a = true → seqFlagOf s x pkt.srcDev a = some (.contrib j r) →
      (x.ended = true → s.readN a 4 = kdCollId d) →
      let b := slotBase x j r
      let n := (j + 1) * kdCount d / kdNOwn d - j * kdCount d / kdNOwn d
      let nesc := s.readN (b + 0x18) 4
      let len := if kdRoundx d then n * elemBytes (kdOfmt d) else 16 * n + 80 * nesc
      let same := s.readN b 4 = kdCollId d ∧ s.readN (b + 4) 4 = x.epoch ∧ s.readN (b + 0x0C) 4 = crc32c (d.take 0x18 ++ (d.drop 0x38).take 4)
      let digestOk := 32 + len ≤ kdSlot d ∧ digest 1 (s.read (b + 32) len) = s.readN (b + 0x10) 8
      let y := { x with seen := x.seen ++ [(j, r)] }
      (j ∈ x.closed → ∃ t, ans t stCollLate ∧ t.fab.colls = [{ y with nlate := x.nlate + 1 }] ∧ SameMem s t ∧
        t.rf .COL_SEQ_STAT_LATE h = min (s.rf .COL_SEQ_STAT_LATE h + 1) (2 ^ Fld.width .COL_SEQ_STAT_LATE - 1)) ∧
      (j ∉ x.closed → ¬same → ∃ t, ans t stCollMismatch ∧ t.fab.colls = [{ y with nmismatch := x.nmismatch + 1 }] ∧ SameMem s t) ∧
      (j ∉ x.closed → same → ¬digestOk → ∃ t, ans t stDigestMismatch ∧ t.fab.colls = [{ y with ndigest := x.ndigest + 1 }] ∧ SameMem s t) ∧
      (j ∉ x.closed → same → digestOk → (j, r) ∉ x.incl →
        let z := { y with incl := x.incl ++ [(j, r)] }
        (((included z j).length < expected s z j) → ∃ t, ans t stOK ∧ t.fab.colls = [z] ∧ SameMem s t) ∧
        (expected s z j ≤ (included z j).length → chunkValid s z j = false →
          ∃ t, ans t stOK ∧ t.fab.colls = [{ z with closed := x.closed ++ [j], ofails := x.ofails ++ [stBadExchange] }] ∧ SameMem s t) ∧
        (let at_ := kdDst d + (if kdOfmt d = 6 then 96 else kdBytes (kdOfmt d)) * ownedBefore d (placesOf (ownDev s) x.owners) j
          let bs := outValues s z (j * kdCount d / kdNOwn d) (chunkSums s z j)
          expected s z j ≤ (included z j).length → chunkValid s z j = true → kdKind d = 1 → x.moved = [] →
          memWaits s (halfOfCore x.core) at_ bs.length = false →
          ∃ t, ans t stOK ∧ t.fab.colls = [{ z with closed := x.closed ++ [j] }] ∧ t.mem = s.mem.setBytes at_ bs))) ∧
    (∀ j, Served s p pkt 5 → flagOfLocal a = none → seqPlace a = true → seqFlagOf s x pkt.srcDev a = some (.chunk j) →
      let came := x.parts.filter (fun q => inChunk x j q.1 q.2.length)
      let y := { x with parts := x.parts.filter (fun q => !inChunk x j q.1 q.2.length) }
      ((x.recvClosed = true ∨ x.ended = true) → ∃ t, ans t stCollLate ∧ t.fab.colls = [y] ∧ SameMem s t) ∧
      (x.recvClosed = false → x.ended = false → (∀ q ∈ came, memWaits s (halfOfCore x.core) q.1 q.2.length = false) → ∃ t, ans t stOK ∧
        t.mem = came.foldl (fun m q => m.setBytes q.1 q.2) s.mem ∧
        t.fab.colls = [{ y with got := x.got ++ [j], recvClosed := decide (kdNOwn d ≤ x.got.length + 1) }])) ∧
    (collReady s x = true → findOp (s.core x.core) x.num = some o → (s.core x.core).ops = [o] → o.cls = clFabric → o.reco = false → o.setf = false →
      (s.ctx x.core o.ctx).fail = none → x.cfails = [] → ownDev s ∉ x.owners →
      memWaits s (halfOfCore x.core) (kdStage d) 64 = false →
      let st := x.ofails.headD stOK
      ∃ t, exec (.collComplete x.id) s = .next t ∧ t.mem = s.mem.setBytes (kdStage d) (natLE 4 (kdCollId d) ++ natLE 4 x.epoch ++
          natLE 4 x.got.length ++ natLE 4 x.nlate ++ natLE 4 x.ndigest ++ natLE 4 x.nmismatch ++ natLE 4 st ++
          natLE 4 (beatNow s (halfOfCore x.core)) ++ natLE 32 0) ∧
        t.fab.colls = [{ x with ended := true }] ∧ (t.core x.core).ops = [] ∧ t.rf .COL_SEQ_STAT_ACTIVE h = 0 ∧ ((s.ctx x.core o.ctx).st ≠ .waiting → t.flags = s.flags) ∧
        (st = stOK → (t.ctx x.core o.ctx).fail = none) ∧ (st ≠ stOK → (t.ctx x.core o.ctx).fail = some (o.idx, st))) ∧
    (collReady s x = false → exec (.collComplete x.id) s = .next s) ∧
    (∀ i, i ≠ x.id → exec (.collComplete i) s = .next s)

/-- BEAT_BOUNDARY (from R346, R348, R356, R357): the beat number rises by one in both halves, phases that are due open, and a
step that is due starts with the schedule in force. The counters' records and heartbeats that go out at the boundary are not
said here. PHASE_DEADLINE and LATE (from R357, R358, R360, R361, R363): a device that is not done sets LFLAG and reports
itself, a phase under record or drop closes with its record, and LATE is counted at the hall principal or passed on. -/
def Obligations.PhasesOpenAndFindLateDevices : Prop :=
  (∀ s : State,
      let b := (s.rf .BEAT_NOW_BEAT + 1) % 2 ^ 64
      let opens := fun p : PhaseRun => !p.opened && decide (p.openBeat ≤ b)
      (s.rf .BEAT_CFG_EN = 0 → exec .beatBoundary s = .next s) ∧
      (s.rf .BEAT_CFG_EN ≠ 0 → s.rf .PMC_RING_BASE_ADDR 0 = 0 → s.rf .PMC_RING_BASE_ADDR 1 = 0 → s.dx.job ≠ 3 →
        (∀ p ∈ s.beat.phases, p.deciding = false ∧ ¬(p.policy = 1 ∧ p.opened = true ∧ p.closed = false ∧ p.deadline = b)) →
        (s.beat.phases.map PhaseRun.phase).Nodup → s.beat.preDone = [] →
        ∃ t, exec .beatBoundary s = .next t ∧ BothHold t .BEAT_NOW_BEAT b ∧ BothHold t .BEAT_SUB_NS 0 ∧ t.fence = s.fence ∧ SameMem s t ∧
          t.flags = s.flags ∧ t.cores = s.cores ∧ t.beat.phases = s.beat.phases.map (fun p => if opens p then { p with opened := true } else p)) ∧
      (∀ p, s.rf .BEAT_CFG_EN ≠ 0 → s.rf .PMC_RING_BASE_ADDR 0 = 0 → s.rf .PMC_RING_BASE_ADDR 1 = 0 → s.beat.phases = [p] →
        p.policy = 1 → p.opened = true → p.closed = false → p.deadline = b →
        ∃ t, exec .beatBoundary s = .next t ∧ BothHold t .BEAT_NOW_BEAT b ∧ t.beat.phases = [{ p with deciding := true }] ∧ t.flags = s.flags) ∧
      (s.rf .BEAT_CFG_EN ≠ 0 → s.rf .PMC_RING_BASE_ADDR 0 = 0 → s.rf .PMC_RING_BASE_ADDR 1 = 0 → s.dx.job = 3 → s.beat.phases = [] →
        s.beat.started = true → s.beat.nextStep ≤ b → s.beat.nextStep < 2 ^ 64 → s.clk.slowDue = false → s.beat.preDone = [] →
        let a := s.rf .BEAT_SCHED_ADDR
        let e := fun i => s.read (a + 32 + 32 * i) 32
        ∃ t, exec .beatBoundary s = .next t ∧ BothHold t .BEAT_STEP_STEP ((s.rf .BEAT_STEP_STEP + 1) % 2 ^ 32) ∧
          BothHold t .BEAT_STEP_START s.beat.nextStep ∧ BothHold t .BEAT_STEP_EXT 0 ∧ SameMem s t ∧
          (a = 0 → t.beat.phases = []) ∧
          (a ≠ 0 → t.beat.nextStep = s.beat.nextStep + s.readN (a + 6) 2 ∧ t.beat.phases.length = s.readN a 4 / 2 ^ 16 % 128 ∧
            ∀ i, i < t.beat.phases.length → (t.beat.phases.map PhaseRun.phase).Nodup →
              ((t.beat.phases[i]?).map PhaseRun.phase = some (dfld (e i) 0 5 0) ∧ (t.beat.phases[i]?).map PhaseRun.policy = some (dfld (e i) 0 7 6) ∧
               (t.beat.phases[i]?).map PhaseRun.openBeat = some (s.beat.nextStep + dfld (e i) 4 15 0) ∧
               (t.beat.phases[i]?).map PhaseRun.deadline = some (s.beat.nextStep + dfld (e i) 4 15 0 + dfld (e i) 4 31 16) ∧
               (t.beat.phases[i]?).map PhaseRun.opened = some (decide (s.beat.nextStep + dfld (e i) 4 15 0 ≤ b)))))) ∧
  (∀ (s : State) (ph : Fin 64) (p : PhaseRun), s.beat.phases = [p] → p.phase = ph.val →
      let now := s.rf .BEAT_NOW_BEAT
      let due := p.opened = true ∧ p.closed = false ∧ p.deadline ≤ now ∧ p.passed ≠ some p.deadline
      let late := match p.done with | none => true | some ns => decide ((p.deadline - p.openBeat) * (1000 * max 4 (s.rf .BEAT_CFG_PERIOD)) ≤ ns)
      let quiet := s.dx.job ≠ 3 ∧ s.rf .BEAT_LOG_BASE_ADDR = 0 ∧ p.deciding = false
      let streak := fun (t : State) (n : Nat) => p.ext = 0 → aget t.beat.streak p.phase 0 = n
      (¬due → exec (.phaseDeadline ph) s = .next s) ∧
      (due → quiet → (p.part = false ∨ late = false) →
        ∃ t q, exec (.phaseDeadline ph) s = .next t ∧ t.beat.phases = [q] ∧ q.passed = some p.deadline ∧ q.late = p.late ∧ q.done = p.done ∧
          q.closed = (p.policy != 1) ∧ q.deadline = p.deadline ∧ t.flags = s.flags ∧ t.fab = s.fab ∧ SameMem s t ∧ (p.part = true → streak t 0)) ∧
      (due → quiet → p.part = true → late = true → p.dflag ≠ p.lflag → flagDead s p.lflag = none → (s.flag p.lflag).set = false →
        (s.flag p.lflag).waiters = [] →
        ∃ t q, exec (.phaseDeadline ph) s = .next t ∧ t.beat.phases = [q] ∧ q.passed = some p.deadline ∧ q.late = (p.late || p.ext == 0) ∧
          q.closed = (p.policy != 1) ∧ (t.flag p.lflag).set = true ∧ (∀ g, g ≠ p.lflag → t.flag g = s.flag g) ∧ SameMem s t ∧
          streak t (aget s.beat.streak p.phase 0 + 1) ∧
          (s.rf .BEAT_CFG_LATEMAX ≠ 0 → s.rf .BEAT_CFG_LATEMAX ≤ aget s.beat.streak p.phase 0 + 1 → p.ext = 0 → irqStopped s (leadHalf s) = false →
            bit (t.rf .IRQ_PEND_PEND (leadHalf s).val 1) 32 = true) ∧
          (p.policy = 0 → t.fab = s.fab) ∧
          (p.policy ≠ 0 → isHall s = false → isGroupPrin s = false → PortsIdle s 1 → t.fab.sent = s.fab.sent ++
            controlsTo s 0x10 (BMark.bytes ⟨2, p.phase, 1, false, 0, p.deadline, 0, 0⟩) [groupPrincipal s (ownDev s / 64)]) ∧
          (p.policy ≠ 0 → isHall s = true → aget t.beat.lateRep p.phase 0 = aget s.beat.lateRep p.phase 0 + 1)) ∧
      (∀ (q : PortId) (pkt : Packet), ControlArrives s q pkt 0x10 → dfld pkt.payload 0 2 0 = 2 →
        let m := bmarkOf pkt.payload
        (isHall s = true → groupPrincipal s (pkt.srcDev / 64) = pkt.srcDev → exec (.late q pkt) s = .next { s with
          beat := { s.beat with lateRep := aset s.beat.lateRep m.phase (aget s.beat.lateRep m.phase 0 + m.count) } }) ∧
        (isHall s = false → isGroupPrin s = true → PortsIdle s 1 → ∃ t, exec (.late q pkt) s = .next t ∧ t.beat = s.beat ∧ SameMem s t ∧ t.fab.sent = s.fab.sent ++
          controlsTo s 0x10 (BMark.bytes ⟨2, m.phase, m.count, false, 0, m.beat, 0, 0⟩) [actingHall s none]) ∧
        (isHall s = false → isGroupPrin s = false → exec (.late q pkt) s = .next s)) ∧
      (∀ (q : PortId) (pkt : Packet), (arrives s q pkt = false ∨ pkt.ptype ≠ 0x10 ∨ dfld pkt.payload 0 2 0 ≠ 2) → failedDev s pkt.srcDev = false →
        exec (.late q pkt) s = .next s))

/-- DECIDE and SHIFT (from R359, R360, R381): the hall principal extends while a device is late and extensions are left, an
extension moves this phase's deadline, what has not opened and the next step by one beat, a close or a missing decision closes
the phase, and a shift moves what is open and what is to come by its beats. -/
def Obligations.DecisionsMoveOrCloseThePhase : Prop :=
  ∀ (s : State) (ph : Fin 64) (p q : PhaseRun), s.beat.phases = [p, q] → p.phase = ph.val → q.phase ≠ p.phase → q.phase < 64 →
    let now := s.rf .BEAT_NOW_BEAT
    let quiet := s.dx.job ≠ 3 ∧ s.rf .BEAT_LOG_BASE_ADDR = 0 ∧ s.fab.colls = [] ∧ s.beat.preDone = [] ∧ q.deciding = false
    let ready := p.deciding = true ∧ p.opened = true ∧ p.closed = false
    let extended := fun t : State => ∃ r, t.beat.phases = [{ p with deadline := p.deadline + 1, ext := p.ext + 1, deciding := false, inExt := true }, r] ∧
      t.beat.nextStep = s.beat.nextStep + 1 ∧ BothHold t .BEAT_STEP_EXT (min 255 (s.rf .BEAT_STEP_EXT + 1)) ∧
      aget t.beat.lateRep ph.val 0 = 0 ∧ t.flags = s.flags ∧ SameMem s t ∧
      (q.opened = true → r = q) ∧ (q.opened = false → r.openBeat = q.openBeat + 1 ∧ r.deadline = q.deadline + 1 ∧ r.opened = decide (q.openBeat + 1 ≤ now))
    let closed := fun t : State => ∃ x r, t.beat.phases = [x, r] ∧ x.closed = true ∧ x.deciding = false ∧ x.deadline = p.deadline ∧ x.ext = p.ext ∧
      r.openBeat = q.openBeat ∧ r.deadline = q.deadline ∧ r.opened = (q.opened || decide (q.openBeat ≤ now)) ∧ t.beat.nextStep = s.beat.nextStep ∧
      t.flags = s.flags ∧ SameMem s t
    let ext := 0 < aget s.beat.lateRep ph.val 0 ∧ p.ext < p.extMax
    let sent := fun (t : State) (e : Bool) =>
      let m := BMark.bytes ⟨3, ph.val, p.ext + b2n e, e, 0, p.deadline, 0, 0⟩
      HallIdle s → t.fab.sent = s.fab.sent ++ controlsTo s 0x10 m (groupPrincipals s ++ if isGroupPrin s then groupDevices s else [])
    (ready → quiet → isHall s = true → p.passed = some p.deadline →
      (ext → ∃ t, exec (.extendDecide ph) s = .next t ∧ extended t ∧ sent t true) ∧
      (¬ext → ∃ t, exec (.extendDecide ph) s = .next t ∧ closed t ∧ sent t false)) ∧
    ((isHall s = false ∨ p.deciding = false ∨ p.passed ≠ some p.deadline) → exec (.extendDecide ph) s = .next s) ∧
    (ready → quiet → p.deadline < now → ∃ t, exec (.decideTimeout ph) s = .next t ∧ closed t ∧ BothHold t .BEAT_STAT_DECIDE_ERR 1) ∧
    ((p.deciding = false ∨ now ≤ p.deadline) → exec (.decideTimeout ph) s = .next s) ∧
    (∀ (a : PortId) (pkt : Packet), ControlArrives s a pkt 0x10 →
      let m := bmarkOf pkt.payload
      let passed := fun t : State => PortsIdle s (flitsOf pkt * (groupDevices s).length) →
        t.fab.sent = s.fab.sent ++ (if isGroupPrin s then controlsTo s 0x10 pkt.payload (groupDevices s) else [])
      (ready → quiet → m.kind = 3 → m.phase = ph.val → m.beat = p.deadline →
        (m.ext = true → ∃ t, exec (.decide a pkt) s = .next t ∧ extended t ∧ passed t) ∧
        (m.ext = false → ∃ t, exec (.decide a pkt) s = .next t ∧ closed t ∧ passed t)) ∧
      (m.kind = 4 → ∃ t, exec (.shift a pkt) s = .next t ∧ passed t ∧ t.beat.nextStep = s.beat.nextStep + m.count ∧
        t.beat.foBeats = s.beat.foBeats + m.count ∧ t.beat.shiftDue = none ∧ t.flags = s.flags ∧ SameMem s t ∧
        t.beat.phases = [p, q].map (fun x => if x.opened = false then { x with openBeat := x.openBeat + m.count, deadline := x.deadline + m.count }
          else if x.closed then x else { x with deadline := x.deadline + m.count, deciding := false })) ∧
      (m.kind ≠ 3 → exec (.decide a pkt) s = .next s) ∧ (m.kind ≠ 4 → exec (.shift a pkt) s = .next s)) ∧
    (∀ f, s.beat.shiftDue = some f → (f < now → ∃ t, exec .shiftTimeout s = .next t ∧ BothHold t .BEAT_STAT_DECIDE_ERR 1 ∧
        t.beat = { s.beat with shiftDue := none } ∧ RegsBut s t [.BEAT_STAT_DECIDE_ERR] ∧ SameMem s t) ∧
      (now ≤ f → exec .shiftTimeout s = .next s)) ∧
    (s.beat.shiftDue = none → exec .shiftTimeout s = .next s)

/-- Alignment (from R347, R349 to R353): exchanges measure the offset, marks their error, the source falls back as R352 lays
down, and no alignment changes the beat number. The rate in force is a free value within 50 ppm. -/
def Obligations.AlignmentSteersAndFallsBack : Prop :=
  ∀ (s : State) (p : PortId) (pkt : Packet) (m : BMark), m = bmarkOf pkt.payload →
    let per := 1000 * max 4 (s.rf .BEAT_CFG_PERIOD)
    let now := s.rf .BEAT_NOW_BEAT
    let still := fun t : State => t.rf .BEAT_NOW_BEAT = now ∧ SameMem s t ∧ t.flags = s.flags ∧ t.cores = s.cores
    let rated := fun t : State => let r := toSigned 32 (t.rf .BEAT_OFS_RATE); -50000 ≤ r ∧ r ≤ 50000
    (∀ t2 t3, ControlArrives s p pkt 0x10 → m.kind = 0 → pkt.srcDev ≠ ownDev s → ∃ t, exec (.sync p pkt t2 t3) s = .next t ∧ still t ∧
      (PortsIdle s 1 → t.fab.sent = s.fab.sent ++ controlsTo s 0x10 (BMark.bytes ⟨1, 0, 0, false, t2, now, t3, (2 ^ 32 - m.corr) % 2 ^ 32⟩) [pkt.srcDev])) ∧
    (∀ t2 t3, m.kind ≠ 0 → ControlArrives s p pkt 0x10 → exec (.sync p pkt t2 t3) s = .next s) ∧
    (∀ t4 t1 : Nat, ControlArrives s p pkt 0x10 → m.kind = 1 → s.beat.sentT1 = some t1 → m.t2 < per → m.t3 < per → m.t2 ≤ m.t3 →
      let o : Int := ((((m.beat * per + m.t2 : Nat) : Int) - t1) - (((now * per + t4 : Nat) : Int) - (m.beat * per + m.t3 : Nat)) + toSigned 32 m.corr) / 2
      ∃ t, exec (.reply p pkt t4) s = .next t ∧ still t ∧ rated t ∧ BothHold t .BEAT_OFS_OFFSET (ofSigned 32 o) ∧ t.beat.sentT1 = none ∧
        ((o < -50 ∨ 50 < o) → t.rf .BEAT_STAT_ALIGN_ERR = 1) ∧ ((-50 ≤ o ∧ o ≤ 50) → t.rf .BEAT_STAT_ALIGN_ERR = s.rf .BEAT_STAT_ALIGN_ERR) ∧
        (s.beat.lastStamp = none → BothHold t .BEAT_STAT_SRC 2) ∧
        (∀ st, s.beat.lastStamp = some st → BothHold t .BEAT_STAT_SRC 1 ∧ BothHold t .BEAT_CAD_DELAY (ofSigned 16 (st + o)))) ∧
    (∀ t4, ControlArrives s p pkt 0x10 → s.beat.sentT1 = none → exec (.reply p pkt t4) s = .next s) ∧
    (∀ t1, s.rf .BEAT_CFG_EN ≠ 0 → epochNow s ≠ 0 → isHall s = false →
      let d := if isGroupPrin s then actingHall s none else groupPrincipal s (ownDev s / 64)
      ∃ t, exec (.beatExchange t1) s = .next t ∧ still t ∧ t.beat = { s.beat with sentT1 := some (now * per + t1) } ∧
        (PortsIdle s 1 → t.fab.sent = s.fab.sent ++ controlsTo s 0x10 (BMark.bytes ⟨0, 0, 0, false, 0, now, 0, 0⟩) [d])) ∧
    (∀ t1, (s.rf .BEAT_CFG_EN = 0 ∨ epochNow s = 0 ∨ isHall s = true) → exec (.beatExchange t1) s = .next s) ∧
    (∀ bits stamp : Nat, s.rf .BEAT_CFG_EN ≠ 0 → isGroupPrin s = false →
      let own := (if per ≤ 2 * stamp then now + 1 else now) % 65536
      let e := toSigned 16 (ofSigned 16 ((stamp : Int) - s.rf .BEAT_CAD_DELAY))
      ∃ t, exec (.cadenceMark bits stamp) s = .next t ∧ still t ∧ BothHold t .BEAT_CAD_ERR (ofSigned 16 e) ∧ t.beat.lastStamp = some stamp ∧
        (bits % 65536 ≠ own → BothHold t .BEAT_STAT_MISCOUNT 1) ∧
        (bits % 65536 = own → t.rf .BEAT_STAT_MISCOUNT = s.rf .BEAT_STAT_MISCOUNT) ∧
        (s.rf .MOD_CAD_OPEN ≠ 0 → t.beat.marks = s.beat.marks ++ [bits % 65536]) ∧ (s.rf .MOD_CAD_OPEN = 0 → t.beat.marks = s.beat.marks) ∧
        (∀ l, s.beat.cadStep = false → s.beat.lastErr = some l → s.beat.lastOfs = some (toSigned 32 (s.rf .BEAT_OFS_OFFSET)) →
          (e - l > 10 ∨ l - e > 10) → BothHold t .BEAT_STAT_CADSTEP 1 ∧ BothHold t .BEAT_STAT_SRC 2 ∧ t.beat.cadStep = true) ∧
        (s.beat.cadStep = false → s.beat.lastErr = none → rated t ∧ t.rf .BEAT_STAT_SRC = s.rf .BEAT_STAT_SRC)) ∧
    (∀ bits stamp : Nat, isGroupPrin s = true → exec (.cadenceMark bits stamp) s = .next s) ∧
    (∀ bits stamp : Nat, s.rf .BEAT_CFG_EN = 0 → isGroupPrin s = false → exec (.cadenceMark bits stamp) s = .next { s with
      beat := { s.beat with marks := if s.rf .MOD_CAD_OPEN = 0 then s.beat.marks else s.beat.marks ++ [bits % 65536] } }) ∧
    (∃ t, exec .cadenceLoss s = .next t ∧ still t ∧ t.beat.lastStamp = none ∧ RegsBut s t [.BEAT_STAT_SRC] ∧
      (s.rf .BEAT_STAT_SRC = 1 → BothHold t .BEAT_STAT_SRC 2) ∧ (s.rf .BEAT_STAT_SRC ≠ 1 → t.rf .BEAT_STAT_SRC = s.rf .BEAT_STAT_SRC)) ∧
    (s.rf .BEAT_CFG_EN ≠ 0 → ∃ t, exec .holdover s = .next t ∧ BothHold t .BEAT_STAT_SRC 3 ∧ RegsBut s t [.BEAT_STAT_SRC] ∧ t = { s with regs := t.regs }) ∧
    (s.rf .BEAT_CFG_EN = 0 → exec .holdover s = .next s ∧ exec .beatLost s = .next s) ∧
    (s.rf .BEAT_CFG_EN ≠ 0 → s.rf .BEAT_STAT_SRC = 3 → irqStopped s (leadHalf s) = false →
      ∃ t, exec .beatLost s = .next t ∧ still t ∧ BothHold t .BEAT_STAT_LOST 1 ∧ bit (t.rf .IRQ_PEND_PEND (leadHalf s).val 1) 33 = true) ∧
    (s.rf .BEAT_STAT_SRC ≠ 3 → exec .beatLost s = .next s) ∧
    exec (.beatmarkBadkind p pkt) s = .next s

/-- BEAT_FENCE and ARM_CANCEL (from R40, R47, R147, R177, R234, R362, R379): the fence takes the number of its beat, once;
waiting FENCE commands end, tables and the epoch switch, pairs change, the shares of open phases are loaded, and declared
devices enter the fail-set. -/
def Obligations.FencesApplyWhatIsTiedToTheBeat : Prop :=
  ∀ s : State,
    let b := s.rf .BEAT_NOW_BEAT
    let goes := s.rf .BEAT_CFG_EN ≠ 0 ∧ s.fence < b
    let tabs := fun t : State => ∀ a, (∀ kv ∈ s.nextTables, kv.2.beat ≤ b → a < tablePlace kv.1 kv.2.version ∨
      tablePlace kv.1 kv.2.version + kv.2.bytes.length ≤ a) → t.mem.get a = s.mem.get a
    let run := fun t : State => exec .beatFence s = .next t ∧ t.fence = b ∧ tabs t ∧ t.flags = s.flags
    let noOps := ∀ c : CoreId, (s.core c).ops = [] ∧ rotatedOut s c = false
    let noPairs := ∀ g : GroveId, s.rf .GRV_PAIR_CFG_EN g.val = s.rf .GRV_PAIR_CFG_ACT g.val
    let quiet := s.rf .HLF_HB_CFG_EN (leadHalf s).val = 0 ∧ s.fab.store = [] ∧ (s.beat.started = false ∨ s.rf .BEAT_STEP_START ≠ b)
    let still := s.beat.armed = none ∧ s.beat.declares = []
    (¬goes → exec .beatFence s = .next s) ∧
    (goes → noOps → noPairs → quiet → still → s.beat.phases = [] → ∃ t, run t ∧ t.cores = s.cores ∧ t.fab = s.fab ∧
      (∀ i ≤ 2, t.rf .FAB_RSV_VALID 0 i = 0 ∧ t.rf .FAB_RSV_VALID 1 i = 0) ∧
      (∀ k v, s.nextTables = [(k, v)] → v.beat ≤ b → t.mem = s.mem.setBytes (tablePlace k v.version) v.bytes) ∧
      (∀ k v, aget? s.nextTables k = some v → (s.nextTables.map Prod.fst).Nodup →
        (v.beat ≤ b → aget? t.tables k = some v ∧ aget? t.nextTables k = none) ∧
        (b < v.beat → aget? t.tables k = aget? s.tables k ∧ aget? t.nextTables k = some v))) ∧
    (∀ p, goes → noOps → noPairs → quiet → still → s.beat.phases = [p] → p.part = true → p.opened = true → p.closed = false → p.policy = 0 →
      p.shares.1 + p.shares.2.1 + p.shares.2.2 ≤ 192 → s.nextTables = [] → ∃ t, run t ∧
      (∀ u ≤ 1, t.rf .FAB_RSV_VALID u 0 = 1 ∧ t.rf .FAB_RSV_SHARE u 0 = p.shares.1 ∧ t.rf .FAB_RSV_TC u 0 = 0 ∧
        t.rf .FAB_RSV_SHARE u 1 = p.shares.2.1 ∧ t.rf .FAB_RSV_TC u 1 = 1 ∧ t.rf .FAB_RSV_SHARE u 2 = p.shares.2.2 ∧
        t.rf .FAB_RSV_TC u 2 = 2 ∧ t.rf .FAB_RSV_JOB u 0 = jobTag s)) ∧
    (∀ c o, goes → noPairs → quiet → still → s.beat.phases = [] → (∀ d, d ≠ c → (s.core d).ops = []) → (∀ d, rotatedOut s d = false) →
      (s.core c).ops = [o] → o.cls = clFlag → fdOp o.desc = 5 → o.started = false → fdBeat o.desc ≤ b → o.pre = none → o.reco = false → o.setf = false →
      ∃ t, run t ∧ (t.core c).ops = []) ∧
    (∀ (g : GroveId) (p : Nat), goes → noOps → quiet → still → s.beat.phases = [] → p < 4 → s.rf .GRV_PAIR_CFG_ACT g.val = 0 →
      s.rf .GRV_PAIR_CFG_EN g.val = 2 ^ p → (∀ k, k ≠ g → s.rf .GRV_PAIR_CFG_EN k.val = s.rf .GRV_PAIR_CFG_ACT k.val) →
      let e : CoreId := Fin.ofNat 80 (g.val * 8 + 2 * p)
      let o : CoreId := Fin.ofNat 80 (g.val * 8 + 2 * p + 1)
      let free := ∀ c ∈ [e, o], ((s.core c).node = .active ∨ (s.core c).node = .paired) ∧ ∀ i ≤ 2, (s.tile c i).released = true
      (free → ∃ t, run t ∧ t.rf .GRV_PAIR_CFG_ACT g.val = 2 ^ p ∧ (t.core o).node = .paired ∧ (t.core e).node = (s.core e).node ∧
        t.rf .MAT_TAG_VALID e.val = 0 ∧ t.rf .MAT_TAG_VALID o.val = 0) ∧
      (¬free → ∃ t, run t ∧ t.rf .GRV_PAIR_CFG_ERR g.val = 1 ∧ t.rf .GRV_PAIR_CFG_EN g.val = 0 ∧ t.rf .GRV_PAIR_CFG_ACT g.val = 0 ∧ t.cores = s.cores)) ∧
    (∀ a f, goes → noOps → noPairs → quiet → s.beat.phases = [] → s.beat.declares = [] → s.beat.armed = some (a, f) → f ≤ b → a < 2 ^ 64 →
      s.nextTables = [] → (isHall s = true → allAcked s (s.readN (a + 4) 4) = true) →
      s.fab.permCopies = [] → s.beat.takeovers = [] → ∃ t, run t ∧ BothHold t .COL_ARM_ADDR_ADDR a ∧
        BothHold t .COL_ARM_EPOCH_CURRENT (s.readN (a + 4) 4) ∧ BothHold t .COL_ARM_EPOCH_PENDING 0 ∧ BothHold t .COL_ARM_STAT_ARMED 0 ∧
        t.beat.armed = none) ∧
    (∀ a f, goes → noOps → noPairs → quiet → s.beat.phases = [] → s.beat.declares = [] → s.beat.armed = some (a, f) → f ≤ b →
      s.nextTables = [] → isHall s = true → allAcked s (s.readN (a + 4) 4) = false → ∃ t, run t ∧ BothHold t .COL_ARM_STAT_CANCEL 1 ∧
        BothHold t .COL_ARM_STAT_ARMED 0 ∧ t.beat.armed = none ∧ t.rf .COL_ARM_ADDR_ADDR 0 = s.rf .COL_ARM_ADDR_ADDR 0 ∧
        t.rf .COL_ARM_EPOCH_CURRENT 0 = s.rf .COL_ARM_EPOCH_CURRENT 0) ∧
    (goes → noOps → noPairs → s.rf .HLF_HB_CFG_EN (leadHalf s).val = 0 → s.fab.store = [] → still → s.beat.phases = [] → s.beat.started = true →
      s.rf .BEAT_STEP_START = b → s.beat.notes = [] → (∀ c, dueRotation s c = false) →
      ∃ t, run t ∧ BothHold t .VEC_RNG_STEP_STEP (s.rf .BEAT_STEP_STEP % 2 ^ 32) ∧ ∀ c, (t.core c).kStarted = 0) ∧
    (∀ d f, goes → noOps → noPairs → quiet → s.beat.armed = none → s.beat.phases = [] → s.beat.declares = [(d, f)] → f ≤ b → d < 2 ^ 14 →
      s.fab.tracker = [] → s.fab.unsent = [] → s.fab.colls = [] → partnerOf s d = none → s.nextTables = [] →
      ∃ t, run t ∧ failedDev t d = true ∧ t.beat.declares = [] ∧ bit (t.rf .HLF_FAILSET_FAILED 1 (d / 64)) (d % 64) = true) ∧
    (∀ a f, s.beat.armed = some (a, f) → f ≤ b + 2 → isHall s = false → ∃ t, exec .armCancel s = .next t ∧ t.beat.armed = none ∧
      BothHold t .COL_ARM_STAT_ARMED 0 ∧ BothHold t .COL_ARM_STAT_CANCEL 1 ∧ BothHold t .COL_ARM_EPOCH_PENDING 0 ∧ SameMem s t ∧
      t.rf .COL_ARM_EPOCH_CURRENT 0 = s.rf .COL_ARM_EPOCH_CURRENT 0 ∧ t.rf .COL_ARM_ADDR_ADDR 0 = s.rf .COL_ARM_ADDR_ADDR 0) ∧
    ((s.beat.armed = none ∨ ∃ a f, s.beat.armed = some (a, f) ∧ b + 2 < f) → exec .armCancel s = .next s)

/-- Watching and declaring (from R372 to R377, R379, R462): heartbeats are noted, the hall principal probes or declares, and a
declaration waits for its fence. The beat f is free within what R376 allows. -/
def Obligations.FailuresAreNotedProbedAndDeclared : Prop :=
  ∀ (s : State) (p : PortId) (pkt : Packet),
    let m := mrecOf pkt.payload
    let dev := m.subject
    let now := s.rf .BEAT_NOW_BEAT
    let still := fun t : State => SameMem s t ∧ t.flags = s.flags ∧ t.cores = s.cores
    let takes := fun d : Nat => epochNow s ≠ 0 ∧ actingHall s (some d) = ownDev s ∧ deviceGone s d = false ∧ d ≠ ownDev s
    let declares := fun (t : State) (d cause : Nat) => still t ∧ ∃ f, now < f ∧ f ≤ now + 2 + 10000 / (1000 * max 4 (s.rf .BEAT_CFG_PERIOD)) ∧
      t.beat.declares = s.beat.declares ++ [(d, f)] ∧
      let r := MRec.bytes ⟨4, 0, cause, d, epochNow s, s.rf .BEAT_STEP_STEP, f, 0⟩
      (HallIdle s → t.fab.sent = s.fab.sent ++ controlsTo s.used 0x20 r (groupPrincipals s ++ if isGroupPrin s then groupDevices s else []))
    let may := fun d : Nat => takes d ∧ d ∈ jobDevices s ∧ doubleFault s d = false
    (ControlArrives s p pkt 0x11 → (pkt.srcDev ∉ watchedBy s → exec (.heartbeat p pkt) s = .next s) ∧
      (pkt.srcDev ∈ watchedBy s → dbit pkt.payload 8 14 = false → exec (.heartbeat p pkt) s = .next { s with
        beat := { s.beat with
          watch := aset s.beat.watch pkt.srcDev (max (dfld pkt.payload 0 63 0) (aget s.beat.watch pkt.srcDev 0))
          noted := s.beat.noted.filter (fun d => d != pkt.srcDev) }
        dx := { s.dx with scores := aset s.dx.scores pkt.srcDev (dfld pkt.payload 0x18 7 0) } })) ∧
    (arrives s p pkt = true → pkt.ptype = 0x11 → failedDev s pkt.srcDev = true → ∃ t, exec (.heartbeat p pkt) s = .next t ∧
      t = { s with regs := t.regs } ∧ RegsBut s t [.HLF_HB_STAT_ZOMBIE]) ∧
    (ControlArrives s p pkt 0x20 →
      (m.kind = 1 → takes dev → m.cause ≠ 1 → aget? s.beat.probes dev = none → ∃ t, exec (.failnote p pkt) s = .next t ∧ still t ∧
        aget? t.beat.probes dev = some m.cause ∧ t.beat.declares = s.beat.declares ∧ (PortsIdle s 1 → t.fab.sent = s.fab.sent ++
          sentBy s (mkPacket s 0x20 3 (0x3FD + (leadHalf s).val) (globalAddr dev 0) true false
            (MRec.bytes ⟨2, 0, 0, dev, epochNow s, s.rf .BEAT_STEP_STEP, now, 0⟩) []))) ∧
      (m.kind = 1 → may dev → m.cause = 1 → ∃ t, exec (.failnote p pkt) s = .next t ∧ declares t dev 1) ∧
      (m.kind = 1 → (epochNow s = 0 ∨ actingHall s (some dev) ≠ ownDev s ∨ deviceGone s dev = true) → exec (.failnote p pkt) s = .next s) ∧
      (m.kind = 2 → (s.half (leadHalf s)).rangerStopped = false → clockDead s (leadHalf s) 1 = false → s.rf .HLF_LEAD_STAT_FENCED (leadHalf s).val = 0 →
        ∃ t, exec (.probe p pkt) s = .next t ∧ still t ∧ t.beat = s.beat ∧ (PortsIdle s 1 → t.fab.sent = s.fab.sent ++ controlsTo s 0x20
          (MRec.bytes ⟨3, m.seq, 0, ownDev s, epochNow s, s.rf .BEAT_STEP_STEP, now, 0⟩) [pkt.srcDev])) ∧
      (m.kind = 2 → ((s.half (leadHalf s)).rangerStopped = true ∨ clockDead s (leadHalf s) 1 = true) → exec (.probe p pkt) s = .next s) ∧
      (∀ c, m.kind = 3 → aget? s.beat.probes dev = some c → ∃ t, exec (.probeReply p pkt) s = .next t ∧ still t ∧ aget? t.beat.probes dev = none ∧
        t.rf .HLF_HB_STAT_FALSE (leadHalf s).val = min (s.rf .HLF_HB_STAT_FALSE (leadHalf s).val + 1) (2 ^ Fld.width .HLF_HB_STAT_FALSE - 1) ∧
        t.beat.declares = s.beat.declares) ∧
      (m.kind = 3 → aget? s.beat.probes dev = none → exec (.probeReply p pkt) s = .next s) ∧
      (m.kind = 4 → deviceGone s dev = false → dev ≠ ownDev s → ∃ t, exec (.declare p pkt) s = .next t ∧ still t ∧
        t.beat.declares = s.beat.declares ++ [(dev, m.beat)] ∧ t.dx.job = s.dx.job ∧
        (PortsIdle s (flitsOf pkt * (groupDevices s).length) →
          t.fab.sent = s.fab.sent ++ (if isGroupPrin s then controlsTo s 0x20 pkt.payload (groupDevices s) else []))) ∧
      (m.kind = 4 → deviceGone s dev = true → isGroupPrin s = false → exec (.declare p pkt) s = .next s) ∧
      (m.kind = 8 → may dev → ∃ t, exec (.expelReq p pkt) s = .next t ∧ declares t dev (if m.cause = 3 then 3 else 4)) ∧
      (m.kind ≠ 1 → exec (.failnote p pkt) s = .next s) ∧ (m.kind ≠ 4 → exec (.declare p pkt) s = .next s) ∧
      (m.kind ≠ 8 → exec (.expelReq p pkt) s = .next s)) ∧
    (∀ d c, aget? s.beat.probes d = some c → may d → ∃ t, exec (.probeTimeout d) s = .next t ∧ declares t d 0 ∧ aget? t.beat.probes d = none) ∧
    (∀ d, aget? s.beat.probes d = none → exec (.probeTimeout d) s = .next s) ∧
    exec (.mgmtUnknown p pkt) s = .next s

/-- Stops, digests and tables between devices (from R45, R47, R355, R375, R379, R385, R404): a stop disables the cores and lets
only management traffic through, digests and acknowledgements are kept, and a table is taken up once it is whole. -/
def Obligations.StopsAndTablesArrive : Prop :=
  ∀ (s : State) (p : PortId) (pkt : Packet),
    let m := mrecOf pkt.payload
    let src := pkt.srcDev
    let off := fun (t : State) (job : Nat) => t.dx.job = job ∧ t.fab.mgmtOnly = true ∧ TablesOnly s t (allGroves.map NodeId.grove) ∧
      ∀ c, ((s.core c).node = .active ∨ (s.core c).node = .spare ∨ (s.core c).node = .paired → (t.core c).node = .closing) ∧
        ((s.core c).node ≠ .active → (s.core c).node ≠ .spare → (s.core c).node ≠ .paired → t.core c = s.core c)
    let dev := if m.cause = 0 then 0 else m.subject
    let idle := s.waiting = [] ∧ ∀ kv ∈ s.flags, kv.2.owner = none
    (ControlArrives s p pkt 0x20 →
      (m.kind = 5 → s.dx.job = 3 → idle → ∃ t, exec (.stop p pkt) s = .next t ∧ off t 4 ∧ t.flags = s.flags) ∧
      (m.kind = 5 → s.dx.job ≠ 3 → exec (.stop p pkt) s = .next s) ∧
      (m.kind = 7 → isHall s = true → s.dx.job = 3 → idle → ∃ t, exec (.stopReq p pkt) s = .next t ∧ off t 4 ∧ (PortsIdle s (jobDevices s).length → t.fab.sent = s.fab.sent ++
        controlsTo s 0x20 (MRec.bytes ⟨5, 0, if m.cause = 0 then (if m.arg = 0 then 0 else (m.arg + 16) % 256) else m.cause, dev, epochNow s,
          s.rf .BEAT_STEP_STEP, s.rf .BEAT_NOW_BEAT, dev⟩) (jobDevices s))) ∧
      (m.kind = 7 → isHall s = false → exec (.stopReq p pkt) s = .next s) ∧
      (m.kind = 4 → m.subject = ownDev s → deviceGone s (ownDev s) = false → idle → isGroupPrin s = false →
        ∃ t, exec (.declare p pkt) s = .next t ∧ off t 5 ∧ t.beat.declares = s.beat.declares ++ [(ownDev s, m.beat)]) ∧
      (m.kind = 6 → exec (.digest p pkt) s = .next { s with beat := { s.beat with notes := s.beat.notes ++ [(src, m.step, m.epoch, m.arg)] } }) ∧
      (m.kind = 9 → m.cause = 0 → ackOpen s = true → ∃ t, exec (.armAck p pkt) s = .next t ∧ src ∈ aget t.beat.acks (m.arg % 2 ^ 32) [] ∧
        (∀ d, d ≠ src → (d ∈ aget t.beat.acks (m.arg % 2 ^ 32) [] ↔ d ∈ aget s.beat.acks (m.arg % 2 ^ 32) [])) ∧ t.regs = s.regs ∧ SameMem s t) ∧
      (m.kind = 9 → m.cause = 0 → ackOpen s = false → exec (.armAck p pkt) s = .next s) ∧
      (m.kind = 9 → m.cause ≠ 0 → ∃ t, exec (.armAck p pkt) s = .next t ∧ t.beat = s.beat ∧ t.regs = s.regs ∧ SameMem s t ∧
        ∀ n o, aget? s.dx.long n = some o → o.cmd = 0x0205 → o.status = none →
          (aget? t.dx.long n).map LongOp.status = some (some (0x0A + m.cause * 2 ^ 16))) ∧
      (m.kind = 16 →
        let bs := pkt.payload.drop 32
        let key := (src, m.cause, m.beat)
        let total := m.arg % 2 ^ 32
        let start := m.arg / 2 ^ 32
        let one := aget s.beat.tables key [] = [] ∧ start = 0 ∧ bs.length = total ∧ 0 < total
        (aget s.beat.tables key [] = [] → 0 < start → 0 < total → exec (.table p pkt) s = .next { s with
          beat := { s.beat with tables := aset s.beat.tables key [(start, bs)] } }) ∧
        (one → m.cause = 2 →
          let a := privBase + 0x20000000 + (if s.rf .BEAT_SCHED_ADDR = privBase + 0x20000000 then 0x10000 else 0)
          let u := { s with mem := s.mem.setBytes a bs }
          ∃ t, exec (.table p pkt) s = .next t ∧ t.mem = u.mem ∧ t.flags = s.flags ∧
            (schedGood u a (jobTag u) = true → u.readN (a + 4) 2 = s.rf .BEAT_CFG_PERIOD → BothHold t .BEAT_SCHED_ADDR a) ∧
            (schedGood u a (jobTag u) = false → t.rf .BEAT_SCHED_ADDR = s.rf .BEAT_SCHED_ADDR)) ∧
        (one → m.cause = 1 → (m.beat < s.rf .BEAT_NOW_BEAT + 2 ∨ m.beat ≤ s.fence + 2) → ∃ t, exec (.table p pkt) s = .next t ∧
          SameMem s t ∧ t.fab = s.fab ∧ t.beat.armed = s.beat.armed ∧ t.regs = s.regs) ∧
        (one → m.cause = 1 → (∀ x, s.beat.armed ≠ some (x, m.beat)) → s.rf .BEAT_NOW_BEAT + 2 ≤ m.beat → s.fence + 2 < m.beat →
          let epoch := epochNow s + 1
          let a := privBase + 0x10000000 + epoch % 2 * 0x8000000
          let u := placeArm s epoch m.beat bs
          let cause := armCause u a (a + 64 + 32 * (u.readN (a + 0x10) 4 % 2 ^ 21)) epoch
          let acks := fun t : State => PortsIdle s 1 → t.fab.sent = s.fab.sent ++ controlsTo s 0x20
            (MRec.bytes ⟨9, 0, cause, ownDev s, epochNow s, s.rf .BEAT_STEP_STEP, m.beat, epoch⟩) [src]
          ∃ t, exec (.table p pkt) s = .next t ∧
            (cause = 0 → t.mem = u.mem ∧ t.beat.armed = some (a, m.beat) ∧ BothHold t .COL_ARM_STAT_ARMED 1 ∧
              BothHold t .COL_ARM_EPOCH_PENDING (epoch % 2 ^ 32) ∧ (permRuns s = false → acks t) ∧
              (permRuns s = true → t.fab = s.fab ∧ t.beat.ackDue = some (src, m.beat, epoch))) ∧
            (cause ≠ 0 → SameMem s t ∧ t.beat.armed = s.beat.armed ∧ t.rf .COL_ARM_STAT_ARMED = s.rf .COL_ARM_STAT_ARMED ∧ acks t)) ∧
        (∀ x, one → m.cause = 1 → s.beat.armed = some (x, m.beat) → s.rf .BEAT_NOW_BEAT + 2 ≤ m.beat → s.fence + 2 < m.beat →
          ∃ t, exec (.table p pkt) s = .next t ∧ SameMem s t ∧ t.beat.armed = s.beat.armed ∧ t.regs = s.regs ∧
            (PortsIdle s 1 → t.fab.sent = s.fab.sent ++ controlsTo s 0x20
              (MRec.bytes ⟨9, 0, 3, ownDev s, epochNow s, s.rf .BEAT_STEP_STEP, m.beat, epochNow s + 1⟩) [src]))))

/-- This device's own failover (from R372, R377 to R379, R381, R382, R386 to R388, R391): the watchdog, SELFFAIL and the
fail-set, block repair, the shift that the hall principal grants, the end of a takeover, and the risk score. -/
def Obligations.FailoverStaysWithinTheStep : Prop :=
  ∀ (s : State) (a : Agent) (h : HalfId),
    let priv : State := { s with privFaults := s.privFaults + 1 }
    (∃ t, exec (.watchdogExpire h) s = .next t ∧ t.rf .HLF_HB_STAT_WDOG_EXP h.val = 1 ∧ SameMem s t ∧ t.beat = s.beat ∧
      (irqStopped s h = false → bit (t.rf .IRQ_PEND_PEND h.val 7) 63 = true)) ∧
    (isDexca a = true → (∃ t, exec (.kick a h) s = .next t ∧ t.rf .HLF_HB_STAT_WDOG_EXP h.val = 0 ∧ RegsBut s t [.HLF_HB_STAT_WDOG_EXP] ∧
        t = { s with regs := t.regs }) ∧
      (∃ t, exec (.selffail a h) s = .next t ∧ t.rf .HLF_HB_CTL_SELFFAIL h.val = 1 ∧ t.rf .MOD_ALERT_SELFFAIL = 1 ∧
        RegsBut s t [.HLF_HB_CTL_SELFFAIL, .MOD_ALERT_SELFFAIL] ∧ t = { s with regs := t.regs }) ∧
      (s.dx.job = 0 → ∃ t, exec (.failsetClear a h) s = .next t ∧ (∀ i, t.rf .HLF_FAILSET_FAILED h.val i = 0) ∧
        (∀ f u i, (f ≠ .HLF_FAILSET_FAILED ∨ u ≠ h.val) → t.rf f u i = s.rf f u i) ∧ t = { s with regs := t.regs }) ∧
      (s.dx.job ≠ 0 → exec (.failsetClear a h) s = .next s)) ∧
    (isDexca a = false → exec (.kick a h) s = .next priv ∧ exec (.selffail a h) s = .next priv ∧ exec (.failsetClear a h) s = .next priv) ∧
    (∀ (x : Nat) (d : List Byte),
      let b := blockOf x
      let recent := ∃ n, aget? s.dx.repaired b = some n ∧
        (s.rf .BEAT_NOW_BEAT - n) * max 4 (s.rf .BEAT_CFG_PERIOD) ≤ 24 * 60 * 60 * 10 ^ 6
      let mine := (∃ r ∈ s.dx.shards, r.1 ≤ b ∧ b < r.1 + r.2) ∧ s.dx.optSince = false ∧ ¬recent
      ((inTier b 2048 = false ∨ rangeBusy s b 2048 = true) → exec (.blockRepair x d) s = .next s) ∧
      (inTier b 2048 = true → rangeBusy s b 2048 = false → mine → d.length = 2048 → ∃ t, exec (.blockRepair x d) s = .next t ∧ t.mem = s.mem.setBytes b d ∧
        t.crcOf b = crc32c d ∧ t.dx.repaired = aset s.dx.repaired b (s.rf .BEAT_NOW_BEAT) ∧ t.rf .HLF_HB_CTL_SELFFAIL (leadHalf s).val = s.rf .HLF_HB_CTL_SELFFAIL (leadHalf s).val ∧
        t.rf .HLF_HB_STAT_REPAIR (leadHalf s).val = min (s.rf .HLF_HB_STAT_REPAIR (leadHalf s).val + 1) (2 ^ Fld.width .HLF_HB_STAT_REPAIR - 1)) ∧
      (inTier b 2048 = true → rangeBusy s b 2048 = false → ¬mine → ∃ t, exec (.blockRepair x d) s = .next t ∧ SameMem s t ∧ t.rf .HLF_HB_CTL_SELFFAIL (leadHalf s).val = 1 ∧
        t.rf .MOD_ALERT_SELFFAIL = 1 ∧ t.dx.repaired = s.dx.repaired)) ∧
    (let now := s.rf .BEAT_NOW_BEAT
     let foext := if s.rf .HLF_FO_CFG_FOEXT (leadHalf s).val = 0 then 4 else s.rf .HLF_FO_CFG_FOEXT (leadHalf s).val
     let ready := isHall s = true ∧ takingOver s = true ∧ s.beat.started = true
     let shifts := fun (t : State) (f n : Nat) =>
       let m := BMark.bytes ⟨4, 0, n, false, 0, f, 0, 0⟩
       t.beat.nextStep = s.beat.nextStep + n ∧ t.beat.foBeats = s.beat.foBeats + n ∧ t.beat.shiftDue = none ∧ SameMem s t ∧ t.flags = s.flags ∧
       (HallIdle s → t.fab.sent = s.fab.sent ++ controlsTo s 0x10 m (groupPrincipals s ++ if isGroupPrin s then groupDevices s else []))
     (∀ f, ready → s.beat.shiftDue = some f → f ≤ now → s.beat.foBeats + (4 - s.beat.nextStep % 4) ≤ foext →
       ∃ t, exec .failoverExtension s = .next t ∧ shifts t f (4 - s.beat.nextStep % 4) ∧ t.beat.nextStep % 4 = 0) ∧
     (ready → s.beat.shiftDue = none → s.beat.foBeats ≠ 0 → s.beat.nextStep ≤ now + 1 → s.beat.foBeats + 4 ≤ foext →
       ∃ t, exec .failoverExtension s = .next t ∧ shifts t now 4) ∧
     (∀ f, ready → s.beat.shiftDue = some f → f ≤ now → foext < s.beat.foBeats + (4 - s.beat.nextStep % 4) → s.dx.job = 3 → s.waiting = [] →
       (∀ kv ∈ s.flags, kv.2.owner = none) → ∃ t, exec .failoverExtension s = .next t ∧ t.dx.job = 4 ∧ t.fab.mgmtOnly = true ∧
         TablesOnly s t (allGroves.map NodeId.grove)) ∧
     (¬ready → exec .failoverExtension s = .next s)) ∧
    (takingOver s = true → (isHall s = false ∨ s.beat.armed.isSome = true) → exec .takeoverComplete s = .next { s with
      beat := { s.beat with takeovers := s.beat.takeovers.map (fun x => (x.1, 0)) } }) ∧
    (takingOver s = true → isHall s = true → s.beat.armed = none → ∃ t, exec .takeoverComplete s = .next t ∧
      let b := if s.beat.shiftDue = none then (s.beat.nextStep + 3) / 4 * 4 else s.beat.nextStep + (4 - s.beat.nextStep % 4)
      (t.beat.armed.map Prod.snd) = some b ∧ b % 4 = 0 ∧ BothHold t .COL_ARM_STAT_ARMED 1 ∧ takingOver t = false ∧
      BothHold t .COL_ARM_EPOCH_PENDING ((epochNow s + 1) % 2 ^ 32)) ∧
    (takingOver s = false → exec .takeoverComplete s = .next s) ∧
    (∀ m : RiskInputs, epochNow s = 0 → s.dx.weights = [16, 16, 16, 16, 16] → m.others = [] →
      let sub := fun v lo hi => min 255 ((v - lo) * 255 / (hi - lo))
      let r := min 255 (sub m.correctable 10 10000 + sub m.drift 2000 8000 + sub m.hottest 95 105 + sub m.retrains 1 100 + sub m.lateness 1 100)
      ∃ t, exec (.riskScore m) s = .next t ∧ aget t.dx.scores (ownDev s) 0 = r ∧ SameMem s t ∧ t.cores = s.cores ∧
        t.dx.level = (if 0 < s.dx.level ∧ m.dayBelow = true then s.dx.level - 1 else s.dx.level)) ∧
    (∀ m : RiskInputs, epochNow s ≠ 0 → ∃ t, exec (.riskScore m) s = .next t ∧
      let top := (topPairOf (pairScores { s with dx := { s.dx with scores := t.dx.scores } })).1
      (s.dx.level < top / 64 → t.dx.level = top / 64) ∧
      (top / 64 < s.dx.level → m.dayBelow = true → t.dx.level = s.dx.level - 1) ∧
      (top / 64 < s.dx.level → m.dayBelow = false → t.dx.level = s.dx.level) ∧ t.dx.topScore = top)

/-- Echo checks and surveys (from R401, R402, R408 to R412): a checker compares records, the arbiter's verdict is logged and
names the suspects, and a core with slack runs the programs of the package, whose digests are compared. -/
def Obligations.EchoesAndSurveysFindSuspects : Prop :=
  ∀ (s : State) (h : HalfId) (slot : Nat) (c : CoreId),
    let recs := s.read (s.rf .HLF_ECHO_BASE_BASE h.val + 204800 * slot + 0x100) 4608
    let counts := fun (t : State) (f : Fld) => t.rf f h.val = min (s.rf f h.val + 1) (2 ^ f.width - 1)
    let held := fun t : State => aget? t.dx.echo (h, slot)
    let ready := memWaits s h (s.rf .HLF_ECHO_BASE_BASE h.val + 204800 * slot) 204800 = false
    let checks := fun (k : CoreId) (e : EchoSlot) => e.chk = some k ∧ ((s.core k).node = .active ∨ (s.core k).node = .spare)
    (aget? s.dx.echo (h, slot) = none → exec (.echoCheck h slot) s = .next s ∧ exec (.echoArbiter h slot) s = .next s) ∧
    (∀ e, aget? s.dx.echo (h, slot) = some e → e.bad = none →
      exec (.echoArbiter h slot) s = .next s ∧
      (memWaits s h (s.rf .HLF_ECHO_BASE_BASE h.val + 204800 * slot) 204800 = true → exec (.echoCheck h slot) s = .next s) ∧
      (∀ k, ready → checks k e → recs = recheck s h slot →
        ∃ t, exec (.echoCheck h slot) s = .next t ∧ held t = none ∧ counts t .HLF_ECHO_STAT_PASS ∧ RegsBut s t [.HLF_ECHO_STAT_PASS] ∧
          SameMem s t ∧ t.cores = s.cores) ∧
      (∀ k, ready → checks k e → recs ≠ recheck s h slot →
        ∃ t, exec (.echoCheck h slot) s = .next t ∧ held t = some { e with bad := some (k, firstColumn recs (recheck s h slot)) } ∧
          counts t .HLF_ECHO_STAT_MISMATCH ∧ SameMem s t ∧ t.cores = s.cores ∧
          (irqStopped s h = false → bit (t.rf .IRQ_PEND_PEND h.val 1) 34 = true)) ∧
      (ready → (∀ k, ¬checks k e) → ∃ t, exec (.echoCheck h slot) s = .next t ∧ held t = none ∧
        counts t .HLF_ECHO_STAT_SKIP ∧ SameMem s t)) ∧
    (∀ e k col, aget? s.dx.echo (h, slot) = some e → e.bad = some (k, col) → (s.core e.src).node = .active → (s.core k).node = .active →
      let arb := chooseCore (checkers s e.src e.pair [k]) (sampleDraw s h e 2)
      let v := if arb = none then 2 else if recs = recheck s h slot then 1 else 0
      exec (.echoCheck h slot) s = .next s ∧
      ∃ t, exec (.echoArbiter h slot) s = .next t ∧ held t = none ∧ SameMem s t ∧ t.cores = s.cores ∧
        (v ≠ 1 → t.rf .CORE_SURV_STAT_SUSPECT e.src.val = 1) ∧ (v ≠ 0 → t.rf .CORE_SURV_STAT_SUSPECT k.val = 1) ∧
        (v = 0 → k ≠ e.src → t.rf .CORE_SURV_STAT_SUSPECT k.val = s.rf .CORE_SURV_STAT_SUSPECT k.val) ∧
        (v = 1 → k ≠ e.src → t.rf .CORE_SURV_STAT_SUSPECT e.src.val = s.rf .CORE_SURV_STAT_SUSPECT e.src.val) ∧
        (s.rf .HLF_ECHO_LOG_VALID h.val = 0 → t.rf .HLF_ECHO_LOG_VALID h.val = 1 ∧ t.rf .HLF_ECHO_LOG_VERDICT h.val = v ∧
          t.rf .HLF_ECHO_LOG_SRC h.val = e.src.val % 40 ∧ t.rf .HLF_ECHO_LOG_CHK h.val = k.val % 40) ∧
        (s.rf .HLF_ECHO_LOG_VALID h.val ≠ 0 → t.rf .HLF_ECHO_LOG_VERDICT h.val = s.rf .HLF_ECHO_LOG_VERDICT h.val)) ∧
    (let x := surveyOf s c
     let g := (halfOfCore c).val
     let runs := s.rf .HLF_SURV_CFG_EN g ≠ 0 ∧ x.next < progCount s ∧ x.running = false ∧ hasSlack s c = true ∧
       progTime (progEntry s x.next) ≤ min 50 (max 1 (s.rf .HLF_SURV_CFG_SLICE g))
     let part := fun t : State => t.mem = s.mem.clear (partBase s c) (scratchBase c + 0x300000)
     (runs → exec (.surveySlice c) s = .next (setSurvey s c { x with running := true, used := progTime (progEntry s x.next) })) ∧
     (¬runs → exec (.surveySlice c) s = .next s) ∧
     (∀ r, x.running = false → exec (.surveyProgramEnd c r) s = .next s) ∧
     (∀ r, x.running = true → x.first = none → progRandom (progEntry s x.next) = false → digest 3 r = progExpect (progEntry s x.next) →
       x.whole = false → x.failed = false → ∃ t, exec (.surveyProgramEnd c r) s = .next t ∧ part t ∧ t.cores = s.cores ∧ t.flags = s.flags ∧
         (progCount s ≤ x.next + 1 → surveyOf t c = Survey.reset ∧ t.rf .CORE_SURV_STAT_STATE c.val = 0 ∧ t.rf .CORE_SURV_STAT_AGE c.val = 0) ∧
         (x.next + 1 < progCount s → (surveyOf t c).next = x.next + 1 ∧ (surveyOf t c).failed = false ∧ (surveyOf t c).running =
           decide (x.used + progTime (progEntry s (x.next + 1)) ≤ min 50 (max 1 (s.rf .HLF_SURV_CFG_SLICE g))))) ∧
     (∀ r, x.running = true → x.first = none → progRandom (progEntry s x.next) = false → digest 3 r ≠ progExpect (progEntry s x.next) →
       x.whole = false → x.next + 1 < progCount s → (s.core c).node = .active → ∃ t, exec (.surveyProgramEnd c r) s = .next t ∧ part t ∧
         t.rf .CORE_SURV_STAT_SUSPECT c.val = 1 ∧ (surveyOf t c).failed = true ∧ t.cores = s.cores ∧
         t.rf .HLF_SURV_STAT_FAILS g = min (s.rf .HLF_SURV_STAT_FAILS g + 1) (2 ^ Fld.width .HLF_SURV_STAT_FAILS - 1)) ∧
     (∀ r d, x.running = true → x.first = none → progRandom (progEntry s x.next) = true → secondCore s c = some d → d ≠ c →
       ∃ t, exec (.surveyProgramEnd c r) s = .next t ∧ part t ∧ (surveyOf t d).running = true ∧ (surveyOf t d).first = some (c, digest 3 r) ∧
         t.regs = s.regs) ∧
     (s.rf .HLF_SURV_CFG_EN g = 0 → exec (.surveyDeadline c) s = .next s) ∧
     (s.rf .HLF_SURV_CFG_EN g ≠ 0 →
       ((s.core c).node = .active ∨ (s.core c).node = .paired → ∃ t, exec (.surveyDeadline c) s = .next t ∧ t.rf .CORE_SURV_STAT_STATE c.val = 2 ∧
         RegsBut s t [.CORE_SURV_STAT_STATE] ∧ t = { s with regs := t.regs }) ∧
       ((s.core c).node = .spare → progCount s ≠ 0 → ∃ t, exec (.surveyDeadline c) s = .next t ∧ (surveyOf t c).running = true ∧
         (surveyOf t c).whole = true ∧ (surveyOf t c).next = 0 ∧ t.rf .CORE_SURV_STAT_STATE c.val = 3 ∧ SameMem s t ∧ t.cores = s.cores) ∧
       ((s.core c).node = .closing ∨ (s.core c).node = .disabled → exec (.surveyDeadline c) s = .next s)))
end

