-- ==== Sys2Proof/Laws/Maps.lean ====
section
/-!
SUPPORT. The laws of the two finite maps: reading after writing, and the canonical form of memory.
-/

namespace Sys2Proof.Machine

/-! ### `AMap` -/

@[simp] theorem aget_nil {κ α : Type} [DecidableEq κ] (k : κ) (d : α) : aget ([] : AMap κ α) k d = d := rfl

theorem aget_aset {κ α : Type} [DecidableEq κ] (m : AMap κ α) (k k' : κ) (v d : α) :
    aget (aset m k v) k' d = if k' = k then v else aget m k' d := by
  induction m with
  | nil => simp [aset, aget]
  | cons e m ih => simp only [aset]; split <;> simp only [aget] <;> split_ifs <;> simp_all

@[simp] theorem aget_aset_self {κ α : Type} [DecidableEq κ] (m : AMap κ α) (k : κ) (v d : α) :
    aget (aset m k v) k d = v := by simp [aget_aset]

theorem aget_aset_ne {κ α : Type} [DecidableEq κ] (m : AMap κ α) {k k' : κ} (v d : α) (h : k' ≠ k) :
    aget (aset m k v) k' d = aget m k' d := by simp [aget_aset, h]

theorem aget_adrop {κ α : Type} [DecidableEq κ] (m : AMap κ α) (p : κ → Bool) (k : κ) (d : α) :
    aget (adrop m p) k d = if p k then d else aget m k d := by
  induction m with
  | nil => simp [adrop, aget]
  | cons e m ih =>
    have ih : aget (List.filter (fun kv => !p kv.1) m) k d = if p k then d else aget m k d := ih
    by_cases h : p e.1
    · by_cases hk : k = e.1
      · subst hk; simp [adrop, h, ih]
      · simp [adrop, aget, h, hk, ih]
    · by_cases hk : k = e.1
      · subst hk; simp [adrop, aget, h]
      · simp [adrop, aget, h, hk, ih]

/-- A pair of a written map is the pair written or one that the map held. -/
theorem mem_aset {κ α : Type} [DecidableEq κ] {m : AMap κ α} {k : κ} {v : α} {e : κ × α} (he : e ∈ aset m k v) :
    e = (k, v) ∨ e ∈ m := by
  fun_induction aset m k v <;> simp_all <;> tauto

/-- What holds of every pair of a map holds of every pair after a write that satisfies it. -/
theorem forall_aset {κ α : Type} [DecidableEq κ] {P : κ × α → Prop} {m : AMap κ α} {k : κ} {v : α} (hm : ∀ e ∈ m, P e)
    (hv : P (k, v)) : ∀ e ∈ aset m k v, P e := fun _ he => (mem_aset he).elim (fun h => h ▸ hv) (hm _)

theorem forall_adrop {κ α : Type} {P : κ × α → Prop} {m : AMap κ α} {p : κ → Bool} (hm : ∀ e ∈ m, P e) :
    ∀ e ∈ adrop m p, P e := fun e he => hm e (List.mem_of_mem_filter he)

/-! ### `Memory` -/

theorem Memory.wfFrom_mono {m : Memory} {lo lo' : Nat} (h : wfFrom lo m = true) (hl : lo' ≤ lo) : wfFrom lo' m = true := by
  cases m with
  | nil => rfl
  | cons e m => simp only [wfFrom, Bool.and_eq_true, decide_eq_true_eq] at h ⊢; exact ⟨⟨by omega, h.1.2⟩, h.2⟩

theorem Memory.get_of_lt {m : Memory} {lo a : Nat} (h : wfFrom lo m = true) (ha : a < lo) : m.get a = unlisted := by
  induction m generalizing lo with
  | nil => rfl
  | cons e m ih =>
    simp only [wfFrom, Bool.and_eq_true, decide_eq_true_eq] at h
    have : e.1 ≠ a := by omega
    simp only [get, this, if_false]
    exact ih h.2 (by omega)

theorem Memory.wfFrom_set {m : Memory} {lo a : Nat} {b : Byte} (h : wfFrom lo m = true) (ha : lo ≤ a) :
    wfFrom lo (m.set a b) = true := by
  induction m generalizing lo with
  | nil => simp only [set]; split <;> simp_all [wfFrom]
  | cons e m ih =>
    simp only [wfFrom, Bool.and_eq_true, decide_eq_true_eq] at h
    obtain ⟨⟨h1, h2⟩, h3⟩ := h
    simp only [set]
    split_ifs with c1 c2 c3 c4
    · simp [wfFrom, h1, h2, h3]
    · simp only [wfFrom, Bool.and_eq_true, decide_eq_true_eq]
      exact ⟨⟨ha, c2⟩, ⟨⟨by omega, h2⟩, h3⟩⟩
    · exact wfFrom_mono h3 (by omega)
    · subst c3; simp only [wfFrom, Bool.and_eq_true, decide_eq_true_eq]; exact ⟨⟨ha, c4⟩, h3⟩
    · simp only [wfFrom, Bool.and_eq_true, decide_eq_true_eq]; exact ⟨⟨h1, h2⟩, ih h3 (by omega)⟩

/-- A write keeps the canonical form. -/
theorem Memory.wf_set {m : Memory} {a : Nat} {b : Byte} (h : m.wf = true) : (m.set a b).wf = true := wfFrom_set h (Nat.zero_le a)

theorem Memory.wf_setBytes {m : Memory} {a : Nat} {bs : List Byte} (h : m.wf = true) : (m.setBytes a bs).wf = true := by
  induction bs generalizing m a with
  | nil => exact h
  | cons b bs ih => exact ih (wf_set h)

theorem Memory.wfFrom_filter {m : Memory} {lo : Nat} {p : Nat × Byte → Bool} (h : wfFrom lo m = true) :
    wfFrom lo (List.filter p m) = true := by
  induction m generalizing lo with
  | nil => rfl
  | cons e m ih =>
    simp only [wfFrom, Bool.and_eq_true, decide_eq_true_eq] at h
    simp only [List.filter]
    split
    · simp only [wfFrom, Bool.and_eq_true, decide_eq_true_eq]; exact ⟨h.1, ih h.2⟩
    · exact wfFrom_mono (ih h.2) (by omega)

theorem Memory.wf_clear {m : Memory} {lo hi : Nat} (h : m.wf = true) : (m.clear lo hi).wf = true := wfFrom_filter h
theorem Memory.wf_clearIf {m : Memory} {p : Nat → Bool} (h : m.wf = true) : (m.clearIf p).wf = true := wfFrom_filter h

theorem Memory.wfFrom_loseIf {m : Memory} {lo : Nat} {p : Nat → Bool} {f : Nat → Byte} (h : wfFrom lo m = true) :
    wfFrom lo (m.loseIf p f) = true := by
  induction m generalizing lo with
  | nil => rfl
  | cons e m ih =>
    simp only [wfFrom, Bool.and_eq_true, decide_eq_true_eq] at h
    unfold loseIf
    by_cases hv : (if p e.1 then f e.1 else e.2) = unlisted
    · simpa only [hv, if_true] using wfFrom_mono (lo := e.1 + 1) (ih h.2) (by omega)
    · simpa only [hv, if_false, wfFrom, Bool.and_eq_true, decide_eq_true_eq] using ⟨⟨h.1.1, hv⟩, ih h.2⟩

theorem Memory.wf_loseIf {m : Memory} {p : Nat → Bool} {f : Nat → Byte} (h : m.wf = true) : (m.loseIf p f).wf = true :=
  wfFrom_loseIf h

/-- Reading after a write: the byte written at its address, and every other byte as before. -/
theorem Memory.get_set {m : Memory} {a c : Nat} {b : Byte} (h : m.wf = true) : (m.set a b).get c = if c = a then b else m.get c := by
  suffices H : ∀ lo, wfFrom lo m = true → (m.set a b).get c = if c = a then b else m.get c from H 0 h
  clear h
  intro lo h
  induction m generalizing lo with
  | nil => by_cases hb : b = unlisted <;> by_cases hc : a = c <;> simp [set, get, hb, hc, eq_comm]
  | cons e m ih =>
    simp only [wfFrom, Bool.and_eq_true, decide_eq_true_eq] at h
    obtain ⟨⟨h1, h2⟩, h3⟩ := h
    have low : ∀ x, x ≤ e.1 → Memory.get m x = unlisted := fun x hx => get_of_lt h3 (by omega)
    rcases Nat.lt_trichotomy a e.1 with ha | ha | ha
    · have hs : Memory.set (e :: m) a b = if b = unlisted then e :: m else (a, b) :: e :: m := by simp [set, ha]
      rw [hs]
      by_cases hc : c = a
      · subst hc
        have : e.1 ≠ c := by omega
        by_cases hb : b = unlisted <;> simp [get, this, low c (by omega), hb]
      · by_cases hb : b = unlisted <;> simp [get, Ne.symm hc, hb, hc]
    · subst ha
      have hs : Memory.set (e :: m) e.1 b = if b = unlisted then m else (e.1, b) :: m := by simp [set]
      rw [hs]
      by_cases hc : c = e.1
      · subst hc
        by_cases hb : b = unlisted <;> simp [get, low e.1 (Nat.le_refl _), hb]
      · by_cases hb : b = unlisted <;> simp [get, Ne.symm hc, hb, hc]
    · have hs : Memory.set (e :: m) a b = e :: Memory.set m a b := by
        have h1 : ¬ a < e.1 := by omega
        have h2 : ¬ a = e.1 := by omega
        simp [set, h1, h2]
      rw [hs]
      by_cases he : e.1 = c
      · have : c ≠ a := by omega
        simp [get, he, this]
      · simp only [get, he, if_false]; exact ih _ h3

theorem Memory.get_setBytes {m : Memory} {a c : Nat} {bs : List Byte} (h : m.wf = true) :
    (m.setBytes a bs).get c = if a ≤ c ∧ c < a + bs.length then bs.getD (c - a) 0 else m.get c := by
  induction bs generalizing m a with
  | nil => simp [setBytes]
  | cons b bs ih =>
    simp only [setBytes, ih (wf_set h), get_set h, List.length_cons]
    by_cases h1 : c = a
    · subst h1; simp
    · by_cases h2 : a + 1 ≤ c ∧ c < a + 1 + bs.length
      · rw [if_pos h2, if_pos (by omega)]
        obtain ⟨k, rfl⟩ : ∃ k, c = a + 1 + k := ⟨c - (a + 1), by omega⟩
        have e1 : a + 1 + k - (a + 1) = k := by omega
        have e2 : a + 1 + k - a = k + 1 := by omega
        rw [e1, e2]; simp
      · rw [if_neg h2, if_neg h1, if_neg (by omega)]

/-- A write outside a byte leaves it, in any memory. -/
theorem Memory.get_set_ne {m : Memory} {a c : Nat} {b : Byte} (h : m.wf = true) (hc : c ≠ a) : (m.set a b).get c = m.get c := by
  rw [get_set h, if_neg hc]

theorem Memory.get_filter {m : Memory} {lo : Nat} (h : wfFrom lo m = true) (p : Nat → Bool) (c : Nat) :
    Memory.get (List.filter (fun ab => !p ab.1) m) c = if p c then unlisted else m.get c := by
  induction m generalizing lo with
  | nil => simp [get]
  | cons e m ih =>
    simp only [wfFrom, Bool.and_eq_true, decide_eq_true_eq] at h
    have ih := ih h.2
    by_cases hp : p e.1
    · simp only [List.filter, hp, Bool.not_true, ih]
      by_cases hc : p c
      · simp [hc]
      · have : e.1 ≠ c := fun hh => hc (hh ▸ hp)
        simp [hc, get, this]
    · simp only [List.filter, hp, Bool.not_false, get]
      by_cases he : e.1 = c
      · subst he; simp [hp]
      · simp [he, ih]

theorem Memory.get_clear {m : Memory} (h : m.wf = true) (lo hi c : Nat) :
    (m.clear lo hi).get c = if lo ≤ c ∧ c < hi then unlisted else m.get c := by
  have := get_filter h (fun a => decide (lo ≤ a) && decide (a < hi)) c
  simpa [clear] using this

theorem Memory.get_clearIf {m : Memory} (h : m.wf = true) (p : Nat → Bool) (c : Nat) :
    (m.clearIf p).get c = if p c then unlisted else m.get c := by
  simpa [clearIf] using get_filter h p c

@[simp] theorem length_getBytes (m : Memory) (a n : Nat) : (m.getBytes a n).length = n := by
  induction n generalizing a with
  | zero => rfl
  | succ n ih => simp [Memory.getBytes, ih]

@[simp] theorem length_natLE (n v : Nat) : (natLE n v).length = n := by
  induction n generalizing v with
  | zero => rfl
  | succ n ih => simp [natLE, ih]

/-- Little-endian bytes spell the number again, cut to their width. -/
theorem leNat_natLE (n v : Nat) : leNat (natLE n v) = v % 256 ^ n := by
  induction n generalizing v with
  | zero => simp [natLE, leNat, Nat.mod_one]
  | succ n ih =>
    have hb : 2 ^ 8 = 256 := rfl
    simp only [natLE, leNat, ih, BitVec.toNat_ofNat, hb, Nat.pow_succ, Nat.mul_comm (256 ^ n)]
    rw [Nat.mod_mul]

end Sys2Proof.Machine
end

