-- ==== Sys2Proof/Laws/State.lean ====
section
/-!
SUPPORT. One lemma for each field of `State` and each update of it: an update changes its own field, which the lemmas at the
end give, and leaves the others.
-/

namespace Sys2Proof.Machine

variable (s : State)


@[simp] theorem State.wf_pending (f : Fld) (v u i : Nat) : (s.wf f v u i).pending = s.pending := rfl
@[simp] theorem State.wf_fresh (f : Fld) (v u i : Nat) : (s.wf f v u i).fresh = s.fresh := rfl
@[simp] theorem State.wf_reply (f : Fld) (v u i : Nat) : (s.wf f v u i).reply = s.reply := rfl
@[simp] theorem State.wf_mem (f : Fld) (v u i : Nat) : (s.wf f v u i).mem = s.mem := rfl
@[simp] theorem State.wf_crc (f : Fld) (v u i : Nat) : (s.wf f v u i).crc = s.crc := rfl
@[simp] theorem State.wf_flags (f : Fld) (v u i : Nat) : (s.wf f v u i).flags = s.flags := rfl
@[simp] theorem State.wf_tables (f : Fld) (v u i : Nat) : (s.wf f v u i).tables = s.tables := rfl
@[simp] theorem State.wf_nextTables (f : Fld) (v u i : Nat) : (s.wf f v u i).nextTables = s.nextTables := rfl
@[simp] theorem State.wf_groveSt (f : Fld) (v u i : Nat) : (s.wf f v u i).groveSt = s.groveSt := rfl
@[simp] theorem State.wf_nodeQ (f : Fld) (v u i : Nat) : (s.wf f v u i).nodeQ = s.nodeQ := rfl
@[simp] theorem State.wf_qDepth (f : Fld) (v u i : Nat) : (s.wf f v u i).qDepth = s.qDepth := rfl
@[simp] theorem State.wf_entries (f : Fld) (v u i : Nat) : (s.wf f v u i).entries = s.entries := rfl
@[simp] theorem State.wf_nextEntry (f : Fld) (v u i : Nat) : (s.wf f v u i).nextEntry = s.nextEntry := rfl
@[simp] theorem State.wf_waiting (f : Fld) (v u i : Nat) : (s.wf f v u i).waiting = s.waiting := rfl
@[simp] theorem State.wf_cores (f : Fld) (v u i : Nat) : (s.wf f v u i).cores = s.cores := rfl
@[simp] theorem State.wf_halves (f : Fld) (v u i : Nat) : (s.wf f v u i).halves = s.halves := rfl
@[simp] theorem State.wf_streams (f : Fld) (v u i : Nat) : (s.wf f v u i).streams = s.streams := rfl
@[simp] theorem State.wf_host (f : Fld) (v u i : Nat) : (s.wf f v u i).host = s.host := rfl
@[simp] theorem State.wf_held (f : Fld) (v u i : Nat) : (s.wf f v u i).held = s.held := rfl
@[simp] theorem State.wf_fab (f : Fld) (v u i : Nat) : (s.wf f v u i).fab = s.fab := rfl
@[simp] theorem State.wf_privFaults (f : Fld) (v u i : Nat) : (s.wf f v u i).privFaults = s.privFaults := rfl
@[simp] theorem State.wf_fence (f : Fld) (v u i : Nat) : (s.wf f v u i).fence = s.fence := rfl
@[simp] theorem State.wf_beat (f : Fld) (v u i : Nat) : (s.wf f v u i).beat = s.beat := rfl
@[simp] theorem State.wf_dx (f : Fld) (v u i : Nat) : (s.wf f v u i).dx = s.dx := rfl
@[simp] theorem State.wf_pmc (f : Fld) (v u i : Nat) : (s.wf f v u i).pmc = s.pmc := rfl
@[simp] theorem State.wf_sec (f : Fld) (v u i : Nat) : (s.wf f v u i).sec = s.sec := rfl
@[simp] theorem State.wf_clk (f : Fld) (v u i : Nat) : (s.wf f v u i).clk = s.clk := rfl
@[simp] theorem State.wf_mod (f : Fld) (v u i : Nat) : (s.wf f v u i).mod = s.mod := rfl

@[simp] theorem State.incSat_pending (f : Fld) (n u i : Nat) : (s.incSat f n u i).pending = s.pending := rfl
@[simp] theorem State.incSat_fresh (f : Fld) (n u i : Nat) : (s.incSat f n u i).fresh = s.fresh := rfl
@[simp] theorem State.incSat_reply (f : Fld) (n u i : Nat) : (s.incSat f n u i).reply = s.reply := rfl
@[simp] theorem State.incSat_mem (f : Fld) (n u i : Nat) : (s.incSat f n u i).mem = s.mem := rfl
@[simp] theorem State.incSat_crc (f : Fld) (n u i : Nat) : (s.incSat f n u i).crc = s.crc := rfl
@[simp] theorem State.incSat_flags (f : Fld) (n u i : Nat) : (s.incSat f n u i).flags = s.flags := rfl
@[simp] theorem State.incSat_tables (f : Fld) (n u i : Nat) : (s.incSat f n u i).tables = s.tables := rfl
@[simp] theorem State.incSat_nextTables (f : Fld) (n u i : Nat) : (s.incSat f n u i).nextTables = s.nextTables := rfl
@[simp] theorem State.incSat_groveSt (f : Fld) (n u i : Nat) : (s.incSat f n u i).groveSt = s.groveSt := rfl
@[simp] theorem State.incSat_nodeQ (f : Fld) (n u i : Nat) : (s.incSat f n u i).nodeQ = s.nodeQ := rfl
@[simp] theorem State.incSat_qDepth (f : Fld) (n u i : Nat) : (s.incSat f n u i).qDepth = s.qDepth := rfl
@[simp] theorem State.incSat_entries (f : Fld) (n u i : Nat) : (s.incSat f n u i).entries = s.entries := rfl
@[simp] theorem State.incSat_nextEntry (f : Fld) (n u i : Nat) : (s.incSat f n u i).nextEntry = s.nextEntry := rfl
@[simp] theorem State.incSat_waiting (f : Fld) (n u i : Nat) : (s.incSat f n u i).waiting = s.waiting := rfl
@[simp] theorem State.incSat_cores (f : Fld) (n u i : Nat) : (s.incSat f n u i).cores = s.cores := rfl
@[simp] theorem State.incSat_halves (f : Fld) (n u i : Nat) : (s.incSat f n u i).halves = s.halves := rfl
@[simp] theorem State.incSat_streams (f : Fld) (n u i : Nat) : (s.incSat f n u i).streams = s.streams := rfl
@[simp] theorem State.incSat_host (f : Fld) (n u i : Nat) : (s.incSat f n u i).host = s.host := rfl
@[simp] theorem State.incSat_held (f : Fld) (n u i : Nat) : (s.incSat f n u i).held = s.held := rfl
@[simp] theorem State.incSat_fab (f : Fld) (n u i : Nat) : (s.incSat f n u i).fab = s.fab := rfl
@[simp] theorem State.incSat_privFaults (f : Fld) (n u i : Nat) : (s.incSat f n u i).privFaults = s.privFaults := rfl
@[simp] theorem State.incSat_fence (f : Fld) (n u i : Nat) : (s.incSat f n u i).fence = s.fence := rfl
@[simp] theorem State.incSat_beat (f : Fld) (n u i : Nat) : (s.incSat f n u i).beat = s.beat := rfl
@[simp] theorem State.incSat_dx (f : Fld) (n u i : Nat) : (s.incSat f n u i).dx = s.dx := rfl
@[simp] theorem State.incSat_pmc (f : Fld) (n u i : Nat) : (s.incSat f n u i).pmc = s.pmc := rfl
@[simp] theorem State.incSat_sec (f : Fld) (n u i : Nat) : (s.incSat f n u i).sec = s.sec := rfl
@[simp] theorem State.incSat_clk (f : Fld) (n u i : Nat) : (s.incSat f n u i).clk = s.clk := rfl
@[simp] theorem State.incSat_mod (f : Fld) (n u i : Nat) : (s.incSat f n u i).mod = s.mod := rfl

@[simp] theorem State.incWrap_pending (f : Fld) (n u i : Nat) : (s.incWrap f n u i).pending = s.pending := rfl
@[simp] theorem State.incWrap_fresh (f : Fld) (n u i : Nat) : (s.incWrap f n u i).fresh = s.fresh := rfl
@[simp] theorem State.incWrap_reply (f : Fld) (n u i : Nat) : (s.incWrap f n u i).reply = s.reply := rfl
@[simp] theorem State.incWrap_mem (f : Fld) (n u i : Nat) : (s.incWrap f n u i).mem = s.mem := rfl
@[simp] theorem State.incWrap_crc (f : Fld) (n u i : Nat) : (s.incWrap f n u i).crc = s.crc := rfl
@[simp] theorem State.incWrap_flags (f : Fld) (n u i : Nat) : (s.incWrap f n u i).flags = s.flags := rfl
@[simp] theorem State.incWrap_tables (f : Fld) (n u i : Nat) : (s.incWrap f n u i).tables = s.tables := rfl
@[simp] theorem State.incWrap_nextTables (f : Fld) (n u i : Nat) : (s.incWrap f n u i).nextTables = s.nextTables := rfl
@[simp] theorem State.incWrap_groveSt (f : Fld) (n u i : Nat) : (s.incWrap f n u i).groveSt = s.groveSt := rfl
@[simp] theorem State.incWrap_nodeQ (f : Fld) (n u i : Nat) : (s.incWrap f n u i).nodeQ = s.nodeQ := rfl
@[simp] theorem State.incWrap_qDepth (f : Fld) (n u i : Nat) : (s.incWrap f n u i).qDepth = s.qDepth := rfl
@[simp] theorem State.incWrap_entries (f : Fld) (n u i : Nat) : (s.incWrap f n u i).entries = s.entries := rfl
@[simp] theorem State.incWrap_nextEntry (f : Fld) (n u i : Nat) : (s.incWrap f n u i).nextEntry = s.nextEntry := rfl
@[simp] theorem State.incWrap_waiting (f : Fld) (n u i : Nat) : (s.incWrap f n u i).waiting = s.waiting := rfl
@[simp] theorem State.incWrap_cores (f : Fld) (n u i : Nat) : (s.incWrap f n u i).cores = s.cores := rfl
@[simp] theorem State.incWrap_halves (f : Fld) (n u i : Nat) : (s.incWrap f n u i).halves = s.halves := rfl
@[simp] theorem State.incWrap_streams (f : Fld) (n u i : Nat) : (s.incWrap f n u i).streams = s.streams := rfl
@[simp] theorem State.incWrap_host (f : Fld) (n u i : Nat) : (s.incWrap f n u i).host = s.host := rfl
@[simp] theorem State.incWrap_held (f : Fld) (n u i : Nat) : (s.incWrap f n u i).held = s.held := rfl
@[simp] theorem State.incWrap_fab (f : Fld) (n u i : Nat) : (s.incWrap f n u i).fab = s.fab := rfl
@[simp] theorem State.incWrap_privFaults (f : Fld) (n u i : Nat) : (s.incWrap f n u i).privFaults = s.privFaults := rfl
@[simp] theorem State.incWrap_fence (f : Fld) (n u i : Nat) : (s.incWrap f n u i).fence = s.fence := rfl
@[simp] theorem State.incWrap_beat (f : Fld) (n u i : Nat) : (s.incWrap f n u i).beat = s.beat := rfl
@[simp] theorem State.incWrap_dx (f : Fld) (n u i : Nat) : (s.incWrap f n u i).dx = s.dx := rfl
@[simp] theorem State.incWrap_pmc (f : Fld) (n u i : Nat) : (s.incWrap f n u i).pmc = s.pmc := rfl
@[simp] theorem State.incWrap_sec (f : Fld) (n u i : Nat) : (s.incWrap f n u i).sec = s.sec := rfl
@[simp] theorem State.incWrap_clk (f : Fld) (n u i : Nat) : (s.incWrap f n u i).clk = s.clk := rfl
@[simp] theorem State.incWrap_mod (f : Fld) (n u i : Nat) : (s.incWrap f n u i).mod = s.mod := rfl

@[simp] theorem State.wfBoth_pending (f : Fld) (v i : Nat) : (s.wfBoth f v i).pending = s.pending := rfl
@[simp] theorem State.wfBoth_fresh (f : Fld) (v i : Nat) : (s.wfBoth f v i).fresh = s.fresh := rfl
@[simp] theorem State.wfBoth_reply (f : Fld) (v i : Nat) : (s.wfBoth f v i).reply = s.reply := rfl
@[simp] theorem State.wfBoth_mem (f : Fld) (v i : Nat) : (s.wfBoth f v i).mem = s.mem := rfl
@[simp] theorem State.wfBoth_crc (f : Fld) (v i : Nat) : (s.wfBoth f v i).crc = s.crc := rfl
@[simp] theorem State.wfBoth_flags (f : Fld) (v i : Nat) : (s.wfBoth f v i).flags = s.flags := rfl
@[simp] theorem State.wfBoth_tables (f : Fld) (v i : Nat) : (s.wfBoth f v i).tables = s.tables := rfl
@[simp] theorem State.wfBoth_nextTables (f : Fld) (v i : Nat) : (s.wfBoth f v i).nextTables = s.nextTables := rfl
@[simp] theorem State.wfBoth_groveSt (f : Fld) (v i : Nat) : (s.wfBoth f v i).groveSt = s.groveSt := rfl
@[simp] theorem State.wfBoth_nodeQ (f : Fld) (v i : Nat) : (s.wfBoth f v i).nodeQ = s.nodeQ := rfl
@[simp] theorem State.wfBoth_qDepth (f : Fld) (v i : Nat) : (s.wfBoth f v i).qDepth = s.qDepth := rfl
@[simp] theorem State.wfBoth_entries (f : Fld) (v i : Nat) : (s.wfBoth f v i).entries = s.entries := rfl
@[simp] theorem State.wfBoth_nextEntry (f : Fld) (v i : Nat) : (s.wfBoth f v i).nextEntry = s.nextEntry := rfl
@[simp] theorem State.wfBoth_waiting (f : Fld) (v i : Nat) : (s.wfBoth f v i).waiting = s.waiting := rfl
@[simp] theorem State.wfBoth_cores (f : Fld) (v i : Nat) : (s.wfBoth f v i).cores = s.cores := rfl
@[simp] theorem State.wfBoth_halves (f : Fld) (v i : Nat) : (s.wfBoth f v i).halves = s.halves := rfl
@[simp] theorem State.wfBoth_streams (f : Fld) (v i : Nat) : (s.wfBoth f v i).streams = s.streams := rfl
@[simp] theorem State.wfBoth_host (f : Fld) (v i : Nat) : (s.wfBoth f v i).host = s.host := rfl
@[simp] theorem State.wfBoth_held (f : Fld) (v i : Nat) : (s.wfBoth f v i).held = s.held := rfl
@[simp] theorem State.wfBoth_fab (f : Fld) (v i : Nat) : (s.wfBoth f v i).fab = s.fab := rfl
@[simp] theorem State.wfBoth_privFaults (f : Fld) (v i : Nat) : (s.wfBoth f v i).privFaults = s.privFaults := rfl
@[simp] theorem State.wfBoth_fence (f : Fld) (v i : Nat) : (s.wfBoth f v i).fence = s.fence := rfl
@[simp] theorem State.wfBoth_beat (f : Fld) (v i : Nat) : (s.wfBoth f v i).beat = s.beat := rfl
@[simp] theorem State.wfBoth_dx (f : Fld) (v i : Nat) : (s.wfBoth f v i).dx = s.dx := rfl
@[simp] theorem State.wfBoth_pmc (f : Fld) (v i : Nat) : (s.wfBoth f v i).pmc = s.pmc := rfl
@[simp] theorem State.wfBoth_sec (f : Fld) (v i : Nat) : (s.wfBoth f v i).sec = s.sec := rfl
@[simp] theorem State.wfBoth_clk (f : Fld) (v i : Nat) : (s.wfBoth f v i).clk = s.clk := rfl
@[simp] theorem State.wfBoth_mod (f : Fld) (v i : Nat) : (s.wfBoth f v i).mod = s.mod := rfl

@[simp] theorem State.resetRegs_pending (p : Fld → Nat → Nat → Bool) : (s.resetRegs p).pending = s.pending := rfl
@[simp] theorem State.resetRegs_fresh (p : Fld → Nat → Nat → Bool) : (s.resetRegs p).fresh = s.fresh := rfl
@[simp] theorem State.resetRegs_reply (p : Fld → Nat → Nat → Bool) : (s.resetRegs p).reply = s.reply := rfl
@[simp] theorem State.resetRegs_mem (p : Fld → Nat → Nat → Bool) : (s.resetRegs p).mem = s.mem := rfl
@[simp] theorem State.resetRegs_crc (p : Fld → Nat → Nat → Bool) : (s.resetRegs p).crc = s.crc := rfl
@[simp] theorem State.resetRegs_flags (p : Fld → Nat → Nat → Bool) : (s.resetRegs p).flags = s.flags := rfl
@[simp] theorem State.resetRegs_tables (p : Fld → Nat → Nat → Bool) : (s.resetRegs p).tables = s.tables := rfl
@[simp] theorem State.resetRegs_nextTables (p : Fld → Nat → Nat → Bool) : (s.resetRegs p).nextTables = s.nextTables := rfl
@[simp] theorem State.resetRegs_groveSt (p : Fld → Nat → Nat → Bool) : (s.resetRegs p).groveSt = s.groveSt := rfl
@[simp] theorem State.resetRegs_nodeQ (p : Fld → Nat → Nat → Bool) : (s.resetRegs p).nodeQ = s.nodeQ := rfl
@[simp] theorem State.resetRegs_qDepth (p : Fld → Nat → Nat → Bool) : (s.resetRegs p).qDepth = s.qDepth := rfl
@[simp] theorem State.resetRegs_entries (p : Fld → Nat → Nat → Bool) : (s.resetRegs p).entries = s.entries := rfl
@[simp] theorem State.resetRegs_nextEntry (p : Fld → Nat → Nat → Bool) : (s.resetRegs p).nextEntry = s.nextEntry := rfl
@[simp] theorem State.resetRegs_waiting (p : Fld → Nat → Nat → Bool) : (s.resetRegs p).waiting = s.waiting := rfl
@[simp] theorem State.resetRegs_cores (p : Fld → Nat → Nat → Bool) : (s.resetRegs p).cores = s.cores := rfl
@[simp] theorem State.resetRegs_halves (p : Fld → Nat → Nat → Bool) : (s.resetRegs p).halves = s.halves := rfl
@[simp] theorem State.resetRegs_streams (p : Fld → Nat → Nat → Bool) : (s.resetRegs p).streams = s.streams := rfl
@[simp] theorem State.resetRegs_host (p : Fld → Nat → Nat → Bool) : (s.resetRegs p).host = s.host := rfl
@[simp] theorem State.resetRegs_held (p : Fld → Nat → Nat → Bool) : (s.resetRegs p).held = s.held := rfl
@[simp] theorem State.resetRegs_fab (p : Fld → Nat → Nat → Bool) : (s.resetRegs p).fab = s.fab := rfl
@[simp] theorem State.resetRegs_privFaults (p : Fld → Nat → Nat → Bool) : (s.resetRegs p).privFaults = s.privFaults := rfl
@[simp] theorem State.resetRegs_fence (p : Fld → Nat → Nat → Bool) : (s.resetRegs p).fence = s.fence := rfl
@[simp] theorem State.resetRegs_beat (p : Fld → Nat → Nat → Bool) : (s.resetRegs p).beat = s.beat := rfl
@[simp] theorem State.resetRegs_dx (p : Fld → Nat → Nat → Bool) : (s.resetRegs p).dx = s.dx := rfl
@[simp] theorem State.resetRegs_pmc (p : Fld → Nat → Nat → Bool) : (s.resetRegs p).pmc = s.pmc := rfl
@[simp] theorem State.resetRegs_sec (p : Fld → Nat → Nat → Bool) : (s.resetRegs p).sec = s.sec := rfl
@[simp] theorem State.resetRegs_clk (p : Fld → Nat → Nat → Bool) : (s.resetRegs p).clk = s.clk := rfl
@[simp] theorem State.resetRegs_mod (p : Fld → Nat → Nat → Bool) : (s.resetRegs p).mod = s.mod := rfl

@[simp] theorem State.setCore_pending (c : CoreId) (x : CoreSt) : (s.setCore c x).pending = s.pending := rfl
@[simp] theorem State.setCore_fresh (c : CoreId) (x : CoreSt) : (s.setCore c x).fresh = s.fresh := rfl
@[simp] theorem State.setCore_reply (c : CoreId) (x : CoreSt) : (s.setCore c x).reply = s.reply := rfl
@[simp] theorem State.setCore_regs (c : CoreId) (x : CoreSt) : (s.setCore c x).regs = s.regs := rfl
@[simp] theorem State.setCore_mem (c : CoreId) (x : CoreSt) : (s.setCore c x).mem = s.mem := rfl
@[simp] theorem State.setCore_crc (c : CoreId) (x : CoreSt) : (s.setCore c x).crc = s.crc := rfl
@[simp] theorem State.setCore_flags (c : CoreId) (x : CoreSt) : (s.setCore c x).flags = s.flags := rfl
@[simp] theorem State.setCore_tables (c : CoreId) (x : CoreSt) : (s.setCore c x).tables = s.tables := rfl
@[simp] theorem State.setCore_nextTables (c : CoreId) (x : CoreSt) : (s.setCore c x).nextTables = s.nextTables := rfl
@[simp] theorem State.setCore_groveSt (c : CoreId) (x : CoreSt) : (s.setCore c x).groveSt = s.groveSt := rfl
@[simp] theorem State.setCore_nodeQ (c : CoreId) (x : CoreSt) : (s.setCore c x).nodeQ = s.nodeQ := rfl
@[simp] theorem State.setCore_qDepth (c : CoreId) (x : CoreSt) : (s.setCore c x).qDepth = s.qDepth := rfl
@[simp] theorem State.setCore_entries (c : CoreId) (x : CoreSt) : (s.setCore c x).entries = s.entries := rfl
@[simp] theorem State.setCore_nextEntry (c : CoreId) (x : CoreSt) : (s.setCore c x).nextEntry = s.nextEntry := rfl
@[simp] theorem State.setCore_waiting (c : CoreId) (x : CoreSt) : (s.setCore c x).waiting = s.waiting := rfl
@[simp] theorem State.setCore_halves (c : CoreId) (x : CoreSt) : (s.setCore c x).halves = s.halves := rfl
@[simp] theorem State.setCore_streams (c : CoreId) (x : CoreSt) : (s.setCore c x).streams = s.streams := rfl
@[simp] theorem State.setCore_host (c : CoreId) (x : CoreSt) : (s.setCore c x).host = s.host := rfl
@[simp] theorem State.setCore_held (c : CoreId) (x : CoreSt) : (s.setCore c x).held = s.held := rfl
@[simp] theorem State.setCore_fab (c : CoreId) (x : CoreSt) : (s.setCore c x).fab = s.fab := rfl
@[simp] theorem State.setCore_privFaults (c : CoreId) (x : CoreSt) : (s.setCore c x).privFaults = s.privFaults := rfl
@[simp] theorem State.setCore_fence (c : CoreId) (x : CoreSt) : (s.setCore c x).fence = s.fence := rfl
@[simp] theorem State.setCore_beat (c : CoreId) (x : CoreSt) : (s.setCore c x).beat = s.beat := rfl
@[simp] theorem State.setCore_dx (c : CoreId) (x : CoreSt) : (s.setCore c x).dx = s.dx := rfl
@[simp] theorem State.setCore_pmc (c : CoreId) (x : CoreSt) : (s.setCore c x).pmc = s.pmc := rfl
@[simp] theorem State.setCore_sec (c : CoreId) (x : CoreSt) : (s.setCore c x).sec = s.sec := rfl
@[simp] theorem State.setCore_clk (c : CoreId) (x : CoreSt) : (s.setCore c x).clk = s.clk := rfl
@[simp] theorem State.setCore_mod (c : CoreId) (x : CoreSt) : (s.setCore c x).mod = s.mod := rfl

@[simp] theorem State.setCtx_pending (c : CoreId) (n : CtxId) (x : Ctx) : (s.setCtx c n x).pending = s.pending := rfl
@[simp] theorem State.setCtx_fresh (c : CoreId) (n : CtxId) (x : Ctx) : (s.setCtx c n x).fresh = s.fresh := rfl
@[simp] theorem State.setCtx_reply (c : CoreId) (n : CtxId) (x : Ctx) : (s.setCtx c n x).reply = s.reply := rfl
@[simp] theorem State.setCtx_regs (c : CoreId) (n : CtxId) (x : Ctx) : (s.setCtx c n x).regs = s.regs := rfl
@[simp] theorem State.setCtx_mem (c : CoreId) (n : CtxId) (x : Ctx) : (s.setCtx c n x).mem = s.mem := rfl
@[simp] theorem State.setCtx_crc (c : CoreId) (n : CtxId) (x : Ctx) : (s.setCtx c n x).crc = s.crc := rfl
@[simp] theorem State.setCtx_flags (c : CoreId) (n : CtxId) (x : Ctx) : (s.setCtx c n x).flags = s.flags := rfl
@[simp] theorem State.setCtx_tables (c : CoreId) (n : CtxId) (x : Ctx) : (s.setCtx c n x).tables = s.tables := rfl
@[simp] theorem State.setCtx_nextTables (c : CoreId) (n : CtxId) (x : Ctx) : (s.setCtx c n x).nextTables = s.nextTables := rfl
@[simp] theorem State.setCtx_groveSt (c : CoreId) (n : CtxId) (x : Ctx) : (s.setCtx c n x).groveSt = s.groveSt := rfl
@[simp] theorem State.setCtx_nodeQ (c : CoreId) (n : CtxId) (x : Ctx) : (s.setCtx c n x).nodeQ = s.nodeQ := rfl
@[simp] theorem State.setCtx_qDepth (c : CoreId) (n : CtxId) (x : Ctx) : (s.setCtx c n x).qDepth = s.qDepth := rfl
@[simp] theorem State.setCtx_entries (c : CoreId) (n : CtxId) (x : Ctx) : (s.setCtx c n x).entries = s.entries := rfl
@[simp] theorem State.setCtx_nextEntry (c : CoreId) (n : CtxId) (x : Ctx) : (s.setCtx c n x).nextEntry = s.nextEntry := rfl
@[simp] theorem State.setCtx_waiting (c : CoreId) (n : CtxId) (x : Ctx) : (s.setCtx c n x).waiting = s.waiting := rfl
@[simp] theorem State.setCtx_halves (c : CoreId) (n : CtxId) (x : Ctx) : (s.setCtx c n x).halves = s.halves := rfl
@[simp] theorem State.setCtx_streams (c : CoreId) (n : CtxId) (x : Ctx) : (s.setCtx c n x).streams = s.streams := rfl
@[simp] theorem State.setCtx_host (c : CoreId) (n : CtxId) (x : Ctx) : (s.setCtx c n x).host = s.host := rfl
@[simp] theorem State.setCtx_held (c : CoreId) (n : CtxId) (x : Ctx) : (s.setCtx c n x).held = s.held := rfl
@[simp] theorem State.setCtx_fab (c : CoreId) (n : CtxId) (x : Ctx) : (s.setCtx c n x).fab = s.fab := rfl
@[simp] theorem State.setCtx_privFaults (c : CoreId) (n : CtxId) (x : Ctx) : (s.setCtx c n x).privFaults = s.privFaults := rfl
@[simp] theorem State.setCtx_fence (c : CoreId) (n : CtxId) (x : Ctx) : (s.setCtx c n x).fence = s.fence := rfl
@[simp] theorem State.setCtx_beat (c : CoreId) (n : CtxId) (x : Ctx) : (s.setCtx c n x).beat = s.beat := rfl
@[simp] theorem State.setCtx_dx (c : CoreId) (n : CtxId) (x : Ctx) : (s.setCtx c n x).dx = s.dx := rfl
@[simp] theorem State.setCtx_pmc (c : CoreId) (n : CtxId) (x : Ctx) : (s.setCtx c n x).pmc = s.pmc := rfl
@[simp] theorem State.setCtx_sec (c : CoreId) (n : CtxId) (x : Ctx) : (s.setCtx c n x).sec = s.sec := rfl
@[simp] theorem State.setCtx_clk (c : CoreId) (n : CtxId) (x : Ctx) : (s.setCtx c n x).clk = s.clk := rfl
@[simp] theorem State.setCtx_mod (c : CoreId) (n : CtxId) (x : Ctx) : (s.setCtx c n x).mod = s.mod := rfl

@[simp] theorem State.setHalf_pending (h : HalfId) (x : Half) : (s.setHalf h x).pending = s.pending := rfl
@[simp] theorem State.setHalf_fresh (h : HalfId) (x : Half) : (s.setHalf h x).fresh = s.fresh := rfl
@[simp] theorem State.setHalf_reply (h : HalfId) (x : Half) : (s.setHalf h x).reply = s.reply := rfl
@[simp] theorem State.setHalf_regs (h : HalfId) (x : Half) : (s.setHalf h x).regs = s.regs := rfl
@[simp] theorem State.setHalf_mem (h : HalfId) (x : Half) : (s.setHalf h x).mem = s.mem := rfl
@[simp] theorem State.setHalf_crc (h : HalfId) (x : Half) : (s.setHalf h x).crc = s.crc := rfl
@[simp] theorem State.setHalf_flags (h : HalfId) (x : Half) : (s.setHalf h x).flags = s.flags := rfl
@[simp] theorem State.setHalf_tables (h : HalfId) (x : Half) : (s.setHalf h x).tables = s.tables := rfl
@[simp] theorem State.setHalf_nextTables (h : HalfId) (x : Half) : (s.setHalf h x).nextTables = s.nextTables := rfl
@[simp] theorem State.setHalf_groveSt (h : HalfId) (x : Half) : (s.setHalf h x).groveSt = s.groveSt := rfl
@[simp] theorem State.setHalf_nodeQ (h : HalfId) (x : Half) : (s.setHalf h x).nodeQ = s.nodeQ := rfl
@[simp] theorem State.setHalf_qDepth (h : HalfId) (x : Half) : (s.setHalf h x).qDepth = s.qDepth := rfl
@[simp] theorem State.setHalf_entries (h : HalfId) (x : Half) : (s.setHalf h x).entries = s.entries := rfl
@[simp] theorem State.setHalf_nextEntry (h : HalfId) (x : Half) : (s.setHalf h x).nextEntry = s.nextEntry := rfl
@[simp] theorem State.setHalf_waiting (h : HalfId) (x : Half) : (s.setHalf h x).waiting = s.waiting := rfl
@[simp] theorem State.setHalf_cores (h : HalfId) (x : Half) : (s.setHalf h x).cores = s.cores := rfl
@[simp] theorem State.setHalf_streams (h : HalfId) (x : Half) : (s.setHalf h x).streams = s.streams := rfl
@[simp] theorem State.setHalf_host (h : HalfId) (x : Half) : (s.setHalf h x).host = s.host := rfl
@[simp] theorem State.setHalf_held (h : HalfId) (x : Half) : (s.setHalf h x).held = s.held := rfl
@[simp] theorem State.setHalf_fab (h : HalfId) (x : Half) : (s.setHalf h x).fab = s.fab := rfl
@[simp] theorem State.setHalf_privFaults (h : HalfId) (x : Half) : (s.setHalf h x).privFaults = s.privFaults := rfl
@[simp] theorem State.setHalf_fence (h : HalfId) (x : Half) : (s.setHalf h x).fence = s.fence := rfl
@[simp] theorem State.setHalf_beat (h : HalfId) (x : Half) : (s.setHalf h x).beat = s.beat := rfl
@[simp] theorem State.setHalf_dx (h : HalfId) (x : Half) : (s.setHalf h x).dx = s.dx := rfl
@[simp] theorem State.setHalf_pmc (h : HalfId) (x : Half) : (s.setHalf h x).pmc = s.pmc := rfl
@[simp] theorem State.setHalf_sec (h : HalfId) (x : Half) : (s.setHalf h x).sec = s.sec := rfl
@[simp] theorem State.setHalf_clk (h : HalfId) (x : Half) : (s.setHalf h x).clk = s.clk := rfl
@[simp] theorem State.setHalf_mod (h : HalfId) (x : Half) : (s.setHalf h x).mod = s.mod := rfl

@[simp] theorem State.setFlagSt_pending (f : FlagId) (x : Flag) : (s.setFlagSt f x).pending = s.pending := rfl
@[simp] theorem State.setFlagSt_fresh (f : FlagId) (x : Flag) : (s.setFlagSt f x).fresh = s.fresh := rfl
@[simp] theorem State.setFlagSt_reply (f : FlagId) (x : Flag) : (s.setFlagSt f x).reply = s.reply := rfl
@[simp] theorem State.setFlagSt_regs (f : FlagId) (x : Flag) : (s.setFlagSt f x).regs = s.regs := rfl
@[simp] theorem State.setFlagSt_mem (f : FlagId) (x : Flag) : (s.setFlagSt f x).mem = s.mem := rfl
@[simp] theorem State.setFlagSt_crc (f : FlagId) (x : Flag) : (s.setFlagSt f x).crc = s.crc := rfl
@[simp] theorem State.setFlagSt_tables (f : FlagId) (x : Flag) : (s.setFlagSt f x).tables = s.tables := rfl
@[simp] theorem State.setFlagSt_nextTables (f : FlagId) (x : Flag) : (s.setFlagSt f x).nextTables = s.nextTables := rfl
@[simp] theorem State.setFlagSt_groveSt (f : FlagId) (x : Flag) : (s.setFlagSt f x).groveSt = s.groveSt := rfl
@[simp] theorem State.setFlagSt_nodeQ (f : FlagId) (x : Flag) : (s.setFlagSt f x).nodeQ = s.nodeQ := rfl
@[simp] theorem State.setFlagSt_qDepth (f : FlagId) (x : Flag) : (s.setFlagSt f x).qDepth = s.qDepth := rfl
@[simp] theorem State.setFlagSt_entries (f : FlagId) (x : Flag) : (s.setFlagSt f x).entries = s.entries := rfl
@[simp] theorem State.setFlagSt_nextEntry (f : FlagId) (x : Flag) : (s.setFlagSt f x).nextEntry = s.nextEntry := rfl
@[simp] theorem State.setFlagSt_waiting (f : FlagId) (x : Flag) : (s.setFlagSt f x).waiting = s.waiting := rfl
@[simp] theorem State.setFlagSt_cores (f : FlagId) (x : Flag) : (s.setFlagSt f x).cores = s.cores := rfl
@[simp] theorem State.setFlagSt_halves (f : FlagId) (x : Flag) : (s.setFlagSt f x).halves = s.halves := rfl
@[simp] theorem State.setFlagSt_streams (f : FlagId) (x : Flag) : (s.setFlagSt f x).streams = s.streams := rfl
@[simp] theorem State.setFlagSt_host (f : FlagId) (x : Flag) : (s.setFlagSt f x).host = s.host := rfl
@[simp] theorem State.setFlagSt_held (f : FlagId) (x : Flag) : (s.setFlagSt f x).held = s.held := rfl
@[simp] theorem State.setFlagSt_fab (f : FlagId) (x : Flag) : (s.setFlagSt f x).fab = s.fab := rfl
@[simp] theorem State.setFlagSt_privFaults (f : FlagId) (x : Flag) : (s.setFlagSt f x).privFaults = s.privFaults := rfl
@[simp] theorem State.setFlagSt_fence (f : FlagId) (x : Flag) : (s.setFlagSt f x).fence = s.fence := rfl
@[simp] theorem State.setFlagSt_beat (f : FlagId) (x : Flag) : (s.setFlagSt f x).beat = s.beat := rfl
@[simp] theorem State.setFlagSt_dx (f : FlagId) (x : Flag) : (s.setFlagSt f x).dx = s.dx := rfl
@[simp] theorem State.setFlagSt_pmc (f : FlagId) (x : Flag) : (s.setFlagSt f x).pmc = s.pmc := rfl
@[simp] theorem State.setFlagSt_sec (f : FlagId) (x : Flag) : (s.setFlagSt f x).sec = s.sec := rfl
@[simp] theorem State.setFlagSt_clk (f : FlagId) (x : Flag) : (s.setFlagSt f x).clk = s.clk := rfl
@[simp] theorem State.setFlagSt_mod (f : FlagId) (x : Flag) : (s.setFlagSt f x).mod = s.mod := rfl

@[simp] theorem State.setPll_pending (h : HalfId) (n : PllId) (x : Pll) : (s.setPll h n x).pending = s.pending := rfl
@[simp] theorem State.setPll_fresh (h : HalfId) (n : PllId) (x : Pll) : (s.setPll h n x).fresh = s.fresh := rfl
@[simp] theorem State.setPll_reply (h : HalfId) (n : PllId) (x : Pll) : (s.setPll h n x).reply = s.reply := rfl
@[simp] theorem State.setPll_regs (h : HalfId) (n : PllId) (x : Pll) : (s.setPll h n x).regs = s.regs := rfl
@[simp] theorem State.setPll_mem (h : HalfId) (n : PllId) (x : Pll) : (s.setPll h n x).mem = s.mem := rfl
@[simp] theorem State.setPll_crc (h : HalfId) (n : PllId) (x : Pll) : (s.setPll h n x).crc = s.crc := rfl
@[simp] theorem State.setPll_flags (h : HalfId) (n : PllId) (x : Pll) : (s.setPll h n x).flags = s.flags := rfl
@[simp] theorem State.setPll_tables (h : HalfId) (n : PllId) (x : Pll) : (s.setPll h n x).tables = s.tables := rfl
@[simp] theorem State.setPll_nextTables (h : HalfId) (n : PllId) (x : Pll) : (s.setPll h n x).nextTables = s.nextTables := rfl
@[simp] theorem State.setPll_groveSt (h : HalfId) (n : PllId) (x : Pll) : (s.setPll h n x).groveSt = s.groveSt := rfl
@[simp] theorem State.setPll_nodeQ (h : HalfId) (n : PllId) (x : Pll) : (s.setPll h n x).nodeQ = s.nodeQ := rfl
@[simp] theorem State.setPll_qDepth (h : HalfId) (n : PllId) (x : Pll) : (s.setPll h n x).qDepth = s.qDepth := rfl
@[simp] theorem State.setPll_entries (h : HalfId) (n : PllId) (x : Pll) : (s.setPll h n x).entries = s.entries := rfl
@[simp] theorem State.setPll_nextEntry (h : HalfId) (n : PllId) (x : Pll) : (s.setPll h n x).nextEntry = s.nextEntry := rfl
@[simp] theorem State.setPll_waiting (h : HalfId) (n : PllId) (x : Pll) : (s.setPll h n x).waiting = s.waiting := rfl
@[simp] theorem State.setPll_cores (h : HalfId) (n : PllId) (x : Pll) : (s.setPll h n x).cores = s.cores := rfl
@[simp] theorem State.setPll_halves (h : HalfId) (n : PllId) (x : Pll) : (s.setPll h n x).halves = s.halves := rfl
@[simp] theorem State.setPll_streams (h : HalfId) (n : PllId) (x : Pll) : (s.setPll h n x).streams = s.streams := rfl
@[simp] theorem State.setPll_host (h : HalfId) (n : PllId) (x : Pll) : (s.setPll h n x).host = s.host := rfl
@[simp] theorem State.setPll_held (h : HalfId) (n : PllId) (x : Pll) : (s.setPll h n x).held = s.held := rfl
@[simp] theorem State.setPll_fab (h : HalfId) (n : PllId) (x : Pll) : (s.setPll h n x).fab = s.fab := rfl
@[simp] theorem State.setPll_privFaults (h : HalfId) (n : PllId) (x : Pll) : (s.setPll h n x).privFaults = s.privFaults := rfl
@[simp] theorem State.setPll_fence (h : HalfId) (n : PllId) (x : Pll) : (s.setPll h n x).fence = s.fence := rfl
@[simp] theorem State.setPll_beat (h : HalfId) (n : PllId) (x : Pll) : (s.setPll h n x).beat = s.beat := rfl
@[simp] theorem State.setPll_dx (h : HalfId) (n : PllId) (x : Pll) : (s.setPll h n x).dx = s.dx := rfl
@[simp] theorem State.setPll_pmc (h : HalfId) (n : PllId) (x : Pll) : (s.setPll h n x).pmc = s.pmc := rfl
@[simp] theorem State.setPll_sec (h : HalfId) (n : PllId) (x : Pll) : (s.setPll h n x).sec = s.sec := rfl
@[simp] theorem State.setPll_mod (h : HalfId) (n : PllId) (x : Pll) : (s.setPll h n x).mod = s.mod := rfl

@[simp] theorem State.used_pending (n : Nat) : (s.used n).pending = s.pending := rfl
@[simp] theorem State.used_reply (n : Nat) : (s.used n).reply = s.reply := rfl
@[simp] theorem State.used_regs (n : Nat) : (s.used n).regs = s.regs := rfl
@[simp] theorem State.used_mem (n : Nat) : (s.used n).mem = s.mem := rfl
@[simp] theorem State.used_crc (n : Nat) : (s.used n).crc = s.crc := rfl
@[simp] theorem State.used_flags (n : Nat) : (s.used n).flags = s.flags := rfl
@[simp] theorem State.used_tables (n : Nat) : (s.used n).tables = s.tables := rfl
@[simp] theorem State.used_nextTables (n : Nat) : (s.used n).nextTables = s.nextTables := rfl
@[simp] theorem State.used_groveSt (n : Nat) : (s.used n).groveSt = s.groveSt := rfl
@[simp] theorem State.used_nodeQ (n : Nat) : (s.used n).nodeQ = s.nodeQ := rfl
@[simp] theorem State.used_qDepth (n : Nat) : (s.used n).qDepth = s.qDepth := rfl
@[simp] theorem State.used_entries (n : Nat) : (s.used n).entries = s.entries := rfl
@[simp] theorem State.used_nextEntry (n : Nat) : (s.used n).nextEntry = s.nextEntry := rfl
@[simp] theorem State.used_waiting (n : Nat) : (s.used n).waiting = s.waiting := rfl
@[simp] theorem State.used_cores (n : Nat) : (s.used n).cores = s.cores := rfl
@[simp] theorem State.used_halves (n : Nat) : (s.used n).halves = s.halves := rfl
@[simp] theorem State.used_streams (n : Nat) : (s.used n).streams = s.streams := rfl
@[simp] theorem State.used_host (n : Nat) : (s.used n).host = s.host := rfl
@[simp] theorem State.used_held (n : Nat) : (s.used n).held = s.held := rfl
@[simp] theorem State.used_fab (n : Nat) : (s.used n).fab = s.fab := rfl
@[simp] theorem State.used_privFaults (n : Nat) : (s.used n).privFaults = s.privFaults := rfl
@[simp] theorem State.used_fence (n : Nat) : (s.used n).fence = s.fence := rfl
@[simp] theorem State.used_beat (n : Nat) : (s.used n).beat = s.beat := rfl
@[simp] theorem State.used_dx (n : Nat) : (s.used n).dx = s.dx := rfl
@[simp] theorem State.used_pmc (n : Nat) : (s.used n).pmc = s.pmc := rfl
@[simp] theorem State.used_sec (n : Nat) : (s.used n).sec = s.sec := rfl
@[simp] theorem State.used_clk (n : Nat) : (s.used n).clk = s.clk := rfl
@[simp] theorem State.used_mod (n : Nat) : (s.used n).mod = s.mod := rfl

@[simp] theorem State.write_pending (a : Nat) (bs : List Byte) : (s.write a bs).pending = s.pending := rfl
@[simp] theorem State.write_fresh (a : Nat) (bs : List Byte) : (s.write a bs).fresh = s.fresh := rfl
@[simp] theorem State.write_reply (a : Nat) (bs : List Byte) : (s.write a bs).reply = s.reply := rfl
@[simp] theorem State.write_regs (a : Nat) (bs : List Byte) : (s.write a bs).regs = s.regs := rfl
@[simp] theorem State.write_crc (a : Nat) (bs : List Byte) : (s.write a bs).crc = s.crc := rfl
@[simp] theorem State.write_flags (a : Nat) (bs : List Byte) : (s.write a bs).flags = s.flags := rfl
@[simp] theorem State.write_tables (a : Nat) (bs : List Byte) : (s.write a bs).tables = s.tables := rfl
@[simp] theorem State.write_nextTables (a : Nat) (bs : List Byte) : (s.write a bs).nextTables = s.nextTables := rfl
@[simp] theorem State.write_groveSt (a : Nat) (bs : List Byte) : (s.write a bs).groveSt = s.groveSt := rfl
@[simp] theorem State.write_nodeQ (a : Nat) (bs : List Byte) : (s.write a bs).nodeQ = s.nodeQ := rfl
@[simp] theorem State.write_qDepth (a : Nat) (bs : List Byte) : (s.write a bs).qDepth = s.qDepth := rfl
@[simp] theorem State.write_entries (a : Nat) (bs : List Byte) : (s.write a bs).entries = s.entries := rfl
@[simp] theorem State.write_nextEntry (a : Nat) (bs : List Byte) : (s.write a bs).nextEntry = s.nextEntry := rfl
@[simp] theorem State.write_waiting (a : Nat) (bs : List Byte) : (s.write a bs).waiting = s.waiting := rfl
@[simp] theorem State.write_cores (a : Nat) (bs : List Byte) : (s.write a bs).cores = s.cores := rfl
@[simp] theorem State.write_halves (a : Nat) (bs : List Byte) : (s.write a bs).halves = s.halves := rfl
@[simp] theorem State.write_streams (a : Nat) (bs : List Byte) : (s.write a bs).streams = s.streams := rfl
@[simp] theorem State.write_host (a : Nat) (bs : List Byte) : (s.write a bs).host = s.host := rfl
@[simp] theorem State.write_held (a : Nat) (bs : List Byte) : (s.write a bs).held = s.held := rfl
@[simp] theorem State.write_fab (a : Nat) (bs : List Byte) : (s.write a bs).fab = s.fab := rfl
@[simp] theorem State.write_privFaults (a : Nat) (bs : List Byte) : (s.write a bs).privFaults = s.privFaults := rfl
@[simp] theorem State.write_fence (a : Nat) (bs : List Byte) : (s.write a bs).fence = s.fence := rfl
@[simp] theorem State.write_beat (a : Nat) (bs : List Byte) : (s.write a bs).beat = s.beat := rfl
@[simp] theorem State.write_dx (a : Nat) (bs : List Byte) : (s.write a bs).dx = s.dx := rfl
@[simp] theorem State.write_pmc (a : Nat) (bs : List Byte) : (s.write a bs).pmc = s.pmc := rfl
@[simp] theorem State.write_sec (a : Nat) (bs : List Byte) : (s.write a bs).sec = s.sec := rfl
@[simp] theorem State.write_clk (a : Nat) (bs : List Byte) : (s.write a bs).clk = s.clk := rfl
@[simp] theorem State.write_mod (a : Nat) (bs : List Byte) : (s.write a bs).mod = s.mod := rfl

@[simp] theorem State.clearMem_pending (lo hi : Nat) : (s.clearMem lo hi).pending = s.pending := rfl
@[simp] theorem State.clearMem_fresh (lo hi : Nat) : (s.clearMem lo hi).fresh = s.fresh := rfl
@[simp] theorem State.clearMem_reply (lo hi : Nat) : (s.clearMem lo hi).reply = s.reply := rfl
@[simp] theorem State.clearMem_regs (lo hi : Nat) : (s.clearMem lo hi).regs = s.regs := rfl
@[simp] theorem State.clearMem_crc (lo hi : Nat) : (s.clearMem lo hi).crc = s.crc := rfl
@[simp] theorem State.clearMem_flags (lo hi : Nat) : (s.clearMem lo hi).flags = s.flags := rfl
@[simp] theorem State.clearMem_tables (lo hi : Nat) : (s.clearMem lo hi).tables = s.tables := rfl
@[simp] theorem State.clearMem_nextTables (lo hi : Nat) : (s.clearMem lo hi).nextTables = s.nextTables := rfl
@[simp] theorem State.clearMem_groveSt (lo hi : Nat) : (s.clearMem lo hi).groveSt = s.groveSt := rfl
@[simp] theorem State.clearMem_nodeQ (lo hi : Nat) : (s.clearMem lo hi).nodeQ = s.nodeQ := rfl
@[simp] theorem State.clearMem_qDepth (lo hi : Nat) : (s.clearMem lo hi).qDepth = s.qDepth := rfl
@[simp] theorem State.clearMem_entries (lo hi : Nat) : (s.clearMem lo hi).entries = s.entries := rfl
@[simp] theorem State.clearMem_nextEntry (lo hi : Nat) : (s.clearMem lo hi).nextEntry = s.nextEntry := rfl
@[simp] theorem State.clearMem_waiting (lo hi : Nat) : (s.clearMem lo hi).waiting = s.waiting := rfl
@[simp] theorem State.clearMem_cores (lo hi : Nat) : (s.clearMem lo hi).cores = s.cores := rfl
@[simp] theorem State.clearMem_halves (lo hi : Nat) : (s.clearMem lo hi).halves = s.halves := rfl
@[simp] theorem State.clearMem_streams (lo hi : Nat) : (s.clearMem lo hi).streams = s.streams := rfl
@[simp] theorem State.clearMem_host (lo hi : Nat) : (s.clearMem lo hi).host = s.host := rfl
@[simp] theorem State.clearMem_held (lo hi : Nat) : (s.clearMem lo hi).held = s.held := rfl
@[simp] theorem State.clearMem_fab (lo hi : Nat) : (s.clearMem lo hi).fab = s.fab := rfl
@[simp] theorem State.clearMem_privFaults (lo hi : Nat) : (s.clearMem lo hi).privFaults = s.privFaults := rfl
@[simp] theorem State.clearMem_fence (lo hi : Nat) : (s.clearMem lo hi).fence = s.fence := rfl
@[simp] theorem State.clearMem_beat (lo hi : Nat) : (s.clearMem lo hi).beat = s.beat := rfl
@[simp] theorem State.clearMem_dx (lo hi : Nat) : (s.clearMem lo hi).dx = s.dx := rfl
@[simp] theorem State.clearMem_pmc (lo hi : Nat) : (s.clearMem lo hi).pmc = s.pmc := rfl
@[simp] theorem State.clearMem_sec (lo hi : Nat) : (s.clearMem lo hi).sec = s.sec := rfl
@[simp] theorem State.clearMem_clk (lo hi : Nat) : (s.clearMem lo hi).clk = s.clk := rfl
@[simp] theorem State.clearMem_mod (lo hi : Nat) : (s.clearMem lo hi).mod = s.mod := rfl

@[simp] theorem State.setCrc_pending (b v : Nat) : (s.setCrc b v).pending = s.pending := rfl
@[simp] theorem State.setCrc_fresh (b v : Nat) : (s.setCrc b v).fresh = s.fresh := rfl
@[simp] theorem State.setCrc_reply (b v : Nat) : (s.setCrc b v).reply = s.reply := rfl
@[simp] theorem State.setCrc_regs (b v : Nat) : (s.setCrc b v).regs = s.regs := rfl
@[simp] theorem State.setCrc_mem (b v : Nat) : (s.setCrc b v).mem = s.mem := rfl
@[simp] theorem State.setCrc_flags (b v : Nat) : (s.setCrc b v).flags = s.flags := rfl
@[simp] theorem State.setCrc_tables (b v : Nat) : (s.setCrc b v).tables = s.tables := rfl
@[simp] theorem State.setCrc_nextTables (b v : Nat) : (s.setCrc b v).nextTables = s.nextTables := rfl
@[simp] theorem State.setCrc_groveSt (b v : Nat) : (s.setCrc b v).groveSt = s.groveSt := rfl
@[simp] theorem State.setCrc_nodeQ (b v : Nat) : (s.setCrc b v).nodeQ = s.nodeQ := rfl
@[simp] theorem State.setCrc_qDepth (b v : Nat) : (s.setCrc b v).qDepth = s.qDepth := rfl
@[simp] theorem State.setCrc_entries (b v : Nat) : (s.setCrc b v).entries = s.entries := rfl
@[simp] theorem State.setCrc_nextEntry (b v : Nat) : (s.setCrc b v).nextEntry = s.nextEntry := rfl
@[simp] theorem State.setCrc_waiting (b v : Nat) : (s.setCrc b v).waiting = s.waiting := rfl
@[simp] theorem State.setCrc_cores (b v : Nat) : (s.setCrc b v).cores = s.cores := rfl
@[simp] theorem State.setCrc_halves (b v : Nat) : (s.setCrc b v).halves = s.halves := rfl
@[simp] theorem State.setCrc_streams (b v : Nat) : (s.setCrc b v).streams = s.streams := rfl
@[simp] theorem State.setCrc_host (b v : Nat) : (s.setCrc b v).host = s.host := rfl
@[simp] theorem State.setCrc_held (b v : Nat) : (s.setCrc b v).held = s.held := rfl
@[simp] theorem State.setCrc_fab (b v : Nat) : (s.setCrc b v).fab = s.fab := rfl
@[simp] theorem State.setCrc_privFaults (b v : Nat) : (s.setCrc b v).privFaults = s.privFaults := rfl
@[simp] theorem State.setCrc_fence (b v : Nat) : (s.setCrc b v).fence = s.fence := rfl
@[simp] theorem State.setCrc_beat (b v : Nat) : (s.setCrc b v).beat = s.beat := rfl
@[simp] theorem State.setCrc_dx (b v : Nat) : (s.setCrc b v).dx = s.dx := rfl
@[simp] theorem State.setCrc_pmc (b v : Nat) : (s.setCrc b v).pmc = s.pmc := rfl
@[simp] theorem State.setCrc_sec (b v : Nat) : (s.setCrc b v).sec = s.sec := rfl
@[simp] theorem State.setCrc_clk (b v : Nat) : (s.setCrc b v).clk = s.clk := rfl
@[simp] theorem State.setCrc_mod (b v : Nat) : (s.setCrc b v).mod = s.mod := rfl

@[simp] theorem State.privFault_pending : (s.privFault).pending = s.pending := rfl
@[simp] theorem State.privFault_fresh : (s.privFault).fresh = s.fresh := rfl
@[simp] theorem State.privFault_reply : (s.privFault).reply = s.reply := rfl
@[simp] theorem State.privFault_regs : (s.privFault).regs = s.regs := rfl
@[simp] theorem State.privFault_mem : (s.privFault).mem = s.mem := rfl
@[simp] theorem State.privFault_crc : (s.privFault).crc = s.crc := rfl
@[simp] theorem State.privFault_flags : (s.privFault).flags = s.flags := rfl
@[simp] theorem State.privFault_tables : (s.privFault).tables = s.tables := rfl
@[simp] theorem State.privFault_nextTables : (s.privFault).nextTables = s.nextTables := rfl
@[simp] theorem State.privFault_groveSt : (s.privFault).groveSt = s.groveSt := rfl
@[simp] theorem State.privFault_nodeQ : (s.privFault).nodeQ = s.nodeQ := rfl
@[simp] theorem State.privFault_qDepth : (s.privFault).qDepth = s.qDepth := rfl
@[simp] theorem State.privFault_entries : (s.privFault).entries = s.entries := rfl
@[simp] theorem State.privFault_nextEntry : (s.privFault).nextEntry = s.nextEntry := rfl
@[simp] theorem State.privFault_waiting : (s.privFault).waiting = s.waiting := rfl
@[simp] theorem State.privFault_cores : (s.privFault).cores = s.cores := rfl
@[simp] theorem State.privFault_halves : (s.privFault).halves = s.halves := rfl
@[simp] theorem State.privFault_streams : (s.privFault).streams = s.streams := rfl
@[simp] theorem State.privFault_host : (s.privFault).host = s.host := rfl
@[simp] theorem State.privFault_held : (s.privFault).held = s.held := rfl
@[simp] theorem State.privFault_fab : (s.privFault).fab = s.fab := rfl
@[simp] theorem State.privFault_fence : (s.privFault).fence = s.fence := rfl
@[simp] theorem State.privFault_beat : (s.privFault).beat = s.beat := rfl
@[simp] theorem State.privFault_dx : (s.privFault).dx = s.dx := rfl
@[simp] theorem State.privFault_pmc : (s.privFault).pmc = s.pmc := rfl
@[simp] theorem State.privFault_sec : (s.privFault).sec = s.sec := rfl
@[simp] theorem State.privFault_clk : (s.privFault).clk = s.clk := rfl
@[simp] theorem State.privFault_mod : (s.privFault).mod = s.mod := rfl

@[simp] theorem State.setMod_pending (m : Module) : (s.setMod m).pending = s.pending := rfl
@[simp] theorem State.setMod_fresh (m : Module) : (s.setMod m).fresh = s.fresh := rfl
@[simp] theorem State.setMod_reply (m : Module) : (s.setMod m).reply = s.reply := rfl
@[simp] theorem State.setMod_regs (m : Module) : (s.setMod m).regs = s.regs := rfl
@[simp] theorem State.setMod_mem (m : Module) : (s.setMod m).mem = s.mem := rfl
@[simp] theorem State.setMod_crc (m : Module) : (s.setMod m).crc = s.crc := rfl
@[simp] theorem State.setMod_flags (m : Module) : (s.setMod m).flags = s.flags := rfl
@[simp] theorem State.setMod_tables (m : Module) : (s.setMod m).tables = s.tables := rfl
@[simp] theorem State.setMod_nextTables (m : Module) : (s.setMod m).nextTables = s.nextTables := rfl
@[simp] theorem State.setMod_groveSt (m : Module) : (s.setMod m).groveSt = s.groveSt := rfl
@[simp] theorem State.setMod_nodeQ (m : Module) : (s.setMod m).nodeQ = s.nodeQ := rfl
@[simp] theorem State.setMod_qDepth (m : Module) : (s.setMod m).qDepth = s.qDepth := rfl
@[simp] theorem State.setMod_entries (m : Module) : (s.setMod m).entries = s.entries := rfl
@[simp] theorem State.setMod_nextEntry (m : Module) : (s.setMod m).nextEntry = s.nextEntry := rfl
@[simp] theorem State.setMod_waiting (m : Module) : (s.setMod m).waiting = s.waiting := rfl
@[simp] theorem State.setMod_cores (m : Module) : (s.setMod m).cores = s.cores := rfl
@[simp] theorem State.setMod_halves (m : Module) : (s.setMod m).halves = s.halves := rfl
@[simp] theorem State.setMod_streams (m : Module) : (s.setMod m).streams = s.streams := rfl
@[simp] theorem State.setMod_host (m : Module) : (s.setMod m).host = s.host := rfl
@[simp] theorem State.setMod_held (m : Module) : (s.setMod m).held = s.held := rfl
@[simp] theorem State.setMod_fab (m : Module) : (s.setMod m).fab = s.fab := rfl
@[simp] theorem State.setMod_privFaults (m : Module) : (s.setMod m).privFaults = s.privFaults := rfl
@[simp] theorem State.setMod_fence (m : Module) : (s.setMod m).fence = s.fence := rfl
@[simp] theorem State.setMod_beat (m : Module) : (s.setMod m).beat = s.beat := rfl
@[simp] theorem State.setMod_dx (m : Module) : (s.setMod m).dx = s.dx := rfl
@[simp] theorem State.setMod_pmc (m : Module) : (s.setMod m).pmc = s.pmc := rfl
@[simp] theorem State.setMod_sec (m : Module) : (s.setMod m).sec = s.sec := rfl
@[simp] theorem State.setMod_clk (m : Module) : (s.setMod m).clk = s.clk := rfl

@[simp] theorem State.setPort_pending (p : PortId) (x : Port) : (s.setPort p x).pending = s.pending := rfl
@[simp] theorem State.setPort_fresh (p : PortId) (x : Port) : (s.setPort p x).fresh = s.fresh := rfl
@[simp] theorem State.setPort_reply (p : PortId) (x : Port) : (s.setPort p x).reply = s.reply := rfl
@[simp] theorem State.setPort_regs (p : PortId) (x : Port) : (s.setPort p x).regs = s.regs := rfl
@[simp] theorem State.setPort_mem (p : PortId) (x : Port) : (s.setPort p x).mem = s.mem := rfl
@[simp] theorem State.setPort_crc (p : PortId) (x : Port) : (s.setPort p x).crc = s.crc := rfl
@[simp] theorem State.setPort_flags (p : PortId) (x : Port) : (s.setPort p x).flags = s.flags := rfl
@[simp] theorem State.setPort_tables (p : PortId) (x : Port) : (s.setPort p x).tables = s.tables := rfl
@[simp] theorem State.setPort_nextTables (p : PortId) (x : Port) : (s.setPort p x).nextTables = s.nextTables := rfl
@[simp] theorem State.setPort_groveSt (p : PortId) (x : Port) : (s.setPort p x).groveSt = s.groveSt := rfl
@[simp] theorem State.setPort_nodeQ (p : PortId) (x : Port) : (s.setPort p x).nodeQ = s.nodeQ := rfl
@[simp] theorem State.setPort_qDepth (p : PortId) (x : Port) : (s.setPort p x).qDepth = s.qDepth := rfl
@[simp] theorem State.setPort_entries (p : PortId) (x : Port) : (s.setPort p x).entries = s.entries := rfl
@[simp] theorem State.setPort_nextEntry (p : PortId) (x : Port) : (s.setPort p x).nextEntry = s.nextEntry := rfl
@[simp] theorem State.setPort_waiting (p : PortId) (x : Port) : (s.setPort p x).waiting = s.waiting := rfl
@[simp] theorem State.setPort_cores (p : PortId) (x : Port) : (s.setPort p x).cores = s.cores := rfl
@[simp] theorem State.setPort_halves (p : PortId) (x : Port) : (s.setPort p x).halves = s.halves := rfl
@[simp] theorem State.setPort_streams (p : PortId) (x : Port) : (s.setPort p x).streams = s.streams := rfl
@[simp] theorem State.setPort_host (p : PortId) (x : Port) : (s.setPort p x).host = s.host := rfl
@[simp] theorem State.setPort_held (p : PortId) (x : Port) : (s.setPort p x).held = s.held := rfl
@[simp] theorem State.setPort_privFaults (p : PortId) (x : Port) : (s.setPort p x).privFaults = s.privFaults := rfl
@[simp] theorem State.setPort_fence (p : PortId) (x : Port) : (s.setPort p x).fence = s.fence := rfl
@[simp] theorem State.setPort_beat (p : PortId) (x : Port) : (s.setPort p x).beat = s.beat := rfl
@[simp] theorem State.setPort_dx (p : PortId) (x : Port) : (s.setPort p x).dx = s.dx := rfl
@[simp] theorem State.setPort_pmc (p : PortId) (x : Port) : (s.setPort p x).pmc = s.pmc := rfl
@[simp] theorem State.setPort_sec (p : PortId) (x : Port) : (s.setPort p x).sec = s.sec := rfl
@[simp] theorem State.setPort_clk (p : PortId) (x : Port) : (s.setPort p x).clk = s.clk := rfl
@[simp] theorem State.setPort_mod (p : PortId) (x : Port) : (s.setPort p x).mod = s.mod := rfl

@[simp] theorem State.setPf_pending (f : Fld) (p : PortId) (v : Nat) : (s.setPf f p v).pending = s.pending := rfl
@[simp] theorem State.setPf_fresh (f : Fld) (p : PortId) (v : Nat) : (s.setPf f p v).fresh = s.fresh := rfl
@[simp] theorem State.setPf_reply (f : Fld) (p : PortId) (v : Nat) : (s.setPf f p v).reply = s.reply := rfl
@[simp] theorem State.setPf_mem (f : Fld) (p : PortId) (v : Nat) : (s.setPf f p v).mem = s.mem := rfl
@[simp] theorem State.setPf_crc (f : Fld) (p : PortId) (v : Nat) : (s.setPf f p v).crc = s.crc := rfl
@[simp] theorem State.setPf_flags (f : Fld) (p : PortId) (v : Nat) : (s.setPf f p v).flags = s.flags := rfl
@[simp] theorem State.setPf_tables (f : Fld) (p : PortId) (v : Nat) : (s.setPf f p v).tables = s.tables := rfl
@[simp] theorem State.setPf_nextTables (f : Fld) (p : PortId) (v : Nat) : (s.setPf f p v).nextTables = s.nextTables := rfl
@[simp] theorem State.setPf_groveSt (f : Fld) (p : PortId) (v : Nat) : (s.setPf f p v).groveSt = s.groveSt := rfl
@[simp] theorem State.setPf_nodeQ (f : Fld) (p : PortId) (v : Nat) : (s.setPf f p v).nodeQ = s.nodeQ := rfl
@[simp] theorem State.setPf_qDepth (f : Fld) (p : PortId) (v : Nat) : (s.setPf f p v).qDepth = s.qDepth := rfl
@[simp] theorem State.setPf_entries (f : Fld) (p : PortId) (v : Nat) : (s.setPf f p v).entries = s.entries := rfl
@[simp] theorem State.setPf_nextEntry (f : Fld) (p : PortId) (v : Nat) : (s.setPf f p v).nextEntry = s.nextEntry := rfl
@[simp] theorem State.setPf_waiting (f : Fld) (p : PortId) (v : Nat) : (s.setPf f p v).waiting = s.waiting := rfl
@[simp] theorem State.setPf_cores (f : Fld) (p : PortId) (v : Nat) : (s.setPf f p v).cores = s.cores := rfl
@[simp] theorem State.setPf_halves (f : Fld) (p : PortId) (v : Nat) : (s.setPf f p v).halves = s.halves := rfl
@[simp] theorem State.setPf_streams (f : Fld) (p : PortId) (v : Nat) : (s.setPf f p v).streams = s.streams := rfl
@[simp] theorem State.setPf_host (f : Fld) (p : PortId) (v : Nat) : (s.setPf f p v).host = s.host := rfl
@[simp] theorem State.setPf_held (f : Fld) (p : PortId) (v : Nat) : (s.setPf f p v).held = s.held := rfl
@[simp] theorem State.setPf_fab (f : Fld) (p : PortId) (v : Nat) : (s.setPf f p v).fab = s.fab := rfl
@[simp] theorem State.setPf_privFaults (f : Fld) (p : PortId) (v : Nat) : (s.setPf f p v).privFaults = s.privFaults := rfl
@[simp] theorem State.setPf_fence (f : Fld) (p : PortId) (v : Nat) : (s.setPf f p v).fence = s.fence := rfl
@[simp] theorem State.setPf_beat (f : Fld) (p : PortId) (v : Nat) : (s.setPf f p v).beat = s.beat := rfl
@[simp] theorem State.setPf_dx (f : Fld) (p : PortId) (v : Nat) : (s.setPf f p v).dx = s.dx := rfl
@[simp] theorem State.setPf_pmc (f : Fld) (p : PortId) (v : Nat) : (s.setPf f p v).pmc = s.pmc := rfl
@[simp] theorem State.setPf_sec (f : Fld) (p : PortId) (v : Nat) : (s.setPf f p v).sec = s.sec := rfl
@[simp] theorem State.setPf_clk (f : Fld) (p : PortId) (v : Nat) : (s.setPf f p v).clk = s.clk := rfl
@[simp] theorem State.setPf_mod (f : Fld) (p : PortId) (v : Nat) : (s.setPf f p v).mod = s.mod := rfl

@[simp] theorem State.incPf_pending (f : Fld) (p : PortId) (n : Nat) : (s.incPf f p n).pending = s.pending := rfl
@[simp] theorem State.incPf_fresh (f : Fld) (p : PortId) (n : Nat) : (s.incPf f p n).fresh = s.fresh := rfl
@[simp] theorem State.incPf_reply (f : Fld) (p : PortId) (n : Nat) : (s.incPf f p n).reply = s.reply := rfl
@[simp] theorem State.incPf_mem (f : Fld) (p : PortId) (n : Nat) : (s.incPf f p n).mem = s.mem := rfl
@[simp] theorem State.incPf_crc (f : Fld) (p : PortId) (n : Nat) : (s.incPf f p n).crc = s.crc := rfl
@[simp] theorem State.incPf_flags (f : Fld) (p : PortId) (n : Nat) : (s.incPf f p n).flags = s.flags := rfl
@[simp] theorem State.incPf_tables (f : Fld) (p : PortId) (n : Nat) : (s.incPf f p n).tables = s.tables := rfl
@[simp] theorem State.incPf_nextTables (f : Fld) (p : PortId) (n : Nat) : (s.incPf f p n).nextTables = s.nextTables := rfl
@[simp] theorem State.incPf_groveSt (f : Fld) (p : PortId) (n : Nat) : (s.incPf f p n).groveSt = s.groveSt := rfl
@[simp] theorem State.incPf_nodeQ (f : Fld) (p : PortId) (n : Nat) : (s.incPf f p n).nodeQ = s.nodeQ := rfl
@[simp] theorem State.incPf_qDepth (f : Fld) (p : PortId) (n : Nat) : (s.incPf f p n).qDepth = s.qDepth := rfl
@[simp] theorem State.incPf_entries (f : Fld) (p : PortId) (n : Nat) : (s.incPf f p n).entries = s.entries := rfl
@[simp] theorem State.incPf_nextEntry (f : Fld) (p : PortId) (n : Nat) : (s.incPf f p n).nextEntry = s.nextEntry := rfl
@[simp] theorem State.incPf_waiting (f : Fld) (p : PortId) (n : Nat) : (s.incPf f p n).waiting = s.waiting := rfl
@[simp] theorem State.incPf_cores (f : Fld) (p : PortId) (n : Nat) : (s.incPf f p n).cores = s.cores := rfl
@[simp] theorem State.incPf_halves (f : Fld) (p : PortId) (n : Nat) : (s.incPf f p n).halves = s.halves := rfl
@[simp] theorem State.incPf_streams (f : Fld) (p : PortId) (n : Nat) : (s.incPf f p n).streams = s.streams := rfl
@[simp] theorem State.incPf_host (f : Fld) (p : PortId) (n : Nat) : (s.incPf f p n).host = s.host := rfl
@[simp] theorem State.incPf_held (f : Fld) (p : PortId) (n : Nat) : (s.incPf f p n).held = s.held := rfl
@[simp] theorem State.incPf_fab (f : Fld) (p : PortId) (n : Nat) : (s.incPf f p n).fab = s.fab := rfl
@[simp] theorem State.incPf_privFaults (f : Fld) (p : PortId) (n : Nat) : (s.incPf f p n).privFaults = s.privFaults := rfl
@[simp] theorem State.incPf_fence (f : Fld) (p : PortId) (n : Nat) : (s.incPf f p n).fence = s.fence := rfl
@[simp] theorem State.incPf_beat (f : Fld) (p : PortId) (n : Nat) : (s.incPf f p n).beat = s.beat := rfl
@[simp] theorem State.incPf_dx (f : Fld) (p : PortId) (n : Nat) : (s.incPf f p n).dx = s.dx := rfl
@[simp] theorem State.incPf_pmc (f : Fld) (p : PortId) (n : Nat) : (s.incPf f p n).pmc = s.pmc := rfl
@[simp] theorem State.incPf_sec (f : Fld) (p : PortId) (n : Nat) : (s.incPf f p n).sec = s.sec := rfl
@[simp] theorem State.incPf_clk (f : Fld) (p : PortId) (n : Nat) : (s.incPf f p n).clk = s.clk := rfl
@[simp] theorem State.incPf_mod (f : Fld) (p : PortId) (n : Nat) : (s.incPf f p n).mod = s.mod := rfl

@[simp] theorem State.setAcc_pending (c : CoreId) (a : AccUnit) : (s.setAcc c a).pending = s.pending := rfl
@[simp] theorem State.setAcc_fresh (c : CoreId) (a : AccUnit) : (s.setAcc c a).fresh = s.fresh := rfl
@[simp] theorem State.setAcc_reply (c : CoreId) (a : AccUnit) : (s.setAcc c a).reply = s.reply := rfl
@[simp] theorem State.setAcc_regs (c : CoreId) (a : AccUnit) : (s.setAcc c a).regs = s.regs := rfl
@[simp] theorem State.setAcc_mem (c : CoreId) (a : AccUnit) : (s.setAcc c a).mem = s.mem := rfl
@[simp] theorem State.setAcc_crc (c : CoreId) (a : AccUnit) : (s.setAcc c a).crc = s.crc := rfl
@[simp] theorem State.setAcc_flags (c : CoreId) (a : AccUnit) : (s.setAcc c a).flags = s.flags := rfl
@[simp] theorem State.setAcc_tables (c : CoreId) (a : AccUnit) : (s.setAcc c a).tables = s.tables := rfl
@[simp] theorem State.setAcc_nextTables (c : CoreId) (a : AccUnit) : (s.setAcc c a).nextTables = s.nextTables := rfl
@[simp] theorem State.setAcc_groveSt (c : CoreId) (a : AccUnit) : (s.setAcc c a).groveSt = s.groveSt := rfl
@[simp] theorem State.setAcc_nodeQ (c : CoreId) (a : AccUnit) : (s.setAcc c a).nodeQ = s.nodeQ := rfl
@[simp] theorem State.setAcc_qDepth (c : CoreId) (a : AccUnit) : (s.setAcc c a).qDepth = s.qDepth := rfl
@[simp] theorem State.setAcc_entries (c : CoreId) (a : AccUnit) : (s.setAcc c a).entries = s.entries := rfl
@[simp] theorem State.setAcc_nextEntry (c : CoreId) (a : AccUnit) : (s.setAcc c a).nextEntry = s.nextEntry := rfl
@[simp] theorem State.setAcc_waiting (c : CoreId) (a : AccUnit) : (s.setAcc c a).waiting = s.waiting := rfl
@[simp] theorem State.setAcc_halves (c : CoreId) (a : AccUnit) : (s.setAcc c a).halves = s.halves := rfl
@[simp] theorem State.setAcc_streams (c : CoreId) (a : AccUnit) : (s.setAcc c a).streams = s.streams := rfl
@[simp] theorem State.setAcc_host (c : CoreId) (a : AccUnit) : (s.setAcc c a).host = s.host := rfl
@[simp] theorem State.setAcc_held (c : CoreId) (a : AccUnit) : (s.setAcc c a).held = s.held := rfl
@[simp] theorem State.setAcc_fab (c : CoreId) (a : AccUnit) : (s.setAcc c a).fab = s.fab := rfl
@[simp] theorem State.setAcc_privFaults (c : CoreId) (a : AccUnit) : (s.setAcc c a).privFaults = s.privFaults := rfl
@[simp] theorem State.setAcc_fence (c : CoreId) (a : AccUnit) : (s.setAcc c a).fence = s.fence := rfl
@[simp] theorem State.setAcc_beat (c : CoreId) (a : AccUnit) : (s.setAcc c a).beat = s.beat := rfl
@[simp] theorem State.setAcc_dx (c : CoreId) (a : AccUnit) : (s.setAcc c a).dx = s.dx := rfl
@[simp] theorem State.setAcc_pmc (c : CoreId) (a : AccUnit) : (s.setAcc c a).pmc = s.pmc := rfl
@[simp] theorem State.setAcc_sec (c : CoreId) (a : AccUnit) : (s.setAcc c a).sec = s.sec := rfl
@[simp] theorem State.setAcc_clk (c : CoreId) (a : AccUnit) : (s.setAcc c a).clk = s.clk := rfl
@[simp] theorem State.setAcc_mod (c : CoreId) (a : AccUnit) : (s.setAcc c a).mod = s.mod := rfl

@[simp] theorem State.setElem_pending (c : CoreId) (i : Nat) (e : AccElem) : (s.setElem c i e).pending = s.pending := rfl
@[simp] theorem State.setElem_fresh (c : CoreId) (i : Nat) (e : AccElem) : (s.setElem c i e).fresh = s.fresh := rfl
@[simp] theorem State.setElem_reply (c : CoreId) (i : Nat) (e : AccElem) : (s.setElem c i e).reply = s.reply := rfl
@[simp] theorem State.setElem_regs (c : CoreId) (i : Nat) (e : AccElem) : (s.setElem c i e).regs = s.regs := rfl
@[simp] theorem State.setElem_mem (c : CoreId) (i : Nat) (e : AccElem) : (s.setElem c i e).mem = s.mem := rfl
@[simp] theorem State.setElem_crc (c : CoreId) (i : Nat) (e : AccElem) : (s.setElem c i e).crc = s.crc := rfl
@[simp] theorem State.setElem_flags (c : CoreId) (i : Nat) (e : AccElem) : (s.setElem c i e).flags = s.flags := rfl
@[simp] theorem State.setElem_tables (c : CoreId) (i : Nat) (e : AccElem) : (s.setElem c i e).tables = s.tables := rfl
@[simp] theorem State.setElem_nextTables (c : CoreId) (i : Nat) (e : AccElem) : (s.setElem c i e).nextTables = s.nextTables := rfl
@[simp] theorem State.setElem_groveSt (c : CoreId) (i : Nat) (e : AccElem) : (s.setElem c i e).groveSt = s.groveSt := rfl
@[simp] theorem State.setElem_nodeQ (c : CoreId) (i : Nat) (e : AccElem) : (s.setElem c i e).nodeQ = s.nodeQ := rfl
@[simp] theorem State.setElem_qDepth (c : CoreId) (i : Nat) (e : AccElem) : (s.setElem c i e).qDepth = s.qDepth := rfl
@[simp] theorem State.setElem_entries (c : CoreId) (i : Nat) (e : AccElem) : (s.setElem c i e).entries = s.entries := rfl
@[simp] theorem State.setElem_nextEntry (c : CoreId) (i : Nat) (e : AccElem) : (s.setElem c i e).nextEntry = s.nextEntry := rfl
@[simp] theorem State.setElem_waiting (c : CoreId) (i : Nat) (e : AccElem) : (s.setElem c i e).waiting = s.waiting := rfl
@[simp] theorem State.setElem_halves (c : CoreId) (i : Nat) (e : AccElem) : (s.setElem c i e).halves = s.halves := rfl
@[simp] theorem State.setElem_streams (c : CoreId) (i : Nat) (e : AccElem) : (s.setElem c i e).streams = s.streams := rfl
@[simp] theorem State.setElem_host (c : CoreId) (i : Nat) (e : AccElem) : (s.setElem c i e).host = s.host := rfl
@[simp] theorem State.setElem_held (c : CoreId) (i : Nat) (e : AccElem) : (s.setElem c i e).held = s.held := rfl
@[simp] theorem State.setElem_fab (c : CoreId) (i : Nat) (e : AccElem) : (s.setElem c i e).fab = s.fab := rfl
@[simp] theorem State.setElem_privFaults (c : CoreId) (i : Nat) (e : AccElem) : (s.setElem c i e).privFaults = s.privFaults := rfl
@[simp] theorem State.setElem_fence (c : CoreId) (i : Nat) (e : AccElem) : (s.setElem c i e).fence = s.fence := rfl
@[simp] theorem State.setElem_beat (c : CoreId) (i : Nat) (e : AccElem) : (s.setElem c i e).beat = s.beat := rfl
@[simp] theorem State.setElem_dx (c : CoreId) (i : Nat) (e : AccElem) : (s.setElem c i e).dx = s.dx := rfl
@[simp] theorem State.setElem_pmc (c : CoreId) (i : Nat) (e : AccElem) : (s.setElem c i e).pmc = s.pmc := rfl
@[simp] theorem State.setElem_sec (c : CoreId) (i : Nat) (e : AccElem) : (s.setElem c i e).sec = s.sec := rfl
@[simp] theorem State.setElem_clk (c : CoreId) (i : Nat) (e : AccElem) : (s.setElem c i e).clk = s.clk := rfl
@[simp] theorem State.setElem_mod (c : CoreId) (i : Nat) (e : AccElem) : (s.setElem c i e).mod = s.mod := rfl

@[simp] theorem State.setTile_pending (c : CoreId) (k : Nat) (x : TileSt) : (s.setTile c k x).pending = s.pending := rfl
@[simp] theorem State.setTile_fresh (c : CoreId) (k : Nat) (x : TileSt) : (s.setTile c k x).fresh = s.fresh := rfl
@[simp] theorem State.setTile_reply (c : CoreId) (k : Nat) (x : TileSt) : (s.setTile c k x).reply = s.reply := rfl
@[simp] theorem State.setTile_regs (c : CoreId) (k : Nat) (x : TileSt) : (s.setTile c k x).regs = s.regs := rfl
@[simp] theorem State.setTile_mem (c : CoreId) (k : Nat) (x : TileSt) : (s.setTile c k x).mem = s.mem := rfl
@[simp] theorem State.setTile_crc (c : CoreId) (k : Nat) (x : TileSt) : (s.setTile c k x).crc = s.crc := rfl
@[simp] theorem State.setTile_flags (c : CoreId) (k : Nat) (x : TileSt) : (s.setTile c k x).flags = s.flags := rfl
@[simp] theorem State.setTile_tables (c : CoreId) (k : Nat) (x : TileSt) : (s.setTile c k x).tables = s.tables := rfl
@[simp] theorem State.setTile_nextTables (c : CoreId) (k : Nat) (x : TileSt) : (s.setTile c k x).nextTables = s.nextTables := rfl
@[simp] theorem State.setTile_groveSt (c : CoreId) (k : Nat) (x : TileSt) : (s.setTile c k x).groveSt = s.groveSt := rfl
@[simp] theorem State.setTile_nodeQ (c : CoreId) (k : Nat) (x : TileSt) : (s.setTile c k x).nodeQ = s.nodeQ := rfl
@[simp] theorem State.setTile_qDepth (c : CoreId) (k : Nat) (x : TileSt) : (s.setTile c k x).qDepth = s.qDepth := rfl
@[simp] theorem State.setTile_entries (c : CoreId) (k : Nat) (x : TileSt) : (s.setTile c k x).entries = s.entries := rfl
@[simp] theorem State.setTile_nextEntry (c : CoreId) (k : Nat) (x : TileSt) : (s.setTile c k x).nextEntry = s.nextEntry := rfl
@[simp] theorem State.setTile_waiting (c : CoreId) (k : Nat) (x : TileSt) : (s.setTile c k x).waiting = s.waiting := rfl
@[simp] theorem State.setTile_halves (c : CoreId) (k : Nat) (x : TileSt) : (s.setTile c k x).halves = s.halves := rfl
@[simp] theorem State.setTile_streams (c : CoreId) (k : Nat) (x : TileSt) : (s.setTile c k x).streams = s.streams := rfl
@[simp] theorem State.setTile_host (c : CoreId) (k : Nat) (x : TileSt) : (s.setTile c k x).host = s.host := rfl
@[simp] theorem State.setTile_held (c : CoreId) (k : Nat) (x : TileSt) : (s.setTile c k x).held = s.held := rfl
@[simp] theorem State.setTile_fab (c : CoreId) (k : Nat) (x : TileSt) : (s.setTile c k x).fab = s.fab := rfl
@[simp] theorem State.setTile_privFaults (c : CoreId) (k : Nat) (x : TileSt) : (s.setTile c k x).privFaults = s.privFaults := rfl
@[simp] theorem State.setTile_fence (c : CoreId) (k : Nat) (x : TileSt) : (s.setTile c k x).fence = s.fence := rfl
@[simp] theorem State.setTile_beat (c : CoreId) (k : Nat) (x : TileSt) : (s.setTile c k x).beat = s.beat := rfl
@[simp] theorem State.setTile_dx (c : CoreId) (k : Nat) (x : TileSt) : (s.setTile c k x).dx = s.dx := rfl
@[simp] theorem State.setTile_pmc (c : CoreId) (k : Nat) (x : TileSt) : (s.setTile c k x).pmc = s.pmc := rfl
@[simp] theorem State.setTile_sec (c : CoreId) (k : Nat) (x : TileSt) : (s.setTile c k x).sec = s.sec := rfl
@[simp] theorem State.setTile_clk (c : CoreId) (k : Nat) (x : TileSt) : (s.setTile c k x).clk = s.clk := rfl
@[simp] theorem State.setTile_mod (c : CoreId) (k : Nat) (x : TileSt) : (s.setTile c k x).mod = s.mod := rfl

/-! ### What an update gives its own field -/

/-- A field after a write of a field: the value cut to the field's width where it is that field, and otherwise as before. -/
theorem State.rf_wf (f g : Fld) (v u i u' i' : Nat) :
    (s.wf f v u i).rf g u' i' = if (g, u', i') = (f, u, i) then v % 2 ^ f.width else s.rf g u' i' := by
  unfold State.rf State.wf
  rw [aget_aset]

@[simp] theorem State.rf_wf_self (f : Fld) (v u i : Nat) : (s.wf f v u i).rf f u i = v % 2 ^ f.width := by
  rw [State.rf_wf]; simp

theorem State.rf_wf_ne {f g : Fld} (v u i u' i' : Nat) (h : g ≠ f) : (s.wf f v u i).rf g u' i' = s.rf g u' i' := by
  rw [State.rf_wf]; simp [h]

/-- A register field depends on the registers alone. -/
theorem State.rf_congr {s t : State} (h : t.regs = s.regs) (f : Fld) (u i : Nat) : t.rf f u i = s.rf f u i := by
  unfold State.rf; rw [h]

@[simp] theorem State.rf_reset (f : Fld) (u i : Nat) : State.reset.rf f u i = fldReset f u i := rfl

@[simp] theorem State.rf_setCore (c : CoreId) (x : CoreSt) (g : Fld) (v j : Nat) : (s.setCore c x).rf g v j = s.rf g v j := rfl
@[simp] theorem State.rf_setCtx (c : CoreId) (n : CtxId) (x : Ctx) (g : Fld) (v j : Nat) : (s.setCtx c n x).rf g v j = s.rf g v j := rfl
@[simp] theorem State.rf_setHalf (h : HalfId) (x : Half) (g : Fld) (v j : Nat) : (s.setHalf h x).rf g v j = s.rf g v j := rfl
@[simp] theorem State.rf_setFlagSt (f : FlagId) (x : Flag) (g : Fld) (v j : Nat) : (s.setFlagSt f x).rf g v j = s.rf g v j := rfl
@[simp] theorem State.rf_setPll (h : HalfId) (n : PllId) (x : Pll) (g : Fld) (v j : Nat) : (s.setPll h n x).rf g v j = s.rf g v j := rfl
@[simp] theorem State.rf_used (n : Nat) (g : Fld) (v j : Nat) : (s.used n).rf g v j = s.rf g v j := rfl
@[simp] theorem State.rf_write (a : Nat) (bs : List Byte) (g : Fld) (v j : Nat) : (s.write a bs).rf g v j = s.rf g v j := rfl
@[simp] theorem State.rf_clearMem (lo hi : Nat) (g : Fld) (v j : Nat) : (s.clearMem lo hi).rf g v j = s.rf g v j := rfl
@[simp] theorem State.rf_setCrc (b w : Nat) (g : Fld) (v j : Nat) : (s.setCrc b w).rf g v j = s.rf g v j := rfl
@[simp] theorem State.rf_privFault (g : Fld) (v j : Nat) : (s.privFault).rf g v j = s.rf g v j := rfl
@[simp] theorem State.rf_setMod (m : Module) (g : Fld) (v j : Nat) : (s.setMod m).rf g v j = s.rf g v j := rfl
@[simp] theorem State.rf_setPort (p : PortId) (x : Port) (g : Fld) (v j : Nat) : (s.setPort p x).rf g v j = s.rf g v j := rfl
@[simp] theorem State.rf_setAcc (c : CoreId) (a : AccUnit) (g : Fld) (v j : Nat) : (s.setAcc c a).rf g v j = s.rf g v j := rfl
@[simp] theorem State.rf_setElem (c : CoreId) (i : Nat) (e : AccElem) (g : Fld) (v j : Nat) : (s.setElem c i e).rf g v j = s.rf g v j := rfl
@[simp] theorem State.rf_setTile (c : CoreId) (k : Nat) (x : TileSt) (g : Fld) (v j : Nat) : (s.setTile c k x).rf g v j = s.rf g v j := rfl

@[simp] theorem State.core_setCore_self (c : CoreId) (x : CoreSt) : (s.setCore c x).core c = x := by simp [State.core, State.setCore]
theorem State.core_setCore (c d : CoreId) (x : CoreSt) : (s.setCore c x).core d = if d = c then x else s.core d := by
  unfold State.core State.setCore; rw [aget_aset]
@[simp] theorem State.half_setHalf_self (h : HalfId) (x : Half) : (s.setHalf h x).half h = x := by simp [State.half, State.setHalf]
theorem State.half_setHalf (h k : HalfId) (x : Half) : (s.setHalf h x).half k = if k = h then x else s.half k := by
  unfold State.half State.setHalf; rw [aget_aset]
@[simp] theorem State.flag_setFlagSt_self (f : FlagId) (x : Flag) : (s.setFlagSt f x).flag f = x := by
  simp [State.flag, State.setFlagSt]
theorem State.flag_setFlagSt (f g : FlagId) (x : Flag) : (s.setFlagSt f x).flag g = if g = f then x else s.flag g := by
  unfold State.flag State.setFlagSt; rw [aget_aset]
theorem State.ctx_setCtx (c d : CoreId) (n m : CtxId) (x : Ctx) :
    (s.setCtx c n x).ctx d m = if d = c ∧ m = n then x else s.ctx d m := by
  unfold State.ctx State.setCtx
  rw [State.core_setCore]
  by_cases h : d = c
  · subst h; simp [aget_aset]
  · simp [h]
@[simp] theorem State.mod_setMod (m : Module) : (s.setMod m).mod = m := rfl
@[simp] theorem State.mem_write (a : Nat) (bs : List Byte) : (s.write a bs).mem = s.mem.setBytes a bs := rfl
@[simp] theorem State.mem_clearMem (lo hi : Nat) : (s.clearMem lo hi).mem = s.mem.clear lo hi := rfl
@[simp] theorem State.fresh_used (n : Nat) : (s.used n).fresh = s.fresh + n := rfl
@[simp] theorem State.privFaults_privFault : s.privFault.privFaults = s.privFaults + 1 := rfl

end Sys2Proof.Machine
end

