-- ==== Sys2Proof/Laws/Ops.lean ====
section
/-!
SUPPORT. What each shared operation can do, said once: register fields read back after a write, memory reads back after a write,
the frames of interrupts, counters and checks, and the invariant that each of them keeps.
-/

namespace Sys2Proof.Machine

/-! ### Register fields -/

set_option exponentiation.threshold 600 in
/-- The tables give every field a reset value that fits it. -/
theorem info_reset_lt (f : Fld) : f.info.reset < 2 ^ f.width := of_decide_eq_true (by cases f <;> rfl)

/-- A reset value fits its field. -/
theorem fldReset_lt (f : Fld) (u i : Nat) : fldReset f u i < 2 ^ f.width := by
  unfold fldReset
  split
  · exact Nat.mod_lt _ (by decide)
  · split <;> decide
  · split <;> decide
  · decide
  · decide
  · exact info_reset_lt f

/-- A write in another unit leaves a field. -/
theorem rf_wf_unit (s : State) (f f' : Fld) (v i i' : Nat) {u u' : Nat} (h : u' ≠ u) : (s.wf f v u i).rf f' u' i' = s.rf f' u' i' := by
  rw [State.rf_wf, if_neg (fun e => h (congrArg (fun x => x.2.1) e))]

/-- A write at another index leaves a field. -/
theorem rf_wf_idx (s : State) (f f' : Fld) (v u u' : Nat) {i i' : Nat} (h : i' ≠ i) : (s.wf f v u i).rf f' u' i' = s.rf f' u' i' := by
  rw [State.rf_wf, if_neg (fun e => h (congrArg (fun x => x.2.2) e))]

/-- A register reset brings the named fields to their reset values, and leaves the others. -/
theorem rf_resetRegs (s : State) (p : Fld → Nat → Nat → Bool) (f : Fld) (u i : Nat) :
    (s.resetRegs p).rf f u i = if p f u i then fldReset f u i else s.rf f u i := by
  unfold State.rf State.resetRegs
  simp only [aget_adrop]

/-! ### Elements -/

@[simp] theorem elem_setElem_self (s : State) (c : CoreId) (i : Nat) (e : AccElem) : (s.setElem c i e).elem c i = e := by
  unfold State.elem State.setElem State.setAcc State.acc; simp
theorem elem_setElem_ne (s : State) (c : CoreId) {i j : Nat} (e : AccElem) (h : j ≠ i) : (s.setElem c i e).elem c j = s.elem c j := by
  unfold State.elem State.setElem State.setAcc State.acc; simp only [State.core_setCore_self]; exact aget_aset_ne _ _ _ h

/-! ### Memory -/

/-- A byte after a write. -/
theorem get_write {s : State} (hs : s.mem.wf = true) (a c : Nat) (bs : List Byte) :
    (s.write a bs).mem.get c = if a ≤ c ∧ c < a + bs.length then bs.getD (c - a) 0 else s.mem.get c := Memory.get_setBytes hs

/-- Bytes depend on the bytes at their addresses alone. -/
theorem getBytes_congr {m m' : Memory} {a n : Nat} (h : ∀ c, a ≤ c → c < a + n → m.get c = m'.get c) : m.getBytes a n = m'.getBytes a n := by
  induction n generalizing a with
  | zero => rfl
  | succ n ih =>
    unfold Memory.getBytes
    rw [h a (Nat.le_refl a) (by omega), ih (fun c h1 h2 => h c (by omega) (by omega))]

/-- Bytes read back as written. -/
theorem read_write_self {s : State} (hs : s.mem.wf = true) (a : Nat) (bs : List Byte) : (s.write a bs).read a bs.length = bs := by
  have go : ∀ (l : List Byte) (m : Memory) (a : Nat), (∀ k, k < l.length → m.get (a + k) = l.getD k 0) → m.getBytes a l.length = l := by
    intro l
    induction l with
    | nil => intros; rfl
    | cons b l ih =>
      intro m a h
      have h0 : m.get a = b := by simpa using h 0 (by simp)
      rw [List.length_cons, Memory.getBytes, h0, ih m (a + 1) (fun k hk => by
        have := h (k + 1) (by simpa using hk)
        rw [show a + 1 + k = a + (k + 1) by omega, this]; simp)]
  refine go bs _ a (fun k hk => ?_)
  rw [get_write hs, if_pos ⟨by omega, by omega⟩]
  simp

/-- A write elsewhere leaves bytes. -/
theorem read_write_apart {s : State} (hs : s.mem.wf = true) (a b n : Nat) (bs : List Byte) (h : b + n ≤ a ∨ a + bs.length ≤ b) :
    (s.write a bs).read b n = s.read b n :=
  getBytes_congr fun c h1 h2 => by rw [get_write hs, if_neg (by omega)]

/-! ### The invariant -/

/-- The invariant looks at memory and the registers alone. -/
theorem inv_of_same {s t : State} (h : s.Inv) (hm : t.mem = s.mem) (hr : t.regs = s.regs) : t.Inv := by
  obtain ⟨h1, h2⟩ := h
  refine ⟨hm ▸ h1, fun f u i => ?_⟩
  have := h2 f u i
  unfold State.rf at this ⊢
  rw [hr]; exact this

theorem inv_wf {s : State} (h : s.Inv) (f : Fld) (v u i : Nat) : (s.wf f v u i).Inv := by
  refine ⟨h.1, fun f' u' i' => ?_⟩
  rw [State.rf_wf]
  split
  · next e => cases e; exact Nat.mod_lt _ (Nat.two_pow_pos _)
  · exact h.2 f' u' i'
theorem inv_incSat {s : State} (h : s.Inv) (f : Fld) (n u i : Nat) : (s.incSat f n u i).Inv := inv_wf h _ _ _ _
theorem inv_incWrap {s : State} (h : s.Inv) (f : Fld) (n u i : Nat) : (s.incWrap f n u i).Inv := inv_wf h _ _ _ _
theorem inv_resetRegs {s : State} (h : s.Inv) (p : Fld → Nat → Nat → Bool) : (s.resetRegs p).Inv := by
  refine ⟨h.1, fun f u i => ?_⟩
  rw [rf_resetRegs]
  split
  · exact fldReset_lt f u i
  · exact h.2 f u i
theorem inv_write {s : State} (h : s.Inv) (a : Nat) (bs : List Byte) : (s.write a bs).Inv := ⟨Memory.wf_setBytes h.1, h.2⟩
theorem inv_clearMem {s : State} (h : s.Inv) (lo hi : Nat) : (s.clearMem lo hi).Inv := ⟨Memory.wf_clear h.1, h.2⟩
theorem inv_used {s : State} (h : s.Inv) (n : Nat) : (s.used n).Inv := inv_of_same h rfl rfl
theorem inv_setCore {s : State} (h : s.Inv) (c : CoreId) (x : CoreSt) : (s.setCore c x).Inv := inv_of_same h rfl rfl
theorem inv_setCtx {s : State} (h : s.Inv) (c : CoreId) (n : CtxId) (x : Ctx) : (s.setCtx c n x).Inv := inv_of_same h rfl rfl
theorem inv_setHalf {s : State} (h : s.Inv) (k : HalfId) (x : Half) : (s.setHalf k x).Inv := inv_of_same h rfl rfl
theorem inv_setFlagSt {s : State} (h : s.Inv) (f : FlagId) (x : Flag) : (s.setFlagSt f x).Inv := inv_of_same h rfl rfl
theorem inv_setCrc {s : State} (h : s.Inv) (b v : Nat) : (s.setCrc b v).Inv := inv_of_same h rfl rfl

theorem inv_writeCrcs {s : State} (h : s.Inv) (bs : List Nat) : (writeCrcs s bs).Inv := by
  induction bs generalizing s with
  | nil => exact h
  | cons b bs ih => exact ih (inv_setCrc h _ _)

/-- The state after reset has it. -/
theorem inv_reset : State.reset.Inv := ⟨rfl, fun f u i => fldReset_lt f u i⟩

/-! ### Interrupts -/

/-- What an event of a source may change: the pending words of its half, and that half's line and latch. -/
theorem irqSetPending_frame (s : State) (h : HalfId) (src : Nat) :
    (∃ v, (irqSetPending s h src).regs = (s.wf .IRQ_PEND_PEND v h.val (src / 64)).regs) ∧
    (∀ k, k ≠ h → (irqSetPending s h src).half k = s.half k) ∧ ∃ hs, { irqSetPending s h src with regs := s.regs, halves := hs } = s := by
  unfold irqSetPending
  simp only
  split
  · exact ⟨⟨_, rfl⟩, fun k hk => by rw [State.half_setHalf, if_neg hk]; rfl, s.halves, rfl⟩
  · exact ⟨⟨_, rfl⟩, fun _ _ => rfl, s.halves, rfl⟩

theorem irqSetPending_eq (s : State) (h : HalfId) (src : Nat) :
    ∃ rs hs, irqSetPending s h src = { s with regs := rs, halves := hs } := by
  unfold irqSetPending; simp only; split <;> exact ⟨_, _, rfl⟩

theorem irqSetAll_eq (s : State) (h : HalfId) (srcs : List Nat) : ∃ rs hs, irqSetAll s h srcs = { s with regs := rs, halves := hs } := by
  induction srcs generalizing s with
  | nil => exact ⟨s.regs, s.halves, rfl⟩
  | cons x xs ih =>
    obtain ⟨rs, hs, e⟩ := irqSetPending_eq s h x
    obtain ⟨rs', hs', e'⟩ := ih (irqSetPending s h x)
    exact ⟨rs', hs', by rw [irqSetAll, e', e]⟩

/-- An event of a source changes registers and halves, and nothing else of the state. -/
theorem raiseIrq_eq (s : State) (h : HalfId) (src : Nat) : ∃ rs hs, raiseIrq s h src = { s with regs := rs, halves := hs } := by
  unfold raiseIrq
  simp only
  split
  · split
    · obtain ⟨rs, hs, e⟩ := irqSetAll_eq (s.setHalf h { s.half h with irqLatched := [], irqClockStopped := false }) h
        (if (s.half h).irqLatched.contains src then (s.half h).irqLatched else (s.half h).irqLatched ++ [src])
      exact ⟨rs, hs, by rw [e]; rfl⟩
    · exact ⟨s.regs, _, rfl⟩
  · exact irqSetPending_eq s h src

theorem irqSetPending_rf (s : State) (h : HalfId) (src u i : Nat) {f : Fld} (hf : f ≠ .IRQ_PEND_PEND) :
    (irqSetPending s h src).rf f u i = s.rf f u i := by
  unfold irqSetPending
  simp only
  split <;> exact State.rf_wf_ne _ _ _ _ _ _ hf

theorem irqSetAll_rf (s : State) (h : HalfId) (srcs : List Nat) (u i : Nat) {f : Fld} (hf : f ≠ .IRQ_PEND_PEND) :
    (irqSetAll s h srcs).rf f u i = s.rf f u i := by
  induction srcs generalizing s with
  | nil => rfl
  | cons x xs ih => rw [irqSetAll, ih, irqSetPending_rf _ _ _ _ _ hf]

/-- An event of a source leaves every register field but the pending words. -/
theorem raiseIrq_rf (s : State) (h : HalfId) (src u i : Nat) {f : Fld} (hf : f ≠ .IRQ_PEND_PEND) :
    (raiseIrq s h src).rf f u i = s.rf f u i := by
  unfold raiseIrq
  simp only
  split
  · split
    · exact irqSetAll_rf _ _ _ _ _ hf
    · rfl
  · exact irqSetPending_rf _ _ _ _ _ hf

@[simp] theorem raiseIrq_pending (s : State) (h : HalfId) (src : Nat) : (raiseIrq s h src).pending = s.pending := by
  obtain ⟨_, _, e⟩ := raiseIrq_eq s h src; rw [e]
@[simp] theorem raiseIrq_mem (s : State) (h : HalfId) (src : Nat) : (raiseIrq s h src).mem = s.mem := by
  obtain ⟨_, _, e⟩ := raiseIrq_eq s h src; rw [e]
@[simp] theorem raiseIrq_cores (s : State) (h : HalfId) (src : Nat) : (raiseIrq s h src).cores = s.cores := by
  obtain ⟨_, _, e⟩ := raiseIrq_eq s h src; rw [e]
@[simp] theorem raiseIrq_flags (s : State) (h : HalfId) (src : Nat) : (raiseIrq s h src).flags = s.flags := by
  obtain ⟨_, _, e⟩ := raiseIrq_eq s h src; rw [e]
@[simp] theorem raiseIrq_mod (s : State) (h : HalfId) (src : Nat) : (raiseIrq s h src).mod = s.mod := by
  obtain ⟨_, _, e⟩ := raiseIrq_eq s h src; rw [e]

theorem inv_irqSetPending {s : State} (hs : s.Inv) (h : HalfId) (src : Nat) : (irqSetPending s h src).Inv := by
  unfold irqSetPending
  simp only
  split
  · exact inv_setHalf (inv_wf hs _ _ _ _) _ _
  · exact inv_wf hs _ _ _ _

theorem inv_irqSetAll {s : State} (hs : s.Inv) (h : HalfId) (srcs : List Nat) : (irqSetAll s h srcs).Inv := by
  induction srcs generalizing s with
  | nil => exact hs
  | cons x xs ih => exact ih (inv_irqSetPending hs h x)

theorem inv_raiseIrq {s : State} (hs : s.Inv) (h : HalfId) (src : Nat) : (raiseIrq s h src).Inv := by
  unfold raiseIrq
  simp only
  split
  · split
    · exact inv_irqSetAll (inv_setHalf hs _ _) _ _
    · exact inv_setHalf hs _ _
  · exact inv_irqSetPending hs _ _

/-! ### Counters -/

/-- A counter that advances changes registers, halves, and the wraps that the aggregator keeps. -/
theorem advanceCnt_eq (s : State) (b : Block) (k n : Nat) :
    ∃ rs hs p, advanceCnt s b k n = { s with regs := rs, halves := hs, pmc := p } := by
  unfold advanceCnt
  simp only
  split
  · obtain ⟨rs, hs, e⟩ := raiseIrq_eq { ((s.wf (cntField b) (s.rf (cntField b) (blockUnit b) k + n) (blockUnit b) k).wf (cntOvf b) 1 (blockUnit b) k)
      with pmc := { s.pmc with wraps := (blockKey b, k) :: s.pmc.wraps } } (blockHalf b) 32
    exact ⟨rs, hs, _, by exact e⟩
  · exact ⟨_, s.halves, s.pmc, rfl⟩

theorem countFrom_eq (s : State) (b : Block) (ev n : Nat) (ks : List Nat) :
    ∃ rs hs p, countFrom s b ev n ks = { s with regs := rs, halves := hs, pmc := p } := by
  induction ks generalizing s with
  | nil => exact ⟨s.regs, s.halves, s.pmc, rfl⟩
  | cons k ks ih =>
    unfold countFrom
    split
    · obtain ⟨rs, hs, p, e⟩ := advanceCnt_eq s b k n
      obtain ⟨rs', hs', p', e'⟩ := ih (advanceCnt s b k n)
      exact ⟨rs', hs', p', by rw [e', e]⟩
    · exact ih s

/-- Events counted change registers, halves, and the wraps that the aggregator keeps, and nothing else of the state. -/
theorem countEv_eq (s : State) (b : Block) (ev n : Nat) : ∃ rs hs p, countEv s b ev n = { s with regs := rs, halves := hs, pmc := p } := by
  unfold countEv
  split
  · exact ⟨s.regs, s.halves, s.pmc, rfl⟩
  · exact countFrom_eq s b ev n _

@[simp] theorem countEv_pending (s : State) (b : Block) (ev n : Nat) : (countEv s b ev n).pending = s.pending := by
  obtain ⟨_, _, _, e⟩ := countEv_eq s b ev n; rw [e]
@[simp] theorem countEv_mem (s : State) (b : Block) (ev n : Nat) : (countEv s b ev n).mem = s.mem := by
  obtain ⟨_, _, _, e⟩ := countEv_eq s b ev n; rw [e]
@[simp] theorem countEv_cores (s : State) (b : Block) (ev n : Nat) : (countEv s b ev n).cores = s.cores := by
  obtain ⟨_, _, _, e⟩ := countEv_eq s b ev n; rw [e]
@[simp] theorem countEv_flags (s : State) (b : Block) (ev n : Nat) : (countEv s b ev n).flags = s.flags := by
  obtain ⟨_, _, _, e⟩ := countEv_eq s b ev n; rw [e]
@[simp] theorem countEv_mod (s : State) (b : Block) (ev n : Nat) : (countEv s b ev n).mod = s.mod := by
  obtain ⟨_, _, _, e⟩ := countEv_eq s b ev n; rw [e]

theorem inv_advanceCnt {s : State} (hs : s.Inv) (b : Block) (k n : Nat) : (advanceCnt s b k n).Inv := by
  unfold advanceCnt
  simp only
  split
  · refine inv_raiseIrq ?_ _ _
    exact inv_of_same (s := (s.wf (cntField b) (s.rf (cntField b) (blockUnit b) k + n) (blockUnit b) k).wf (cntOvf b) 1 (blockUnit b) k)
      (inv_wf (inv_wf hs _ _ _ _) _ _ _ _) rfl rfl
  · exact inv_wf hs _ _ _ _

theorem inv_countFrom {s : State} (hs : s.Inv) (b : Block) (ev n : Nat) (ks : List Nat) : (countFrom s b ev n ks).Inv := by
  induction ks generalizing s with
  | nil => exact hs
  | cons k ks ih =>
    unfold countFrom
    split
    · exact ih (inv_advanceCnt hs _ _ _)
    · exact ih hs

theorem inv_countEv {s : State} (hs : s.Inv) (b : Block) (ev n : Nat) : (countEv s b ev n).Inv := by
  unfold countEv
  split
  · exact hs
  · exact inv_countFrom hs _ _ _ _

theorem inv_countCore {s : State} (hs : s.Inv) (c : CoreId) (ev n : Nat) (spec : Bool) : (countCore s c ev n spec).Inv := by
  unfold countCore
  split
  · exact inv_setCore hs _ _
  · exact inv_countEv hs _ _ _

theorem countCore_pending (s : State) (c : CoreId) (ev n : Nat) (spec : Bool) : (countCore s c ev n spec).pending = s.pending := by
  unfold countCore
  split
  · rfl
  · exact countEv_pending _ _ _ _

/-! ### Block checks -/

theorem inv_takeInj {s : State} (hs : s.Inv) (h : HalfId) (n : Nat) : (takeInj s h n).Inv := by
  unfold takeInj
  split
  · exact hs
  · simp only
    split
    · exact inv_wf (inv_incSat (inv_setHalf hs _ _) _ _ _ _) _ _ _ _
    · exact inv_incSat (inv_setHalf hs _ _) _ _ _ _

theorem inv_countCrc1 {s : State} (hs : s.Inv) (b : Nat) : (countCrc1 s b).Inv := by
  have h1 := inv_countEv hs (.mem (tierHalf b)) 0x104 1
  unfold countCrc1
  by_cases h : lpddrBase ≤ b
  · simp only [if_pos h]; exact inv_incSat h1 _ _ _ _
  · simp only [if_neg h]; exact inv_incSat h1 _ _ _ _

theorem inv_escalate {s : State} (hs : s.Inv) (b : Nat) : (escalate s b).Inv := by
  unfold escalate
  by_cases h : lpddrBase ≤ b
  · simp only [if_pos h]
    refine inv_raiseIrq ?_ _ _
    cases (s.incSat .LPX_ERR_STAT_CRC2 1 (tierHalf b).val).rb .LPX_ERR_LOG_VALID (tierHalf b).val
    · exact inv_wf (inv_wf (inv_wf (inv_wf (inv_incSat hs _ _ _ _) _ _ _ _) _ _ _ _) _ _ _ _) _ _ _ _
    · exact inv_incSat hs _ _ _ _
  · simp only [if_neg h]
    refine inv_raiseIrq ?_ _ _
    cases (s.incSat .HBM_ERR_STAT_CRC2 1 (tierHalf b).val).rb .HBM_ERR_LOG_VALID (tierHalf b).val
    · exact inv_wf (inv_wf (inv_wf (inv_wf (inv_incSat hs _ _ _ _) _ _ _ _) _ _ _ _) _ _ _ _) _ _ _ _
    · exact inv_incSat hs _ _ _ _

/-- A property of the three outcomes of a check holds of the check. -/
theorem verify_cases {P : State → Prop} {x y : Bool} {a b e : State} (ha : P a) (hb : P b) (he : P e) :
    P (if x = true then (if y = true then b else a, false) else (e, true)).1 := by
  cases x
  · exact he
  · cases y
    · exact ha
    · exact hb

theorem inv_verifyBlock {s : State} (hs : s.Inv) (b : Nat) (t : Bool) : (verifyBlock s b t).1.Inv := by
  have h1 := inv_takeInj hs (tierHalf b) (blockInj s b)
  have h2 := inv_countCrc1 h1 b
  have h3 := inv_escalate h2 b
  simp only [verifyBlock]
  exact verify_cases h1 h2 h3

theorem inv_verifyBlocks {s : State} (hs : s.Inv) (bs : List Nat) (t : Nat) : (verifyBlocks s bs t).1.Inv := by
  induction bs generalizing s t with
  | nil => exact hs
  | cons b bs ih =>
    have h1 := inv_verifyBlock hs b (decide (0 < t))
    have h2 := ih h1 (t - 1)
    unfold verifyBlocks
    dsimp only
    exact h2

/-! ### Deposits -/

theorem inv_spillStat {s : State} (hs : s.Inv) (c : CoreId) : (spillStat s c).Inv := by
  unfold spillStat
  simp only
  exact inv_wf (inv_wf (inv_wf hs _ _ _ _) _ _ _ _) _ _ _ _

theorem inv_ovfStat {s : State} (hs : s.Inv) (h : HalfId) : (ovfStat s h).Inv := by
  unfold ovfStat
  simp only
  exact inv_wf (inv_wf hs _ _ _ _) _ _ _ _

/-- A deposit that no near form holds, with the spill table and the glade area full, changes nothing and exhausts (R101, R104). -/
theorem deposit_exhausted (s : State) (c : CoreId) (i : Nat) (d : Int) (sc : Nat) (h1 : elemCorrupt (s.elem c i) = false)
    (h2 : (s.elem c i).anchor ≠ 255) (h3 : d ≠ 0) (h4 : longInRange ((elemValue s c i).l + d) = true)
    (h5 : ¬((s.elem c i).w ≠ 0 ∧ fitsAnchor ((elemValue s c i).add ⟨sc, d⟩ 0).l (s.elem c i).anchor = true))
    (h6 : placeAnchor ((elemValue s c i).add ⟨sc, d⟩ 0).l = none) (h7 : freeSpill (s.acc c) = none)
    (h8 : freeSlot s (halfOfCore c) = none) : (deposit s c i d sc).2 = .exhausted := by
  unfold deposit
  simp only [h1, h4, h6, if_neg h2, if_neg h3, if_neg h5]
  unfold promote
  simp [h7, h8]

/-- A zero deposit into a sound near element ORs its sidecar bits and leaves the value (R100). -/
theorem deposit_zero (s : State) (c : CoreId) (i sc : Nat) (h1 : elemCorrupt (s.elem c i) = false) (h2 : (s.elem c i).anchor ≠ 255) :
    deposit s c i 0 sc = (s.setElem c i { s.elem c i with sc := (s.elem c i).sc ||| sc }, .done) := by
  unfold deposit
  simp [h1, h2]

/-- A deposit into a corrupt element raises the core's error, and changes no element (R98). -/
theorem deposit_corrupt (s : State) (c : CoreId) (i : Nat) (d : Int) (sc : Nat) (h1 : elemCorrupt (s.elem c i) = true) :
    deposit s c i d sc = (coreError s c, .corrupt) := by
  unfold deposit
  simp [h1]

/-! ### Checksums and identity records -/

/-- Eight steps of the CRC stay below 2^32 (R267). -/
theorem crcBits_lt (n c : Nat) (h : c < 2 ^ 32) : crcBits n c < 2 ^ 32 := by
  induction n generalizing c with
  | zero => exact h
  | succ n ih =>
    refine ih _ ?_
    split
    · exact Nat.xor_lt_two_pow (by omega) (by decide)
    · omega

/-- The CRC register stays below 2^32 (R267). -/
theorem crcFrom_lt (bs : List Byte) (c : Nat) (h : c < 2 ^ 32) : crcFrom bs c < 2 ^ 32 := by
  induction bs generalizing c with
  | nil => exact h
  | cons b rest ih => exact ih _ (crcBits_lt _ _ (Nat.xor_lt_two_pow h (Nat.lt_trans b.isLt (by decide))))

/-- A CRC-32C fits four bytes (R267). -/
theorem crc32c_lt (bs : List Byte) : crc32c bs < 2 ^ 32 :=
  Nat.xor_lt_two_pow (crcFrom_lt _ _ (by decide)) (by decide)

/-- An identity record takes 32 bytes (R300). -/
@[simp] theorem length_identityBytes (r : IdRecord) : (identityBytes r).length = 32 := by
  simp [identityBytes]

/-- The last four bytes of an identity record are the CRC-32C of the first 28 (R300). -/
theorem crc_identityBytes (r : IdRecord) : crc32c ((identityBytes r).take 0x1C) = dfld (identityBytes r) 0x1C 31 0 := by
  have h : ∀ b : List Byte, b.length = 0x1C → crc32c ((b ++ natLE 4 (crc32c b)).take 0x1C) = dfld (b ++ natLE 4 (crc32c b)) 0x1C 31 0 := by
    intro b hb
    rw [dfld, ← hb, List.take_left, List.drop_left, List.take_of_length_le (by simp), leNat_natLE]
    have := crc32c_lt b
    simp only [bits]; omega
  exact h _ (by simp)

/-- A serial number comes back from the record that carries it (R300). -/
theorem serial_identityBytes (r : IdRecord) (h : r.serial < 2 ^ 64) : (identityOf (identityBytes r)).serial = r.serial := by
  have e : ∀ (n v : Nat) (c : List Byte), leNat (((natLE n v ++ c).drop 0).take n) = v % 256 ^ n := by
    intro n v c
    have := List.take_left (l₁ := natLE n v) (l₂ := c)
    rw [length_natLE] at this
    rw [List.drop_zero, this, leNat_natLE]
  simp only [identityOf, identityBytes, dfld, List.append_assoc, e, bits]
  omega

end Sys2Proof.Machine
end

