-- ==== Sys2Proof/Laws/Keeps.lean ====
section
/-!
SUPPORT. What a shared operation keeps: the queue of commands, and the invariant. One lemma for each of the operations that
commands end and flags move by, so that a meaning made of them keeps both by citing theirs.
-/

namespace Sys2Proof.Machine

/-- `t` has the queue of `s`, and the invariant if `s` has it. -/
structure Keeps (s t : State) : Prop where
  pending : t.pending = s.pending
  inv : s.Inv → t.Inv

theorem Keeps.refl (s : State) : Keeps s s := ⟨rfl, id⟩
theorem Keeps.trans {s t u : State} (h : Keeps s t) (k : Keeps t u) : Keeps s u := ⟨k.pending.trans h.pending, k.inv ∘ h.inv⟩
/-- A change of neither the queue, memory nor the registers keeps both. -/
theorem Keeps.same {s t : State} (hp : t.pending = s.pending) (hm : t.mem = s.mem) (hr : t.regs = s.regs) : Keeps s t :=
  ⟨hp, fun h => inv_of_same h hm hr⟩
theorem Keeps.ite {s t u : State} {p : Prop} [Decidable p] (h : Keeps s t) (k : Keeps s u) : Keeps s (if p then t else u) := by
  split
  · exact h
  · exact k

/-! ### Registers, memory, cores -/

theorem keeps_wf (s : State) (f : Fld) (v u i : Nat) : Keeps s (s.wf f v u i) := ⟨rfl, fun h => inv_wf h _ _ _ _⟩
theorem Keeps.wf {s t : State} (h : Keeps s t) (f : Fld) (v u i : Nat) : Keeps s (t.wf f v u i) := h.trans (keeps_wf t _ _ _ _)
theorem keeps_incSat (s : State) (f : Fld) (n u i : Nat) : Keeps s (s.incSat f n u i) := keeps_wf s _ _ _ _
theorem keeps_write (s : State) (a : Nat) (bs : List Byte) : Keeps s (s.write a bs) := ⟨rfl, fun h => inv_write h _ _⟩
theorem keeps_writeCrcs (s : State) (bs : List Nat) : Keeps s (writeCrcs s bs) := by
  induction bs generalizing s with
  | nil => exact .refl s
  | cons b bs ih =>
    refine Keeps.trans ?_ (ih _)
    exact .same rfl rfl rfl
theorem keeps_writeBlocks (s : State) (a : Nat) (bs : List Byte) (crc : Bool) : Keeps s (s.writeBlocks a bs crc) := by
  unfold State.writeBlocks
  exact ((keeps_write _ _ _).trans (keeps_writeCrcs _ _)).ite (keeps_write _ _ _)
theorem keeps_post (s : State) (h : HalfId) (a : Nat) (bs : List Byte) (crc : Bool) : Keeps s (s.post h a bs crc) := by
  unfold State.post
  refine Keeps.ite ?_ (keeps_writeBlocks _ _ _ _)
  exact .same rfl rfl rfl
theorem keeps_used (s : State) (n : Nat) : Keeps s (s.used n) := .same rfl rfl rfl
theorem keeps_setCore (s : State) (c : CoreId) (x : CoreSt) : Keeps s (s.setCore c x) := .same rfl rfl rfl
theorem keeps_setCtx (s : State) (c : CoreId) (n : CtxId) (x : Ctx) : Keeps s (s.setCtx c n x) := .same rfl rfl rfl
theorem keeps_setHalf (s : State) (h : HalfId) (x : Half) : Keeps s (s.setHalf h x) := .same rfl rfl rfl
theorem keeps_setFlagSt (s : State) (f : FlagId) (x : Flag) : Keeps s (s.setFlagSt f x) := .same rfl rfl rfl
theorem keeps_setElem (s : State) (c : CoreId) (i : Nat) (e : AccElem) : Keeps s (s.setElem c i e) := .same rfl rfl rfl
theorem keeps_setAcc (s : State) (c : CoreId) (a : AccUnit) : Keeps s (s.setAcc c a) := .same rfl rfl rfl
theorem keeps_raiseIrq (s : State) (h : HalfId) (src : Nat) : Keeps s (raiseIrq s h src) := ⟨raiseIrq_pending s h src, fun k => inv_raiseIrq k h src⟩
theorem keeps_countEv (s : State) (b : Block) (ev n : Nat) : Keeps s (countEv s b ev n) := ⟨countEv_pending s b ev n, fun k => inv_countEv k b ev n⟩
theorem keeps_countCore (s : State) (c : CoreId) (ev n : Nat) (spec : Bool) : Keeps s (countCore s c ev n spec) :=
  ⟨countCore_pending s c ev n spec, fun k => inv_countCore k c ev n spec⟩
theorem keeps_dropSamples (s : State) (c : CoreId) (num : Nat) : Keeps s (dropSamples s c num) := by
  unfold dropSamples
  dsimp only
  refine Keeps.trans ?_ (keeps_incSat _ _ _ _ _)
  exact .same rfl rfl rfl

/-! ### Phases and streams -/

theorem keeps_putPhase (s : State) (p : PhaseRun) : Keeps s (putPhase s p) := .same rfl rfl rfl

theorem keeps_wfBoth (s : State) (f : Fld) (v i : Nat) : Keeps s (s.wfBoth f v i) := (keeps_wf s _ _ _ _).trans (keeps_wf _ _ _ _ _)

theorem keeps_writePhase (s : State) (p : PhaseRun) : Keeps s (writePhase s p) := by
  unfold writePhase
  split
  · exact .refl s
  · dsimp only
    split
    · exact keeps_putPhase s _
    · exact ((keeps_putPhase s _).trans ((keeps_post _ _ _ _ _).ite (.refl _))).trans (keeps_wfBoth _ _ _ _)

theorem keeps_phaseSet (s : State) (p : PhaseRun) : Keeps s (phaseSet s p) := by
  unfold phaseSet
  split
  · exact .refl s
  · split
    · dsimp only
      split
      · exact ((keeps_used s 1).trans (keeps_putPhase _ _)).trans (keeps_writePhase _ _)
      · exact (keeps_used s 1).trans (keeps_putPhase _ _)
    · split
      · exact .same rfl rfl rfl
      · exact .refl s

theorem keeps_phasesSet (s : State) (f : FlagId) (ps : List PhaseRun) : Keeps s (phasesSet s f ps) := by
  induction ps generalizing s with
  | nil => exact .refl s
  | cons p ps ih =>
    refine Keeps.trans ?_ (ih _)
    split
    · exact keeps_phaseSet s p
    · exact .refl s

theorem keeps_msixRaise (s : State) (v : Nat) : Keeps s (msixRaise s v) := by
  unfold msixRaise
  dsimp only
  split
  · split
    · exact .refl s
    · exact .same rfl rfl rfl
  · exact .same rfl rfl rfl

theorem keeps_setEvents (s : State) (h : HalfId) (es : List (List Nat)) : Keeps s (setEvents s h es) := by
  unfold setEvents
  refine Keeps.trans ?_ (keeps_wf _ _ _ _ _)
  exact .same rfl rfl rfl

theorem keeps_postEvent (s : State) (h : HalfId) (ev : Nat) (ws : List Nat) : Keeps s (postEvent s h ev ws) := by
  unfold postEvent
  dsimp only
  generalize (if aget s.dx.lost h 0 = 0 then [ev :: ws] else [[evLost, aget s.dx.lost h 0], ev :: ws]) = new
  split
  · refine Keeps.trans ?_ (keeps_incSat _ _ _ _ _)
    exact .same rfl rfl rfl
  · have h1 : Keeps s (setEvents { s with dx := { s.dx with lost := aset s.dx.lost h 0 } } h (eventsOf s h ++ new)) := by
      refine Keeps.trans ?_ (keeps_setEvents _ _ _)
      exact .same rfl rfl rfl
    exact (h1.trans (keeps_msixRaise _ _)).ite h1

theorem keeps_stopStream (s : State) (m : StreamId) (st : Nat) : Keeps s (stopStream s m st) := by
  unfold stopStream
  exact ((((Keeps.refl s).wf _ _ _ _).wf _ _ _ _).wf _ _ _ _).trans (keeps_postEvent _ _ _ _)

/-! ### Flags (R216 to R228) -/

theorem keeps_wakeRecord (s : State) (c : CoreId) (n : CtxId) (f : FlagId) (src : Src) (wait : Nat) (poison : Bool) (cause : Nat) :
    Keeps s (wakeRecord s c n f src wait poison cause) := by
  unfold wakeRecord
  iterate 7 refine Keeps.wf ?_ _ _ _ _
  exact .refl s

theorem keeps_wakeWaiter (s : State) (w : Waiter) (f : FlagId) (src : Src) (poison : Bool) (cause : Nat) :
    Keeps s (wakeWaiter s w f src poison cause) := by
  cases w with
  | ctx c n =>
    exact (((keeps_wakeRecord s c n f src _ poison cause).trans (keeps_used _ 1)).trans (keeps_setCtx _ _ _ _)).trans (keeps_setCore _ _ _)
  | stream m =>
    unfold wakeWaiter
    dsimp only
    split
    · refine Keeps.trans ?_ (keeps_stopStream _ _ _)
      exact .same rfl rfl rfl
    · refine Keeps.trans ?_ (keeps_wf _ _ _ _ _)
      exact .same rfl rfl rfl

theorem keeps_wakeAll (s : State) (ws : List Waiter) (f : FlagId) (src : Src) (cause : Nat) : Keeps s (wakeAll s ws f src cause) := by
  induction ws generalizing s with
  | nil => exact .refl s
  | cons w ws ih => exact (keeps_wakeWaiter s w f src true cause).trans (ih _)

theorem keeps_absorbSet (s : State) (f : FlagId) : Keeps s (absorbSet s f) := by
  unfold absorbSet
  split <;> exact keeps_incSat _ _ _ _ _

theorem keeps_setFlag (s : State) (f : FlagId) (src : Src) : Keeps s (setFlag s f src) := by
  unfold setFlag
  refine (keeps_phasesSet s f s.beat.phases).trans ?_
  dsimp only
  split
  · exact keeps_absorbSet _ _
  · split
    · exact keeps_setFlagSt _ _ _
    · exact (keeps_setFlagSt _ _ _).trans (keeps_wakeWaiter _ _ _ _ _ _)

theorem keeps_clearFlag (s : State) (f : FlagId) : Keeps s (clearFlag s f) := by
  unfold clearFlag
  split
  · exact .refl s
  · dsimp only
    split
    · exact keeps_setFlagSt _ _ _
    · exact .refl s

theorem keeps_poisonFlag (s : State) (f : FlagId) (src : Src) (cause : Nat) : Keeps s (poisonFlag s f src cause) := by
  unfold poisonFlag
  exact ((keeps_incSat s _ _ _ _).trans (keeps_setFlagSt _ _ _)).trans (keeps_wakeAll _ _ _ _ _)

theorem keeps_poisonFlags (s : State) (fs : List FlagId) (src : Src) (cause : Nat) : Keeps s (poisonFlags s fs src cause) := by
  induction fs generalizing s with
  | nil => exact .refl s
  | cons f fs ih => exact (keeps_poisonFlag s f src cause).trans (ih _)

theorem keeps_clearFlags (s : State) (fs : List FlagId) : Keeps s (clearFlags s fs) := by
  induction fs generalizing s with
  | nil => exact .refl s
  | cons f fs ih => exact (keeps_clearFlag s f).trans (ih _)

theorem keeps_claimFlags (s : State) (fs : List FlagId) (c : CoreId) (n : CtxId) : Keeps s (claimFlags s fs c n) := by
  induction fs generalizing s with
  | nil => exact .refl s
  | cons f fs ih => exact (keeps_setFlagSt s f _).trans (ih _)

theorem keeps_unclaimFlags (s : State) (fs : List FlagId) (c : CoreId) (n : CtxId) : Keeps s (unclaimFlags s fs c n) := by
  induction fs generalizing s with
  | nil => exact .refl s
  | cons f fs ih =>
    refine Keeps.trans ?_ (ih _)
    split
    · exact keeps_setFlagSt s f _
    · exact .refl s

theorem keeps_beginWait (s : State) (c : CoreId) (n : CtxId) (f : FlagId) : Keeps s (beginWait s c n f).1 := by
  unfold beginWait
  dsimp only
  split
  · exact keeps_wakeRecord _ _ _ _ _ _ _ _
  · split
    · exact keeps_wakeRecord _ _ _ _ _ _ _ _
    · split
      · exact (keeps_setFlagSt s _ _).trans (keeps_wakeRecord _ _ _ _ _ _ _ _)
      · exact keeps_setFlagSt _ _ _

/-! ### Fabric operations started (R285, R289, R294) -/

theorem keeps_takeInj (s : State) (h : HalfId) (n : Nat) : Keeps s (takeInj s h n) := by
  refine ⟨?_, fun k => inv_takeInj k h n⟩
  unfold takeInj
  split
  · rfl
  · dsimp only; split <;> rfl

theorem keeps_transmit (s : State) (p : PortId) (pkt : Packet) : Keeps s (transmit s p pkt) := by
  have h : Keeps s (injectFlits s p (flitsOf pkt)) := by
    unfold injectFlits
    exact (Keeps.refl s).ite ((keeps_takeInj _ _ _).trans (keeps_incSat _ _ _ _ _))
  refine h.trans ?_
  exact .same rfl rfl rfl

theorem keeps_putOnPort (s : State) (p : PortId) (pkt : Packet) : Keeps s (putOnPort s p pkt) := by
  unfold putOnPort
  refine (keeps_transmit _ _ _).ite ?_
  exact .same rfl rfl rfl

theorem keeps_trackerStat (s : State) : Keeps s (trackerStat s) := by
  unfold trackerStat
  iterate 6 refine Keeps.wf ?_ _ _ _ _
  exact .refl s

theorem keeps_answerPacket (s : State) (op addr st : Nat) : Keeps s (answerPacket s op addr st) := by
  unfold answerPacket
  split
  · exact .refl s
  · exact .same rfl rfl rfl

theorem keeps_putSelf (s : State) (pkt : Packet) : Keeps s (putSelf s pkt) := .same rfl rfl rfl

theorem keeps_sendRequest (s : State) (u : Unsent) (tag : Nat) : Keeps s (sendRequest s u tag) := by
  unfold sendRequest
  refine (keeps_answerPacket _ _ _ _).ite (Keeps.ite ?_ ?_)
  · refine Keeps.trans (Keeps.trans ?_ (keeps_trackerStat _)) (keeps_putSelf _ _)
    exact .same rfl rfl rfl
  · split
    · exact (keeps_used s 1).trans (keeps_answerPacket _ _ _ _)
    · refine Keeps.trans (Keeps.trans ?_ (keeps_trackerStat _)) (keeps_putOnPort _ _ _)
      exact .same rfl rfl rfl

theorem keeps_pumpUnsent (s : State) (us : List Unsent) : Keeps s (pumpUnsent s us) := by
  induction us generalizing s with
  | nil => exact .same rfl rfl rfl
  | cons u us ih =>
    unfold pumpUnsent
    split
    · exact .same rfl rfl rfl
    · exact (keeps_sendRequest _ _ _).trans (ih _)

theorem keeps_numberPackets (s : State) (op : Nat) (ps : List (Nat × Packet)) : Keeps s (numberPackets s op ps) := by
  induction ps generalizing s with
  | nil => exact .refl s
  | cons p ps ih =>
    refine Keeps.trans ?_ (ih _)
    exact .same rfl rfl rfl

/-- A fabric operation that starts keeps the queue and the invariant. -/
theorem keeps_startFabOp (s : State) (x : FabOp) (ps : List (Nat × Packet)) : Keeps s (startFabOp s x ps) := by
  unfold startFabOp
  refine Keeps.trans (Keeps.trans ?_ (keeps_numberPackets _ _ _)) (keeps_pumpUnsent _ _)
  exact .same rfl rfl rfl

/-! ### Commands that end (R188, R191) -/

theorem keeps_setOwn (s : State) (c : CoreId) (n : CtxId) (f : FlagId) : Keeps s (setOwn s c n f) := by
  unfold setOwn
  exact (keeps_startFabOp _ _ _).ite (keeps_setFlag _ _ _)

theorem keeps_putRecord (s : State) (h : HalfId) (a : Nat) (bs : List Byte) : Keeps s (putRecord s h a bs) := by
  unfold putRecord
  refine Keeps.ite ?_ ((keeps_post _ _ _ _ _).ite (.refl s))
  exact .same rfl rfl rfl

theorem keeps_trkStat (s : State) (c : CoreId) : Keeps s (trkStat s c) := by
  unfold trkStat
  exact (((Keeps.refl s).wf _ _ _ _).wf _ _ _ _).wf _ _ _ _

theorem keeps_enterOp (s : State) (c : CoreId) (n : CtxId) (o : Op) : Keeps s (enterOp s c n o) := by
  unfold enterOp
  exact (((keeps_setCtx s c n _).trans (keeps_countCore _ _ _ _ _)).trans (keeps_setCore _ _ _)).trans (keeps_trkStat _ _)

theorem keeps_writeRecord (s : State) (c : CoreId) (o : Op) (status result : Nat) : Keeps s (writeRecord s c o status result) := by
  unfold writeRecord
  dsimp only
  split
  · exact ((keeps_putRecord _ _ _ _).trans (keeps_setCtx _ _ _ _)).trans (keeps_used _ 1)
  · exact .refl s

theorem keeps_doSetf (s : State) (c : CoreId) (o : Op) (aborted : Bool) : Keeps s (doSetf s c o aborted) := by
  unfold doSetf
  split
  · exact keeps_setOwn _ _ _ _
  · exact .refl s

/-- A context that stops keeps the queue and the invariant. -/
theorem keeps_stopCtx (s : State) (c : CoreId) (n : CtxId) : Keeps s (stopCtx s c n) := by
  unfold stopCtx
  dsimp only
  have h : Keeps s (if (s.ctx c n).st = .waiting then leaveFlags s c n else s) := Keeps.ite (.same rfl rfl rfl) (.refl s)
  exact h.trans (keeps_setCtx _ _ _ _)

/-- A command that completes keeps the queue and the invariant (R188). -/
theorem keeps_completeOp (s : State) (c : CoreId) (o : Op) (status result : Nat) (stop : Bool) :
    Keeps s (completeOp s c o status result stop) := by
  unfold completeOp
  dsimp only
  refine Keeps.trans ?_ (keeps_doSetf _ _ _ _)
  have h1 : ∀ t : State, Keeps s t → Keeps s (writeRecord (if status = stOK then t else countCore t c 0x003 1 o.spec) c o status result) :=
    fun t h => (h.trans ((Keeps.refl t).ite (keeps_countCore _ _ _ _ _))).trans (keeps_writeRecord _ _ _ _ _)
  have h2 : Keeps s (if o.cls = clMat ∧ (status = stAbortedDisable ∨ status = stAccExhausted) then dropSamples s c o.num else s) :=
    (keeps_dropSamples _ _ _).ite (.refl s)
  refine Keeps.ite ?_ (Keeps.ite (Keeps.trans (Keeps.trans ?_ (keeps_setCtx _ _ _ _)) (keeps_stopCtx _ _ _))
    (Keeps.trans ?_ (keeps_setCtx _ _ _ _)))
  all_goals exact h1 _ ((h2.trans (keeps_setCore _ c _)).trans (keeps_trkStat _ c))

/-- A command refused at acceptance keeps the queue and the invariant. -/
theorem keeps_refuseCmd (s : State) (c : CoreId) (n : CtxId) (k : Cmd) (status : Nat) (stop : Bool) :
    Keeps s (refuseCmd s c n k status stop) := by
  unfold refuseCmd
  exact (keeps_enterOp _ _ _ _).trans (keeps_completeOp _ _ _ _ _ _)

/-! ### Deposits (R100 to R104) -/

theorem keeps_coreError (s : State) (c : CoreId) : Keeps s (coreError s c) := keeps_raiseIrq _ _ _
theorem keeps_countElem (s : State) (c : CoreId) (i ev : Nat) : Keeps s (countElem s c i ev) := keeps_countCore _ _ _ _ _
theorem keeps_spillStat (s : State) (c : CoreId) : Keeps s (spillStat s c) := ⟨rfl, fun h => inv_spillStat h c⟩
theorem keeps_ovfStat (s : State) (h : HalfId) : Keeps s (ovfStat s h) := ⟨rfl, fun k => inv_ovfStat k h⟩

theorem keeps_writeFar (s : State) (c : CoreId) (i : Nat) (v : LVal) : Keeps s (writeFar s c i v) := by
  unfold writeFar
  exact (keeps_write _ _ _).ite (keeps_setAcc _ _ _)

theorem keeps_farAdd (s : State) (c : CoreId) (i : Nat) (d : Int) (sc : Nat) : Keeps s (farAdd s c i d sc) := by
  unfold farAdd
  exact (((keeps_used s 1).trans (keeps_setElem _ _ _ _)).trans (keeps_countElem _ _ _ _)).trans (keeps_writeFar _ _ _ _)

theorem keeps_promote (s : State) (c : CoreId) (i : Nat) (v : LVal) : Keeps s (promote s c i v).1 := by
  unfold promote
  split
  · exact ((keeps_setAcc s _ _).trans (keeps_countElem _ _ _ _)).trans (keeps_spillStat _ _)
  · dsimp only
    split
    · exact .refl s
    · exact ((((keeps_setElem s _ _ _).trans (keeps_setHalf _ _ _)).trans (keeps_countElem _ _ _ _)).trans (keeps_write _ _ _)).trans
        (keeps_ovfStat _ _)

/-- A deposit keeps the queue and the invariant. -/
theorem keeps_deposit (s : State) (c : CoreId) (i : Nat) (d : Int) (sc : Nat) : Keeps s (deposit s c i d sc).1 := by
  unfold deposit
  dsimp only
  split
  · exact keeps_coreError _ _
  · split
    · exact keeps_farAdd _ _ _ _ _
    · split
      · exact keeps_setElem _ _ _ _
      · split
        · exact (keeps_used s 1).trans (keeps_setElem _ _ _ _)
        · split
          · exact keeps_setElem _ _ _ _
          · split
            · dsimp only
              split
              · exact keeps_setElem _ _ _ _
              · exact (keeps_countElem s _ _ _).trans (keeps_setElem _ _ _ _)
            · exact keeps_promote _ _ _ _

end Sys2Proof.Machine
end

