-- ==== Sys2Proof/WellFormed.lean ====
section
/-!
DEFINITION. Well-formed commands: every operand that is a plain number or a list lies within the width or length that the spec
gives it. Units are `Fin`, so that no command names one that is absent.
-/

namespace Sys2Proof

/-- `n` is below `b`. -/
def fits (n b : Nat) : Bool := decide (n < b)

/-- The numbers that name an agent (R24, R428). -/
def agentWf (a : Agent) : Bool :=
  match a with
  | .remote dev => decide (dev < 2 ^ 14)
  | .smbus addr => decide (addr < 128)
  | _ => true

/-- The header fields of R286, the payload limit of R288 and the CRC trailer. -/
def Packet.wf (p : Packet) : Bool :=
  decide (p.ptype < 256) && decide (p.pclass < 4) && decide (p.tc < 4) && decide (p.srcDev < 2 ^ 14) && decide (p.srcAgent < 1024) &&
  decide (p.hops < 16) && decide (p.dst < 2 ^ 64) && decide (p.job < 2 ^ 32) && decide (p.epoch < 2 ^ 32) && decide (p.oseq < 65536) &&
  decide (p.tag < 1024) && decide (p.via < 256) && decide (p.payload.length ≤ 4096) && p.trailer.all (fun c => decide (c < 2 ^ 32))

/-- The fields of an identity record (R300). -/
def IdRecord.wf (r : IdRecord) : Bool :=
  decide (r.serial < 2 ^ 64) && decide (r.port < 32) && decide (r.vmin < 256) && decide (r.vmax < 256) && decide (r.coord < 2 ^ 14) &&
  decide (r.job < 2 ^ 32) && decide (r.epoch < 2 ^ 32)

/-- The bytes of a flit, and a sequence number (R284). -/
def Flit.wf (f : Flit) : Bool := f.bytes.length == 256 && f.replay.all (fun n => decide (n < 4096))

/-- The operands of a merge (R168, R169). -/
def MergeOp.wf (m : MergeOp) : Bool :=
  match m with
  | .opt umax nonfin _ _ => decide (umax < 2 ^ 32) && decide (nonfin < 2 ^ 32)
  | .scale amax nsat nnonfin => decide (amax < 2 ^ 32) && decide (nsat < 2 ^ 32) && decide (nnonfin < 2 ^ 32)

/-- A command is well-formed. -/
def Instr.wf (i : Instr) : Bool :=
  match i with
  | .mainInputRise => true
  | .railsGood => true
  | .mainInputFault _ => true
  | .powerExcursionTrip => true
  | .railFaultTrip => true
  | .thermalTrip => true
  | .auxLoss => true
  | .shutdownCauseRead => true
  | .shutdownCauseClear value => fits value 256
  | .perstNAssert => true
  | .perstNRelease => true
  | .moduleResetRelease feedPins _ => fits feedPins 256
  | .oscAmplitudeLow => true
  | .oscillatorStable => true
  | .pllLock _ _ _ => true
  | .pllLockTimeout _ _ => true
  | .selftestDone => true
  | .stagingWrite offset data => fits (offset + data.length) (2 ^ 36 + 1)
  | .bootGo _ _ => true
  | .bootCheckDone => true
  | .bootBridgeTimeout => true
  | .measExtend a _ _ => agentWf a
  | .measExtendDone _ => true
  | .refLoss _ _ => true
  | .refReturn _ _ => true
  | .relock a _ _ => agentWf a
  | .pllConfigWrite a _ _ value => agentWf a && fits value (2 ^ 32)
  | .fbdivSlewStep _ => true
  | .sscWrite a _ _ value => agentWf a && fits value (2 ^ 32)
  | .sscApply _ _ => true
  | .muxSelect a _ _ _ => agentWf a
  | .muxSwitchDone _ _ => true
  | .muxHang _ _ => true
  | .forceSwitch a _ _ _ => agentWf a
  | .domainReset a _ hold => agentWf a && fits hold 32
  | .fmonGo a _ _ _ => agentWf a
  | .fmonDone _ _ => true
  | .powerOffRequest a _ _ => agentWf a
  | .powerDownDone _ _ => true
  | .wakeRequest a _ _ => agentWf a
  | .wakeRampDone _ _ => true
  | .wakeComplete _ _ _ => true
  | .tokenHeartbeat _ => true
  | .peerTokenHeartbeat _ => true
  | .halfFence _ => true
  | .tokenGrant _ => true
  | .bridgeLinkFail => true
  | .ageMeasure a _ => agentWf a
  | .ageMeasureDone _ counts => counts.length == 64
  | .marginReplan => true
  | .powerAverageCheck avg now vin => fits avg 65536 && fits now 65536 && fits vin 65536
  | .junctionRead half0 half1 inlet _ => fits half0 256 && fits half1 256 && fits inlet 256
  | .cadRegenWrite a _ => agentWf a
  | .cadRegenApply => true
  | .pcieConfigRequest offset data => fits offset 4096 && (match data with | none => true | some v => fits v (2 ^ 32))
  | .bar0BadAccess _ offset _ => fits offset (2 ^ 26)
  | .registerWrite a offset len value => agentWf a && fits offset (2 ^ 26) && fits len 9 && (match value with | none => true | some v => fits v (2 ^ (8 * len)))
  | .bar2Access offset len data => fits offset (2 ^ 36) && (match data with | none => true | some d => d.length == len)
  | .streamSubmit _ _ desc => desc.length == 64
  | .work _ => true
  | .wait _ => true
  | .streamSet _ => true
  | .mbxInWr a _ _ word => agentWf a && fits word (2 ^ 32)
  | .mbxOutWr a _ _ word => agentWf a && fits word (2 ^ 32)
  | .mbxInRd a _ _ => agentWf a
  | .mbxOutRd a _ _ => agentWf a
  | .flushIn _ _ => true
  | .flushOut _ _ => true
  | .irqClaim a _ => agentWf a
  | .irqCoalesceTimeout _ => true
  | .info _ _ => true
  | .status _ _ => true
  | .nodeDesc _ _ => true
  | .opQuery _ _ => true
  | .chLog _ _ => true
  | .jobLoad _ _ => true
  | .jobStart _ _ => true
  | .jobStop _ _ => true
  | .jobUnload _ _ => true
  | .armInstall _ _ => true
  | .schedSet _ _ => true
  | .restore _ _ => true
  | .xfer _ _ => true
  | .xferAbort _ _ => true
  | .b2win _ _ => true
  | .flagSet _ _ => true
  | .flagPoison _ _ => true
  | .streamRestart _ _ => true
  | .ckptCfg _ _ => true
  | .risk _ _ => true
  | .unitDisable _ _ => true
  | .expel _ _ => true
  | .surveyLoad _ _ => true
  | .portRelease _ _ => true
  | .fabMode _ _ => true
  | .peers _ _ => true
  | .attest _ _ => true
  | .certChain _ _ => true
  | .authLoad _ _ => true
  | .authClear _ _ => true
  | .lifecycle _ _ => true
  | .badOpcode _ _ => true
  | .channel15Discard _ => true
  | .opDone handle _ _ _ => fits handle 65536
  | .eventPost _ => true
  | .workEntryOp _ _ => true
  | .workEntryProg _ _ => true
  | .partStart _ => true
  | .partComplete _ _ => true
  | .cmdEnd _ _ => true
  | .invalidClass _ _ => true
  | .coreClockGate _ => true
  | .mat _ _ => true
  | .beginClearPoint _ => true
  | .kBlockLoad _ => true
  | .kBlockStream _ => true
  | .deposit _ => true
  | .residueDeposit _ _ => true
  | .farDeposit _ => true
  | .gladeDeposit _ => true
  | .promotionTimeout _ => true
  | .matComplete _ => true
  | .drain _ _ => true
  | .drainStart _ => true
  | .drainComplete _ => true
  | .tagClr a _ => agentWf a
  | .pairCfgWrite a _ _ => agentWf a
  | .vadd _ _ => true
  | .vsub _ _ => true
  | .vmul _ _ => true
  | .vfma _ _ => true
  | .vmax _ _ => true
  | .vmin _ _ => true
  | .vaxpy _ _ => true
  | .vexp _ _ => true
  | .vlog _ _ => true
  | .vsqrt _ _ => true
  | .vrsq _ _ => true
  | .vdiv _ _ => true
  | .vabs _ _ => true
  | .cvt _ _ => true
  | .qcvt _ _ => true
  | .scupd _ _ => true
  | .rsum _ _ => true
  | .rsumsq _ _ => true
  | .rdot _ _ => true
  | .ramax _ _ => true
  | .smcomb _ _ => true
  | .exdep _ _ => true
  | .exred _ _ => true
  | .optstep _ _ => true
  | .rngu _ _ => true
  | .rngdrop _ _ => true
  | .vecInvalidOp _ _ => true
  | .vecComplete _ => true
  | .load _ _ => true
  | .store _ _ => true
  | .transferComplete _ _ _ => true
  | .cond _ _ => true
  | .condResolve _ _ => true
  | .runAheadRead _ _ _ _ => true
  | .specCommit _ => true
  | .specExpire _ handle => fits handle 65536
  | .disableCore a _ => agentWf a
  | .disableMat a _ => agentWf a
  | .disableVec a _ => agentWf a
  | .disableLoad a _ => agentWf a
  | .disableStore a _ => agentWf a
  | .disableGrove a _ => agentWf a
  | .disableDrainExpire _ => true
  | .set _ _ => true
  | .clear _ _ => true
  | .claim _ _ => true
  | .unclaim _ _ => true
  | .fence _ _ => true
  | .setReachesFlag _ src _ => fits src.dev (2 ^ 14) && fits src.ctx 1024
  | .add32 addr operand => fits addr (2 ^ 50) && fits operand (2 ^ 32)
  | .add64 addr operand => fits addr (2 ^ 50) && fits operand (2 ^ 64)
  | .swap32 addr operand => fits addr (2 ^ 50) && fits operand (2 ^ 32)
  | .swap64 addr operand => fits addr (2 ^ 50) && fits operand (2 ^ 64)
  | .merge addr m => fits addr (2 ^ 50) && m.wf
  | .bistRegionStart _ _ => true
  | .bistForce _ _ => true
  | .bistRegionEnd _ _ => true
  | .gladeClear a _ => agentWf a
  | .gladeClearEnd _ => true
  | .hbmInit a _ => agentWf a
  | .lpxInit a _ => agentWf a
  | .initEnd _ _ => true
  | .hbmTempReading _ _ _ => true
  | .lpddrRefreshRead _ _ _ => true
  | .portEnable _ => true
  | .detectRetry _ => true
  | .peerSignal _ => true
  | .equaliseDone _ _ => true
  | .identityRecord _ copies => copies.length == 3 && copies.all (fun b => b.length == 32)
  | .identTimeout _ => true
  | .quarantineBeacon _ => true
  | .flitReceive _ f => f.wf
  | .retrainTimeout _ => true
  | .portAckTimeout _ => true
  | .signalLoss _ => true
  | .fabQclr a _ ports => agentWf a && fits ports 512
  | .portDisable a _ ports => agentWf a && fits ports 512
  | .portDrainExpire _ => true
  | .put _ _ => true
  | .get _ _ => true
  | .exadd _ _ => true
  | .atomic _ _ => true
  | .token _ _ => true
  | .confirm _ _ => true
  | .cancel _ _ => true
  | .fabricInvalidOp _ _ => true
  | .reduceScatter _ _ => true
  | .allGather _ _ => true
  | .allReduce _ _ => true
  | .permute _ _ => true
  | .fabricComplete _ => true
  | .collComplete _ => true
  | .putPacket _ pkt => pkt.wf
  | .packetResend _ pkt => pkt.wf
  | .getPacket _ pkt _ => pkt.wf
  | .getdata _ pkt => pkt.wf
  | .exaddPacket _ pkt => pkt.wf
  | .flagset _ pkt => pkt.wf
  | .tokenPacket _ pkt => pkt.wf
  | .atomicPacket _ pkt => pkt.wf
  | .confirmPacket _ pkt => pkt.wf
  | .cancelPacket _ pkt => pkt.wf
  | .done _ pkt => pkt.wf
  | .packetBadtype _ pkt => pkt.wf
  | .transit _ pkt => pkt.wf
  | .fabTimeout _ => true
  | .sync _ pkt _ _ => pkt.wf
  | .reply _ pkt _ => pkt.wf
  | .late _ pkt => pkt.wf
  | .decide _ pkt => pkt.wf
  | .shift _ pkt => pkt.wf
  | .beatmarkBadkind _ pkt => pkt.wf
  | .heartbeat _ pkt => pkt.wf
  | .failnote _ pkt => pkt.wf
  | .probe _ pkt => pkt.wf
  | .probeReply _ pkt => pkt.wf
  | .probeTimeout dev => fits dev (2 ^ 14)
  | .declare _ pkt => pkt.wf
  | .stop _ pkt => pkt.wf
  | .digest _ pkt => pkt.wf
  | .stopReq _ pkt => pkt.wf
  | .expelReq _ pkt => pkt.wf
  | .armAck _ pkt => pkt.wf
  | .table _ pkt => pkt.wf
  | .mgmtUnknown _ pkt => pkt.wf
  | .beatBoundary => true
  | .phaseDeadline _ => true
  | .extendDecide _ => true
  | .decideTimeout _ => true
  | .beatFence => true
  | .armCancel => true
  | .cadenceMark bits _ => fits bits 65536
  | .cadenceLoss => true
  | .beatExchange _ => true
  | .holdover => true
  | .beatLost => true
  | .watchdogExpire _ => true
  | .kick a _ => agentWf a
  | .selffail a _ => agentWf a
  | .failsetClear a _ => agentWf a
  | .failoverExtension => true
  | .shiftTimeout => true
  | .takeoverComplete => true
  | .riskScore _ => true
  | .blockRepair _ partnerData => partnerData.length == 2048
  | .echoCheck _ slot => fits slot 256
  | .echoArbiter _ slot => fits slot 256
  | .surveySlice _ => true
  | .surveyProgramEnd _ records => records.length % 64 == 0
  | .surveyDeadline _ => true
  | .tstInjArm a _ value => agentWf a && fits value (2 ^ 64)
  | .auxReturn => true
  | .equaliseRetry _ => true

end Sys2Proof
end

