-- ==== Sys2Proof/Tests/Slice0.lean ====
section
/-!
SUPPORT. Tests: for each statement a witness of its hypotheses, clause by clause; the worked examples of the spec; ill-formed
commands that are refused. Each block has helper states of its own; `live` is a machine that runs.
-/

open Sys2Proof Sys2Proof.Machine

set_option Elab.async false

namespace Sys2Proof.Tests

/-- after -/
def nx (o : Host.Outcome State Fault Refusal) : State := match o with
  | .next t => t
  | _ => State.reset
def rst : State := State.reset
/-- supplies good, out of reset -/
def runSt : State := { State.reset with
  mod := ⟨true, true, true, true, false, true, false, 0, false⟩, clk := { Clk.reset with oscCount := 65536 }, mem := [(5, 7)] }
def boot (s : State) : State := (((s.wf .SEC_BOOT_STAT_STAGE 4 0).wf .SEC_BOOT_STAT_STAGE 4 1).wf .SEC_BOOT_STAT_LOCK 1 0).wf .SEC_BOOT_STAT_LOCK 1 1
/-- Dexca runs -/
def live : State := boot runSt
def clkOf (s : State) (f : Clk → Clk) : State := { s with clk := f s.clk }
def dxOf (s : State) (f : Dexca → Dexca) : State := { s with dx := f s.dx }
def beatOf (s : State) (f : Beat → Beat) : State := { s with beat := f s.beat }
def fabOf (s : State) (f : Fab → Fab) : State := { s with fab := f s.fab }
def coreOfSt (s : State) (c : CoreId) (f : CoreSt → CoreSt) : State := s.setCore c (f (s.core c))
def put (s : State) (a : Nat) (bs : List Byte) : State := { s with
  mem := s.mem.filter (fun x => decide (x.1 < a)) ++ (bs.zipIdx.filterMap fun x => if x.1 = 0 then none else some (a + x.2, x.1)) ++
    s.mem.filter (fun x => decide (a + bs.length ≤ x.1)) }
/-- a message in an inbound queue -/
def inbox (s : State) (h : HalfId) (ch : ChanId) (a : Agent) (ws : List Nat) : State :=
  setInQueue s h ch ⟨ws.zipIdx.map (fun x => ⟨x.1, x.2 == 0, a⟩), none, false⟩
/-- a host request of TAG 9 -/
def ask (s : State) (op : Nat) (args : List Nat) : State := inbox s 0 3 .host ((9 * 2 ^ 24 + args.length * 2 ^ 16 + op) :: args)
def taken (s : State) (n : Nat) : State := popWords s 0 3 n
def req (op : Nat) : Req := ⟨0, 3, 9, op⟩
/-- an armature in force at epoch 1 -/
def armBase : Nat := 0x7010000000
def entry (role index node partner : Nat) : List Byte :=
  natLE 4 role ++ natLE 4 index ++ natLE 4 node ++ natLE 4 partner ++ natLE 4 (1 + 2 * 256) ++ natLE 4 0 ++ natLE 8 0
def dref (d : Nat) : Nat := 3 * 2 ^ 24 + d * 128
def armImg (epoch job gp hp : Nat) (es : List (List Byte)) : List Byte :=
  natLE 4 1 ++ natLE 4 epoch ++ natLE 8 0 ++ natLE 4 es.length ++ natLE 4 job ++ natLE 4 gp ++ natLE 4 hp ++ natLE 8 0 ++ natLE 8 0 ++
    natLE 4 (crc32c es.flatten) ++ natLE 12 0 ++ es.flatten
def withArm (s : State) (gp hp : Nat) (es : List (List Byte)) : State :=
  (put ((s.wfBoth .COL_ARM_EPOCH_CURRENT 1).wfBoth .COL_ARM_ADDR_ADDR armBase) armBase (armImg 1 77 gp hp es))
def dev (s : State) (d : Nat) : State :=
  ((s.wfBoth .HLF_NODE_ID_GROUP (d / 64)).wfBoth .HLF_NODE_ID_ROW (d / 8)).wfBoth .HLF_NODE_ID_COL d
/-- a schedule of one phase: phase, policy, roles, extmax, start, len, dflag, lflag -/
def schedEnt (ph pol roles ext start len df lf : Nat) : List Byte :=
  natLE 4 (ph + pol * 64 + roles * 256 + ext * 65536) ++ natLE 4 (start + len * 65536) ++ natLE 4 (df + lf * 65536) ++ natLE 20 0
def sched (period steplen job : Nat) (es : List (List Byte)) : List Byte :=
  natLE 2 1 ++ natLE 2 es.length ++ natLE 2 period ++ natLE 2 steplen ++ natLE 4 job ++ natLE 4 (crc32c es.flatten) ++ natLE 16 0 ++ es.flatten
def jobHead (job arm sch wire shards nsh take : Nat) : List Byte :=
  natLE 2 1 ++ natLE 2 2 ++ natLE 4 job ++ natLE 8 0x1234 ++ natLE 4 arm ++ natLE 4 sch ++ natLE 4 wire ++ natLE 4 shards ++ natLE 4 nsh ++
    natLE 4 take ++ natLE 8 0
def jobBlk : List Byte :=
  let a := armImg 1 77 5 5 [entry 6 0 (dref 5) 0] ++ natLE 32 0
  let a := a
  let sb := sched 20 8 77 [schedEnt 1 1 64 2 0 4 9 10]
  let h := jobHead 77 64 200 264 1360 1 1376
  h ++ natLE 4 (crc32c h) ++ natLE 12 0 ++ padTo 136 a ++ sb ++ (natLE 4 0x80000000 ++ natLE 1092 0) ++ natLE 8 0x10000 ++ natLE 8 0x800 ++ natLE 128 0
def jobOf (s : State) (n : Nat) : State := dxOf s fun x => { x with job := n }
def we (kind cls split nitems grain spec sh tg prog plen pstride nslot tag done rec crec : Nat) (desc : List Byte) : List Byte :=
  natLE 4 (kind + split * 16 + cls * 256) ++ natLE 4 nitems ++ natLE 4 (3 + grain * 65536) ++ natLE 4 (spec + sh * 2 ^ 16 + tg * 2 ^ 18) ++
  natLE 8 prog ++ natLE 4 (plen + pstride * 65536) ++ natLE 4 nslot ++ natLE 4 0 ++ natLE 4 tag ++ natLE 8 done ++ natLE 8 rec ++ natLE 8 crec ++
  padTo 64 desc
/-- command word -/
def cw (cls dep reco setf wflag dflag tag descAddr : Nat) : List Byte :=
  natLE 4 (cls + dep * 16 + reco * 64 + setf * 128 + wflag * 256) ++ natLE 4 (dflag + tag * 65536) ++ natLE 8 descAddr
def ringAt (c : CoreId) : Nat := scratchBase c + 0x1000
def descAt (c : CoreId) : Nat := scratchBase c + 0x2000
/-- a context with a command word at PTR of its ring, and a descriptor -/
def ctxIn (s : State) (c : CoreId) (n : CtxId) (w d : List Byte) : State :=
  (put (put s (ringAt c) w) (descAt c) d).setCtx c n { Ctx.reset with st := .ready, entry := 5, ring := ringAt c, plen := 2 }
def cmd0 : Cmd := ⟨0, 0, false, false, 0, 0, 0, 0, []⟩
def kOf (s : State) (c : CoreId) (n : CtxId) : Cmd := (nextCmd s (s.ctx c n)).getD cmd0
def fa (f : Nat) : Nat := regBase + 8 * f
/-- every port ACTIVE at version 3 -/
def upAll (s : State) : State := { s with regs := s.regs ++ (List.range 18).flatMap (fun i =>
  let p : PortId := Fin.ofNat 18 i
  [((.FAB_PORT_STAT_STATE, (portHalf p).val, portIdx p), 5), ((.FAB_PORT_STAT_VER, (portHalf p).val, portIdx p), 3)]) }
theorem aget?_map_range' (g : Nat → SpillEntry) (i n lo : Nat) (h : i < n) :
    aget? ((List.range' lo n).map (fun j => (j, g j))) (lo + i) = some (g (lo + i)) := by
  induction n generalizing lo i with
  | zero => omega
  | succ n ih =>
    rw [List.range'_succ, List.map_cons]; unfold aget?
    split
    · next e => rw [e]
    · next e =>
      have := ih (i - 1) (lo + 1) (by omega)
      rw [show lo + 1 + (i - 1) = lo + i by omega] at this
      exact this
/-- a full spill table -/
def fullTable : List (Nat × SpillEntry) := (List.range' 0 1024).map fun j => (j, ⟨7, 0, j⟩)
theorem freeSpill_full (a : AccUnit) (h : a.spill = fullTable) : freeSpill a = none := by
  unfold freeSpill
  rw [List.find?_eq_none]
  intro i hi
  have hi : i < 1024 := by rw [List.mem_range] at hi; omega
  have := aget?_map_range' (fun j => ⟨7, 0, j⟩) i 1024 0 hi
  rw [Nat.zero_add] at this
  rw [h, fullTable, this]; simp

namespace W10

def onSt : State := { (State.reset.wf .MOD_CAD_REGEN 1) with mod := { State.reset.mod with stages := true, rails := true, mainIn := true, inReset := false, perst := true } , mem := [(5, 7)], pending := [.auxLoss]}

/-- Hypotheses of SuppliesTripAndRestart (TripsLatchTheirCauseAndReset), clause by clause. -/
theorem witness_TripsLatchTheirCauseAndReset :
    ∃ (s : State), s.mod.stages = true ∧ s.mod.auxIn = true :=
  ⟨onSt, by decide +kernel⟩

/-- Hypotheses of SuppliesTripAndRestart (StandbyDomainAnswersAndRestarts), clause by clause. -/
theorem witness_StandbyDomainAnswersAndRestarts :
    (∃ (s : State) (v : Nat), s.mod.auxIn = true ∧ v ≠ 165) ∧
    (∃ (s : State), s.mod.stages = true) ∧
    (∃ (s : State), s.mod.auxIn = false) :=
  ⟨⟨onSt, 0, by decide +kernel⟩,
   ⟨onSt, by decide +kernel⟩,
   ⟨{onSt with mod := {onSt.mod with auxIn := false, auxFailed := true}}, by decide +kernel⟩⟩

/-- Hypotheses of ModuleResetAndCadenceBypass (ModuleResetAssertsAndReleases), clause by clause. -/
theorem witness_ModuleResetAssertsAndReleases :
    (∃ (s : State), s.mod.inReset = false) ∧
    (∃ (s : State) (pins : Nat), pins < 256 ∧ s.mod.inReset = true ∧ s.mod.perst = true ∧ s.mod.rails = true ∧ s.mod.tripped =
      false) :=
  ⟨⟨onSt, by decide +kernel⟩,
   ⟨{onSt with mod := {onSt.mod with inReset := true}}, 0, by decide +kernel⟩⟩

/-- Hypotheses of ModuleResetAndCadenceBypass (CadenceBypassFollowsRegen), clause by clause. -/
theorem witness_CadenceBypassFollowsRegen :
    (∃ (a : Agent), (∀ (h : HalfId), a ≠ Agent.dexca h)) ∧
    (∃ (s : State), s.rf Fld.MOD_CAD_REGEN = 1 ∧ s.mod.inReset = false ∧ s.mod.auxIn = true) ∧
    (∃ (s : State), s.rf Fld.MOD_CAD_REGEN = 0 ∧ s.rf Fld.MOD_CAD_OPEN = 1) :=
  ⟨⟨Sys2Proof.Agent.host, by decide +kernel⟩,
   ⟨onSt, by decide +kernel⟩,
   ⟨((onSt.wf .MOD_CAD_REGEN 0).wf .MOD_CAD_OPEN 1), by decide +kernel⟩⟩

end W10

namespace W20

def lk (s : State) : State := (s.wf .CLK_STAT_LOCK 15 0).wf .CLK_STAT_LOCK 15 1
def c3 : State := { runSt with mem := [(5, 7), (scratchBase 3 + 5, 9)] }

/-- Hypotheses of PllsFollowTheirReferencesAndLock (ReferencesAndLocksMoveThePlls), clause by clause. -/
theorem witness_ReferencesAndLocksMoveThePlls :
    (∃ (s : State) (h : HalfId) (r : RefClk), 65536 ≤ s.clk.oscCount ∧ refLost s h r = false ∧ (r = RefClk.osc → ∀ (p : PortId),
       p ∈ portsOfHalf h → portState s p = psDown)) ∧
    (∃ (s : State) (h : HalfId) (n : PllId), refLost s h (pllRef s h n) = false) ∧
    (∃ (s : State), s.clk.oscCount < 65536 ∧ s.mod.inReset = false) ∧
    (∃ (s : State) (h : HalfId) (r : RefClk), refLost s h r = true) ∧
    (∃ (s : State) (h : HalfId) (n : PllId), refLost s h (pllRef s h n) = true) :=
  ⟨⟨runSt, 0, Sys2Proof.RefClk.osc, by decide +kernel⟩,
   ⟨runSt, 0, 0, by decide +kernel⟩,
   ⟨(clkOf runSt fun c => { c with oscCount := 65535 }), by decide +kernel⟩,
   ⟨(clkOf runSt fun c => { c with lost := [(1, .osc), (1, .pcie)] }), 1, Sys2Proof.RefClk.osc, by decide +kernel⟩,
   ⟨(clkOf runSt fun c => { c with lost := [(1, .osc), (1, .pcie)] }), 1, 0, by decide +kernel⟩⟩

/-- Hypotheses of PllsFollowTheirReferencesAndLock (PllLocksOrFailsAfterBoot), clause by clause. -/
theorem witness_PllLocksOrFailsAfterBoot :
    ∃ (s : State) (h : HalfId) (n : PllId), (s.pll h n).locking = true ∧ bootStage s h = bsRun ∧ refLost s h (pllRef s h n) =
      false ∧ s.held = [] ∧ s.fab.store = [] :=
  ⟨((boot runSt).setPll 0 0 { Pll.reset with locking := true }), 0, 0, by decide +kernel⟩

/-- Hypotheses of PllConfigurationAndMultiplexers (PllConfigurationSlewsOrRefuses), clause by clause. -/
theorem witness_PllConfigurationSlewsOrRefuses :
    (∃ (s : State) (h : HalfId) (value : Nat), bits value 31 30 = 0 ∧ 128 ≤ bits value 7 0 ∧ bits value 7 0 ≤ 255 ∧ bits value
      12 8 = s.rf Fld.CLK_PLL_CFG_POSTDIV h.val ∧ bits value 12 8 ∈ [2, 4, 8, 16] ∧ bits value 29 29 = s.rf Fld.CLK_PLL_CFG_REF
      h.val) ∧
    (∃ (value : Nat), bits value 31 30 = 0 ∧ (bits value 7 0 < 128 ∨ ¬bits value 12 8 ∈ [2, 4, 8, 16])) ∧
    (∃ (s : State) (h : HalfId) (n : PllId) (value : Nat), n ≠ 0 ∧ bootLocked s h = true ∧ bits value 31 30 = 0) ∧
    (∃ (s : State) (h : HalfId), bit (s.rf Fld.CLK_STAT_LOCK h.val) 0 = true) ∧
    (∃ (n : PllId), n ≠ 1) ∧
    (∃ (s : State) (h : HalfId) (n : PllId), (s.pll h n).sscWaits = true) :=
  ⟨⟨(boot (runSt.wf .CLK_STAT_LOCK 1 0)), 0, 767, by decide +kernel⟩,
   ⟨1151, by decide +kernel⟩,
   ⟨(boot (runSt.wf .CLK_STAT_LOCK 1 0)), 0, 1, 1152, by decide +kernel⟩,
   ⟨(boot (runSt.wf .CLK_STAT_LOCK 1 0)), 0, by decide +kernel⟩,
   ⟨0, by decide +kernel⟩,
   ⟨(((boot (runSt.wf .CLK_STAT_LOCK 1 0)).wf .CLK_PLL_CFG_POSTDIV 4 0 0).setPll 0 2 { Pll.reset with sscWaits := true }), 0, 2,
      by decide +kernel⟩⟩

/-- Hypotheses of PllConfigurationAndMultiplexers (MultiplexersSwitchHangAndAreForced), clause by clause. -/
theorem witness_MultiplexersSwitchHangAndAreForced :
    (∃ (s : State) (h : HalfId) (d : MuxId) (sel : Fin 4), selGood d sel.val = true ∧ s.rf Fld.CLK_MUX_BUSY h.val d.val = 0 ∧
      sel.val ≠ muxCur s h d) ∧
    (∃ (s : State) (h : HalfId) (d : MuxId) (sel : Fin 4), (selGood d sel.val = false ∨ s.rf Fld.CLK_MUX_BUSY h.val d.val = 1)) ∧
    (∃ (s : State) (h : HalfId) (d : MuxId), bit (s.rf Fld.PWR_DOM_RST_HOLD h.val) d.val = false) ∧
    (∃ (s : State) (h : HalfId), s.rf Fld.PWR_DOM_RST_HOLD h.val = 0) ∧
    (∃ (s : State) (h : HalfId), s.rf Fld.CLK_FMON_STAT_BUSY h.val = 0) ∧
    (∃ (s : State) (h : HalfId) (d : MuxId), s.rf Fld.CLK_MUX_BUSY h.val d.val = 1 ∧ srcRuns s h (muxCur s h d) = true ∧
      srcRuns s h (s.rf Fld.CLK_MUX_SEL h.val d.val) = true) ∧
    (∃ (s : State) (h : HalfId), s.rf Fld.CLK_FMON_STAT_BUSY h.val = 1) ∧
    (∃ (s : State) (h : HalfId) (d : MuxId) (sel : Fin 4), selGood d sel.val = true ∧ bit (s.rf Fld.PWR_DOM_RST_HOLD h.val)
      d.val = true) ∧
    (∃ (s : State) (h : HalfId), s.rf Fld.PWR_DOM_RST_HOLD h.val = 2) ∧
    (∃ (s : State) (h : HalfId) (d : MuxId), srcRuns s h (muxCur s h d) = false) :=
  ⟨⟨(lk runSt), 0, 0, 1, by decide +kernel⟩,
   ⟨(lk runSt), 0, 0, 3, by decide +kernel⟩,
   ⟨(lk runSt), 0, 0, by decide +kernel⟩,
   ⟨(lk runSt), 0, by decide +kernel⟩,
   ⟨(lk runSt), 0, by decide +kernel⟩,
   ⟨((State.reset.wf .CLK_MUX_SEL 2 0 4).wf .CLK_MUX_BUSY 1 0 4), 0, 4, by decide +kernel⟩,
   ⟨((((lk runSt).wf .CLK_MUX_BUSY 1 0 0).wf .CLK_MUX_SEL 1 0 0).wf .CLK_FMON_STAT_BUSY 1 0), 0, by decide +kernel⟩,
   ⟨((lk runSt).wf .PWR_DOM_RST_HOLD 1 0), 0, 0, 0, by decide +kernel⟩,
   ⟨((lk runSt).wf .PWR_DOM_RST_HOLD 2 0), 0, by decide +kernel⟩,
   ⟨(clkOf runSt fun c => { c with lost := [(0, .osc)] }), 0, 0, by decide +kernel⟩⟩

/-- Hypotheses of UnitsPowerAndPlans (UnitsGoOffAndWake), clause by clause. -/
theorem witness_UnitsGoOffAndWake :
    (∃ (s : State) (h : HalfId) (u : PowerUnit), mayPowerOff s h u = false) ∧
    (∃ (s : State) (h : HalfId) (u : PowerUnit), mayPowerOff s h u = true) ∧
    (∃ (s : State) (h : HalfId) (u : PowerUnit) (c : Fin 40), u = PowerUnit.core c ∧ s.clk.pdown.contains (h, u) = true ∧
      s.clk.wakeQ = []) ∧
    (∃ (s : State) (h : HalfId) (u : PowerUnit), unitOff s h u = true ∧ unitMoving s h u = false ∧ groveOff s h u = false ∧
      s.clk.wakeQ = [] ∧ s.clk.ramp = []) ∧
    (∃ (s : State) (h : HalfId) (u : PowerUnit), groveOff s h u = true) ∧
    (∃ (s : State) (h : HalfId) (u : PowerUnit) (c : Fin 40), u = PowerUnit.core c ∧ s.clk.ramp = [(h, u)] ∧ s.clk.wakeQ = []) ∧
    (∃ (s : State) (h : HalfId) (u : PowerUnit) (c : Fin 40), u = PowerUnit.core c ∧ s.clk.clearing.contains (h, u) = true) :=
  ⟨⟨c3, 0, (.core 3), by decide +kernel⟩,
   ⟨(coreOfSt c3 3 fun x => { x with node := .spare }), 0, (.core 3), by decide +kernel⟩,
   ⟨(clkOf (coreOfSt c3 3 fun x => { x with node := .spare }) fun c => { c with pdown := [(0, .core 3)] }), 0, (.core 3), 3,
     by decide +kernel⟩,
   ⟨{ runSt with groveSt := [(6, .off)] }, 1, (.grove 1), by decide +kernel⟩,
   ⟨{ (coreOfSt c3 3 fun x => { x with node := .off }) with groveSt := [(0, .off)] }, 0, (.core 3), by decide +kernel⟩,
   ⟨(clkOf (coreOfSt c3 3 fun x => { x with node := .off }) fun c => { c with ramp := [(0, .core 3)] }), 0, (.core 3), 3,
     by decide +kernel⟩,
   ⟨(clkOf (coreOfSt c3 3 fun x => { x with node := .off }) fun c => { c with clearing := [(0, .core 3)] }), 0, (.core 3), 3,
     by decide +kernel⟩⟩

/-- Hypotheses of LeadTokenFencesAndGrants, clause by clause. -/
theorem witness_LeadTokenFencesAndGrants :
    (∃ (s : State) (h : HalfId), s.mod.inReset = false ∧ aget s.clk.relay h 0 = 0 ∧ s.rf Fld.HLF_LEAD_STAT_FENCED h.val = 0 ∧
      s.rf Fld.HLF_LEAD_STAT_PEERLOST h.val = 0) ∧
    (∃ (s : State) (h : HalfId), s.mod.inReset = false ∧ s.rf Fld.HLF_HB_STAT_WDOG_EXP h.val = 0 ∧ halfLost s h = false ∧ s.rf
      Fld.HLF_LEAD_STAT_PEERLOST h.val = 0 ∧ aget s.clk.relay h 0 = 0) ∧
    (∃ (s : State) (h : HalfId), s.mod.inReset = false ∧ s.rf Fld.HLF_HB_STAT_WDOG_EXP h.val = 1) ∧
    (∃ (s : State) (h : HalfId), s.mod.inReset = false ∧ aget s.clk.relay h 0 ≠ 0) :=
  ⟨⟨runSt, 0, by decide +kernel⟩,
   ⟨runSt, 0, by decide +kernel⟩,
   ⟨(runSt.wf .HLF_HB_STAT_WDOG_EXP 1 1), 1, by decide +kernel⟩,
   ⟨(clkOf runSt fun c => { c with relay := [(1, 1)] }), 1, by decide +kernel⟩⟩

/-- Hypotheses of UnitsPowerAndPlans (PlansFollowDriftHeatAndPower), clause by clause. -/
theorem witness_PlansFollowDriftHeatAndPower :
    (∃ (s : State) (h : HalfId) (counts : List (Nat × Nat)), s.rf Fld.AGE_CTL_BUSY h.val = 1 ∧ counts.length = 64 ∧ (∀ (c : Nat
      × Nat), c ∈ counts → c.snd ≠ 0)) ∧
    (∃ (s : State), s.dx.job ≠ jsRunning) ∧
    (∃ (s : State) (avg : Nat) (now : Nat) (vin : Nat), avg < 65536 ∧ now < 65536 ∧ vin < 65536 ∧ 2200 < avg ∧ 128 < plannedFb
      s) ∧
    (∃ (s : State) (t0 : Nat) (t1 : Nat) (inlet : Nat), t0 < 256 ∧ t1 < 256 ∧ inlet < 256 ∧ 103 ≤ max t0 t1 ∧ 128 < plannedFb s) ∧
    (∃ (t0 : Nat) (t1 : Nat) (inlet : Nat), t0 < 256 ∧ t1 < 256 ∧ inlet < 256 ∧ max t0 t1 < 103) :=
  ⟨⟨(runSt.wf .AGE_CTL_BUSY 1 0), 0, [(1000, 1000), (1001, 1000), (1002, 1000), (1003, 1000), (1004, 1000), (1005, 1000), (1006,
      1000), (1007, 1000), (1008, 1000), (1009, 1000), (1010, 1000), (1011, 1000), (1012, 1000), (1013, 1000), (1014, 1000),
     (1015, 1000), (1016, 1000), (1017, 1000), (1018, 1000), (1019, 1000), (1020, 1000), (1021, 1000), (1022, 1000), (1023,
     1000), (1024, 1000), (1025, 1000), (1026, 1000), (1027, 1000), (1028, 1000), (1029, 1000), (1030, 1000), (1031, 1000),
     (1032, 1000), (1033, 1000), (1034, 1000), (1035, 1000), (1036, 1000), (1037, 1000), (1038, 1000), (1039, 1000), (1040,
     1000), (1041, 1000), (1042, 1000), (1043, 1000), (1044, 1000), (1045, 1000), (1046, 1000), (1047, 1000), (1048, 1000),
     (1049, 1000), (1050, 1000), (1051, 1000), (1052, 1000), (1053, 1000), (1054, 1000), (1055, 1000), (1056, 1000), (1057,
     1000), (1058, 1000), (1059, 1000), (1060, 1000), (1061, 1000), (1062, 1000), (1063, 1000)], by decide +kernel⟩,
   ⟨(runSt.wf .AGE_CTL_BUSY 1 0), by decide +kernel⟩,
   ⟨(runSt.wf .AGE_CTL_BUSY 1 0), 2201, 0, 0, by decide +kernel⟩,
   ⟨(runSt.wf .AGE_CTL_BUSY 1 0), 0, 103, 0, by decide +kernel⟩,
   ⟨0, 0, 0, by decide +kernel⟩⟩

end W20

namespace W30

def stage (s : State) (n : Nat) : State := (s.wf .SEC_BOOT_STAT_STAGE n 0).wf .SEC_BOOT_STAT_STAGE n 1

/-- Hypotheses of BootRunsChecksAndMeasures (BootOpensTheWindowAndCopiesTheImage), clause by clause. -/
theorem witness_BootOpensTheWindowAndCopiesTheImage :
    (∃ (s : State), s.mem.wf = true ∧ bootStage s 0 = bsSelftest ∧ bootStage s 1 = bsSelftest) ∧
    (∃ (s : State), s.mem.wf = true ∧ bootStage s 0 ≠ bsWait) ∧
    (∃ (s : State) (offset : Nat) (data : List Byte), s.mem.wf = true ∧ bootStage s 0 = bsWait ∧ offset + data.length ≤
      50331648) :=
  ⟨⟨{ (stage runSt 1) with mem := [(5, 7), (privBase + 5, 8)] }, by decide +kernel⟩,
   ⟨(stage runSt 3), by decide +kernel⟩,
   ⟨(stage runSt 2), 0, [], by decide +kernel⟩⟩

/-- Hypotheses of BootRunsChecksAndMeasures (BootChecksLockRejectOrHalt), clause by clause. -/
theorem witness_BootChecksLockRejectOrHalt :
    (∃ (s : State), s.mem.wf = true ∧ bootStage s 0 = bsCheck ∧ bootStage s 1 = bsCheck ∧ s.rf Fld.SEC_LC_STATE ≠ 4 ∧ s.readN
      imageCopy 4 ≠ 1094932548) ∧
    (∃ (s : State), s.mem.wf = true ∧ bootStage s 0 = bsCheck ∧ bootStage s 1 = bsCheck ∧ s.rf Fld.SEC_LC_STATE = 4) :=
  ⟨⟨(stage runSt 3), by decide +kernel⟩,
   ⟨((stage runSt 3).wf .SEC_LC_STATE 4), by decide +kernel⟩⟩

/-- Hypotheses of BootRunsChecksAndMeasures (MeasurementChangesOnlyByExtension), clause by clause. -/
theorem witness_MeasurementChangesOnlyByExtension :
    (∃ (h : HalfId) (a : Agent), a ≠ Agent.dexca h ∧ a ≠ Agent.plinth h) ∧
    (∃ (slot : Fin 8), 2 ≤ slot.val ∧ slot.val ≤ 5) ∧
    (∃ (s : State) (h : HalfId) (e : MeasExt) (rest : List MeasExt), s.sec.exts = e :: rest ∧ e.half = h ∧ e.slot < 8) :=
  ⟨⟨0, Sys2Proof.Agent.host, by decide +kernel⟩,
   ⟨2, by decide +kernel⟩,
   ⟨{ runSt with sec := { runSt.sec with exts := [⟨1, 5, [1,2]⟩] } }, 1, { half := 1, slot := 5, value := [1, 2] }, [],
     by decide +kernel⟩⟩

end W30

namespace W40

def clkst : State := (live.wf .CLK_STAT_XOLOSS 1 0).wf .CLK_STAT_RCLOSS 1 0
def hb : State := live.wf .DXC_B2WIN_BASE 0x1000 0 1 |>.wf .DXC_B2WIN_VALID 1 0 1
def strm (d : List Byte) : State := put { live with streams := [(7, ⟨0x2000, 4, 3, 1, none, false⟩)] } (0x2000 + 192) d
def sd (kind q node addr flag seq : Nat) : List Byte := natLE 4 (kind + q * 16) ++ natLE 4 node ++ natLE 8 addr ++ natLE 8 flag ++ natLE 4 seq ++ natLE 36 0
def irq : State := (((live.wf .IRQ_PEND_PEND (2^3 + 2^63) 0 0).wf .IRQ_EN_EN (2^63) 0 0).wf .IRQ_COAL_TIME 4 0).setHalf 0 { Half.reset with irqCount := 1 }
def wSlot (s : State) : State := put { s with tables := [(.grove 0, ⟨1, 0, [⟨nodeRefOf s (.core 0), .active⟩, ⟨nodeRefOf s (.core 1), .closing⟩]⟩)] } 0x4000 (natLE 48 1 ++ natLE 8 0x8000 ++ natLE 8 0)
def sref : Nat := nodeRefOf live (.core 1) + 2 ^ 27

/-- Hypotheses of ConfigurationAndBar2Accesses (ConfigurationAndBadAccesses), clause by clause. -/
theorem witness_ConfigurationAndBadAccesses :
    (∃ (offset : Nat) (o : Nat), offset < 4096 ∧ o = offset / 4 * 4) ∧
    (∃ (offset : Nat) (len : Nat), offset < 4096 ∧ bar0Good offset len = false) :=
  ⟨⟨0, 0, by decide +kernel⟩,
   ⟨0, 0, by decide +kernel⟩⟩

/-- Hypotheses of RegisterWritesFollowTheirTypes, clause by clause. -/
theorem witness_RegisterWritesFollowTheirTypes :
    (∃ (s : State) (a : Agent) (offset : Nat) (len : Nat) (l : RegLoc), inSubmit offset = false ∧ bar0Good offset len = true ∧
      262144 ≤ offset ∧ (offset < 50397184 ∨ 50398216 < offset + len) ∧ locate offset = some l ∧ outOfReach s a (locHalf l) =
      false ∧ mayWrite s a l = false ∧ l.reg ≠ Reg.SEC_BOOT_CTL) ∧
    (∃ (s : State) (a : Agent) (offset : Nat) (len : Nat) (l : RegLoc), inSubmit offset = false ∧ bar0Good offset len = true ∧
      262144 ≤ offset ∧ (offset < 50397184 ∨ 50398216 < offset + len) ∧ locate offset = some l ∧ outOfReach s a (locHalf l) =
      false ∧ l.reg ≠ Reg.MBX_IN_RD ∧ l.reg ≠ Reg.MBX_OUT_RD ∧ l.reg ≠ Reg.IRQ_CLAIM) ∧
    (∃ (s : State) (a : Agent) (offset : Nat) (len : Nat) (l : RegLoc), inSubmit offset = false ∧ bar0Good offset len = true ∧
      262144 ≤ offset ∧ (offset < 50397184 ∨ 50398216 < offset + len) ∧ locate offset = some l ∧ outOfReach s a (locHalf l) =
      false ∧ mayWrite s a l = true ∧ (∀ (t : State) (v : Nat), regAct t l a v = t)) :=
  ⟨⟨live, .host, 0x1000000, 8, (⟨.HLF_NODE_ID, 0, 0, 0⟩), by decide +kernel⟩,
   ⟨live, .host, 0x1000000, 8, (⟨.HLF_NODE_ID, 0, 0, 0⟩), by decide +kernel⟩,
   ⟨live, (.dexca 0), 0x1000010, 8, (⟨.HLF_HB_CFG, 0, 0, 0⟩), by
     refine ⟨?_, ?_, ?_, ?_, ?_, ?_, ?_,
       fun _ _ => rfl⟩ <;> decide +kernel⟩⟩

/-- Hypotheses of ConfigurationAndBar2Accesses (Bar2AccessesAreRawHeldOrRefused), clause by clause. -/
theorem witness_Bar2AccessesAreRawHeldOrRefused :
    (∃ (s : State) (offset : Nat) (len : Nat), bar2Addr s offset len = none) ∧
    (∃ (s : State) (offset : Nat) (len : Nat) (a : Nat), bar2Addr s offset len = some a ∧ rawCheck s false a len = none ∧
      bridgeCut s 0 a len = false ∧ rangeBusy s a len = false ∧ regionOf a len = some Region.hbm) ∧
    (∃ (s : State) (offset : Nat) (len : Nat) (a : Nat) (bs : List Byte), bar2Addr s offset len = some a ∧ rawCheck s true a
      len = none ∧ bridgeCut s 0 a len = false ∧ rangeBusy s a len = false ∧ bs.length = len) ∧
    (∃ (s : State) (offset : Nat) (len : Nat) (a : Nat) (data : Option (List Byte)), bar2Addr s offset len = some a ∧ rawCheck
      s data.isSome a len = none ∧ bridgeCut s 0 a len = false ∧ rangeBusy s a len = true) :=
  ⟨⟨hb, 0x8000000, 4, by decide +kernel⟩,
   ⟨hb, 0x4000000, 4, 4096, by decide +kernel⟩,
   ⟨hb, 0x4000000, 4, 4096, [1, 2, 3, 4], by decide +kernel⟩,
   ⟨(hb.wf .HBM_INIT_CTL_BUSY 1 0), 0x4000000, 4, 4096, none, by decide +kernel⟩⟩

/-- Hypotheses of StreamsTakeAndRunDescriptors, clause by clause. -/
theorem witness_StreamsTakeAndRunDescriptors :
    (∃ (s : State) (m : StreamId) (desc : List Byte), desc.length = 64 ∧ (s.stream m).count < (s.stream m).size) ∧
    (∃ (s : State) (m : StreamId) (tlps : Nat), (tlps ≠ 1 ∨ (s.stream m).size ≤ (s.stream m).count)) ∧
    (∃ (s : State) (m : StreamId) (d : List Byte) (nd : NodeId), workNode s (sdNode d) = Except.ok nd ∧ s.rf
      Fld.DXC_STR_STAT_STOP 0 m.val = 0 ∧ (s.stream m).count ≠ 0 ∧ d = s.read ((s.stream m).base + 64 * (s.stream m).head) 64 ∧
      sdKind d = 1 ∧ workAddr s (sdAddr d) = none ∧ rangeBusy s (sdAddr d) 128 = false ∧ (nodeQueue s nd (Fin.ofNat 8 (sdQueue
      d))).length < s.qDepth) ∧
    (∃ (s : State) (m : StreamId) (d : List Byte) (f : FlagId), s.rf Fld.DXC_STR_STAT_STOP 0 m.val = 0 ∧ (s.stream m).count ≠ 0
      ∧ d = s.read ((s.stream m).base + 64 * (s.stream m).head) 64 ∧ sdKind d = 2 ∧ (s.stream m).woken = false ∧ (s.stream
      m).flag = none ∧ flagOfLocal (addrLocal (sdFlag d)) = some f ∧ addrDev (sdFlag d) = ownDev s ∧ flagIsPoisoned s f = false
      ∧ (s.flag f).set = false) ∧
    (∃ (s : State) (m : StreamId) (d : List Byte) (f : FlagId), s.rf Fld.DXC_STR_STAT_STOP 0 m.val = 0 ∧ (s.stream m).count ≠ 0
      ∧ d = s.read ((s.stream m).base + 64 * (s.stream m).head) 64 ∧ sdKind d = 2 ∧ (s.stream m).woken = false ∧ (s.stream
      m).flag = none ∧ flagOfLocal (addrLocal (sdFlag d)) = some f ∧ addrDev (sdFlag d) = ownDev s ∧ flagIsPoisoned s f = false
      ∧ (s.flag f).set = true) ∧
    (∃ (s : State) (m : StreamId) (d : List Byte) (f : FlagId), s.rf Fld.DXC_STR_STAT_STOP 0 m.val = 0 ∧ (s.stream m).count ≠ 0
      ∧ d = s.read ((s.stream m).base + 64 * (s.stream m).head) 64 ∧ sdKind d = 3 ∧ flagOfLocal (addrLocal (sdFlag d)) = some f
      ∧ addrDev (sdFlag d) = ownDev s ∧ setsOpen s m (addrDev (sdFlag d)) = false ∧ flagDead s f = none ∧ (s.flag f).set =
      false ∧ (s.flag f).waiters = [] ∧ s.beat.phases = []) ∧
    (∃ (s : State) (m : StreamId) (d : List Byte), s.rf Fld.DXC_STR_STAT_STOP 0 m.val = 0 ∧ (s.stream m).count ≠ 0 ∧ d = s.read
      ((s.stream m).base + 64 * (s.stream m).head) 64 ∧ sdKind d ≠ 1 ∧ sdKind d ≠ 2 ∧ sdKind d ≠ 3) :=
  ⟨⟨(strm (sd 1 2 3 0x4000 0 5)), 7, ([33, 0, 0, 0, 3, 0, 0, 0, 0, 64, 0, 0, 0, 0, 0, 0, 0, 0, 0, 0, 0, 0, 0, 0, 5] ++
     List.replicate 39 0), by decide +kernel⟩,
   ⟨(strm (sd 1 2 3 0x4000 0 5)), 7, 0, by decide +kernel⟩,
   ⟨(strm (sd 1 2 3 0x4000 0 5)), 7, ([33, 0, 0, 0, 3, 0, 0, 0, 0, 64, 0, 0, 0, 0, 0, 0, 0, 0, 0, 0, 0, 0, 0, 0, 5] ++
     List.replicate 39 0), Sys2Proof.NodeId.core 3, rfl, by decide +kernel⟩,
   ⟨(strm (sd 2 0 0 0 (fa 30) 6)), 7, ([2, 0, 0, 0, 0, 0, 0, 0, 0, 0, 0, 0, 0, 0, 0, 0, 240, 0, 0, 0, 0, 0, 2, 0, 6] ++
     List.replicate 39 0), 30, by decide +kernel⟩,
   ⟨((strm (sd 2 0 0 0 (fa 30) 6)).setFlagSt 30 { Flag.reset with set := true }), 7, ([2, 0, 0, 0, 0, 0, 0, 0, 0, 0, 0, 0, 0, 0,
      0, 0, 240, 0, 0, 0, 0, 0, 2, 0, 6] ++ List.replicate 39 0), 30, by decide +kernel⟩,
   ⟨(strm (sd 3 0 0 0 (fa 30) 0xFFFFFFFF)), 7, ([3, 0, 0, 0, 0, 0, 0, 0, 0, 0, 0, 0, 0, 0, 0, 0, 240, 0, 0, 0, 0, 0, 2, 0, 255,
     255, 255, 255] ++ List.replicate 36 0), 30, by decide +kernel⟩,
   ⟨(strm (sd 0 0 0 0 (fa 30) 6)), 7, ((List.replicate 16 0 ++ [240, 0, 0, 0, 0, 0, 2, 0, 6]) ++
     List.replicate 39 0), by decide +kernel⟩⟩

/-- Hypotheses of StreamsTakeAndRunDescriptors, clause by clause. -/
theorem witness_StreamsTakeAndRunDescriptors_slots :
    (∃ (s : State) (m : StreamId) (d : List Byte), workNode s (sdNode d) = Except.error 4 ∧ s.rf Fld.DXC_STR_STAT_STOP 0 m.val
      = 0 ∧ (s.stream m).count ≠ 0 ∧ d = s.read ((s.stream m).base + 64 * (s.stream m).head) 64 ∧ sdKind d = 1 ∧ workAddr s
      (sdAddr d) = none ∧ rangeBusy s (sdAddr d) 128 = false ∧ weDoneFlag (s.read (sdAddr d) 128) = 0 ∧ recordPlace (weRec
      (s.read (sdAddr d) 128)) 16 = true ∧ weRec (s.read (sdAddr d) 128) ≠ 0) ∧
    (∃ (s : State) (m : StreamId) (d : List Byte), workNode s (sdNode d) = Except.error 2 ∧ s.rf Fld.DXC_STR_STAT_STOP 0 m.val
      = 0 ∧ (s.stream m).count ≠ 0 ∧ d = s.read ((s.stream m).base + 64 * (s.stream m).head) 64 ∧ sdKind d = 1) :=
  ⟨⟨wSlot (strm (sd 1 2 0x8000001 0x4000 0 5)), 7, sd 1 2 0x8000001 0x4000 0 5, rfl, by decide +kernel⟩,
   ⟨wSlot (strm (sd 1 2 0x8000002 0x4000 0 5)), 7, sd 1 2 0x8000002 0x4000 0 5, rfl, by decide +kernel⟩⟩

/-- Hypotheses of MailboxesQueueTheirWords (MailboxWordsEnterTheirQueue), clause by clause. -/
theorem witness_MailboxWordsEnterTheirQueue :
    (∃ (s : State) (a : Agent) (h : HalfId) (ch : ChanId) (w : Nat), w < 2 ^ 32 ∧ irqStopped s h = false ∧ outOfReach s a h =
      false ∧ (inQueue s h ch).lock = none ∧ (inQueue s h ch).words.length < 8 ∧ hdrLen w ≤ 7) ∧
    (∃ (s : State) (a : Agent) (h : HalfId) (ch : ChanId) (w : Nat) (n : Nat), w < 2 ^ 32 ∧ irqStopped s h = false ∧ outOfReach
      s a h = false ∧ (inQueue s h ch).lock = some (a, n + 1) ∧ (inQueue s h ch).broken = false ∧ (inQueue s h ch).words.length
      < 8) ∧
    (∃ (s : State) (a : Agent) (h : HalfId) (ch : ChanId) (w : Nat) (b : Agent) (n : Nat), w < 2 ^ 32 ∧ irqStopped s h = false
      ∧ outOfReach s a h = false ∧ (inQueue s h ch).lock = some (b, n) ∧ a ≠ b) ∧
    (∃ (s : State) (a : Agent) (h : HalfId) (ch : ChanId) (w : Nat), w < 2 ^ 32 ∧ irqStopped s h = false ∧ outOfReach s a h =
      false ∧ (inQueue s h ch).lock = none ∧ 7 < hdrLen w) ∧
    (∃ (s : State) (a : Agent) (h : HalfId) (ch : ChanId) (w : Nat), w < 2 ^ 32 ∧ irqStopped s h = false ∧ outOfReach s a h =
      false ∧ (inQueue s h ch).lock = none ∧ 8 ≤ (inQueue s h ch).words.length ∧ hdrLen w ≤ 7) ∧
    (∃ (s : State) (a : Agent) (h : HalfId) (ch : ChanId) (w : Nat), w < 2 ^ 32 ∧ irqStopped s h = false ∧ isRanger a h = true
      ∧ (outQueue s h ch).lock = none ∧ (outQueue s h ch).words.length < 8 ∧ hdrLen w ≤ 7) ∧
    (∃ (s : State) (a : Agent) (h : HalfId) (w : Nat), w < 2 ^ 32 ∧ irqStopped s h = false ∧ isRanger a h = false) ∧
    (∃ (s : State) (a : Agent) (h : HalfId) (w : Nat), w < 2 ^ 32 ∧ irqStopped s h = false ∧ outOfReach s a h = true) :=
  ⟨⟨live, .host, 0, 3, 0x09000101, by decide +kernel⟩,
   ⟨(setInQueue live 0 3 ⟨[⟨0x00010101, true, .host⟩], some (.host, 1), false⟩), .host, 0, 3, 0xFFFFFFFF, 0, by decide +kernel⟩,
   ⟨(setInQueue live 0 3 ⟨[⟨0x00030101, true, .dexca 0⟩], some (.dexca 0, 3), false⟩), .host, 0, 3, 0xFFFFFFFF,
     Sys2Proof.Agent.dexca 0, 3, by decide +kernel⟩,
   ⟨live, .host, 0, 3, 0xFF080101, by decide +kernel⟩,
   ⟨(setInQueue live 0 3 ⟨List.replicate 8 ⟨0x101, true, .host⟩, none, false⟩), .host, 0, 3, 0x101, by decide +kernel⟩,
   ⟨live, (.dexca 1), 1, 15, 0x00010101, by decide +kernel⟩,
   ⟨live, .host, 0, 0x09000101, by decide +kernel⟩,
   ⟨live.wf .HLF_LEAD_STAT_FENCED 1 1, .host, 1, 0x09000101, by decide +kernel⟩⟩

/-- Hypotheses of MailboxesQueueTheirWords (MailboxPopsAndFlushes), clause by clause. -/
theorem witness_MailboxPopsAndFlushes :
    (∃ (s : State) (a : Agent) (h : HalfId) (ch : ChanId), isRanger a h = true ∧ (inQueue s h ch).words = []) ∧
    (∃ (s : State) (a : Agent) (h : HalfId) (ch : ChanId) (w : MWord) (rest : List MWord), isRanger a h = true ∧ (inQueue s h
      ch).words = w :: rest) ∧
    (∃ (s : State) (a : Agent) (h : HalfId) (ch : ChanId), outOfReach s a h = false ∧ (outQueue s h ch).words = []) ∧
    (∃ (s : State) (a : Agent) (h : HalfId) (ch : ChanId) (w : MWord) (rest : List MWord), outOfReach s a h = false ∧ (outQueue
      s h ch).words = w :: rest ∧ aget (s.half h).replyQ ch [] = []) :=
  ⟨⟨live, (.dexca 0), 0, 3, by decide +kernel⟩,
   ⟨(setOutQueue (inbox live 0 3 (.remote 16383) [0x101]) 0 3 ⟨[⟨0x101, true, .dexca 0⟩], none, false⟩), (.dexca 0), 0, 3, { word := 257, hdr := true, stamp := Sys2Proof.Agent.remote 16383 },
      [], by decide +kernel⟩,
   ⟨live, (.dexca 0), 0, 3, by decide +kernel⟩,
   ⟨(setOutQueue (inbox live 0 3 (.remote 16383) [0x101]) 0 3 ⟨[⟨0x101, true, .dexca 0⟩], none, false⟩), (.dexca 0), 0, 3, { word := 257, hdr := true, stamp := Sys2Proof.Agent.dexca 0 },
      [], by decide +kernel⟩⟩

/-- Hypotheses of ClaimsCoalescingAndEvents, clause by clause. -/
theorem witness_ClaimsCoalescingAndEvents :
    (∃ (s : State) (a : Agent) (h : HalfId), outOfReach s a h = false ∧ (∀ (i : Nat), i < 512 → (irqPending s h i && irqEnabled
      s h i) = false)) ∧
    (∃ (s : State) (a : Agent) (h : HalfId) (i : Nat), outOfReach s a h = false ∧ i < 512 ∧ irqPending s h i = true ∧
      irqEnabled s h i = true ∧ (∀ (j : Nat), i < j → j < 512 → (irqPending s h j && irqEnabled s h j) = false)) ∧
    (∃ (s : State) (a : Agent) (h : HalfId) (i : Nat), outOfReach s a h = false ∧ i < 512 ∧ irqPending s h i = true ∧
      irqEnabled s h i = true ∧ s.rf Fld.IRQ_COAL_TIME h.val ≠ 0 ∧ (s.half h).irqCount ≠ 0) ∧
    (∃ (s : State) (a : Agent) (h : HalfId) (e : List Nat) (rest : List (List Nat)), outOfReach s a h = false ∧ eventsOf s h =
      e :: rest ∧ e ≠ [] ∧ e.headD 0 < 256 ∧ (outQueue s h 15).lock = none ∧ (outQueue s h 15).broken = false ∧ (outQueue s h
      15).words.length + e.length ≤ 8) ∧
    (∃ (s : State) (a : Agent) (h : HalfId), outOfReach s a h = false ∧ eventsOf s h = []) :=
  ⟨⟨live, .host, 0, by decide +kernel⟩,
   ⟨irq, .host, 0, 63, by decide +kernel, by decide +kernel, by decide +kernel, by decide +kernel,
     fun j h1 h2 => (by decide +kernel : ∀ j, j < 512 → 63 < j → (irqPending irq 0 j && irqEnabled irq 0 j) = false) j h2 h1⟩,
   ⟨irq, .host, 0, 63, by decide +kernel⟩,
   ⟨(setEvents live 0 [[5, 6, 7], [8]]), .host, 0, [5, 6, 7], [[8]], by decide +kernel⟩,
   ⟨irq, .host, 0, by decide +kernel⟩⟩

end W40

namespace W50

def glA : Nat := gladeBase 0 + 0x1000
def anyS : List Nat := [0,1,2,3,4,5]
def q0 (op : Nat) (args : List Nat) : State := ask live op args
def lng (s : State) (n : Nat) (o : LongOp) : State := dxOf s fun x => { x with long := aset x.long n o }
def xo : LongOp := ⟨0x0301, [5,0,0,0x4000,0,1,0], 0, [], 3, 7, none⟩
def ended (s : State) : State := dxOf s fun x => { x with ended := [(5, (1, 5))] }
def full (s : State) : State := dxOf s fun x => { x with long := (List.range 64).map (fun i => (i + 10, xo)) }

/-- Hypotheses of QueriesAndReplies (QueryCommandsReport), clause by clause. -/
theorem witness_QueryCommandsReport :
    (∃ (s : State) (t : State) (h : HalfId) (ch : ChanId) (r : Req) (args : List Nat), Takes { op := 257, device := false, nargs := 0, states := [0, 1, 2, 3, 4, 5], long := false }
      s h ch r args t) ∧
    (∃ (s : State) (t : State) (h : HalfId) (ch : ChanId) (r : Req) (args : List Nat), Takes { op := 258, device := true, nargs := 0, states := [0, 1, 2, 3, 4, 5], long := false }
      s h ch r args t) ∧
    (∃ (s : State) (t : State) (h : HalfId) (ch : ChanId) (r : Req) (args : List Nat), Takes { op := 260, device := true, nargs := 1, states := [0, 1, 2, 3, 4, 5], long := false }
      s h ch r args t ∧ aget? s.dx.long (arg args 0 % 65536) = none ∧ aget? s.dx.ended (arg args 0 % 65536) = none) ∧
    (∃ (s : State) (t : State) (h : HalfId) (ch : ChanId) (r : Req) (args : List Nat) (o : LongOp), Takes { op := 260, device := true, nargs := 1, states := [0, 1, 2, 3, 4, 5], long := false }
      s h ch r args t ∧ aget? s.dx.long (arg args 0 % 65536) = some o) ∧
    (∃ (s : State) (t : State) (h : HalfId) (ch : ChanId) (r : Req) (args : List Nat) (d : Nat) (n : Nat), Takes { op := 260, device := true, nargs := 1, states := [0, 1, 2, 3, 4, 5], long := false }
      s h ch r args t ∧ aget? s.dx.long (arg args 0 % 65536) = none ∧ aget? s.dx.ended (arg args 0 % 65536) = some (d, n)) ∧
    (∃ (s : State) (t : State) (h : HalfId) (ch : ChanId) (r : Req) (args : List Nat), Takes { op := 261, device := false, nargs := 0, states := [0, 1, 2, 3, 4, 5], long := false }
      s h ch r args t) ∧
    (∃ (s : State) (t : State) (h : HalfId) (ch : ChanId) (r : Req) (args : List Nat) (nd : NodeId), Takes { op := 259, device := false, nargs := 2, states := [0, 1, 2, 3, 4, 5], long := false }
      s h ch r args t ∧ describedNode s (arg args 0) = some nd ∧ arg args 1 % 64 = 0 ∧ arg args 1 + 64 ≤ gladeSize ∧
      touchesUnderstory s r.half (gladeBase r.half + arg args 1) 64 = false ∧ memWaits s r.half (gladeBase r.half + arg args 1)
      64 = false) :=
  ⟨⟨(q0 0x101 []), (taken (q0 0x101 []) 1), 0, 3, (req 0x101), [], ⟨_, rfl, by and_intros <;> decide +kernel⟩⟩,
   ⟨(q0 0x102 []), (taken (q0 0x102 []) 1), 0, 3, (req 0x102), [], ⟨_, rfl, by and_intros <;> decide +kernel⟩⟩,
   ⟨(q0 0x104 [5]), (taken (q0 0x104 [5]) 2), 0, 3, (req 0x104), [5], ⟨_, rfl, by and_intros <;> decide +kernel⟩, by decide +kernel⟩,
   ⟨(lng (q0 0x104 [5]) 5 xo), (taken (lng (q0 0x104 [5]) 5 xo) 2), 0, 3, (req 0x104), [5], { cmd := 769, args := [5, 0, 0, 16384, 0, 1, 0], half := 0, block := [], done := 3, total := 7, status := none },
      ⟨_, rfl, by and_intros <;> decide +kernel⟩, by decide +kernel⟩,
   ⟨(ended (q0 0x104 [5])), (taken (ended (q0 0x104 [5])) 2), 0, 3, (req 0x104), [5], 1, 5, ⟨_, rfl, by and_intros <;> decide +kernel⟩, by decide +kernel⟩,
   ⟨(q0 0x105 []), (taken (q0 0x105 []) 1), 0, 3, (req 0x105), [], ⟨_, rfl, by and_intros <;> decide +kernel⟩⟩,
   ⟨(q0 0x103 [3, 0x1000]), (taken (q0 0x103 [3, 0x1000]) 3), 0, 3, (req 0x103), [3, 0x1000], Sys2Proof.NodeId.core 3, ⟨_, rfl,
     by and_intros <;> decide +kernel⟩, by decide +kernel⟩⟩

/-- Hypotheses of RefusalsHaveTheirStatuses, clause by clause. -/
theorem witness_RefusalsHaveTheirStatuses :
    (∃ (s : State) (t : State) (h : HalfId) (ch : ChanId) (r : Req) (a : Agent) (args : List Nat) (x : CmdSpec × Instr),
      nextRequest s h ch x.fst.device = some (r, a, args, t) ∧ x ∈ [({ op := 257, device := false, nargs := 0, states := [0, 1, 2, 3, 4, 5], long := false },
       Instr.info h ch), ({ op := 258, device := true, nargs := 0, states := [0, 1, 2, 3, 4, 5], long := false }, Instr.status
      h ch), ({ op := 259, device := false, nargs := 2, states := [0, 1, 2, 3, 4, 5], long := false }, Instr.nodeDesc h ch), ({ op := 260, device := true, nargs := 1, states := [0, 1, 2, 3, 4, 5], long := false },
       Instr.opQuery h ch), ({ op := 261, device := false, nargs := 0, states := [0, 1, 2, 3, 4, 5], long := false },
      Instr.chLog h ch), ({ op := 513, device := true, nargs := 2, states := [0], long := true }, Instr.jobLoad h ch), ({ op := 514, device := true, nargs := 3, states := [2], long := false },
       Instr.jobStart h ch), ({ op := 515, device := true, nargs := 2, states := [1, 3], long := true }, Instr.jobStop h ch),
      ({ op := 516, device := true, nargs := 1, states := [1, 2, 4, 5], long := true }, Instr.jobUnload h ch), ({ op := 517, device := true, nargs := 4, states := [3], long := true },
       Instr.armInstall h ch), ({ op := 518, device := true, nargs := 1, states := [2, 3], long := false }, Instr.schedSet h
      ch), ({ op := 519, device := true, nargs := 4, states := [2], long := true }, Instr.restore h ch), ({ op := 769, device := true, nargs := 7, states := [2, 3, 4], long := true },
       Instr.xfer h ch), ({ op := 770, device := true, nargs := 1, states := [0, 1, 2, 3, 4, 5], long := false },
      Instr.xferAbort h ch), ({ op := 771, device := false, nargs := 3, states := [0, 1, 2, 3, 4, 5], long := false },
      Instr.b2win h ch), ({ op := 1025, device := true, nargs := 2, states := [3], long := false }, Instr.flagSet h ch), ({ op := 1026, device := true, nargs := 2, states := [3], long := false },
       Instr.flagPoison h ch), ({ op := 1027, device := true, nargs := 1, states := [0, 1, 2, 3, 4, 5], long := false },
      Instr.streamRestart h ch), ({ op := 1281, device := true, nargs := 4, states := [0, 1, 2, 3, 4, 5], long := false },
      Instr.ckptCfg h ch), ({ op := 1282, device := true, nargs := 0, states := [0, 1, 2, 3, 4, 5], long := false }, Instr.risk
      h ch), ({ op := 1283, device := true, nargs := 2, states := [2, 3], long := true }, Instr.unitDisable h ch), ({ op := 1284, device := true, nargs := 1, states := [3], long := false },
       Instr.expel h ch), ({ op := 1285, device := true, nargs := 3, states := [0, 1, 2, 3, 4, 5], long := true },
      Instr.surveyLoad h ch), ({ op := 1286, device := true, nargs := 1, states := [0, 1, 2, 3, 4, 5], long := false },
      Instr.portRelease h ch), ({ op := 1287, device := true, nargs := 1, states := [0], long := false }, Instr.fabMode h ch),
      ({ op := 1288, device := false, nargs := 1, states := [0, 1, 2, 3, 4, 5], long := false }, Instr.peers h ch), ({ op := 1537, device := true, nargs := 2, states := [0, 1, 2, 3, 4, 5], long := false },
       Instr.attest h ch), ({ op := 1538, device := true, nargs := 2, states := [0, 1, 2, 3, 4, 5], long := false },
      Instr.certChain h ch), ({ op := 1539, device := true, nargs := 2, states := [0, 1, 2, 3, 4, 5], long := false },
      Instr.authLoad h ch), ({ op := 1540, device := true, nargs := 0, states := [0, 1, 2, 3, 4, 5], long := false },
      Instr.authClear h ch), ({ op := 1541, device := true, nargs := 2, states := [0, 1, 2, 3, 4, 5], long := false },
      Instr.lifecycle h ch)] ∧ r.op = x.fst.op ∧ ch.val ≠ 15 ∧ permitted s h ch a r.op = false) ∧
    (∃ (s : State) (t : State) (h : HalfId) (ch : ChanId) (r : Req) (a : Agent) (args : List Nat) (x : CmdSpec × Instr),
      nextRequest s h ch x.fst.device = some (r, a, args, t) ∧ x ∈ [({ op := 257, device := false, nargs := 0, states := [0, 1, 2, 3, 4, 5], long := false },
       Instr.info h ch), ({ op := 258, device := true, nargs := 0, states := [0, 1, 2, 3, 4, 5], long := false }, Instr.status
      h ch), ({ op := 259, device := false, nargs := 2, states := [0, 1, 2, 3, 4, 5], long := false }, Instr.nodeDesc h ch), ({ op := 260, device := true, nargs := 1, states := [0, 1, 2, 3, 4, 5], long := false },
       Instr.opQuery h ch), ({ op := 261, device := false, nargs := 0, states := [0, 1, 2, 3, 4, 5], long := false },
      Instr.chLog h ch), ({ op := 513, device := true, nargs := 2, states := [0], long := true }, Instr.jobLoad h ch), ({ op := 514, device := true, nargs := 3, states := [2], long := false },
       Instr.jobStart h ch), ({ op := 515, device := true, nargs := 2, states := [1, 3], long := true }, Instr.jobStop h ch),
      ({ op := 516, device := true, nargs := 1, states := [1, 2, 4, 5], long := true }, Instr.jobUnload h ch), ({ op := 517, device := true, nargs := 4, states := [3], long := true },
       Instr.armInstall h ch), ({ op := 518, device := true, nargs := 1, states := [2, 3], long := false }, Instr.schedSet h
      ch), ({ op := 519, device := true, nargs := 4, states := [2], long := true }, Instr.restore h ch), ({ op := 769, device := true, nargs := 7, states := [2, 3, 4], long := true },
       Instr.xfer h ch), ({ op := 770, device := true, nargs := 1, states := [0, 1, 2, 3, 4, 5], long := false },
      Instr.xferAbort h ch), ({ op := 771, device := false, nargs := 3, states := [0, 1, 2, 3, 4, 5], long := false },
      Instr.b2win h ch), ({ op := 1025, device := true, nargs := 2, states := [3], long := false }, Instr.flagSet h ch), ({ op := 1026, device := true, nargs := 2, states := [3], long := false },
       Instr.flagPoison h ch), ({ op := 1027, device := true, nargs := 1, states := [0, 1, 2, 3, 4, 5], long := false },
      Instr.streamRestart h ch), ({ op := 1281, device := true, nargs := 4, states := [0, 1, 2, 3, 4, 5], long := false },
      Instr.ckptCfg h ch), ({ op := 1282, device := true, nargs := 0, states := [0, 1, 2, 3, 4, 5], long := false }, Instr.risk
      h ch), ({ op := 1283, device := true, nargs := 2, states := [2, 3], long := true }, Instr.unitDisable h ch), ({ op := 1284, device := true, nargs := 1, states := [3], long := false },
       Instr.expel h ch), ({ op := 1285, device := true, nargs := 3, states := [0, 1, 2, 3, 4, 5], long := true },
      Instr.surveyLoad h ch), ({ op := 1286, device := true, nargs := 1, states := [0, 1, 2, 3, 4, 5], long := false },
      Instr.portRelease h ch), ({ op := 1287, device := true, nargs := 1, states := [0], long := false }, Instr.fabMode h ch),
      ({ op := 1288, device := false, nargs := 1, states := [0, 1, 2, 3, 4, 5], long := false }, Instr.peers h ch), ({ op := 1537, device := true, nargs := 2, states := [0, 1, 2, 3, 4, 5], long := false },
       Instr.attest h ch), ({ op := 1538, device := true, nargs := 2, states := [0, 1, 2, 3, 4, 5], long := false },
      Instr.certChain h ch), ({ op := 1539, device := true, nargs := 2, states := [0, 1, 2, 3, 4, 5], long := false },
      Instr.authLoad h ch), ({ op := 1540, device := true, nargs := 0, states := [0, 1, 2, 3, 4, 5], long := false },
      Instr.authClear h ch), ({ op := 1541, device := true, nargs := 2, states := [0, 1, 2, 3, 4, 5], long := false },
      Instr.lifecycle h ch)] ∧ r.op = x.fst.op ∧ ch.val ≠ 15 ∧ permitted s h ch a r.op = true ∧ args.length ≠ x.fst.nargs) ∧
    (∃ (s : State) (t : State) (h : HalfId) (ch : ChanId) (r : Req) (a : Agent) (args : List Nat) (x : CmdSpec × Instr),
      nextRequest s h ch x.fst.device = some (r, a, args, t) ∧ x ∈ [({ op := 257, device := false, nargs := 0, states := [0, 1, 2, 3, 4, 5], long := false },
       Instr.info h ch), ({ op := 258, device := true, nargs := 0, states := [0, 1, 2, 3, 4, 5], long := false }, Instr.status
      h ch), ({ op := 259, device := false, nargs := 2, states := [0, 1, 2, 3, 4, 5], long := false }, Instr.nodeDesc h ch), ({ op := 260, device := true, nargs := 1, states := [0, 1, 2, 3, 4, 5], long := false },
       Instr.opQuery h ch), ({ op := 261, device := false, nargs := 0, states := [0, 1, 2, 3, 4, 5], long := false },
      Instr.chLog h ch), ({ op := 513, device := true, nargs := 2, states := [0], long := true }, Instr.jobLoad h ch), ({ op := 514, device := true, nargs := 3, states := [2], long := false },
       Instr.jobStart h ch), ({ op := 515, device := true, nargs := 2, states := [1, 3], long := true }, Instr.jobStop h ch),
      ({ op := 516, device := true, nargs := 1, states := [1, 2, 4, 5], long := true }, Instr.jobUnload h ch), ({ op := 517, device := true, nargs := 4, states := [3], long := true },
       Instr.armInstall h ch), ({ op := 518, device := true, nargs := 1, states := [2, 3], long := false }, Instr.schedSet h
      ch), ({ op := 519, device := true, nargs := 4, states := [2], long := true }, Instr.restore h ch), ({ op := 769, device := true, nargs := 7, states := [2, 3, 4], long := true },
       Instr.xfer h ch), ({ op := 770, device := true, nargs := 1, states := [0, 1, 2, 3, 4, 5], long := false },
      Instr.xferAbort h ch), ({ op := 771, device := false, nargs := 3, states := [0, 1, 2, 3, 4, 5], long := false },
      Instr.b2win h ch), ({ op := 1025, device := true, nargs := 2, states := [3], long := false }, Instr.flagSet h ch), ({ op := 1026, device := true, nargs := 2, states := [3], long := false },
       Instr.flagPoison h ch), ({ op := 1027, device := true, nargs := 1, states := [0, 1, 2, 3, 4, 5], long := false },
      Instr.streamRestart h ch), ({ op := 1281, device := true, nargs := 4, states := [0, 1, 2, 3, 4, 5], long := false },
      Instr.ckptCfg h ch), ({ op := 1282, device := true, nargs := 0, states := [0, 1, 2, 3, 4, 5], long := false }, Instr.risk
      h ch), ({ op := 1283, device := true, nargs := 2, states := [2, 3], long := true }, Instr.unitDisable h ch), ({ op := 1284, device := true, nargs := 1, states := [3], long := false },
       Instr.expel h ch), ({ op := 1285, device := true, nargs := 3, states := [0, 1, 2, 3, 4, 5], long := true },
      Instr.surveyLoad h ch), ({ op := 1286, device := true, nargs := 1, states := [0, 1, 2, 3, 4, 5], long := false },
      Instr.portRelease h ch), ({ op := 1287, device := true, nargs := 1, states := [0], long := false }, Instr.fabMode h ch),
      ({ op := 1288, device := false, nargs := 1, states := [0, 1, 2, 3, 4, 5], long := false }, Instr.peers h ch), ({ op := 1537, device := true, nargs := 2, states := [0, 1, 2, 3, 4, 5], long := false },
       Instr.attest h ch), ({ op := 1538, device := true, nargs := 2, states := [0, 1, 2, 3, 4, 5], long := false },
      Instr.certChain h ch), ({ op := 1539, device := true, nargs := 2, states := [0, 1, 2, 3, 4, 5], long := false },
      Instr.authLoad h ch), ({ op := 1540, device := true, nargs := 0, states := [0, 1, 2, 3, 4, 5], long := false },
      Instr.authClear h ch), ({ op := 1541, device := true, nargs := 2, states := [0, 1, 2, 3, 4, 5], long := false },
      Instr.lifecycle h ch)] ∧ r.op = x.fst.op ∧ ch.val ≠ 15 ∧ permitted s h ch a r.op = true ∧ args.length = x.fst.nargs ∧
      ¬s.dx.job ∈ x.fst.states) ∧
    (∃ (s : State) (t : State) (h : HalfId) (ch : ChanId) (r : Req) (a : Agent) (args : List Nat) (x : CmdSpec × Instr),
      nextRequest s h ch x.fst.device = some (r, a, args, t) ∧ x ∈ [({ op := 257, device := false, nargs := 0, states := [0, 1, 2, 3, 4, 5], long := false },
       Instr.info h ch), ({ op := 258, device := true, nargs := 0, states := [0, 1, 2, 3, 4, 5], long := false }, Instr.status
      h ch), ({ op := 259, device := false, nargs := 2, states := [0, 1, 2, 3, 4, 5], long := false }, Instr.nodeDesc h ch), ({ op := 260, device := true, nargs := 1, states := [0, 1, 2, 3, 4, 5], long := false },
       Instr.opQuery h ch), ({ op := 261, device := false, nargs := 0, states := [0, 1, 2, 3, 4, 5], long := false },
      Instr.chLog h ch), ({ op := 513, device := true, nargs := 2, states := [0], long := true }, Instr.jobLoad h ch), ({ op := 514, device := true, nargs := 3, states := [2], long := false },
       Instr.jobStart h ch), ({ op := 515, device := true, nargs := 2, states := [1, 3], long := true }, Instr.jobStop h ch),
      ({ op := 516, device := true, nargs := 1, states := [1, 2, 4, 5], long := true }, Instr.jobUnload h ch), ({ op := 517, device := true, nargs := 4, states := [3], long := true },
       Instr.armInstall h ch), ({ op := 518, device := true, nargs := 1, states := [2, 3], long := false }, Instr.schedSet h
      ch), ({ op := 519, device := true, nargs := 4, states := [2], long := true }, Instr.restore h ch), ({ op := 769, device := true, nargs := 7, states := [2, 3, 4], long := true },
       Instr.xfer h ch), ({ op := 770, device := true, nargs := 1, states := [0, 1, 2, 3, 4, 5], long := false },
      Instr.xferAbort h ch), ({ op := 771, device := false, nargs := 3, states := [0, 1, 2, 3, 4, 5], long := false },
      Instr.b2win h ch), ({ op := 1025, device := true, nargs := 2, states := [3], long := false }, Instr.flagSet h ch), ({ op := 1026, device := true, nargs := 2, states := [3], long := false },
       Instr.flagPoison h ch), ({ op := 1027, device := true, nargs := 1, states := [0, 1, 2, 3, 4, 5], long := false },
      Instr.streamRestart h ch), ({ op := 1281, device := true, nargs := 4, states := [0, 1, 2, 3, 4, 5], long := false },
      Instr.ckptCfg h ch), ({ op := 1282, device := true, nargs := 0, states := [0, 1, 2, 3, 4, 5], long := false }, Instr.risk
      h ch), ({ op := 1283, device := true, nargs := 2, states := [2, 3], long := true }, Instr.unitDisable h ch), ({ op := 1284, device := true, nargs := 1, states := [3], long := false },
       Instr.expel h ch), ({ op := 1285, device := true, nargs := 3, states := [0, 1, 2, 3, 4, 5], long := true },
      Instr.surveyLoad h ch), ({ op := 1286, device := true, nargs := 1, states := [0, 1, 2, 3, 4, 5], long := false },
      Instr.portRelease h ch), ({ op := 1287, device := true, nargs := 1, states := [0], long := false }, Instr.fabMode h ch),
      ({ op := 1288, device := false, nargs := 1, states := [0, 1, 2, 3, 4, 5], long := false }, Instr.peers h ch), ({ op := 1537, device := true, nargs := 2, states := [0, 1, 2, 3, 4, 5], long := false },
       Instr.attest h ch), ({ op := 1538, device := true, nargs := 2, states := [0, 1, 2, 3, 4, 5], long := false },
      Instr.certChain h ch), ({ op := 1539, device := true, nargs := 2, states := [0, 1, 2, 3, 4, 5], long := false },
      Instr.authLoad h ch), ({ op := 1540, device := true, nargs := 0, states := [0, 1, 2, 3, 4, 5], long := false },
      Instr.authClear h ch), ({ op := 1541, device := true, nargs := 2, states := [0, 1, 2, 3, 4, 5], long := false },
      Instr.lifecycle h ch)] ∧ r.op = x.fst.op ∧ ch.val ≠ 15 ∧ permitted s h ch a r.op = true ∧ args.length = x.fst.nargs ∧
      s.dx.job ∈ x.fst.states ∧ x.fst.long = true ∧ (args.headD 0 % 65536 = 0 ∨ (aget? s.dx.long (args.headD 0 % 65536)).isSome
      = true)) ∧
    (∃ (s : State) (t : State) (h : HalfId) (ch : ChanId) (r : Req) (a : Agent) (args : List Nat) (x : CmdSpec × Instr),
      nextRequest s h ch x.fst.device = some (r, a, args, t) ∧ x ∈ [({ op := 257, device := false, nargs := 0, states := [0, 1, 2, 3, 4, 5], long := false },
       Instr.info h ch), ({ op := 258, device := true, nargs := 0, states := [0, 1, 2, 3, 4, 5], long := false }, Instr.status
      h ch), ({ op := 259, device := false, nargs := 2, states := [0, 1, 2, 3, 4, 5], long := false }, Instr.nodeDesc h ch), ({ op := 260, device := true, nargs := 1, states := [0, 1, 2, 3, 4, 5], long := false },
       Instr.opQuery h ch), ({ op := 261, device := false, nargs := 0, states := [0, 1, 2, 3, 4, 5], long := false },
      Instr.chLog h ch), ({ op := 513, device := true, nargs := 2, states := [0], long := true }, Instr.jobLoad h ch), ({ op := 514, device := true, nargs := 3, states := [2], long := false },
       Instr.jobStart h ch), ({ op := 515, device := true, nargs := 2, states := [1, 3], long := true }, Instr.jobStop h ch),
      ({ op := 516, device := true, nargs := 1, states := [1, 2, 4, 5], long := true }, Instr.jobUnload h ch), ({ op := 517, device := true, nargs := 4, states := [3], long := true },
       Instr.armInstall h ch), ({ op := 518, device := true, nargs := 1, states := [2, 3], long := false }, Instr.schedSet h
      ch), ({ op := 519, device := true, nargs := 4, states := [2], long := true }, Instr.restore h ch), ({ op := 769, device := true, nargs := 7, states := [2, 3, 4], long := true },
       Instr.xfer h ch), ({ op := 770, device := true, nargs := 1, states := [0, 1, 2, 3, 4, 5], long := false },
      Instr.xferAbort h ch), ({ op := 771, device := false, nargs := 3, states := [0, 1, 2, 3, 4, 5], long := false },
      Instr.b2win h ch), ({ op := 1025, device := true, nargs := 2, states := [3], long := false }, Instr.flagSet h ch), ({ op := 1026, device := true, nargs := 2, states := [3], long := false },
       Instr.flagPoison h ch), ({ op := 1027, device := true, nargs := 1, states := [0, 1, 2, 3, 4, 5], long := false },
      Instr.streamRestart h ch), ({ op := 1281, device := true, nargs := 4, states := [0, 1, 2, 3, 4, 5], long := false },
      Instr.ckptCfg h ch), ({ op := 1282, device := true, nargs := 0, states := [0, 1, 2, 3, 4, 5], long := false }, Instr.risk
      h ch), ({ op := 1283, device := true, nargs := 2, states := [2, 3], long := true }, Instr.unitDisable h ch), ({ op := 1284, device := true, nargs := 1, states := [3], long := false },
       Instr.expel h ch), ({ op := 1285, device := true, nargs := 3, states := [0, 1, 2, 3, 4, 5], long := true },
      Instr.surveyLoad h ch), ({ op := 1286, device := true, nargs := 1, states := [0, 1, 2, 3, 4, 5], long := false },
      Instr.portRelease h ch), ({ op := 1287, device := true, nargs := 1, states := [0], long := false }, Instr.fabMode h ch),
      ({ op := 1288, device := false, nargs := 1, states := [0, 1, 2, 3, 4, 5], long := false }, Instr.peers h ch), ({ op := 1537, device := true, nargs := 2, states := [0, 1, 2, 3, 4, 5], long := false },
       Instr.attest h ch), ({ op := 1538, device := true, nargs := 2, states := [0, 1, 2, 3, 4, 5], long := false },
      Instr.certChain h ch), ({ op := 1539, device := true, nargs := 2, states := [0, 1, 2, 3, 4, 5], long := false },
      Instr.authLoad h ch), ({ op := 1540, device := true, nargs := 0, states := [0, 1, 2, 3, 4, 5], long := false },
      Instr.authClear h ch), ({ op := 1541, device := true, nargs := 2, states := [0, 1, 2, 3, 4, 5], long := false },
      Instr.lifecycle h ch)] ∧ r.op = x.fst.op ∧ ch.val ≠ 15 ∧ permitted s h ch a r.op = true ∧ args.length = x.fst.nargs ∧
      s.dx.job ∈ x.fst.states ∧ x.fst.long = true ∧ args.headD 0 % 65536 ≠ 0 ∧ aget? s.dx.long (args.headD 0 % 65536) = none ∧
      64 ≤ List.length s.dx.long) ∧
    (∃ (s : State) (t : State) (h : HalfId) (ch : ChanId) (r : Req) (a : Agent) (args : List Nat), nextRequest s h ch false =
      some (r, a, args, t) ∧ ch.val ≠ 15 ∧ knownOp r.op = false) ∧
    (∃ (s : State) (t : State) (h : HalfId) (r : Req) (a : Agent) (args : List Nat), nextRequest s h 15 false = some (r, a,
      args, t)) :=
  ⟨⟨(inbox live 0 12 .host [0x09020201, 1, 2]), (popWords (inbox live 0 12 .host [0x09020201, 1, 2]) 0 12 3), 0, 12, (⟨0, 12, 9,
      0x201⟩), .host, [1, 2], ({ op := 513, device := true, nargs := 2, states := [0], long := true }, Sys2Proof.Instr.jobLoad
     0 12), rfl, by decide +kernel⟩,
   ⟨(q0 0x201 [1]), (taken (q0 0x201 [1]) 2), 0, 3, (req 0x201), .host, [1], ({ op := 513, device := true, nargs := 2, states := [0], long := true },
      Sys2Proof.Instr.jobLoad 0 3), rfl, by decide +kernel⟩,
   ⟨(dxOf (q0 0x201 [1,2]) fun x => { x with job := 1 }), (taken (dxOf (q0 0x201 [1,2]) fun x => { x with job := 1 }) 3), 0, 3,
     (req 0x201), .host, [1,2], ({ op := 513, device := true, nargs := 2, states := [0], long := true },
     Sys2Proof.Instr.jobLoad 0 3), rfl, by decide +kernel⟩,
   ⟨(q0 0x201 [65536, 2]), (taken (q0 0x201 [65536, 2]) 3), 0, 3, (req 0x201), .host, [65536, 2], ({ op := 513, device := true, nargs := 2, states := [0], long := true },
      Sys2Proof.Instr.jobLoad 0 3), rfl, by decide +kernel⟩,
   ⟨(full (q0 0x201 [1, 2])), (taken (full (q0 0x201 [1, 2])) 3), 0, 3, (req 0x201), .host, [1, 2], ({ op := 513, device := true, nargs := 2, states := [0], long := true },
      Sys2Proof.Instr.jobLoad 0 3), rfl, by decide +kernel⟩,
   ⟨(q0 0x6FF []), (taken (q0 0x6FF []) 1), 0, 3, (req 0x6FF), .host, [], rfl, by decide +kernel⟩,
   ⟨(inbox live 0 15 .host [0x09000101]), (popWords (inbox live 0 15 .host [0x09000101]) 0 15 1), 0, (⟨0, 15, 9, 0x101⟩), .host,
      [], rfl⟩⟩

/-- Hypotheses of QueriesAndReplies (RepliesCarryTheirRequestsTag), clause by clause. -/
theorem witness_RepliesCarryTheirRequestsTag :
    ∃ (s : State) (t : State) (h : HalfId) (ch : ChanId) (r : Req) (args : List Nat), Takes { op := 257, device := false, nargs := 0, states := [0, 1, 2, 3, 4, 5], long := false }
      s h ch r args t ∧ outQueue s h ch = { words := [], lock := none, broken := false } :=
  ⟨(q0 0x101 []), (taken (q0 0x101 []) 1), 0, 3, (req 0x101), [], ⟨_, rfl, by and_intros <;> decide +kernel⟩, by decide +kernel⟩

end W50

namespace W51

def glA : Nat := gladeBase 0 + 0x1000
def jl (b : List Byte) : State := put (ask live 0x201 [5, 0x1000]) glA b
def js : State := jobOf (ask live 0x202 [100, 0, 7]) 2
def jst : State := jobOf (ask live 0x203 [5, 1]) 1
def jun : State := jobOf (ask live 0x204 [5]) 2
def ai0 : State := jobOf (ask live 0x205 [5, 0x1000, 8, 0]) 3
def hallS (s : State) : State := jobOf (dev (withArm s 5 5 [entry 6 0 (dref 5) 0]) 5) 3
def ai1 : State := hallS (ask live 0x205 [5, 0x1000, 9, 0])
def ai2 : State := put (hallS (ask live 0x205 [5, 0x1000, 8, 0])) glA (armImg 2 77 5 5 [entry 6 0 (dref 5) 0] ++ natLE 32 0)
def ss (j : Nat) : State := put ((hallS (ask live 0x206 [0x1000])).wfBoth .BEAT_CFG_PERIOD 20) glA (sched 20 8 j [schedEnt 1 1 64 2 0 4 9 10])
def rb (step nrec : Nat) : List Byte :=
  let a := natLE 4 step ++ natLE 4 nrec ++ natLE 4 0 ++ natLE 4 0
  let z := natLE 0x2C 0
  a ++ natLE 4 (crc32c (a ++ z)) ++ z
def rs (step arg : Nat) : State := put (jobOf (ask live 0x207 [5, 0x1000, arg, 0]) 2) glA (rb step 0)
def tk (s : State) (n : Nat) : State := taken s n
def m1 : State := jobOf (ask live 0x301 [5,0,0,0x4000,0,1,0]) 2
def m2 : State := jobOf (ask live 0x301 [5,0,0,0x4001,0,1,0]) 2
def m3 : State := dxOf (ask live 0x302 [5]) fun x => { x with long := [(5, ⟨0x0301, [5,0,0,0x4000,0,1,0], 0, [], 3, 7, none⟩)] }
def m4 : State := ask live 0x302 [5]
def m5 : State := ask live 0x303 [15, 0, 0x80000000]
def m6 : State := jobOf (ask live 0x401 [fa 7 % 2 ^ 32, fa 7 / 2 ^ 32]) 3
def m7 : State := jobOf (ask live 0x402 [7, 1]) 3
def m8 : State := jobOf (ask live 0x402 [32767, 2]) 3
def m9 : State := (ask live 0x403 [255]).wf .DXC_STR_STAT_STOP 1 0 255

/-- Hypotheses of JobCommandsMoveTheJob, clause by clause. -/
theorem witness_JobCommandsMoveTheJob :
    (∃ (s : State) (t : State) (h : HalfId) (ch : ChanId) (r : Req) (args : List Nat) (b : Nat), Takes { op := 513, device := true, nargs := 2, states := [0], long := true }
      s h ch r args t ∧ gladeBlock s r.half (arg args 1) 64 = some b ∧ touchesUnderstory s r.half b (JobBlock.span s
      (jobBlockAt s b)) = false ∧ jobCause s r.half (jobBlockAt s b) = 0) ∧
    (∃ (s : State) (t : State) (h : HalfId) (ch : ChanId) (r : Req) (args : List Nat) (b : Nat), Takes { op := 513, device := true, nargs := 2, states := [0], long := true }
      s h ch r args t ∧ gladeBlock s r.half (arg args 1) 64 = some b ∧ JobBlock.good s r.half (jobBlockAt s b) = false) ∧
    (∃ (s : State) (t : State) (h : HalfId) (ch : ChanId) (r : Req) (args : List Nat), Takes { op := 514, device := true, nargs := 3, states := [2], long := false }
      s h ch r args t) ∧
    (∃ (s : State) (t : State) (h : HalfId) (ch : ChanId) (r : Req) (args : List Nat), Takes { op := 515, device := true, nargs := 2, states := [1, 3], long := true }
      s h ch r args t ∧ s.dx.job = 1) ∧
    (∃ (s : State) (t : State) (h : HalfId) (ch : ChanId) (r : Req) (args : List Nat), Takes { op := 516, device := true, nargs := 1, states := [1, 2, 4, 5], long := true }
      s h ch r args t ∧ s.dx.job ≠ 1) ∧
    (∃ (s : State) (t : State) (h : HalfId) (ch : ChanId) (r : Req) (args : List Nat), Takes { op := 517, device := true, nargs := 4, states := [3], long := true }
      s h ch r args t ∧ isHall s = false) ∧
    (∃ (s : State) (t : State) (h : HalfId) (ch : ChanId) (r : Req) (args : List Nat), Takes { op := 517, device := true, nargs := 4, states := [3], long := true }
      s h ch r args t ∧ isHall s = true ∧ arg64 args 2 % 4 ≠ 0) ∧
    (∃ (s : State) (t : State) (h : HalfId) (ch : ChanId) (r : Req) (args : List Nat) (b : Nat) (n : Nat), Takes { op := 517, device := true, nargs := 4, states := [3], long := true }
      s h ch r args t ∧ isHall s = true ∧ arg64 args 2 % 4 = 0 ∧ gladeBlock s r.half (arg args 1) 64 = some b ∧ n = armLen s b
      + mapLen s (b + armLen s b) ∧ gladeBlock s r.half (arg args 1) n = some b ∧ s.beat.armed = none ∧ armCause s b (b +
      armLen s b) (epochNow s + 1) = 0) ∧
    (∃ (s : State) (t : State) (h : HalfId) (ch : ChanId) (r : Req) (args : List Nat) (b : Nat), Takes { op := 518, device := true, nargs := 1, states := [2, 3], long := false }
      s h ch r args t ∧ gladeBlock s r.half (arg args 0) 32 = some b ∧ gladeBlock s r.half (arg args 0) (schedLen s b) = some b
      ∧ schedGood s b (jobTag s) = true ∧ schedPeriod s b = s.rf Fld.BEAT_CFG_PERIOD) ∧
    (∃ (s : State) (t : State) (h : HalfId) (ch : ChanId) (r : Req) (args : List Nat) (b : Nat), Takes { op := 518, device := true, nargs := 1, states := [2, 3], long := false }
      s h ch r args t ∧ gladeBlock s r.half (arg args 0) 32 = some b ∧ gladeBlock s r.half (arg args 0) (schedLen s b) = some b
      ∧ schedGood s b (jobTag s) = false) ∧
    (∃ (s : State) (t : State) (h : HalfId) (ch : ChanId) (r : Req) (args : List Nat) (b : Nat) (n : Nat), Takes { op := 519, device := true, nargs := 4, states := [2], long := true }
      s h ch r args t ∧ gladeBlock s r.half (arg args 1) 64 = some b ∧ n = s.readN (b + 12) 4 ∧ gladeBlock s r.half (arg args
      1) (64 + 4 * n) = some b ∧ crc32c (restoreBytes s b n) = s.readN (b + 16) 4 ∧ s.readN b 4 ≠ arg args 2) ∧
    (∃ (s : State) (t : State) (h : HalfId) (ch : ChanId) (r : Req) (args : List Nat) (b : Nat) (n : Nat), Takes { op := 519, device := true, nargs := 4, states := [2], long := true }
      s h ch r args t ∧ gladeBlock s r.half (arg args 1) 64 = some b ∧ n = s.readN (b + 12) 4 ∧ gladeBlock s r.half (arg args
      1) (64 + 4 * n) = some b ∧ crc32c (restoreBytes s b n) = s.readN (b + 16) 4 ∧ s.readN b 4 = arg args 2 ∧ s.readN (b + 4)
      2 = arg args 3 % 65536 ∧ partnerOf s (ownDev s) = none) :=
  ⟨⟨(jl jobBlk), (taken (jl jobBlk) 3), 0, 3, (req 0x201), [5, 0x1000], 281474976714752, ⟨_, rfl, by and_intros <;> decide +kernel⟩, by decide +kernel⟩,
   ⟨(jl (natLE 64 0)), (taken (jl (natLE 64 0)) 3), 0, 3, (req 0x201), [5, 0x1000], 281474976714752, ⟨_, rfl, by and_intros <;> decide +kernel⟩, by decide +kernel⟩,
   ⟨js, (taken js 4), 0, 3, (req 0x202), [100, 0, 7], ⟨_, rfl, by and_intros <;> decide +kernel⟩⟩,
   ⟨jst, (taken jst 3), 0, 3, (req 0x203), [5, 1], ⟨_, rfl, by and_intros <;> decide +kernel⟩,
     by decide +kernel⟩,
   ⟨jun, (taken jun 2), 0, 3, (req 0x204), [5], ⟨_, rfl, by and_intros <;> decide +kernel⟩,
     by decide +kernel⟩,
   ⟨ai0, (taken ai0 5), 0, 3, (req 0x205), [5, 0x1000, 8, 0], ⟨_, rfl, by and_intros <;> decide +kernel⟩,
     by decide +kernel⟩,
   ⟨ai1, (taken ai1 5), 0, 3, (req 0x205), [5, 0x1000, 9, 0], ⟨_, rfl, by and_intros <;> decide +kernel⟩,
     by decide +kernel⟩,
   ⟨ai2, (taken ai2 5), 0, 3, (req 0x205), [5, 0x1000, 8, 0], 281474976714752, 128, ⟨_, rfl, by and_intros <;> decide +kernel⟩, by decide +kernel⟩,
   ⟨(ss 77), (taken (ss 77) 2), 0, 3, (req 0x206), [0x1000], 281474976714752, ⟨_, rfl, by and_intros <;> decide +kernel⟩, by decide +kernel⟩,
   ⟨(ss 78), (taken (ss 78) 2), 0, 3, (req 0x206), [0x1000], 281474976714752, ⟨_, rfl, by and_intros <;> decide +kernel⟩, by decide +kernel⟩,
   ⟨(rs 9 8), (taken (rs 9 8) 5), 0, 3, (req 0x207), [5, 0x1000, 8, 0], 281474976714752, 0, ⟨_, rfl, by and_intros <;> decide +kernel⟩, by decide +kernel⟩,
   ⟨(rs 9 9), (taken (rs 9 9) 5), 0, 3, (req 0x207), [5, 0x1000, 9, 0], 281474976714752, 0, ⟨_, rfl, by and_intros <;> decide +kernel⟩, by decide +kernel⟩⟩

/-- Hypotheses of MemAndSyncCommandsAct, clause by clause. -/
theorem witness_MemAndSyncCommandsAct :
    (∃ (s : State) (t : State) (h : HalfId) (ch : ChanId) (r : Req) (args : List Nat), Takes { op := 769, device := true, nargs := 7, states := [2, 3, 4], long := true }
      s h ch r args t ∧ arg args 5 ≠ 0 ∧ xferPlace s (arg64 args 3) (arg args 5) = true) ∧
    (∃ (s : State) (t : State) (h : HalfId) (ch : ChanId) (r : Req) (args : List Nat), Takes { op := 769, device := true, nargs := 7, states := [2, 3, 4], long := true }
      s h ch r args t ∧ arg args 5 ≠ 0 ∧ xferPlace s (arg64 args 3) (arg args 5) = false) ∧
    (∃ (s : State) (t : State) (h : HalfId) (ch : ChanId) (r : Req) (args : List Nat) (o : LongOp), Takes { op := 770, device := true, nargs := 1, states := [0, 1, 2, 3, 4, 5], long := false }
      s h ch r args t ∧ aget? s.dx.long (arg args 0 % 65536) = some o ∧ o.cmd = 769 ∧ o.status = none) ∧
    (∃ (s : State) (t : State) (h : HalfId) (ch : ChanId) (r : Req) (args : List Nat), Takes { op := 770, device := true, nargs := 1, states := [0, 1, 2, 3, 4, 5], long := false }
      s h ch r args t ∧ aget? s.dx.long (arg args 0 % 65536) = none) ∧
    (∃ (s : State) (t : State) (h : HalfId) (ch : ChanId) (r : Req) (args : List Nat), Takes { op := 771, device := false, nargs := 3, states := [0, 1, 2, 3, 4, 5], long := false }
      s h ch r args t ∧ arg args 0 ≤ 15 ∧ arg64 args 1 < 2 ^ 64 ∧ apertureGood s (arg64 args 1 % 2 ^ 50) = true) ∧
    (∃ (s : State) (t : State) (h : HalfId) (ch : ChanId) (r : Req) (args : List Nat) (f : FlagId), Takes { op := 1025, device := true, nargs := 2, states := [3], long := false }
      s h ch r args t ∧ flagOfLocal (addrLocal (arg64 args 0)) = some f ∧ addrDev (arg64 args 0) = ownDev s) ∧
    (∃ (s : State) (t : State) (h : HalfId) (ch : ChanId) (r : Req) (args : List Nat) (f : FlagId), Takes { op := 1026, device := true, nargs := 2, states := [3], long := false }
      s h ch r args t ∧ arg args 1 = 1 ∧ arg args 0 = f.val ∧ (s.flag f).waiters = []) ∧
    (∃ (s : State) (t : State) (h : HalfId) (ch : ChanId) (r : Req) (args : List Nat), Takes { op := 1026, device := true, nargs := 2, states := [3], long := false }
      s h ch r args t ∧ arg args 0 < 32768 ∧ 32768 < arg args 0 + arg args 1) ∧
    (∃ (s : State) (t : State) (h : HalfId) (ch : ChanId) (r : Req) (args : List Nat) (m : StreamId), Takes { op := 1027, device := true, nargs := 1, states := [0, 1, 2, 3, 4, 5], long := false }
      s h ch r args t ∧ arg args 0 = m.val ∧ s.rf Fld.DXC_STR_STAT_STOP 0 m.val = 1) :=
  ⟨⟨m1, (taken m1 8), 0, 3, (req 0x301), [5,0,0,0x4000,0,1,0], ⟨_, rfl, by and_intros <;> decide +kernel⟩,
     by decide +kernel⟩,
   ⟨m2, (taken m2 8), 0, 3, (req 0x301), [5,0,0,0x4001,0,1,0], ⟨_, rfl, by and_intros <;> decide +kernel⟩,
     by decide +kernel⟩,
   ⟨m3, (taken m3 2), 0, 3, (req 0x302), [5], { cmd := 769, args := [5, 0, 0, 16384, 0, 1, 0], half := 0, block := [], done := 3, total := 7, status := none },
      ⟨_, rfl, by and_intros <;> decide +kernel⟩, by decide +kernel⟩,
   ⟨m4, (taken m4 2), 0, 3, (req 0x302), [5], ⟨_, rfl, by and_intros <;> decide +kernel⟩,
     by decide +kernel⟩,
   ⟨m5, (taken m5 4), 0, 3, (req 0x303), [15, 0, 0x80000000], ⟨_, rfl, by and_intros <;> decide +kernel⟩,
     by decide +kernel⟩,
   ⟨m6, (taken m6 3), 0, 3, (req 0x401), [fa 7 % 2 ^ 32, fa 7 / 2 ^ 32], 7, ⟨_, rfl, by and_intros <;> decide +kernel⟩, by decide +kernel⟩,
   ⟨m7, (taken m7 3), 0, 3, (req 0x402), [7, 1], 7, ⟨_, rfl, by and_intros <;> decide +kernel⟩,
     by decide +kernel⟩,
   ⟨m8, (taken m8 3), 0, 3, (req 0x402), [32767, 2], ⟨_, rfl, by and_intros <;> decide +kernel⟩,
     by decide +kernel⟩,
   ⟨m9, (taken m9 2), 0, 3, (req 0x403), [255], 255, ⟨_, rfl, by and_intros <;> decide +kernel⟩,
     by decide +kernel⟩⟩

end W51

namespace W52

def glA : Nat := gladeBase 0 + 0x1000
def k1 : State := beatOf (ask live 0x501 [7, 8, 0x01020304, 5]) fun b => { b with sched := 3 }
def k2 : State := beatOf (ask live 0x501 [8, 8, 0x01020304, 5]) fun b => { b with sched := 3 }
def k3 : State := dxOf (ask live 0x502 []) fun x => { x with level := 3, topPair := (5, 16383), topScore := 255 }
def k4 : State := jobOf (ask live 0x503 [5, 3]) 3
def k4p : State := jobOf (ask live 0x503 [65541, 17]) 2
def k5 : State := jobOf (ask live 0x503 [65541, 18]) 3
def k6 : State := jobOf (ask live 0x504 [16383]) 3
def k7 : State := ask live 0x505 [5, 0x1000, 64]
def k8 : State := (ask live 0x506 [17]).setPf .FAB_PORT_STAT_STATE 17 6
def k9 : State := ask live 0x507 [1]
def k10 : State := ask live 0x508 [0x1000]
def s1 : State := ask live 0x601 [0x1000, 0x2000]
def s2 : State := (ask live 0x601 [0x1000, 0x2000]).wf .SEC_LC_STATE 3 0
def s3 : State := ask live 0x602 [0x1000, 4096]
def s4 : State := ask live 0x603 [0x1000, 192]
def s5 : State := ask live 0x604 []
def s6 : State := ask live 0x605 [0, 0x1000]
def o1 : LongOp := ⟨0x0301, [5,0,0,0x4000,0,1,0], 0, [], 0, 1, none⟩
def o2 : LongOp := ⟨0x0201, [5,0], 0, [1,2], 0, 1, none⟩
def o3 : LongOp := ⟨0x0301, [5,0,0,glA % 2 ^ 32 + 0x800, glA / 2 ^ 32,1,0], 0, [], 0, 1, none⟩

/-- Hypotheses of HealthAndLongCommands (HealthCommandsAct), clause by clause. -/
theorem witness_HealthCommandsAct :
    (∃ (s : State) (t : State) (h : HalfId) (ch : ChanId) (r : Req) (args : List Nat), Takes { op := 1281, device := true, nargs := 4, states := [0, 1, 2, 3, 4, 5], long := false }
      s h ch r args t ∧ arg args 0 < arg args 1) ∧
    (∃ (s : State) (t : State) (h : HalfId) (ch : ChanId) (r : Req) (args : List Nat), Takes { op := 1281, device := true, nargs := 4, states := [0, 1, 2, 3, 4, 5], long := false }
      s h ch r args t ∧ arg args 1 ≤ arg args 0 ∧ s.beat.sched ≠ 0) ∧
    (∃ (s : State) (t : State) (h : HalfId) (ch : ChanId) (r : Req) (args : List Nat), Takes { op := 1282, device := true, nargs := 0, states := [0, 1, 2, 3, 4, 5], long := false }
      s h ch r args t ∧ s.dx.topPair.fst < 2 ^ 14 ∧ s.dx.topPair.snd < 2 ^ 14) ∧
    (∃ (s : State) (t : State) (h : HalfId) (ch : ChanId) (r : Req) (args : List Nat) (g : HealthUnit), Takes { op := 1283, device := true, nargs := 2, states := [2, 3], long := true }
      s h ch r args t ∧ healthUnit s args = some g) ∧
    (∃ (s : State) (t : State) (h : HalfId) (ch : ChanId) (r : Req) (args : List Nat), Takes { op := 1283, device := true, nargs := 2, states := [2, 3], long := true }
      s h ch r args t ∧ healthUnit s args = none) ∧
    (∃ (s : State) (t : State) (h : HalfId) (ch : ChanId) (r : Req) (args : List Nat), Takes { op := 1284, device := true, nargs := 1, states := [3], long := false }
      s h ch r args t) ∧
    (∃ (s : State) (t : State) (h : HalfId) (ch : ChanId) (r : Req) (args : List Nat) (a : Nat), Takes { op := 1285, device := true, nargs := 3, states := [0, 1, 2, 3, 4, 5], long := true }
      s h ch r args t ∧ gladeBlock s r.half (arg args 1) (arg args 2) = some a) ∧
    (∃ (s : State) (t : State) (h : HalfId) (ch : ChanId) (r : Req) (args : List Nat) (p : PortId), Takes { op := 1286, device := true, nargs := 1, states := [0, 1, 2, 3, 4, 5], long := false }
      s h ch r args t ∧ arg args 0 = p.val ∧ portState s p = psQuarantine) ∧
    (∃ (s : State) (t : State) (h : HalfId) (ch : ChanId) (r : Req) (args : List Nat), Takes { op := 1287, device := true, nargs := 1, states := [0], long := false }
      s h ch r args t) ∧
    (∃ (s : State) (t : State) (h : HalfId) (ch : ChanId) (r : Req) (args : List Nat) (a : Nat), Takes { op := 1288, device := false, nargs := 1, states := [0, 1, 2, 3, 4, 5], long := false }
      s h ch r args t ∧ arg args 0 % 8 = 0 ∧ gladeBlock s r.half (arg args 0) 432 = some a ∧ memWaits s r.half a 432 = false) :=
  ⟨⟨k1, (taken k1 5), 0, 3, (req 0x501), [7, 8, 0x01020304, 5], ⟨_, rfl, by and_intros <;> decide +kernel⟩,
     by decide +kernel⟩,
   ⟨k2, (taken k2 5), 0, 3, (req 0x501), [8, 8, 0x01020304, 5], ⟨_, rfl, by and_intros <;> decide +kernel⟩,
     by decide +kernel⟩,
   ⟨k3, (taken k3 1), 0, 3, (req 0x502), [], ⟨_, rfl, by and_intros <;> decide +kernel⟩,
     by decide +kernel⟩,
   ⟨k4, (taken k4 3), 0, 3, (req 0x503), [5, 3], Sys2Proof.Machine.HealthUnit.core 3, ⟨_, rfl, by and_intros <;> decide +kernel⟩, by decide +kernel⟩,
   ⟨k5, (taken k5 3), 0, 3, (req 0x503), [65541, 18], ⟨_, rfl, by and_intros <;> decide +kernel⟩,
     by decide +kernel⟩,
   ⟨k6, (taken k6 2), 0, 3, (req 0x504), [16383], ⟨_, rfl, by and_intros <;> decide +kernel⟩⟩,
   ⟨k7, (taken k7 4), 0, 3, (req 0x505), [5, 0x1000, 64], 281474976714752, ⟨_, rfl, by and_intros <;> decide +kernel⟩, by decide +kernel⟩,
   ⟨k8, (taken k8 2), 0, 3, (req 0x506), [17], 17, ⟨_, rfl, by and_intros <;> decide +kernel⟩,
     by decide +kernel⟩,
   ⟨k9, (taken k9 2), 0, 3, (req 0x507), [1], ⟨_, rfl, by and_intros <;> decide +kernel⟩⟩,
   ⟨k10, (taken k10 2), 0, 3, (req 0x508), [0x1000], 281474976714752, ⟨_, rfl, by and_intros <;> decide +kernel⟩, by decide +kernel⟩⟩

/-- Hypotheses of SecCommandsAttestAndAuthorise, clause by clause. -/
theorem witness_SecCommandsAttestAndAuthorise :
    (∃ (s : State) (t : State) (h : HalfId) (ch : ChanId) (r : Req) (args : List Nat), Takes { op := 1537, device := true, nargs := 2, states := [0, 1, 2, 3, 4, 5], long := false }
      s h ch r args t ∧ s.rf Fld.SEC_LC_STATE (leadHalf s).val = 3) ∧
    (∃ (s : State) (t : State) (h : HalfId) (ch : ChanId) (r : Req) (args : List Nat), Takes { op := 1538, device := true, nargs := 2, states := [0, 1, 2, 3, 4, 5], long := false }
      s h ch r args t) ∧
    (∃ (s : State) (t : State) (h : HalfId) (ch : ChanId) (r : Req) (args : List Nat) (a : Nat), Takes { op := 1539, device := true, nargs := 2, states := [0, 1, 2, 3, 4, 5], long := false }
      s h ch r args t ∧ gladeBlock s r.half (arg args 0) 192 = some a ∧ arg args 1 = 192) ∧
    (∃ (s : State) (t : State) (h : HalfId) (ch : ChanId) (r : Req) (args : List Nat), Takes { op := 1540, device := true, nargs := 0, states := [0, 1, 2, 3, 4, 5], long := false }
      s h ch r args t) ∧
    (∃ (s : State) (t : State) (h : HalfId) (ch : ChanId) (r : Req) (args : List Nat) (a : Nat), Takes { op := 1541, device := true, nargs := 2, states := [0, 1, 2, 3, 4, 5], long := false }
      s h ch r args t ∧ gladeBlock s r.half (arg args 1) 192 = some a ∧ arg args 0 = rqTarget (s.read a 192)) ∧
    (∃ (s : State) (t : State) (h : HalfId) (ch : ChanId) (r : Req) (args : List Nat) (a : Nat) (b : Nat), Takes { op := 1537, device := true, nargs := 2, states := [0, 1, 2, 3, 4, 5], long := false }
      s h ch r args t ∧ s.rf Fld.SEC_LC_STATE (leadHalf s).val = 2 ∧ s.sec.keyGone = false ∧ gladeBlock s r.half (arg args 0)
      32 = some a ∧ gladeBlock s r.half (arg args 1) 448 = some b ∧ memWaits s r.half b 448 = false) :=
  ⟨⟨s2, (taken s2 3), 0, 3, (req 0x601), [0x1000, 0x2000], ⟨_, rfl, by and_intros <;> decide +kernel⟩,
     by decide +kernel⟩,
   ⟨s3, (taken s3 3), 0, 3, (req 0x602), [0x1000, 4096], ⟨_, rfl, by and_intros <;> decide +kernel⟩⟩,
   ⟨s4, (taken s4 3), 0, 3, (req 0x603), [0x1000, 192], 281474976714752, ⟨_, rfl, by and_intros <;> decide +kernel⟩, by decide +kernel⟩,
   ⟨s5, (taken s5 1), 0, 3, (req 0x604), [], ⟨_, rfl, by and_intros <;> decide +kernel⟩⟩,
   ⟨s6, (taken s6 3), 0, 3, (req 0x605), [0, 0x1000], 281474976714752, ⟨_, rfl, by and_intros <;> decide +kernel⟩, by decide +kernel⟩,
   ⟨s1, (taken s1 3), 0, 3, (req 0x601), [0x1000, 0x2000], 281474976714752, 281474976718848, ⟨_, rfl, by and_intros <;> decide +kernel⟩, by decide +kernel⟩⟩

/-- Hypotheses of HealthAndLongCommands (LongCommandsEndWithOpDone), clause by clause. -/
theorem witness_LongCommandsEndWithOpDone :
    (∃ (s : State) (n : Nat) (o : LongOp) (d : List Byte), aget? s.dx.long n = some o ∧ dexcaServes s (leadHalf s) = true ∧
      o.status = none ∧ o.cmd = 769 ∧ bit (arg o.args 0) 16 = false ∧ bit (arg o.args 6) 31 = false ∧ rangeBusy s (arg64 o.args
      3) (2048 * arg o.args 5) = false ∧ d.length = 2048 * arg o.args 5) ∧
    (∃ (s : State) (n : Nat) (o : LongOp), aget? s.dx.long n = some o ∧ dexcaServes s (leadHalf s) = true ∧ o.status = none ∧
      o.cmd = 513) :=
  ⟨⟨(dxOf live fun x => { x with long := [(5, o1)] }), 5, o1, (List.replicate 2048 7), by decide +kernel⟩,
   ⟨(dxOf live fun x => { x with long := [(5, o2)] }), 5, o2, by decide +kernel⟩⟩

end W52

namespace W60

def nq (nd : NodeId) (e : List Byte) (s : State) : State := { s with nodeQ := [((nd, 2), [e, [1]])] }
def rc : Nat := 0x10000
def cr (e : List Byte) (f : State → State) : State := f (nq (.core 3) e runSt)
def idS (s : State) : State := s
def e1 : List Byte := we 1 4 0 1 8 0 0 0 0 0 0 0 7 0 rc 0 []
def e2 : List Byte := we 2 0 0 1 8 0 0 0 0 1 0 7 7 0 rc 0 []
def cs8 : List CoreId := [8,9,10,11,12,13,14,15]
def e3 : List Byte := we 2 0 0 0 0 0 0 0 0x5000000000000 1 0 8 7 0 0 0 []
def e4 : List Byte := we 1 4 1 16 8 0 0 0 0 0 0 0 7 0 0 0 []
def e5 : List Byte := we 1 5 1 8 8191 0 0 0 0 0 0 0 7 0 0 0 (List.replicate 64 255)

/-- Hypotheses of WorkEntriesAreRefusedOrSpread (WorkEntriesAreRefusedWithTheirStatus), clause by clause. -/
theorem witness_WorkEntriesAreRefusedWithTheirStatus :
    (∃ (s : State) (nd : NodeId) (q : Fin 8) (e : List Byte) (rest : List (List Byte)), Writable s (entryHalf nd) (weRec e) 16
      ∧ nodeQueue s nd q = e :: rest ∧ s.rf Fld.HLF_LEAD_STAT_FENCED (servingHalf s nd).val = 0 ∧ weDoneFlag e = 0 ∧ weRec e ≠
      0 ∧ weKind e ≠ 1 ∧ weKind e ≠ 2) ∧
    (∃ (s : State) (nd : NodeId) (q : Fin 8) (e : List Byte) (rest : List (List Byte)), Writable s (entryHalf nd) (weRec e) 16
      ∧ nodeQueue s nd q = e :: rest ∧ s.rf Fld.HLF_LEAD_STAT_FENCED (servingHalf s nd).val = 0 ∧ weDoneFlag e = 0 ∧ weRec e ≠
      0 ∧ weKind e = 1 ∧ ¬weClass e ∈ [clMat, clVec, clLoad, clStore]) ∧
    (∃ (s : State) (nd : NodeId) (q : Fin 8) (e : List Byte) (rest : List (List Byte)), Writable s (entryHalf nd) (weRec e) 16
      ∧ nodeQueue s nd q = e :: rest ∧ s.rf Fld.HLF_LEAD_STAT_FENCED (servingHalf s nd).val = 0 ∧ weDoneFlag e = 0 ∧ weRec e ≠
      0 ∧ weKind e = 1 ∧ weClass e ∈ [clMat, clVec, clLoad, clStore] ∧ weGrain e = 0) ∧
    (∃ (s : State) (nd : NodeId) (q : Fin 8) (e : List Byte) (rest : List (List Byte)), Writable s (entryHalf nd) (weRec e) 16
      ∧ nodeQueue s nd q = e :: rest ∧ s.rf Fld.HLF_LEAD_STAT_FENCED (servingHalf s nd).val = 0 ∧ weDoneFlag e = 0 ∧ weRec e ≠
      0 ∧ weKind e = 1 ∧ weClass e ∈ [clMat, clVec, clLoad, clStore] ∧ weGrain e ≠ 0 ∧ nodeState s nd = NodeSt.paired) ∧
    (∃ (s : State) (nd : NodeId) (q : Fin 8) (e : List Byte) (rest : List (List Byte)), Writable s (entryHalf nd) (weRec e) 16
      ∧ nodeQueue s nd q = e :: rest ∧ s.rf Fld.HLF_LEAD_STAT_FENCED (servingHalf s nd).val = 0 ∧ weDoneFlag e = 0 ∧ weRec e ≠
      0 ∧ weKind e = 1 ∧ weClass e ∈ [clMat, clVec, clLoad, clStore] ∧ weGrain e ≠ 0 ∧ nodeState s nd ≠ NodeSt.paired ∧
      nodeState s nd ≠ NodeSt.active) ∧
    (∃ (s : State) (nd : NodeId) (q : Fin 8) (e : List Byte) (rest : List (List Byte)), Writable s (entryHalf nd) (weRec e) 16
      ∧ nodeQueue s nd q = e :: rest ∧ s.rf Fld.HLF_LEAD_STAT_FENCED (servingHalf s nd).val = 0 ∧ weDoneFlag e = 0 ∧ weRec e ≠
      0 ∧ weKind e = 1 ∧ weClass e ∈ [clMat, clVec, clLoad, clStore] ∧ weGrain e ≠ 0 ∧ nodeState s nd = NodeSt.active ∧ (∀ (c :
      CoreId), nd ≠ NodeId.core c) ∧ activeSlots s nd = []) ∧
    (∃ (s : State) (nd : NodeId) (q : Fin 8) (e : List Byte) (rest : List (List Byte)), Writable s (entryHalf nd) (weRec e) 16
      ∧ nodeQueue s nd q = e :: rest ∧ s.rf Fld.HLF_LEAD_STAT_FENCED (servingHalf s nd).val = 0 ∧ weDoneFlag e = 0 ∧ weRec e ≠
      0 ∧ weKind e = 2 ∧ nodeState s nd = NodeSt.active ∧ ((∀ (c : CoreId), nd ≠ NodeId.core c) → activeSlots s nd ≠ []) ∧
      (spread s false 6 nd 0 (weNItems e)).length ≠ weNSlotExp e) :=
  ⟨⟨(cr (we 0 0 0 0 0 0 0 0 0 0 0 0 7 0 rc 0 []) idS), (.core 3), 2, (we 0 0 0 0 0 0 0 0 0 0 0 0 7 0 rc 0 []), [[1]],
     by unfold Writable; decide +kernel, by decide +kernel⟩,
   ⟨(cr (we 1 2 0 0 0 0 0 0 0 0 0 0 7 0 rc 0 []) idS), (.core 3), 2, (we 1 2 0 0 0 0 0 0 0 0 0 0 7 0 rc 0 []), [[1]],
     by unfold Writable; decide +kernel, by decide +kernel⟩,
   ⟨(cr (we 1 4 0 0 0 0 0 0 0 0 0 0 7 0 rc 0 []) idS), (.core 3), 2, (we 1 4 0 0 0 0 0 0 0 0 0 0 7 0 rc 0 []), [[1]],
     by unfold Writable; decide +kernel, by decide +kernel⟩,
   ⟨(cr e1 (fun s => coreOfSt s 3 fun x => { x with node := .paired })), (.core 3), 2, e1, [[1]],
     by unfold Writable; decide +kernel, by decide +kernel⟩,
   ⟨(cr e1 (fun s => coreOfSt s 3 fun x => { x with node := .spare })), (.core 3), 2, e1, [[1]],
     by unfold Writable; decide +kernel, by decide +kernel⟩,
   ⟨{ (nq (.grove 1) e1 runSt) with tables := [(.grove 1, ⟨1, 0, []⟩)] }, (.grove 1), 2, e1, [[1]],
     by unfold Writable; decide +kernel, by decide +kernel⟩,
   ⟨(nq (.grove 1) e2 runSt), (.grove 1), 2, e2, [[1]], by unfold Writable; decide +kernel, by decide +kernel⟩⟩

/-- Hypotheses of WorkEntriesAreRefusedOrSpread (EntriesAreSpreadOverActiveSlots), clause by clause. -/
theorem witness_EntriesAreSpreadOverActiveSlots :
    (∃ (s : State) (g : GroveId) (q : Fin 8) (e : List Byte) (rest : List (List Byte)) (cs : List CoreId), nodeQueue s
      (NodeId.grove g) q = e :: rest ∧ nodeState s (NodeId.grove g) = NodeSt.active ∧ cs ≠ [] ∧ (List.map (fun x => localNode s
      x.child) (activeSlots s (NodeId.grove g)) = List.map (fun c => some (NodeId.core c)) cs) ∧ (∀ (c : CoreId), c ∈ cs →
      groveOfCore c = g ∧ surveying s c = false) ∧ s.rf Fld.HLF_LEAD_STAT_FENCED (halfOfGrove g).val = 0 ∧ weKind e = 2 ∧
      weNSlotExp e = cs.length) ∧
    (∃ (s : State) (g : GroveId) (q : Fin 8) (e : List Byte) (rest : List (List Byte)) (cs : List CoreId), nodeQueue s
      (NodeId.grove g) q = e :: rest ∧ nodeState s (NodeId.grove g) = NodeSt.active ∧ cs ≠ [] ∧ (List.map (fun x => localNode s
      x.child) (activeSlots s (NodeId.grove g)) = List.map (fun c => some (NodeId.core c)) cs) ∧ (∀ (c : CoreId), c ∈ cs →
      groveOfCore c = g ∧ surveying s c = false) ∧ s.rf Fld.HLF_LEAD_STAT_FENCED (halfOfGrove g).val ≠ 0) ∧
    (∃ (s : State) (g : GroveId) (q : Fin 8) (e : List Byte) (rest : List (List Byte)) (cs : List CoreId), nodeQueue s
      (NodeId.grove g) q = e :: rest ∧ nodeState s (NodeId.grove g) = NodeSt.active ∧ cs ≠ [] ∧ (List.map (fun x => localNode s
      x.child) (activeSlots s (NodeId.grove g)) = List.map (fun c => some (NodeId.core c)) cs) ∧ (∀ (c : CoreId), c ∈ cs →
      groveOfCore c = g ∧ surveying s c = false) ∧ s.rf Fld.HLF_LEAD_STAT_FENCED (halfOfGrove g).val = 0 ∧ weKind e = 1 ∧
      weSplit e = 1 ∧ weAdv e = 0 ∧ (weClass e = clLoad ∨ weClass e = clStore) ∧ weGrain e ≠ 0 ∧ (∀ (k : Nat), k < cs.length →
      0 < (k + 1) * weNItems e / cs.length - k * weNItems e / cs.length ∧ ((k + 1) * weNItems e / cs.length - k * weNItems e /
      cs.length) * weGrain e < 65536)) :=
  ⟨⟨(nq (.grove 1) e3 runSt), 1, 2, e3, [[1]], cs8, by decide +kernel⟩,
   ⟨((nq (.grove 1) e3 runSt).wf .HLF_LEAD_STAT_FENCED 1 0), 1, 2, e3, [[1]], cs8, by decide +kernel⟩,
   ⟨(nq (.grove 1) e4 runSt), 1, 2, e4, [[1]], cs8, by decide +kernel⟩⟩

end W60

namespace W61

def enE (e : List Byte) (ps : List PartRec) : Entry := ⟨e, .grove 0, ps, [], 0⟩
def wst (e : List Byte) (d : Option (List Byte)) (ps : List PartRec) (ws : List WaitingPart) : State :=
  { live with entries := [(5, enE e ps)], waiting := [(0, ⟨5, 2, 3, d⟩ :: ⟨5, 0, 4, none⟩ :: ws)] }
def p1 : List PartRec := [⟨2, some 3, none⟩]
def eP : List Byte := we 2 0 0 0 0 0 0 0 (ringAt 3) 4 16 1 7 0 0 0 []
def eBad : List Byte := we 2 0 0 0 0 0 0 0 0x3fff000 4 16 1 7 0 0 0 []
def eSp (sh tg : Nat) : List Byte := we 2 0 0 0 0 6 sh tg (ringAt 3) 4 16 1 7 0 0 0 []
def key6 : UKey := ⟨9, 1, 6, [[1,2,3],[4]], 2, true, false, false, 0, false, none⟩
def withKey (s : State) (k : UKey) : State := { s with halves := [(0, { s.half 0 with und := [k] })] }
def prt (s : State) : State := s.wf .CORE_SPEC_CFG_PART 2 3
def unrel (s : State) : State := { s with cores := [(3, { s.core 3 with acc := { (s.core 3).acc with tiles := [(1, ⟨false, false, false⟩)] } })] }
def donex (y : Ctx) (en : Entry) : State :=
  { live with entries := [(5, en)] , flags := [(9, { Flag.reset with owner := some (3, 1) })] }.setCtx 3 1 y
def yS : Ctx := { Ctx.reset with st := .stopping, ended := true, entry := 5, k := 2, fail := some (1, 7) }
def eD : List Byte := we 2 0 0 0 0 0 0 0 (ringAt 3) 4 16 1 7 (fa 33) 0x10000 0 []
def z0 : SpecSt := ⟨(9, 1), 1, 5, 2, 1, 2, none, none, false, []⟩
def rc1 (w : List Byte) (f : State → State) : State := f (ctxIn live 3 1 w [])
def k1 (w : List Byte) : Cmd := kOf (rc1 w idS) 3 1
where idS (s : State) : State := s
def id1 (s : State) : State := s
def chkW (w : List Byte) := w
def opX : Op := ⟨4, 1, 0, 1, [], false, false, 0, 0, 0, 0, 5, false, 0, none, true, 0, none⟩
def r2 (s : State) : State := s.setCtx 3 1 { s.ctx 3 1 with crec := 0x20000 }

/-- Hypotheses of PartsStartAndComplete (PartsStartOnTheLowestIdleContext), clause by clause. -/
theorem witness_PartsStartOnTheLowestIdleContext :
    (∃ (s : State) (c : CoreId) (n : CtxId) (w : WaitingPart) (ws : List WaitingPart) (en : Entry), idleCtx (s.core c) = some n
      ∧ coreTakes (s.core c) = true ∧ surveying s c = false ∧ (List.filter (fun w => w.core == c) (aget s.waiting (groveOfCore
      c) []) = w :: ws) ∧ aget? s.entries w.entry = some en ∧ weSpec en.raw = 0 ∧ (w.desc.isSome = true ∨ ringOk c (weProg
      en.raw + 64 * wePStride en.raw * w.k) (wePlen en.raw) = true ∧ wePlen en.raw ≠ 0)) ∧
    (∃ (s : State) (c : CoreId) (n : CtxId) (w : WaitingPart) (ws : List WaitingPart) (en : Entry) (key : UKey), idleCtx
      (s.core c) = some n ∧ coreTakes (s.core c) = true ∧ surveying s c = false ∧ (List.filter (fun w => w.core == c) (aget
      s.waiting (groveOfCore c) []) = w :: ws) ∧ aget? s.entries w.entry = some en ∧ weSpec en.raw ≠ 0 ∧ (s.core c).spec = none
      ∧ keyOfHandle s (halfOfCore c) (weSpec en.raw) = some key ∧ key.resolved = none ∧ (weShadow en.raw = 3 ∨ weTarget en.raw
      = 3 ∨ weShadow en.raw = weTarget en.raw) ∧ en.parts = [{ k := w.k, core := some c, status := none }] ∧ weRec en.raw = 0 ∧
      weDoneFlag en.raw = 0 ∧ en.excs = []) ∧
    (∃ (s : State) (c : CoreId) (n : CtxId) (w : WaitingPart) (ws : List WaitingPart) (en : Entry) (key : UKey), idleCtx
      (s.core c) = some n ∧ coreTakes (s.core c) = true ∧ surveying s c = false ∧ (List.filter (fun w => w.core == c) (aget
      s.waiting (groveOfCore c) []) = w :: ws) ∧ aget? s.entries w.entry = some en ∧ weSpec en.raw ≠ 0 ∧ (s.core c).spec = none
      ∧ keyOfHandle s (halfOfCore c) (weSpec en.raw) = some key ∧ key.resolved = none ∧ weShadow en.raw ≠ 3 ∧ weTarget en.raw ≠
      3 ∧ weShadow en.raw ≠ weTarget en.raw ∧ (s.tile c (weShadow en.raw)).released = false ∧ ws = []) ∧
    (∃ (s : State) (c : CoreId) (n : CtxId) (w : WaitingPart) (ws : List WaitingPart) (en : Entry) (key : UKey), idleCtx
      (s.core c) = some n ∧ coreTakes (s.core c) = true ∧ surveying s c = false ∧ (List.filter (fun w => w.core == c) (aget
      s.waiting (groveOfCore c) []) = w :: ws) ∧ aget? s.entries w.entry = some en ∧ weSpec en.raw ≠ 0 ∧ (s.core c).spec = none
      ∧ keyOfHandle s (halfOfCore c) (weSpec en.raw) = some key ∧ key.resolved = none ∧ weShadow en.raw ≠ 3 ∧ weTarget en.raw ≠
      3 ∧ weShadow en.raw ≠ weTarget en.raw ∧ (s.tile c (weShadow en.raw)).released = true ∧ s.rf Fld.CORE_SPEC_CFG_PART c.val
      ≠ 0 ∧ key.recs.flatten.length ≤ min 16 (s.rf Fld.CORE_SPEC_CFG_PART c.val) * 65536 ∧ (w.desc.isSome = true ∨ ringOk c
      (weProg en.raw + 64 * wePStride en.raw * w.k) (wePlen en.raw) = true)) ∧
    (∃ (s : State) (c : CoreId) (n : CtxId) (w : WaitingPart) (ws : List WaitingPart) (en : Entry), idleCtx (s.core c) = some n
      ∧ coreTakes (s.core c) = true ∧ surveying s c = false ∧ (List.filter (fun w => w.core == c) (aget s.waiting (groveOfCore
      c) []) = w :: ws) ∧ aget? s.entries w.entry = some en ∧ weSpec en.raw = 0 ∧ w.desc = none ∧ ringOk c (weProg en.raw + 64
      * wePStride en.raw * w.k) (wePlen en.raw) = false ∧ en.parts = [{ k := w.k, core := some c, status := none }] ∧ weRec
      en.raw = 0 ∧ weDoneFlag en.raw = 0 ∧ en.excs = []) :=
  ⟨⟨(wst eP none p1 []), 3, 0, ⟨5, 2, 3, none⟩, [], (enE eP p1), by decide +kernel⟩,
   ⟨(withKey (wst (eSp 1 1) none p1 []) key6), 3, 0, ⟨5, 2, 3, none⟩, [], (enE (eSp 1 1) p1), { sender := 9, tag := 1, handle := 6, recs := [[1, 2, 3], [4]], granules := 2, last := true, void := false, dead := false, beat := 0, started := false, resolved := none },
      by decide +kernel⟩,
   ⟨(unrel (withKey (wst (eSp 1 2) none p1 []) key6)), 3, 0, ⟨5, 2, 3, none⟩, [], (enE (eSp 1 2) p1), { sender := 9, tag := 1, handle := 6, recs := [[1, 2, 3], [4]], granules := 2, last := true, void := false, dead := false, beat := 0, started := false, resolved := none },
      by decide +kernel⟩,
   ⟨(prt (withKey (wst (eSp 1 2) none p1 []) key6)), 3, 0, ⟨5, 2, 3, none⟩, [], (enE (eSp 1 2) p1), { sender := 9, tag := 1, handle := 6, recs := [[1, 2, 3], [4]], granules := 2, last := true, void := false, dead := false, beat := 0, started := false, resolved := none },
      by decide +kernel⟩,
   ⟨(wst eBad none p1 []), 3, 0, ⟨5, 2, 3, none⟩, [], (enE eBad p1), by decide +kernel⟩⟩

/-- Hypotheses of PartsStartAndComplete (PartsCompleteAndSetDoneFlag), clause by clause. -/
theorem witness_PartsCompleteAndSetDoneFlag :
    (∃ (s : State) (c : CoreId) (n : CtxId), partOver s c n = false) ∧
    (∃ (s : State) (c : CoreId) (n : CtxId) (en : Entry) (f : FlagId), Writable s (entryHalf en.node) (weRec en.raw) 16 ∧
      partOver s c n = true ∧ (s.ctx c n).spec = false ∧ aget? s.entries (s.ctx c n).entry = some en ∧ en.parts = [{ k := (s.ctx c n).k, core := some c, status := none }]
      ∧ en.excs = [] ∧ weRec en.raw ≠ 0 ∧ (∀ (r : RunAhead), r ∈ (s.core c).runAhead → r.ctx ≠ n) ∧ weDoneFlag en.raw ≠ 0 ∧
      flagOfLocal (addrLocal (weDoneFlag en.raw)) = some f ∧ addrDev (weDoneFlag en.raw) = ownDev s ∧ s.beat.phases = [] ∧
      flagDead s f = none ∧ (s.flag f).set = false ∧ (s.flag f).waiters = []) ∧
    (∃ (s : State) (c : CoreId) (n : CtxId) (en : Entry) (p : PartRec), partOver s c n = true ∧ (s.ctx c n).spec = false ∧ (∀
      (r : RunAhead), r ∈ (s.core c).runAhead → r.ctx ≠ n) ∧ aget? s.entries (s.ctx c n).entry = some en ∧ p ∈ en.parts ∧ p.k ≠
      (s.ctx c n).k ∧ p.status = none) ∧
    (∃ (s : State) (c : CoreId) (n : CtxId) (z : SpecSt), partOver s c n = true ∧ (s.ctx c n).spec = true ∧ (s.core c).spec =
      some z ∧ (∀ (r : RunAhead), r ∈ (s.core c).runAhead → r.ctx ≠ n)) :=
  ⟨⟨live, 3, 1, by decide +kernel⟩,
   ⟨(donex yS (enE eD p1)), 3, 1, { raw := ([2, 0, 0, 0, 0, 0, 0, 0, 3, 0, 0, 0, 0, 0, 0, 0, 0, 16, 128, 5, 0, 0, 1, 0, 4, 0, 16, 0, 1, 0, 0, 0, 0, 0, 0, 0, 7, 0, 0, 0, 8, 1, 0, 0, 0, 0, 2, 0, 0, 0, 1] ++ List.replicate 77 0), node := Sys2Proof.NodeId.grove 0, parts := [{ k := 2, core := some 3, status := none }], excs := [], accepted := 0 },
      33, by unfold Writable; decide +kernel, by decide +kernel⟩,
   ⟨(donex yS (enE eD [⟨2, some 3, none⟩, ⟨1, some 4, none⟩])), 3, 1, { raw := ([2, 0, 0, 0, 0, 0, 0, 0, 3, 0, 0, 0, 0, 0, 0, 0, 0, 16, 128, 5, 0, 0, 1, 0, 4, 0, 16, 0, 1, 0, 0, 0, 0, 0, 0, 0, 7, 0, 0, 0, 8, 1, 0, 0, 0, 0, 2, 0, 0, 0, 1] ++ List.replicate 77 0), node := Sys2Proof.NodeId.grove 0, parts := [{ k := 2, core := some 3, status := none }, { k := 1, core := some 4, status := none }], excs := [], accepted := 0 },
      { k := 1, core := some 4, status := none }, by decide +kernel⟩,
   ⟨(coreOfSt (donex { yS with spec := true } (enE eD p1)) 3 (fun x => { x with spec := some z0 })), 3, 1, { key := (9, 1), ctx := 1, entry := 5, k := 2, shadow := 1, target := 2, partDone := none, resolved := none, dead := false, excs := [] },
      by decide +kernel⟩⟩

/-- Hypotheses of RingCommandsFollowDepAndRecords, clause by clause. -/
theorem witness_RingCommandsFollowDepAndRecords :
    (∃ (s : State) (c : CoreId) (n : CtxId) (k : Cmd), nextCmd s (s.ctx c n) = some k ∧ k.cls = clEnd ∧ (k.dep = 1 ∨ k.dep = 2)
      ∧ depMet (s.core c) n (s.ctx c n) k.dep = false) ∧
    (∃ (s : State) (c : CoreId) (n : CtxId) (k : Cmd), Accepts s c n k ∧ k.cls = clEnd ∧ (∀ (o : Op), o ∈ (s.core c).ops →
      o.num ≠ (s.core c).nextNum) ∧ k.reco = false ∧ k.setf = false) ∧
    (∃ (s : State) (c : CoreId) (n : CtxId) (k : Cmd) (y : Ctx), OthersIdle s c n ∧ y = s.ctx c n ∧ nextCmd s y = some k ∧
      k.cls = clEnd ∧ k.dep = 3 ∧ y.depMet = false ∧ ctxRuns y = true ∧ fenced (s.core c) n = false ∧ coreTakes (s.core c) =
      true ∧ hasRoom s c n clEnd = true ∧ k.reco = false ∧ k.setf = false ∧ flagDead s k.wflag = none ∧ (s.flag k.wflag).poison
      = false ∧ (s.flag k.wflag).set = false) ∧
    (∃ (s : State) (c : CoreId) (n : CtxId) (k : Cmd) (y : Ctx), OthersIdle s c n ∧ y = s.ctx c n ∧ nextCmd s y = some k ∧
      k.cls = clEnd ∧ k.dep = 3 ∧ y.depMet = false ∧ ctxRuns y = true ∧ fenced (s.core c) n = false ∧ coreTakes (s.core c) =
      true ∧ hasRoom s c n clEnd = true ∧ k.reco = false ∧ k.setf = false ∧ flagDead s k.wflag = none ∧ (s.flag k.wflag).poison
      = false ∧ (s.flag k.wflag).set = true) ∧
    (∃ (s : State) (c : CoreId) (n : CtxId) (k : Cmd), Accepts s c n k ∧ Writable s (halfOfCore c) ((s.ctx c n).crec + 4096 *
      (s.ctx c n).k + 16 * (s.ctx c n).rptr) 16 ∧ 8 < k.cls ∧ k.reco = true ∧ (s.ctx c n).crec ≠ 0 ∧ (s.ctx c n).spec = false ∧
      k.setf = false) ∧
    (∃ (s : State) (c : CoreId) (n : CtxId) (k : Cmd) (f : FlagId), Accepts s c n k ∧ 8 < k.cls ∧ k.setf = true ∧ k.reco =
      false ∧ (s.ctx c n).spec = false ∧ k.dflag = f.val ∧ s.fab.selfQ = [] ∧ s.fab.unsent = [] ∧ s.beat.phases = [] ∧ flagDead
      s f = none ∧ (s.flag f).set = false ∧ (s.flag f).waiters = []) ∧
    (∃ (s : State) (c : CoreId), s.rf Fld.CORE_CTX_CFG_GATE_EN c.val = 1 ∧ (∀ (m : CtxId), ctxState s c m ≠ CtxSt.ready) ∧
      trkUsed (s.core c) = 0) ∧
    (∃ (s : State) (c : CoreId), (s.rf Fld.CORE_CTX_CFG_GATE_EN c.val = 0 ∨ (∃ m, ctxState s c m = CtxSt.ready) ∨ trkUsed
      (s.core c) ≠ 0)) ∧
    (∃ (s : State) (c : CoreId) (n : CtxId) (k : Cmd), Accepts s c n k ∧ Writable s (halfOfCore c) ((s.ctx c n).crec +
      4096 * (s.ctx c n).k + 16 * (s.ctx c n).rptr) 16 ∧ k.cls = clEnd ∧ (∀ (o : Op), o ∈ (s.core c).ops → o.num ≠
      (s.core c).nextNum) ∧ k.reco = true ∧ k.setf = false ∧ (s.ctx c n).crec ≠ 0 ∧ (s.ctx c n).spec = false) :=
  ⟨⟨(rc1 (cw 0 2 0 0 0 0 0 0) (fun s => coreOfSt s 3 (fun x => { x with ops := [opX] }))), 3, 1, { cls := 0, dep := 2, reco := false, setf := false, wflag := 0, dflag := 0, tag := 0, descAddr := 0, desc := ([0, 0, 0, 0, 0, 7] ++ List.replicate 58 0) },
      by decide +kernel⟩,
   ⟨(rc1 (cw 0 0 0 0 0 0 0 0) id1), 3, 1, { cls := 0, dep := 0, reco := false, setf := false, wflag := 0, dflag := 0, tag := 0, descAddr := 0, desc := ([0, 0, 0, 0, 0, 7] ++ List.replicate 58 0) },
      by unfold Accepts; decide +kernel, by decide +kernel⟩,
   ⟨(rc1 (cw 0 3 0 0 33 0 0 0) id1), 3, 1, { cls := 0, dep := 3, reco := false, setf := false, wflag := 33, dflag := 0, tag := 0, descAddr := 0, desc := ([0, 0, 0, 0, 0, 7] ++ List.replicate 58 0) },
      { st := Sys2Proof.Machine.CtxSt.ready, entry := 5, k := 0, ring := 281475068989440, plen := 2, ptr := 0, rptr := 0, crec := 0, mb := 0, stopErr := false, spec := false, opCls := 0, opTag := 0, opDesc := none, prev := none, fail := none, depMet := false, ended := false, cond := none, waitStart := 0 },
      by unfold OthersIdle; decide +kernel, by decide +kernel⟩,
   ⟨(rc1 (cw 0 3 0 0 33 0 0 0) (fun s => { s with flags := [(33, { Flag.reset with set := true })] })), 3, 1, { cls := 0, dep := 3, reco := false, setf := false, wflag := 33, dflag := 0, tag := 0, descAddr := 0, desc := ([0, 0, 0, 0, 0, 7] ++ List.replicate 58 0) },
      { st := Sys2Proof.Machine.CtxSt.ready, entry := 5, k := 0, ring := 281475068989440, plen := 2, ptr := 0, rptr := 0, crec := 0, mb := 0, stopErr := false, spec := false, opCls := 0, opTag := 0, opDesc := none, prev := none, fail := none, depMet := false, ended := false, cond := none, waitStart := 0 },
      by unfold OthersIdle; decide +kernel, by decide +kernel⟩,
   ⟨(r2 (rc1 (cw 9 0 1 0 33 0 6 0) id1)), 3, 1, { cls := 9, dep := 0, reco := true, setf := false, wflag := 33, dflag := 0, tag := 6, descAddr := 0, desc := ([0, 0, 0, 0, 0, 7] ++ List.replicate 58 0) },
      by unfold Accepts; decide +kernel, by unfold Writable; decide +kernel, by decide +kernel⟩,
   ⟨((rc1 (cw 9 0 0 1 33 7 6 0) id1)), 3, 1, { cls := 9, dep := 0, reco := false, setf := true, wflag := 33, dflag := 7, tag := 6, descAddr := 0, desc := ([0, 0, 0, 0, 0, 7] ++ List.replicate 58 0) },
      7, by unfold Accepts; decide +kernel, by decide +kernel⟩,
   ⟨(live.wf .CORE_CTX_CFG_GATE_EN 1 3), 3, by decide +kernel⟩,
   ⟨(live.wf .CORE_CTX_CFG_GATE_EN 0 3), 3, by decide +kernel⟩,
   ⟨(r2 (rc1 (cw 0 0 1 0 0 0 0 0) id1)), 3, 1, { cls := 0, dep := 0, reco := true, setf := false, wflag := 0, dflag := 0, tag := 0, descAddr := 0, desc := ([0, 0, 0, 0, 0, 7] ++ List.replicate 58 0) },
      by unfold Accepts; decide +kernel, by unfold Writable; decide +kernel, by decide +kernel⟩⟩

end W61

namespace W62

def td (esize tr ck rows rb src dst ss ds : Nat) : List Byte :=
  natLE 4 (esize + tr * 4 + ck * 8) ++ natLE 4 rows ++ natLE 8 rb ++ natLE 8 src ++ natLE 8 dst ++ natLE 4 ss ++ natLE 4 ds ++ natLE 24 0
def sc3 : Nat := scratchBase 3 + 0x4000
def tx (cls : Nat) (d : List Byte) : State := ctxIn live 3 1 (cw cls 0 0 0 0 0 5 (descAt 3)) d
def und (s : State) : State := (s.wf .COL_UND_CFG_SIZE 2 0).wf .COL_UND_CFG_BASE 1022 0
def opT (cls : Nat) (d : List Byte) : Op := ⟨4, 1, 0, cls, d, false, false, 0, 0, 0, 0, 5, false, 0, none, false, 0, none⟩
def txc (cls : Nat) (d : List Byte) : State := coreOfSt (put (ctxIn live 3 1 [] []) 0x10000 (List.range 128 |>.map (BitVec.ofNat 8))) 3 fun x => { x with ops := [opT cls d] }
def crcs (s : State) (v : Nat) : State := { s with crc := [(65536, v)] }
theorem crcs_crcOf (s : State) (v : Nat) : (crcs s v).crcOf 65536 = v := rfl
theorem crcs_read (s : State) (v a n : Nat) : (crcs s v).read a n = s.read a n := rfl
theorem crcs_good (s : State) (v : Nat) (h : crc32c (s.read 65536 2048) = v) :
    crc32c ((crcs s v).read 65536 2048) = (crcs s v).crcOf 65536 := by rw [crcs_crcOf, crcs_read, h]
theorem crcs_bad (s : State) (v : Nat) (h : crc32c (s.read 65536 2048) ≠ v) :
    crc32c ((crcs s v).read 65536 2048) ≠ (crcs s v).crcOf 65536 := by rw [crcs_crcOf, crcs_read]; exact h
/-- a number that a CRC is not -/
def off (n : Nat) : Nat := n + 1
theorem off_ne (n : Nat) : n ≠ off n := (Nat.succ_ne_self n).symm
def busyS (s : State) : State := s.wf .HBM_INIT_CTL_BUSY 1 0
def dL := td 0 0 0 2 64 0x10000 sc3 64 64
def dT := td 1 1 0 2 64 0x10000 sc3 64 64
def dC := td 1 1 1 2 64 0x10000 sc3 64 64
def cT : Nat := crc32c ((txc 4 dC).read 65536 2048)
def dS (ck : Nat) := td 0 0 ck 2 2048 sc3 0x10000 2048 2048

/-- Hypotheses of TransfersAreCheckedAndMoveTheirRows (TransfersAreCheckedInOrder), clause by clause. -/
theorem witness_TransfersAreCheckedInOrder :
    (∃ (s : State) (c : CoreId) (n : CtxId) (k : Cmd) (store : Bool), Sound s c n k ∧ (k.cls = if store = true then clStore
      else clLoad) ∧ (tdEsize k.desc = 3 ∨ tdRows k.desc = 0 ∨ tdRBytes k.desc = 0 ∨ tdTrans k.desc = true ∧ tdRBytes k.desc %
      2 ^ tdEsize k.desc ≠ 0)) ∧
    (∃ (s : State) (c : CoreId) (n : CtxId) (k : Cmd) (store : Bool), Sound s c n k ∧ (k.cls = if store = true then clStore
      else clLoad) ∧ (¬(tdEsize k.desc = 3 ∨ tdRows k.desc = 0 ∨ tdRBytes k.desc = 0 ∨ tdTrans k.desc = true ∧ tdRBytes k.desc
      % 2 ^ tdEsize k.desc ≠ 0)) ∧ (∃ r, r ∈ srcRows k.desc ++ dstRows k.desc ∧ r.fst < 481036337152 + 12884901888 ∧
      481036337152 < r.fst + r.snd)) ∧
    (∃ (s : State) (c : CoreId) (n : CtxId) (k : Cmd) (store : Bool), Sound s c n k ∧ (k.cls = if store = true then clStore
      else clLoad) ∧ (¬(tdEsize k.desc = 3 ∨ tdRows k.desc = 0 ∨ tdRBytes k.desc = 0 ∨ tdTrans k.desc = true ∧ tdRBytes k.desc
      % 2 ^ tdEsize k.desc ≠ 0)) ∧ (∀ (r : Nat × Nat), r ∈ srcRows k.desc ++ dstRows k.desc → ¬(r.fst < 481036337152 +
      12884901888 ∧ 481036337152 < r.fst + r.snd)) ∧ (∃ r, r ∈ srcRows k.desc ++ dstRows k.desc ∧ (touchesUnderstory s 0 r.fst
      r.snd = true ∨ touchesUnderstory s 1 r.fst r.snd = true ∨ (s.ctx c n).spec = false ∧ ∃ x, inPartition s x r.fst r.snd =
      true))) ∧
    (∃ (s : State) (c : CoreId) (n : CtxId) (k : Cmd) (store : Bool), Sound s c n k ∧ (k.cls = if store = true then clStore
      else clLoad) ∧ (¬(tdEsize k.desc = 3 ∨ tdRows k.desc = 0 ∨ tdRBytes k.desc = 0 ∨ tdTrans k.desc = true ∧ tdRBytes k.desc
      % 2 ^ tdEsize k.desc ≠ 0)) ∧ (∀ (r : Nat × Nat), r ∈ srcRows k.desc ++ dstRows k.desc → ¬(r.fst < 481036337152 +
      12884901888 ∧ 481036337152 < r.fst + r.snd)) ∧ (∀ (r : Nat × Nat), r ∈ srcRows k.desc ++ dstRows k.desc →
      touchesUnderstory s 0 r.fst r.snd = false ∧ touchesUnderstory s 1 r.fst r.snd = false ∧ ∀ (x : CoreId), inPartition s x
      r.fst r.snd = false) ∧ (∃ r, (r ∈ if store = true then srcRows k.desc else dstRows k.desc) ∧ ∀ (x : CoreId), regionOf
      r.fst r.snd = some (Region.scratch x) → x ≠ c ∧ inPair s c = false)) ∧
    (∃ (s : State) (c : CoreId) (n : CtxId) (k : Cmd) (store : Bool), Sound s c n k ∧ (k.cls = if store = true then clStore
      else clLoad) ∧ transferCheck s c store (s.ctx c n).spec k.desc = none) :=
  ⟨⟨(tx 4 (td 3 0 0 2 64 0x10000 sc3 64 64)), 3, 1, { cls := 4, dep := 0, reco := false, setf := false, wflag := 0, dflag := 0, tag := 5, descAddr := 281475068993536, desc := ([3, 0, 0, 0, 2, 0, 0, 0, 64, 0, 0, 0, 0, 0, 0, 0, 0, 0, 1, 0, 0, 0, 0, 0, 0, 64, 128, 5, 0, 0, 1, 0, 64, 0, 0, 0, 64] ++ List.replicate 27 0) },
      false, by unfold Sound Accepts; decide +kernel, by decide +kernel⟩,
   ⟨(tx 4 (td 0 0 0 2 64 0x7000000000 sc3 64 64)), 3, 1, { cls := 4, dep := 0, reco := false, setf := false, wflag := 0, dflag := 0, tag := 5, descAddr := 281475068993536, desc := ([0, 0, 0, 0, 2, 0, 0, 0, 64, 0, 0, 0, 0, 0, 0, 0, 0, 0, 0, 0, 112, 0, 0, 0, 0, 64, 128, 5, 0, 0, 1, 0, 64, 0, 0, 0, 64] ++ List.replicate 27 0) },
      false, by unfold Sound Accepts; decide +kernel, by decide +kernel⟩,
   ⟨(und (tx 5 (td 0 0 0 2 64 sc3 (gladeBase 0 + gladeSize - 128) 64 64))), 3, 1, { cls := 5, dep := 0, reco := false, setf := false, wflag := 0, dflag := 0, tag := 5, descAddr := 281475068993536, desc := ([0, 0, 0, 0, 2, 0, 0, 0, 64, 0, 0, 0, 0, 0, 0, 0, 0, 64, 128, 5, 0, 0, 1, 0, 128, 255, 255, 3, 0, 0, 1, 0, 64, 0, 0, 0, 64] ++ List.replicate 27 0) },
      true, by unfold Sound Accepts; decide +kernel, by decide +kernel⟩,
   ⟨(tx 5 (td 0 0 0 2 64 0x10000 sc3 64 64)), 3, 1, { cls := 5, dep := 0, reco := false, setf := false, wflag := 0, dflag := 0, tag := 5, descAddr := 281475068993536, desc := ([0, 0, 0, 0, 2, 0, 0, 0, 64, 0, 0, 0, 0, 0, 0, 0, 0, 0, 1, 0, 0, 0, 0, 0, 0, 64, 128, 5, 0, 0, 1, 0, 64, 0, 0, 0, 64] ++ List.replicate 27 0) },
      true, by unfold Sound Accepts; decide +kernel, by decide +kernel⟩,
   ⟨(tx 5 (td 0 0 0 2 64 sc3 0x10000 64 64)), 3, 1, { cls := 5, dep := 0, reco := false, setf := false, wflag := 0, dflag := 0, tag := 5, descAddr := 281475068993536, desc := ([0, 0, 0, 0, 2, 0, 0, 0, 64, 0, 0, 0, 0, 0, 0, 0, 0, 64, 128, 5, 0, 0, 1, 0, 0, 0, 1, 0, 0, 0, 0, 0, 64, 0, 0, 0, 64] ++ List.replicate 27 0) },
      true, by unfold Sound Accepts; decide +kernel, by decide +kernel⟩⟩

/-- Hypotheses of TransfersAreCheckedAndMoveTheirRows (TransfersMoveTheirRows), clause by clause. -/
theorem witness_TransfersMoveTheirRows :
    (∃ (s : State) (c : CoreId) (o : Op), findOp (s.core c) o.num = some o ∧ o.reco = false ∧ o.setf = false ∧ (s.core
      c).runAhead = [] ∧ o.cls = clLoad ∧ (((srcRows o.desc ++ dstRows o.desc).any fun r => rangeBusy s r.fst r.snd) = false) ∧
      tdCheck o.desc = false) ∧
    (∃ (s : State) (c : CoreId) (o : Op), findOp (s.core c) o.num = some o ∧ o.reco = false ∧ o.setf = false ∧ (s.core
      c).runAhead = [] ∧ o.cls = clStore ∧ (((srcRows o.desc ++ dstRows o.desc).any fun r => rangeBusy s r.fst r.snd) = false)) ∧
    (∃ (s : State) (c : CoreId) (o : Op) (bad : Nat), findOp (s.core c) o.num = some o ∧ o.reco = false ∧ o.setf = false ∧
      (s.core c).runAhead = [] ∧ o.cls = clLoad ∧ (((srcRows o.desc ++ dstRows o.desc).any fun r => rangeBusy s r.fst r.snd) =
      false) ∧ tdCheck o.desc = true ∧ s.rf Fld.TST_INJ_ARMED = 0 ∧ s.rf Fld.TST_INJ_ARMED 1 = 0 ∧ bad = 0 ∧ (∀ (b : Nat), b ∈
      tierBlocks (srcRows o.desc) → crc32c (s.read b 2048) = s.crcOf b)) ∧
    (∃ (s : State) (c : CoreId) (o : Op) (b : Nat), findOp (s.core c) o.num = some o ∧ o.reco = false ∧ o.setf = false ∧
      (s.core c).runAhead = [] ∧ o.cls = clLoad ∧ (((srcRows o.desc ++ dstRows o.desc).any fun r => rangeBusy s r.fst r.snd) =
      false) ∧ tdCheck o.desc = true ∧ s.rf Fld.TST_INJ_ARMED = 0 ∧ s.rf Fld.TST_INJ_ARMED 1 = 0 ∧ tierBlocks (srcRows o.desc)
      = [b] ∧ b < hbmSize ∧ crc32c (s.read b 2048) ≠ s.crcOf b ∧ (s.ctx c o.ctx).fail = none) ∧
    (∃ (s : State) (c : CoreId) (o : Op), findOp (s.core c) o.num = some o ∧ o.reco = false ∧ o.setf = false ∧ (s.core
      c).runAhead = [] ∧ (o.cls = clLoad ∨ o.cls = clStore) ∧ (((srcRows o.desc ++ dstRows o.desc).any fun r => rangeBusy s
      r.fst r.snd) = true)) :=
  ⟨⟨(txc 4 dL), 3, (opT 4 dL), by decide +kernel⟩,
   ⟨(txc 5 (dS 0)), 3, (opT 5 (dS 0)), by decide +kernel⟩,
   ⟨(crcs (txc 4 dC) cT), 3, (opT 4 dC), 0, by
     refine ⟨?_, ?_, ?_, ?_, ?_, ?_, ?_, ?_, ?_, ?_,
       fun b hb => by
     have e : tierBlocks (srcRows (opT 4 dC).desc) = [65536] := by decide +kernel
     rw [e, List.mem_singleton] at hb; rw [hb]; exact crcs_good _ _ rfl⟩ <;> decide +kernel⟩,
   ⟨(crcs (txc 4 dC) (off cT)), 3, (opT 4 dC), 65536, by
     refine ⟨?_, ?_, ?_, ?_, ?_, ?_, ?_, ?_, ?_, ?_, ?_,
       crcs_bad _ _ (off_ne cT), by decide +kernel⟩ <;> decide +kernel⟩,
   ⟨(busyS (txc 4 dL)), 3, (opT 4 dL), by decide +kernel⟩⟩

end W62

namespace W63

def td (esize tr ck rows rb src dst ss ds : Nat) : List Byte :=
  natLE 4 (esize + tr * 4 + ck * 8) ++ natLE 4 rows ++ natLE 8 rb ++ natLE 8 src ++ natLE 8 dst ++ natLE 4 ss ++ natLE 4 ds ++ natLE 24 0
def sc3 : Nat := scratchBase 3 + 0x4000
def cn (a : Nat) : State := ctxIn live 3 1 (cw 8 0 0 0 9 0 5 a) []
-- run ahead: ring: COND accepted (ptr 1), LOADs at 1, 2
def cond9 : CondSt := ⟨9, true, 3⟩
def opC : Op := ⟨4, 1, 0, 8, [], false, false, 0, 0, 0, 0, 5, false, 0, none, false, 0, none⟩
def ra (dd : List Byte) (c : CondSt) (plen : Nat) (fs : AMap FlagId Flag) : State :=
  let s := put (ctxIn live 3 1 (cw 8 0 0 0 9 0 5 0x103 ++ cw 4 0 0 0 0 0 5 (descAt 3) ++ cw 4 0 0 0 0 0 5 (descAt 3)) dd) 0x10000 [1,2,3]
  let s := coreOfSt { s with flags := fs } 3 fun x => { x with ops := [opC], runAhead := [⟨1, 2, dd, [], []⟩, ⟨1, 8, dd, [], []⟩] }
  s.setCtx 3 1 { s.ctx 3 1 with ptr := 1, plen := plen, cond := some c, prev := some 4 }
def dL := td 0 0 0 2 64 0x10000 sc3 64 64
def raS := ra dL cond9 9 []
def nora (s : State) : State := coreOfSt s 3 fun x => { x with runAhead := [] }
def z1 : SpecSt := ⟨(9, 1), 1, 5, 2, 1, 2, some 3, some true, false, []⟩
def eSp : List Byte := we 2 0 0 0 0 6 1 2 (ringAt 3) 4 16 1 7 0 0 0 []
def enS : Entry := ⟨eSp, .grove 0, [⟨2, some 3, none⟩], [], 0⟩
def el : AccElem := ⟨3, 5, 77, false, 0⟩
def spS (z : SpecSt) (es : List (Nat × Entry)) (el : AMap Nat AccElem) : State :=
  coreOfSt { (put live (scratchBase 3 + 0x2ffff0) [1]).wf .CORE_SPEC_CFG_PART 2 3 with entries := es } 3 fun x => { x with spec := some z, acc := { x.acc with elems := el } }
def key6 : UKey := ⟨9, 1, 6, [[1,2,3],[4]], 2, true, false, true, 0, false, none⟩
def key7 : UKey := ⟨9, 1, 6, [[1,2,3],[4]], 2, true, false, false, 0, true, none⟩
def withKey (s : State) (k : UKey) : State := { s with halves := [(0, { s.half 0 with und := [k] })], fence := 9000 }

/-- Hypotheses of ConditionsSkipAndReadAhead, clause by clause. -/
theorem witness_ConditionsSkipAndReadAhead :
    (∃ (s : State) (c : CoreId) (n : CtxId) (x : Nat → Cmd) (i : Fin 16), (s.ctx c n).cond.isSome = true ∧ (∀ (j : Nat), j ≤
      i.val → cmdAt s (s.ctx c n) ((s.ctx c n).ptr + j) = some (x j) ∧ (x j).cls = clLoad) ∧ transferCheck s c false (s.ctx c
      n).spec (x i.val).desc = none ∧ tdCheck (x i.val).desc = false ∧ (srcRows (x i.val).desc).all (aheadPlace s) = true ∧ (∀
      (r : Nat × Nat), r ∈ srcRows (x i.val).desc → rangeBusy s r.fst r.snd = false) ∧ runAheadBytes (s.core c) + tdRows (x
      i.val).desc * tdRBytes (x i.val).desc ≤ 128 * 1024 ∧ (∀ (r : RunAhead), r ∈ (s.core c).runAhead → r.ctx = n → r.idx ≠
      (s.ctx c n).ptr + i.val)) ∧
    (∃ (s : State) (c : CoreId) (n : CtxId) (x : CondSt) (o : Op), (s.ctx c n).cond = some x ∧ (s.core c).ops = [o] ∧ o.ctx = n
      ∧ o.cls = clCond ∧ o.pre = none ∧ o.reco = false ∧ o.setf = false ∧ flagIsPoisoned s x.flag = false) ∧
    (∃ (s : State) (c : CoreId) (n : CtxId) (x : CondSt) (o : Op), (s.ctx c n).cond = some x ∧ (s.core c).ops = [o] ∧ o.ctx = n
      ∧ o.cls = clCond ∧ o.pre = none ∧ o.reco = false ∧ o.setf = false ∧ flagIsPoisoned s x.flag = true) ∧
    (∃ (s : State) (c : CoreId) (n : CtxId) (k : Cmd), Accepts s c n k ∧ k.cls = clCond ∧ specRefuses (s.ctx c n) k = false ∧
      k.descAddr % 256 ≠ 0) ∧
    (∃ (s : State) (c : CoreId) (n : CtxId) (k : Cmd), Accepts s c n k ∧ k.cls = clCond ∧ specRefuses (s.ctx c n) k = false ∧
      k.descAddr % 256 = 0) :=
  ⟨⟨raS, 3, 1, fun j => (cmdAt raS (raS.ctx 3 1) ((raS.ctx 3 1).ptr + j)).getD ⟨0, 0, false, false, 0, 0, 0, 0, []⟩, 0,
     by decide +kernel, fun j h => by
      have e : j = 0 := Nat.le_zero.mp h
      subst e; decide +kernel,
     by decide +kernel⟩,
   ⟨raS, 3, 1, { flag := 9, polarity := true, skip := 3 }, { num := 4, ctx := 1, idx := 0, cls := 8, desc := [], reco := false, setf := false, dflag := 0, tag := 0, mb := 0, k := 0, entry := 5, spec := false, step := 0, pre := none, started := false, result := 0, merge := none },
      by decide +kernel⟩,
   ⟨(ra dL cond9 9 [(9, {Flag.reset with poison := true})]), 3, 1, { flag := 9, polarity := true, skip := 3 }, { num := 4, ctx := 1, idx := 0, cls := 8, desc := [], reco := false, setf := false, dflag := 0, tag := 0, mb := 0, k := 0, entry := 5, spec := false, step := 0, pre := none, started := false, result := 0, merge := none },
      by decide +kernel⟩,
   ⟨(cn 0x103), 3, 1, { cls := 8, dep := 0, reco := false, setf := false, wflag := 9, dflag := 0, tag := 5, descAddr := 259, desc := (List.replicate 64 0) },
      by unfold Accepts; decide +kernel, by decide +kernel⟩,
   ⟨(cn 0x100), 3, 1, { cls := 8, dep := 0, reco := false, setf := false, wflag := 9, dflag := 0, tag := 5, descAddr := 256, desc := (List.replicate 64 0) },
      by unfold Accepts; decide +kernel, by decide +kernel⟩⟩

/-- Hypotheses of SpeculationsCommitOrExpire, clause by clause. -/
theorem witness_SpeculationsCommitOrExpire :
    (∃ (s : State) (c : CoreId), s.fab.store = [] ∧ commitReady s c = none) ∧
    (∃ (s : State) (h : HalfId) (i : Nat), s.fab.store = [] ∧ (∀ (k : UKey), keyOfHandle s h i = some k → keyExpired s h k =
      false)) ∧
    (∃ (s : State) (h : HalfId) (i : Nat) (k : UKey), s.fab.store = [] ∧ keyOfHandle s h i = some k ∧ k.resolved = none ∧
      k.last = true ∧ k.dead = true ∧ k.beat + max 1 (s.rf Fld.HLF_SPEC_CFG_LIFE h.val) ≤ s.fence) ∧
    (∃ (s : State) (c : CoreId) (i : Nat) (k : UKey) (z : SpecSt), s.fab.store = [] ∧ keyOfHandle s (halfOfCore c) i = some k ∧
      k.resolved = none ∧ k.last = true ∧ k.dead = false ∧ k.started = true ∧ k.beat + max 1 (s.rf Fld.HLF_SPEC_CFG_LIFE
      (halfOfCore c).val) ≤ s.fence ∧ specCores s (halfOfCore c) k.sender k.tag = [c] ∧ (s.core c).spec = some z ∧ (s.core
      c).ops = [] ∧ aget? s.entries z.entry = none) ∧
    (∃ (s : State) (c : CoreId) (z : SpecSt) (st : Nat) (en : Entry), s.fab.store = [] ∧ (s.core c).spec = some z ∧ z.partDone
      = some st ∧ z.resolved = some true ∧ z.dead = false ∧ drainRuns s c z.target = false ∧ z.shadow ≠ z.target ∧ (s.acc
      c).elems = [] ∧ (s.acc c).spill = [] ∧ (s.half (halfOfCore c)).ovf = [] ∧ z.excs = [] ∧ (inPair s c = true → (s.acc
      (pairMate c)).elems = []) ∧ aget? s.entries z.entry = some en ∧ en.parts = [{ k := z.k, core := some c, status := none }]
      ∧ en.excs = [] ∧ weRec en.raw = 0 ∧ weDoneFlag en.raw = 0 ∧ (s.core c).shadow = []) ∧
    (∃ (s : State) (c : CoreId) (z : SpecSt) (st : Nat) (i : Nat) (e : AccElem) (d : CoreId), s.fab.store = [] ∧ (s.core
      c).spec = some z ∧ z.partDone = some st ∧ z.resolved = some true ∧ z.dead = false ∧ drainRuns s c z.target = false ∧
      z.shadow ≠ z.target ∧ i < 16384 ∧ (d = c ∨ pairHead s c = true ∧ d = pairMate c) ∧ (s.acc d).elems = [(z.shadow * 16384 +
      i, e)] ∧ (inPair s c = true → (s.acc (if d = c then pairMate c else c)).elems = []) ∧ e.anchor ≤ 12 ∧ e.w ≠ 0 ∧
      fitsAnchor (e.w * 2 ^ (32 * e.anchor)) e.anchor = true ∧ aget? s.entries z.entry = none) :=
  ⟨⟨live, 3, by decide +kernel⟩,
   ⟨live, 0, 3, by decide +kernel⟩,
   ⟨(withKey live key6), 0, 6, { sender := 9, tag := 1, handle := 6, recs := [[1, 2, 3], [4]], granules := 2, last := true, void := false, dead := true, beat := 0, started := false, resolved := none },
      by decide +kernel⟩,
   ⟨(withKey (spS { z1 with partDone := none, resolved := none } [] [(16385, el), (32769, el)]) key7), 3, 6, { sender := 9, tag := 1, handle := 6, recs := [[1, 2, 3], [4]], granules := 2, last := true, void := false, dead := false, beat := 0, started := true, resolved := none },
      { key := (9, 1), ctx := 1, entry := 5, k := 2, shadow := 1, target := 2, partDone := none, resolved := none, dead := false, excs := [] },
      by decide +kernel⟩,
   ⟨(spS z1 [(5, enS)] []), 3, { key := (9, 1), ctx := 1, entry := 5, k := 2, shadow := 1, target := 2, partDone := some 3, resolved := some true, dead := false, excs := [] },
      3, { raw := ([2, 0, 0, 0, 0, 0, 0, 0, 3, 0, 0, 0, 6, 0, 9, 0, 0, 16, 128, 5, 0, 0, 1, 0, 4, 0, 16, 0, 1, 0, 0, 0, 0, 0, 0, 0, 7] ++ List.replicate 91 0), node := Sys2Proof.NodeId.grove 0, parts := [{ k := 2, core := some 3, status := none }], excs := [], accepted := 0 },
      by decide +kernel⟩,
   ⟨(spS z1 [] [(16385, el)]), 3, { key := (9, 1), ctx := 1, entry := 5, k := 2, shadow := 1, target := 2, partDone := some 3, resolved := some true, dead := false, excs := [] },
      3, 1, { anchor := 3, sc := 5, w := 77, loc := false, idx := 0 }, 3, by decide +kernel⟩⟩

end W63

namespace W64

/-- tile begin afmt bfmt fp32p atr btr keepb m n k aoff boff lda ldb exc -/
def md (tile beg af bf fp at_ bt keep m n k ao bo la lb exc : Nat) : List Byte :=
  natLE 4 (tile + beg * 4 + af * 8 + bf * 64 + fp * 512 + at_ * 2048 + bt * 4096 + keep * 8192) ++ natLE 4 (m - 1 + (n - 1) * 256) ++ natLE 4 k ++
  natLE 4 ao ++ natLE 4 bo ++ natLE 4 la ++ natLE 4 lb ++ natLE 4 0 ++ natLE 4 0 ++ natLE 4 0 ++ natLE 8 exc ++ natLE 16 0
def m0 := md 1 1 1 1 0 0 0 0 1 1 4 0x4000 0x8000 64 64 0
def sm (d : List Byte) : State := ctxIn live 3 1 (cw 1 0 0 0 0 0 5 (descAt 3)) d
def opM (d : List Byte) : Op := ⟨4, 1, 0, 1, d, false, false, 0, 0, 0, 0, 5, false, 0, none, false, 0, none⟩
def withOp (s : State) (o : Op) : State := coreOfSt s 3 fun x => { x with ops := [o], nextNum := 5 }
def fld_mdTile := mdTile m0
def z1 : SpecSt := ⟨(9, 1), 1, 5, 2, 2, 1, none, none, false, []⟩
def smS : State := (coreOfSt (sm m0) 3 fun x => { x with spec := some z1 }).setCtx 3 1 { (sm m0).ctx 3 1 with spec := true }
def run0 (_ : List Byte) (cl : Bool) (st ld : Nat) (f : Option Nat) : MatRun := ⟨4, cl, st, ld, false, excZero, f⟩
def el : AccElem := ⟨3, 5, 77, false, 0⟩
def mtx (s : State) (d : List Byte) (r : MatRun) (f : CoreSt → CoreSt) : State := coreOfSt s 3 fun x => f { x with ops := [opM d], mats := [r] }
def mtE (x : CoreSt) : CoreSt := { x with acc := { x.acc with elems := [(16385, el), (5, el)], spill := [(3, ⟨7, 0, 16390⟩), (4, ⟨7, 0, 3⟩)] } }
def idC (x : CoreSt) : CoreSt := x
def m1 := md 1 1 1 1 0 0 1 0 1 3 150 0x4000 0x8000 64 320 0
def m2 := md 1 1 1 1 0 0 1 1 1 3 150 0x4000 0x8000 64 320 0
def buf1 : StatBuf := ⟨2, 7, [[1, 2, 3, 0x3f80], [0], [0]], []⟩
def tag (s : State) : State := (((((((s.wf .MAT_TAG_VALID 1 3).wf .MAT_TAG_BADDR 0x8000 3).wf .MAT_TAG_LDB 320 3).wf .MAT_TAG_BFMT 1 3).wf .MAT_TAG_BTRANS 1 3).wf .MAT_TAG_N_1 2 3).wf .MAT_TAG_K_1 127 3)
def memB (s : State) : State := put (put s (scratchBase 3 + 0x8000) (List.range 1000 |>.map (BitVec.ofNat 8))) (scratchBase 3 + 0x4000) [0x80, 0x3f, 0, 0x40, 1,2,3,4]
def kds : State := (mtx (memB live) m0 (run0 m0 true 0 1 none) (fun x => { x with bufs := [{buf1 with num := 4, block := 0}] }))

/-- Hypotheses of MatrixOperationsHoldAndClearTheirTile (MatrixOperationsAreCheckedAndHoldTheirTile), clause by clause. -/
theorem witness_MatrixOperationsAreCheckedAndHoldTheirTile :
    (∃ (s : State) (c : CoreId) (n : CtxId) (k : Cmd), Sound s c n k ∧ k.cls = clMat ∧ mdTile k.desc = 3) ∧
    (∃ (s : State) (c : CoreId) (n : CtxId) (k : Cmd) (z : SpecSt), Sound s c n k ∧ k.cls = clMat ∧ matCheck s c n k = none ∧
      (∀ (p : Op), p ∈ (s.core c).ops → p.num ≠ (s.core c).nextNum) ∧ (s.core c).spec = some z ∧ (s.ctx c n).spec = true ∧
      z.shadow < 3) ∧
    (∃ (s : State) (c : CoreId) (n : CtxId) (k : Cmd), Sound s c n k ∧ k.cls = clMat ∧ mdTile k.desc ≠ 3 ∧ (¬(mdAfmt k.desc < 6
      ∧ mdBfmt k.desc < 6 ∧ (mdAfmt k.desc = mdBfmt k.desc ∨ mdAfmt k.desc = 3 ∧ mdBfmt k.desc = 4 ∨ mdAfmt k.desc = 4 ∧ mdBfmt
      k.desc = 3) ∧ (mdFp32p k.desc = 0 ∨ mdAfmt k.desc = 0 ∧ mdBfmt k.desc = 0 ∧ mdFp32p k.desc ≠ 3)))) ∧
    (∃ (s : State) (c : CoreId) (n : CtxId) (k : Cmd), Sound s c n k ∧ k.cls = clMat ∧ mdTile k.desc ≠ 3 ∧ (mdAfmt k.desc < 6 ∧
      mdBfmt k.desc < 6 ∧ (mdAfmt k.desc = mdBfmt k.desc ∨ mdAfmt k.desc = 3 ∧ mdBfmt k.desc = 4 ∨ mdAfmt k.desc = 4 ∧ mdBfmt
      k.desc = 3) ∧ (mdFp32p k.desc = 0 ∨ mdAfmt k.desc = 0 ∧ mdBfmt k.desc = 0 ∧ mdFp32p k.desc ≠ 3)) ∧ (¬(mdK k.desc ≠ 0 ∧
      (mdAfmt k.desc = 5 → mdK k.desc % 32 = 0) ∧ (mdN k.desc ≤ 128 ∨ inPair s c = true ∧ c.val % 2 = 0)))) ∧
    (∃ (s : State) (c : CoreId) (n : CtxId) (k : Cmd), Sound s c n k ∧ k.cls = clMat ∧ mdTile k.desc ≠ 3 ∧ (mdAfmt k.desc < 6 ∧
      mdBfmt k.desc < 6 ∧ (mdAfmt k.desc = mdBfmt k.desc ∨ mdAfmt k.desc = 3 ∧ mdBfmt k.desc = 4 ∨ mdAfmt k.desc = 4 ∧ mdBfmt
      k.desc = 3) ∧ (mdFp32p k.desc = 0 ∨ mdAfmt k.desc = 0 ∧ mdBfmt k.desc = 0 ∧ mdFp32p k.desc ≠ 3)) ∧ (mdK k.desc ≠ 0 ∧
      (mdAfmt k.desc = 5 → mdK k.desc % 32 = 0) ∧ (mdN k.desc ≤ 128 ∨ inPair s c = true ∧ c.val % 2 = 0)) ∧ (mdAOff k.desc % 64
      ≠ 0 ∨ mdBOff k.desc % 64 ≠ 0 ∨ mdLda k.desc % 64 ≠ 0 ∨ mdLdb k.desc % 64 ≠ 0 ∨ mdExcAddr k.desc % 32 ≠ 0 ∨ 3145728 ≤
      mdAOff k.desc)) ∧
    (∃ (s : State) (c : CoreId) (n : CtxId) (k : Cmd), Sound s c n k ∧ k.cls = clMat ∧ matCheck s c n k = none ∧ (∀ (p : Op), p
      ∈ (s.core c).ops → p.num ≠ (s.core c).nextNum) ∧ (s.core c).spec = none) :=
  ⟨⟨(sm (md 3 1 1 1 0 0 0 0 1 1 4 0x4000 0x8000 64 64 0)), 3, 1, { cls := 1, dep := 0, reco := false, setf := false, wflag := 0, dflag := 0, tag := 5, descAddr := 281475068993536, desc := ([79, 0, 0, 0, 0, 0, 0, 0, 4, 0, 0, 0, 0, 64, 0, 0, 0, 128, 0, 0, 64, 0, 0, 0, 64] ++ List.replicate 39 0) },
      by unfold Sound Accepts; decide +kernel, by decide +kernel⟩,
   ⟨smS, 3, 1, { cls := 1, dep := 0, reco := false, setf := false, wflag := 0, dflag := 0, tag := 5, descAddr := 281475068993536, desc := ([77, 0, 0, 0, 0, 0, 0, 0, 4, 0, 0, 0, 0, 64, 0, 0, 0, 128, 0, 0, 64, 0, 0, 0, 64] ++ List.replicate 39 0) },
      { key := (9, 1), ctx := 1, entry := 5, k := 2, shadow := 2, target := 1, partDone := none, resolved := none, dead := false, excs := [] },
      by unfold Sound Accepts; decide +kernel, by decide +kernel⟩,
   ⟨(sm (md 1 1 1 2 0 0 0 0 1 1 4 0x4000 0x8000 64 64 0)), 3, 1, { cls := 1, dep := 0, reco := false, setf := false, wflag := 0, dflag := 0, tag := 5, descAddr := 281475068993536, desc := ([141, 0, 0, 0, 0, 0, 0, 0, 4, 0, 0, 0, 0, 64, 0, 0, 0, 128, 0, 0, 64, 0, 0, 0, 64] ++ List.replicate 39 0) },
      by unfold Sound Accepts; decide +kernel, by decide +kernel⟩,
   ⟨(sm (md 1 1 1 1 0 0 0 0 1 1 0 0x4000 0x8000 64 64 0)), 3, 1, { cls := 1, dep := 0, reco := false, setf := false, wflag := 0, dflag := 0, tag := 5, descAddr := 281475068993536, desc := ([77, 0, 0, 0, 0, 0, 0, 0, 0, 0, 0, 0, 0, 64, 0, 0, 0, 128, 0, 0, 64, 0, 0, 0, 64] ++ List.replicate 39 0) },
      by unfold Sound Accepts; decide +kernel, by decide +kernel⟩,
   ⟨(sm (md 1 1 1 1 0 0 0 0 1 1 4 0x4004 0x8000 64 64 0)), 3, 1, { cls := 1, dep := 0, reco := false, setf := false, wflag := 0, dflag := 0, tag := 5, descAddr := 281475068993536, desc := ([77, 0, 0, 0, 0, 0, 0, 0, 4, 0, 0, 0, 4, 64, 0, 0, 0, 128, 0, 0, 64, 0, 0, 0, 64] ++ List.replicate 39 0) },
      by unfold Sound Accepts; decide +kernel, by decide +kernel⟩,
   ⟨(sm m0), 3, 1, { cls := 1, dep := 0, reco := false, setf := false, wflag := 0, dflag := 0, tag := 5, descAddr := 281475068993536, desc := ([77, 0, 0, 0, 0, 0, 0, 0, 4, 0, 0, 0, 0, 64, 0, 0, 0, 128, 0, 0, 64, 0, 0, 0, 64] ++ List.replicate 39 0) },
      by unfold Sound Accepts; decide +kernel, by decide +kernel⟩⟩

/-- Hypotheses of MatrixOperationsHoldAndClearTheirTile (BeginsClearTheirTile), clause by clause. -/
theorem witness_BeginsClearTheirTile :
    (∃ (s : State) (c : CoreId), s.fab.store = [] ∧ (∀ (o : Op), o ∈ (s.core c).ops → o.cls = clMat → mdBegin o.desc = false)) ∧
    (∃ (s : State) (c : CoreId) (o : Op) (r : MatRun), s.fab.store = [] ∧ (List.find? (fun o => o.cls == clMat && o.pre.isNone
      && mdBegin o.desc && !begunClear (s.core c) o.num) (s.core c).ops = some o) ∧ tileReady s c o = true ∧ findRun (s.core c)
      o.num = some r ∧ pairHead s c = false) ∧
    (∃ (s : State) (c : CoreId) (o : Op), s.fab.store = [] ∧ (List.find? (fun o => o.cls == clMat && o.pre.isNone && mdBegin
      o.desc && !begunClear (s.core c) o.num) (s.core c).ops = some o) ∧ tileReady s c o = false) :=
  ⟨⟨live, 3, by decide +kernel⟩,
   ⟨(mtx live m0 (run0 m0 false 0 0 none) mtE), 3, { num := 4, ctx := 1, idx := 0, cls := 1, desc := ([77, 0, 0, 0, 0, 0, 0, 0, 4, 0, 0, 0, 0, 64, 0, 0, 0, 128, 0, 0, 64, 0, 0, 0, 64] ++ List.replicate 39 0), reco := false, setf := false, dflag := 0, tag := 0, mb := 0, k := 0, entry := 5, spec := false, step := 0, pre := none, started := false, result := 0, merge := none },
      { num := 4, cleared := false, streamed := 0, loaded := 0, deposited := false, exc := { first := none, inv := 0, inf := 0, nan := 0, div := 0, satd := false }, failed := none },
      by decide +kernel⟩,
   ⟨(mtx live m0 (run0 m0 false 0 0 none) (fun x => { x with spec := some ⟨(9, 1), 1, 5, 2, 2, 1, none, none, false, []⟩ })), 3, { num := 4, ctx := 1, idx := 0, cls := 1, desc := ([77, 0, 0, 0, 0, 0, 0, 0, 4, 0, 0, 0, 0, 64, 0, 0, 0, 128, 0, 0, 64, 0, 0, 0, 64] ++ List.replicate 39 0), reco := false, setf := false, dflag := 0, tag := 0, mb := 0, k := 0, entry := 5, spec := false, step := 0, pre := none, started := false, result := 0, merge := none },
      by decide +kernel⟩⟩

/-- Hypotheses of KBlocksLoadAndDepositTheExactSum (KBlocksAreLoadedOrKept), clause by clause. -/
theorem witness_KBlocksAreLoadedOrKept :
    (∃ (s : State) (c : CoreId), nextLoad (s.core c) = none) ∧
    (∃ (s : State) (c : CoreId) (o : Op) (r : MatRun), nextLoad (s.core c) = some (o, r) ∧ mdBfmt o.desc < 5 ∧ mdN o.desc ≤ 128
      ∧ (mdKeepB o.desc = false ∨ r.loaded ≠ 0)) ∧
    (∃ (s : State) (c : CoreId) (o : Op) (r : MatRun) (buf : StatBuf), nextLoad (s.core c) = some (o, r) ∧ mdBfmt o.desc < 5 ∧
      mdN o.desc ≤ 128 ∧ mdKeepB o.desc = true ∧ r.loaded = 0 ∧ tagMatches s c o.desc = true ∧ (s.core c).bufs.getLast? = some
      buf) :=
  ⟨⟨live, 3, by decide +kernel⟩,
   ⟨(mtx (memB live) m1 (run0 m1 true 0 0 none) idC), 3, { num := 4, ctx := 1, idx := 0, cls := 1, desc := ([77, 16, 0, 0, 0, 2, 0, 0, 150, 0, 0, 0, 0, 64, 0, 0, 0, 128, 0, 0, 64, 0, 0, 0, 64, 1] ++ List.replicate 38 0), reco := false, setf := false, dflag := 0, tag := 0, mb := 0, k := 0, entry := 5, spec := false, step := 0, pre := none, started := false, result := 0, merge := none },
      { num := 4, cleared := true, streamed := 0, loaded := 0, deposited := false, exc := { first := none, inv := 0, inf := 0, nan := 0, div := 0, satd := false }, failed := none },
      by decide +kernel⟩,
   ⟨(tag (mtx (memB live) m2 (run0 m1 true 0 0 none) (fun x => { x with bufs := [buf1] }))), 3, { num := 4, ctx := 1, idx := 0, cls := 1, desc := ([77, 48, 0, 0, 0, 2, 0, 0, 150, 0, 0, 0, 0, 64, 0, 0, 0, 128, 0, 0, 64, 0, 0, 0, 64, 1] ++ List.replicate 38 0), reco := false, setf := false, dflag := 0, tag := 0, mb := 0, k := 0, entry := 5, spec := false, step := 0, pre := none, started := false, result := 0, merge := none },
      { num := 4, cleared := true, streamed := 0, loaded := 0, deposited := false, exc := { first := none, inv := 0, inf := 0, nan := 0, div := 0, satd := false }, failed := none },
      { num := 2, block := 7, cols := [[1, 2, 3, 16256], [0], [0]], xa := [] }, by decide +kernel⟩⟩

/-- Hypotheses of KBlocksLoadAndDepositTheExactSum (KBlocksDepositTheExactSum), clause by clause. -/
theorem witness_KBlocksDepositTheExactSum :
    (∃ (s : State) (c : CoreId), nextStream s c = none) ∧
    (∃ (s : State) (c : CoreId) (o : Op) (r : MatRun) (b : StatBuf), nextStream s c = some (o, r, b) ∧ mdM o.desc = 1 ∧ mdN
      o.desc = 1 ∧ mdAfmt o.desc ≠ 0) :=
  ⟨⟨live, 3, by decide +kernel⟩,
   ⟨(mtx (memB live) m0 (run0 m0 true 0 1 none) (fun x => { x with bufs := [{buf1 with num := 4, block := 0}] })), 3, { num := 4, ctx := 1, idx := 0, cls := 1, desc := ([77, 0, 0, 0, 0, 0, 0, 0, 4, 0, 0, 0, 0, 64, 0, 0, 0, 128, 0, 0, 64, 0, 0, 0, 64] ++ List.replicate 39 0), reco := false, setf := false, dflag := 0, tag := 0, mb := 0, k := 0, entry := 5, spec := false, step := 0, pre := none, started := false, result := 0, merge := none },
      { num := 4, cleared := true, streamed := 0, loaded := 1, deposited := false, exc := { first := none, inv := 0, inf := 0, nan := 0, div := 0, satd := false }, failed := none },
      { num := 4, block := 0, cols := [[1, 2, 3, 16256], [0], [0]], xa := [] }, by decide +kernel⟩⟩

end W64

namespace W65

/-- tile begin afmt bfmt fp32p atr btr keepb m n k aoff boff lda ldb exc -/
def md (tile beg af bf fp at_ bt keep m n k ao bo la lb exc : Nat) : List Byte :=
  natLE 4 (tile + beg * 4 + af * 8 + bf * 64 + fp * 512 + at_ * 2048 + bt * 4096 + keep * 8192) ++ natLE 4 (m - 1 + (n - 1) * 256) ++ natLE 4 k ++
  natLE 4 ao ++ natLE 4 bo ++ natLE 4 la ++ natLE 4 lb ++ natLE 4 0 ++ natLE 4 0 ++ natLE 4 0 ++ natLE 8 exc ++ natLE 16 0
def m0 := md 1 1 1 1 0 0 0 0 1 1 4 0x4000 0x8000 64 64 0
def sm (d : List Byte) : State := ctxIn live 3 1 (cw 1 0 0 0 0 0 5 (descAt 3)) d
def opM (d : List Byte) : Op := ⟨4, 1, 0, 1, d, false, false, 0, 0, 0, 0, 5, false, 0, none, false, 0, none⟩
def withOp (s : State) (o : Op) : State := coreOfSt s 3 fun x => { x with ops := [o], nextNum := 5 }
def fld_mdTile := mdTile m0
def el : AccElem := ⟨3, 5, 77, false, 0⟩
def far : AccElem := ⟨255, 1, 0, false, 3⟩
def gld : AccElem := ⟨255, 1, 0, true, 3⟩
def cor : AccElem := ⟨13, 1, 0, false, 3⟩
def full : List (Nat × SpillEntry) := (List.range 1024).map (fun i => (i, ⟨7, 0, i⟩))
def d1 : Dep := ⟨some 4, 16385, 99 * 2 ^ 100, 2⟩
def dBig : Dep := ⟨some 4, 16385, 3 * 2 ^ 400, 2⟩
def au (f : AccUnit → AccUnit) : State := coreOfSt live 3 fun x => { x with ops := [opM m0], mats := [⟨4, true, 1, 1, false, excZero, none⟩], acc := f { x.acc with elems := [(16385, el), (5, el)], spill := [(3, ⟨7, 0, 16385⟩), (4, ⟨9, 1, 33⟩)] } }
def exS : State := au fun a => { a with spill := full, depQ := [dBig, d1] }
def rDone (f : Option Nat) (st : Nat) : MatRun := ⟨4, true, st, 1, false, excZero, f⟩
def mE := md 1 1 1 1 0 0 0 0 1 1 4 0x4000 0x8000 64 64 (scratchBase 3 + 0x100)
def cmp (d : List Byte) (r : MatRun) : State := coreOfSt live 3 fun x => { x with ops := [opM d], mats := [r] }
/-- drain: tile release trans ofmt rmode sat stat stride dst -/
def dd (tile rel tr of rm sat : Nat) (stride dst : Nat) : List Byte :=
  natLE 4 (tile + rel * 4 + tr * 8 + of * 16 + rm * 128 + sat * 1024) ++ natLE 4 stride ++ natLE 8 dst ++ natLE 48 0
def sd (d : List Byte) : State := ctxIn live 3 1 (cw 2 0 0 0 0 0 5 (descAt 3)) d
def opD (d : List Byte) (st : Bool) : Op := ⟨4, 1, 0, 2, d, false, false, 0, 0, 0, 0, 5, false, 0, none, st, 0, none⟩
def sc3 : Nat := scratchBase 3 + 0x10000
def sdo (d : List Byte) (st : Bool) : State := coreOfSt (sd d) 3 fun x => { x with ops := [opD d st], acc := { x.acc with elems := [(16385, el), (5, el)], tiles := [(1, ⟨false, false, false⟩)] } }
def dOk := dd 1 0 0 0 0 0 512 sc3
def dRel := dd 1 1 0 0 0 0 512 sc3

/-- Hypotheses of DepositsAreExactOrExhaust (DepositsAreExact), clause by clause. -/
theorem witness_DepositsAreExact :
    (∃ (s : State) (c : CoreId) (d : Dep) (rest : List Dep), (s.acc c).farQ = d :: rest ∧ (s.elem c d.elem).anchor = 255 ∧
      (s.elem c d.elem).loc = false ∧ longInRange ((elemValue s c d.elem).l + d.d) = true) ∧
    (∃ (s : State) (c : CoreId) (d : Dep) (rest : List Dep), (s.acc c).depQ = d :: rest ∧ depReady s c d = true ∧ (s.elem c
      d.elem).anchor ≤ 12 ∧ longInRange ((elemValue s c d.elem).l + d.d) = true ∧ List.length (s.acc c).spill < 1024) ∧
    (∃ (s : State) (c : CoreId) (d : Dep) (rest : List Dep) (col : Fin 128), aget (s.acc c).residue col [] = d :: rest ∧
      depReady s c d = true ∧ (s.elem c d.elem).anchor ≤ 12 ∧ longInRange ((elemValue s c d.elem).l + d.d) = true ∧ List.length
      (s.acc c).spill < 1024) ∧
    (∃ (s : State) (c : CoreId) (d : Dep) (rest : List Dep), (s.acc c).gladeQ = d :: rest ∧ (s.elem c d.elem).anchor = 255 ∧
      (s.elem c d.elem).loc = true ∧ longInRange ((elemValue s c d.elem).l + d.d) = true ∧ s.rf Fld.GLD_CLR_CTL_BUSY
      (halfOfCore c).val = 0) ∧
    (∃ (s : State) (c : CoreId) (d : Dep) (rest : List Dep), (s.acc c).depQ = d :: rest ∧ depReady s c d = true ∧ (s.elem c
      d.elem).anchor = 255 ∧ (s.elem c d.elem).loc = false ∧ (s.acc c).farQ.length < 32) ∧
    (∃ (s : State) (c : CoreId) (d : Dep) (rest : List Dep), (s.acc c).depQ = d :: rest ∧ depReady s c d = true ∧ (s.elem c
      d.elem).anchor = 255 ∧ (s.elem c d.elem).loc = false ∧ 32 ≤ (s.acc c).farQ.length) ∧
    (∃ (s : State) (c : CoreId) (d : Dep) (rest : List Dep) (r : MatRun), (s.acc c).depQ = d :: rest ∧ depReady s c d = true ∧
      13 ≤ (s.elem c d.elem).anchor ∧ (s.elem c d.elem).anchor ≤ 254 ∧ inPair s c = false ∧ d.op = some r.num ∧ findRun (s.core
      c) r.num = some r) :=
  ⟨⟨(au fun a => { a with farQ := [d1, dBig], elems := [(16385, far)] }), 3, d1, [dBig], by decide +kernel⟩,
   ⟨(au fun a => { a with depQ := [d1, dBig] }), 3, d1, [dBig], by decide +kernel⟩,
   ⟨(au fun a => { a with residue := [(1, [d1, dBig])] }), 3, d1, [dBig], 1, by decide +kernel⟩,
   ⟨(au fun a => { a with gladeQ := [d1, dBig], elems := [(16385, gld)] }), 3, d1, [dBig], by decide +kernel⟩,
   ⟨(au fun a => { a with depQ := [d1, dBig], elems := [(16385, far)] }), 3, d1, [dBig], by decide +kernel⟩,
   ⟨(au fun a => { a with depQ := [d1, dBig], elems := [(16385, far)], farQ := List.replicate 32 d1 }), 3, d1, [dBig],
     by decide +kernel⟩,
   ⟨(au fun a => { a with depQ := [d1, dBig], elems := [(16385, cor)] }), 3, d1, [dBig], { num := 4, cleared := true, streamed := 1, loaded := 1, deposited := false, exc := { first := none, inv := 0, inf := 0, nan := 0, div := 0, satd := false }, failed := none },
      by decide +kernel⟩⟩

/-- a deposit that no near form holds -/
def dFar : Dep := ⟨some 4, 16385, 2582249878086908589655919172003011874329705792829223512830659356540647622016841194629645353280137831435903171972747493377, 2⟩
/-- core 3 with a full spill table, and a deposit in front -/
def fullS : State := live.setAcc 3 { live.acc 3 with spill := fullTable, depQ := [dFar] }
theorem fullS_stalled : stalledDeposit fullS 3 = some dFar := by
  have hq : ((pickDep fullS 3 (fullS.acc 3).depQ).map Prod.fst).toList ++
      (fullS.acc 3).residue.flatMap (fun kv => ((pickDep fullS 3 kv.2).map Prod.fst).toList) = [dFar] := by decide +kernel
  have h2 : (deposit fullS 3 dFar.elem dFar.d dFar.sc).2 = .exhausted :=
    deposit_exhausted _ _ _ _ _ (by decide +kernel) (by decide +kernel) (by decide +kernel) (by decide +kernel) (by decide +kernel)
      (by decide +kernel) (freeSpill_full _ rfl) (by decide +kernel)
  unfold stalledDeposit
  show List.find? _ (((pickDep fullS 3 (fullS.acc 3).depQ).map Prod.fst).toList ++
      (fullS.acc 3).residue.flatMap (fun kv => ((pickDep fullS 3 kv.2).map Prod.fst).toList)) = some dFar
  rw [hq]
  refine List.find?_cons_of_pos ?_
  rw [h2]; rfl
/-- Hypotheses of DepositsAreExactOrExhaust (ExhaustionPoisonsTheTile), clause by clause. -/
theorem witness_ExhaustionPoisonsTheTile :
    (∃ (s : State) (c : CoreId), s.fab.store = [] ∧ stalledDeposit s c = none ∧ commitReady s c = none) ∧
    (∃ (s : State) (c : CoreId) (d : Dep), s.fab.store = [] ∧ stalledDeposit s c = some d) :=
  ⟨⟨live, 3, by decide +kernel⟩, fullS, 3, dFar, rfl, fullS_stalled⟩

/-- Hypotheses of MatrixOperationsCompleteAndTags (MatrixOperationsCompleteWithTheirRecord), clause by clause. -/
theorem witness_MatrixOperationsCompleteWithTheirRecord :
    (∃ (s : State) (c : CoreId) (o : Op) (r : MatRun), (s.core c).ops = [o] ∧ o.cls = clMat ∧ o.pre = none ∧ findRun (s.core c)
      o.num = some r ∧ pairHead s c = false ∧ r.failed ≠ some stAccExhausted ∧ (r.streamed ≠ kBlocks o.desc ∨ depsDone (s.acc
      c) o.num = false)) ∧
    (∃ (s : State) (c : CoreId) (o : Op) (r : MatRun), (s.core c).ops = [o] ∧ o.cls = clMat ∧ o.pre = none ∧ findRun (s.core c)
      o.num = some r ∧ pairHead s c = false ∧ r.failed = none ∧ r.streamed = kBlocks o.desc ∧ depsDone (s.acc c) o.num = true ∧
      aget? s.entries o.entry = none ∧ o.spec = false ∧ o.reco = false ∧ o.setf = false ∧ (mdExcAddr o.desc ≠ 0 → memWaits s
      (halfOfCore c) (mdExcAddr o.desc) 32 = false)) ∧
    (∃ (s : State) (c : CoreId) (o : Op) (r : MatRun) (st : Nat), (s.core c).ops = [o] ∧ o.cls = clMat ∧ o.pre = none
      ∧ findRun (s.core c) o.num = some r ∧ pairHead s c = false ∧ r.failed = some st ∧ st ≠ stOK ∧ (st =
      stAccExhausted ∨ r.streamed = kBlocks o.desc ∧ depsDone (s.acc c) o.num = true) ∧ aget? s.entries o.entry = none
      ∧ o.reco = false ∧ o.setf = false ∧ (s.ctx c o.ctx).fail = none) :=
  ⟨⟨(cmp mE (rDone none 0)), 3, (opM mE), (rDone none 0), by decide +kernel⟩,
   ⟨(cmp mE (rDone none 1)), 3, (opM mE), (rDone none 1), by decide +kernel⟩,
   ⟨(cmp m0 (rDone (some stAccCorrupt) 1)), 3, (opM m0), (rDone (some stAccCorrupt) 1), 13, by decide +kernel⟩⟩

/-- Hypotheses of DrainsRoundEachElementOnce, clause by clause. -/
theorem witness_DrainsRoundEachElementOnce :
    (∃ (s : State) (c : CoreId) (n : CtxId) (k : Cmd), Sound s c n k ∧ k.cls = clDrain ∧ (∀ (p : Op), p ∈ (s.core c).ops →
      p.cls ≠ clDrain) ∧ ddTile k.desc = 3) ∧
    (∃ (s : State) (c : CoreId) (n : CtxId) (k : Cmd), Sound s c n k ∧ k.cls = clDrain ∧ (∀ (p : Op), p ∈ (s.core c).ops →
      p.cls ≠ clDrain) ∧ ddTile k.desc ≠ 3 ∧ (ddOfmt k.desc = 5 ∨ ddOfmt k.desc = 7 ∨ 5 ≤ ddRmode k.desc)) ∧
    (∃ (s : State) (c : CoreId) (n : CtxId) (k : Cmd), Sound s c n k ∧ k.cls = clDrain ∧ (∀ (p : Op), p ∈ (s.core c).ops →
      p.cls ≠ clDrain) ∧ ddTile k.desc ≠ 3 ∧ ddOfmt k.desc ≠ 5 ∧ ddOfmt k.desc ≠ 7 ∧ ddRmode k.desc < 5 ∧ inPair s c = false ∧
      ((ddStride k.desc < 128 * if ddOfmt k.desc = 6 then 16 else elemBytes (ddOfmt k.desc)) ∨ (ddStride k.desc % if ddOfmt
      k.desc = 6 then 16 else elemBytes (ddOfmt k.desc)) ≠ 0 ∨ regionOf (ddDst k.desc) 1 = some Region.hbm)) ∧
    (∃ (s : State) (c : CoreId) (n : CtxId) (k : Cmd), Sound s c n k ∧ k.cls = clDrain ∧ (∀ (p : Op), p ∈ (s.core c).ops →
      p.cls ≠ clDrain) ∧ drainCheck s c k = none) ∧
    (∃ (s : State) (c : CoreId) (o : Op), (List.find? (fun o => o.cls == clDrain && !o.started && o.pre.isNone) (s.core c).ops
      = some o) ∧ tileReady s c o = true) ∧
    (∃ (s : State) (c : CoreId) (o : Op), (List.find? (fun o => o.cls == clDrain && !o.started && o.pre.isNone) (s.core c).ops
      = some o) ∧ tileReady s c o = false) ∧
    (∃ (s : State) (c : CoreId) (o : Op), (s.core c).ops = [o] ∧ o.cls = clDrain ∧ o.pre = none ∧ s.fab.store = [] ∧ (o.started
      = false ∨ drainWaits s c o.desc = true)) ∧
    (∃ (s : State) (c : CoreId) (o : Op), (s.core c).ops = [o] ∧ o.cls = clDrain ∧ o.pre = none ∧ s.fab.store = [] ∧ o.started
      = true ∧ o.reco = false ∧ o.setf = false ∧ ddOfmt o.desc = 0 ∧ ddRmode o.desc = 0 ∧ ddTrans o.desc = false ∧ ddStat
      o.desc = 0 ∧ pairHead s c = false ∧ (∀ (x : Nat × AccElem), x ∈ (s.acc c).elems → elemCorrupt x.snd = false) ∧ (s.half
      (halfOfCore c)).ovf = [] ∧ drainWaits s c o.desc = false) :=
  ⟨⟨(sd (dd 3 0 0 0 0 0 512 sc3)), 3, 1, { cls := 2, dep := 0, reco := false, setf := false, wflag := 0, dflag := 0, tag := 5, descAddr := 281475068993536, desc := ([3, 0, 0, 0, 0, 2, 0, 0, 0, 0, 129, 5, 0, 0, 1] ++ List.replicate 49 0) },
      by unfold Sound Accepts; decide +kernel, by decide +kernel⟩,
   ⟨(sd (dd 1 0 0 5 0 0 512 sc3)), 3, 1, { cls := 2, dep := 0, reco := false, setf := false, wflag := 0, dflag := 0, tag := 5, descAddr := 281475068993536, desc := ([81, 0, 0, 0, 0, 2, 0, 0, 0, 0, 129, 5, 0, 0, 1] ++ List.replicate 49 0) },
      by unfold Sound Accepts; decide +kernel, by decide +kernel⟩,
   ⟨(sd (dd 1 0 0 0 0 0 508 sc3)), 3, 1, { cls := 2, dep := 0, reco := false, setf := false, wflag := 0, dflag := 0, tag := 5, descAddr := 281475068993536, desc := ([1, 0, 0, 0, 252, 1, 0, 0, 0, 0, 129, 5, 0, 0, 1] ++ List.replicate 49 0) },
      by unfold Sound Accepts; decide +kernel, by decide +kernel⟩,
   ⟨(sd dOk), 3, 1, { cls := 2, dep := 0, reco := false, setf := false, wflag := 0, dflag := 0, tag := 5, descAddr := 281475068993536, desc := ([1, 0, 0, 0, 0, 2, 0, 0, 0, 0, 129, 5, 0, 0, 1] ++ List.replicate 49 0) },
      by unfold Sound Accepts; decide +kernel, by decide +kernel⟩,
   ⟨(sdo dOk false), 3, { num := 4, ctx := 1, idx := 0, cls := 2, desc := ([1, 0, 0, 0, 0, 2, 0, 0, 0, 0, 129, 5, 0, 0, 1] ++ List.replicate 49 0), reco := false, setf := false, dflag := 0, tag := 0, mb := 0, k := 0, entry := 5, spec := false, step := 0, pre := none, started := false, result := 0, merge := none },
      by decide +kernel⟩,
   ⟨(coreOfSt (sdo dOk false) 3 fun x => { x with ops := [{ opM (md 1 1 1 1 0 0 0 0 1 1 4 0x4000 0x8000 64 64 0) with num := 2 }, opD dOk false], mats := [⟨2, true, 1, 1, false, excZero, none⟩]}),
      3, { num := 4, ctx := 1, idx := 0, cls := 2, desc := ([1, 0, 0, 0, 0, 2, 0, 0, 0, 0, 129, 5, 0, 0, 1] ++ List.replicate 49 0), reco := false, setf := false, dflag := 0, tag := 0, mb := 0, k := 0, entry := 5, spec := false, step := 0, pre := none, started := false, result := 0, merge := none },
      by decide +kernel⟩,
   ⟨(sdo dOk false), 3, { num := 4, ctx := 1, idx := 0, cls := 2, desc := ([1, 0, 0, 0, 0, 2, 0, 0, 0, 0, 129, 5, 0, 0, 1] ++ List.replicate 49 0), reco := false, setf := false, dflag := 0, tag := 0, mb := 0, k := 0, entry := 5, spec := false, step := 0, pre := none, started := false, result := 0, merge := none },
      by decide +kernel⟩,
   ⟨(sdo dOk true), 3, { num := 4, ctx := 1, idx := 0, cls := 2, desc := ([1, 0, 0, 0, 0, 2, 0, 0, 0, 0, 129, 5, 0, 0, 1] ++ List.replicate 49 0), reco := false, setf := false, dflag := 0, tag := 0, mb := 0, k := 0, entry := 5, spec := false, step := 0, pre := none, started := true, result := 0, merge := none },
      by decide +kernel⟩⟩

/-- Hypotheses of MatrixOperationsCompleteAndTags (TagAndPairRegistersAreWritten), clause by clause. -/
theorem witness_TagAndPairRegistersAreWritten :
    (∃ (a : Agent), isDexca a = false) ∧
    (∃ (s : State) (a : Agent) (c : CoreId), isDexca a = true ∧ canClose s c = true ∧ (List.filter (fun w => w.core == c) (aget
      s.waiting (groveOfCore c) []) = [])) ∧
    (∃ (s : State) (a : Agent) (g : GroveId), isDexca a = true ∧ aget s.waiting g [] = []) ∧
    (∃ (s : State) (a : Agent) (c : CoreId), isDexca a = true ∧ canClose s c = false) ∧
    (∃ (s : State) (c : CoreId), s.fab.store = [] ∧ (s.core c).ops = [] ∧ (s.core c).spec = none ∧ s.rf
      Fld.CORE_DIS_CTL_LOAD c.val ≠ 0) ∧
    (∃ (s : State) (c : CoreId), s.fab.store = [] ∧ (s.core c).ops = [] ∧ (s.core c).spec = none ∧ (s.core c).node =
      NodeSt.closing ∧ s.rf Fld.CORE_DIS_CTL_CORE c.val ≠ 0 ∧ (∀ (n : CtxId), (s.ctx c n).st = CtxSt.idle) ∧ (∀ (f :
      FlagId), f.val / 256 = c.val → (s.flag f).waiters = [])) :=
  ⟨⟨(.host), by decide +kernel⟩,
   ⟨live, (.dexca 0), 0, by decide +kernel⟩,
   ⟨live, (.dexca 0), 0, by decide +kernel⟩,
   ⟨(coreOfSt live 0 fun x => { x with node := .off }), (.dexca 0), 0, by decide +kernel⟩,
   ⟨(live.wf .CORE_DIS_CTL_LOAD 1 3), 3, by decide +kernel⟩,
   ⟨(coreOfSt (live.wf .CORE_DIS_CTL_CORE 1 3) 3 fun x => { x with node := .closing }), 3, by decide +kernel, by decide +kernel, by decide +kernel, by decide +kernel, by decide +kernel, by decide +kernel,
     fun _ _ => rfl⟩⟩

end W65

namespace W66

/-- op sfmt dfmt rmode sat skip count nsrc src0 src1 src2 dst aux rowlen stream draw -/
def vd (op sf df rm sat skip count nsrc s0 s1 s2 dst aux rl st dr : Nat) : List Byte :=
  natLE 4 (op + sf * 256 + df * 2048 + rm * 2 ^ 14 + sat * 2 ^ 17 + skip * 2 ^ 18) ++ natLE 4 (count + nsrc * 2 ^ 24) ++ natLE 8 s0 ++ natLE 8 s1 ++ natLE 8 s2 ++
  natLE 8 dst ++ natLE 8 aux ++ natLE 4 0 ++ natLE 4 0 ++ natLE 4 rl ++ natLE 4 (st + dr * 65536)
def A : Nat := scratchBase 3 + 0x10000
def B : Nat := scratchBase 3 + 0x11000
def C : Nat := scratchBase 3 + 0x12000
def D : Nat := scratchBase 3 + 0x13000
def X : Nat := scratchBase 3 + 0x14000
def f32s (l : List Nat) : List Byte := l.flatMap (natLE 4)
def dat (s : State) : State := put (put (put (put s A (f32s [0x3f800000, 0xc0490fdb, 0x7f800000, 0x00000001])) B (f32s [0x40000000, 0x40490fdb, 0xff800000, 0x7fc00000])) C (f32s [1, 0x3f800001, 0x80000000, 0x41200000])) X (f32s [0x3fc00000])
def sv (d : List Byte) : State := dat (ctxIn live 3 1 (cw 3 0 0 0 0 0 5 (descAt 3)) d)

/-- Hypotheses of VectorArithmeticAndFunctionsRoundOnce (VectorArithmeticRoundsOnce), clause by clause. -/
theorem witness_VectorArithmeticRoundsOnce :
    (∃ (s : State) (c : CoreId) (n : CtxId) (k : Cmd), VecReady s c n k 0) ∧
    (∃ (s : State) (c : CoreId) (n : CtxId) (k : Cmd), VecReady s c n k 1) ∧
    (∃ (s : State) (c : CoreId) (n : CtxId) (k : Cmd), VecReady s c n k 2) ∧
    (∃ (s : State) (c : CoreId) (n : CtxId) (k : Cmd), VecReady s c n k 3) ∧
    (∃ (s : State) (c : CoreId) (n : CtxId) (k : Cmd), VecReady s c n k 4) ∧
    (∃ (s : State) (c : CoreId) (n : CtxId) (k : Cmd), VecReady s c n k 5) ∧
    (∃ (s : State) (c : CoreId) (n : CtxId) (k : Cmd), VecReady s c n k 6) ∧
    (∃ (s : State) (c : CoreId) (n : CtxId) (k : Cmd), VecReady s c n k 37) :=
  ⟨⟨(sv (vd 0 0 0 0 0 0 4 0 A B 0 D 0 0 0 0)), 3, 1, { cls := 3, dep := 0, reco := false, setf := false, wflag := 0, dflag := 0, tag := 5, descAddr := 281475068993536, desc := ([0, 0, 0, 0, 4, 0, 0, 0, 0, 0, 129, 5, 0, 0, 1, 0, 0, 16, 129, 5, 0, 0, 1, 0, 0, 0, 0, 0, 0, 0, 0, 0, 0, 48, 129, 5, 0, 0, 1] ++ List.replicate 25 0) },
      by unfold VecReady Sound Accepts; decide +kernel⟩,
   ⟨(sv (vd 1 0 0 0 0 0 4 0 A B 0 D 0 0 0 0)), 3, 1, { cls := 3, dep := 0, reco := false, setf := false, wflag := 0, dflag := 0, tag := 5, descAddr := 281475068993536, desc := ([1, 0, 0, 0, 4, 0, 0, 0, 0, 0, 129, 5, 0, 0, 1, 0, 0, 16, 129, 5, 0, 0, 1, 0, 0, 0, 0, 0, 0, 0, 0, 0, 0, 48, 129, 5, 0, 0, 1] ++ List.replicate 25 0) },
      by unfold VecReady Sound Accepts; decide +kernel⟩,
   ⟨(sv (vd 2 0 1 4 1 0 4 0 A B 0 D 0 0 0 0)), 3, 1, { cls := 3, dep := 0, reco := false, setf := false, wflag := 0, dflag := 0, tag := 5, descAddr := 281475068993536, desc := ([2, 8, 3, 0, 4, 0, 0, 0, 0, 0, 129, 5, 0, 0, 1, 0, 0, 16, 129, 5, 0, 0, 1, 0, 0, 0, 0, 0, 0, 0, 0, 0, 0, 48, 129, 5, 0, 0, 1] ++ List.replicate 25 0) },
      by unfold VecReady Sound Accepts; decide +kernel⟩,
   ⟨(sv (vd 3 0 0 0 0 0 4 0 A B C D 0 0 0 0)), 3, 1, { cls := 3, dep := 0, reco := false, setf := false, wflag := 0, dflag := 0, tag := 5, descAddr := 281475068993536, desc := ([3, 0, 0, 0, 4, 0, 0, 0, 0, 0, 129, 5, 0, 0, 1, 0, 0, 16, 129, 5, 0, 0, 1, 0, 0, 32, 129, 5, 0, 0, 1, 0, 0, 48, 129, 5, 0, 0, 1] ++ List.replicate 25 0) },
      by unfold VecReady Sound Accepts; decide +kernel⟩,
   ⟨(sv (vd 4 0 0 0 0 0 4 0 A B 0 D 0 0 0 0)), 3, 1, { cls := 3, dep := 0, reco := false, setf := false, wflag := 0, dflag := 0, tag := 5, descAddr := 281475068993536, desc := ([4, 0, 0, 0, 4, 0, 0, 0, 0, 0, 129, 5, 0, 0, 1, 0, 0, 16, 129, 5, 0, 0, 1, 0, 0, 0, 0, 0, 0, 0, 0, 0, 0, 48, 129, 5, 0, 0, 1] ++ List.replicate 25 0) },
      by unfold VecReady Sound Accepts; decide +kernel⟩,
   ⟨(sv (vd 5 0 0 0 0 0 4 0 A B 0 D 0 0 0 0)), 3, 1, { cls := 3, dep := 0, reco := false, setf := false, wflag := 0, dflag := 0, tag := 5, descAddr := 281475068993536, desc := ([5, 0, 0, 0, 4, 0, 0, 0, 0, 0, 129, 5, 0, 0, 1, 0, 0, 16, 129, 5, 0, 0, 1, 0, 0, 0, 0, 0, 0, 0, 0, 0, 0, 48, 129, 5, 0, 0, 1] ++ List.replicate 25 0) },
      by unfold VecReady Sound Accepts; decide +kernel⟩,
   ⟨(sv (vd 6 0 0 0 0 0 4 0 A B 0 D X 0 0 0)), 3, 1, { cls := 3, dep := 0, reco := false, setf := false, wflag := 0, dflag := 0, tag := 5, descAddr := 281475068993536, desc := ([6, 0, 0, 0, 4, 0, 0, 0, 0, 0, 129, 5, 0, 0, 1, 0, 0, 16, 129, 5, 0, 0, 1, 0, 0, 0, 0, 0, 0, 0, 0, 0, 0, 48, 129, 5, 0, 0, 1, 0, 0, 64, 129, 5, 0, 0, 1] ++ List.replicate 17 0) },
      by unfold VecReady Sound Accepts; decide +kernel⟩,
   ⟨(sv (vd 0x25 0 0 0 0 0 4 0 A 0 0 D 0 0 0 0)), 3, 1, { cls := 3, dep := 0, reco := false, setf := false, wflag := 0, dflag := 0, tag := 5, descAddr := 281475068993536, desc := (([37, 0, 0, 0, 4, 0, 0, 0, 0, 0, 129, 5, 0, 0, 1] ++ List.replicate 18 0 ++ [48, 129, 5, 0, 0, 1]) ++ List.replicate 25 0) },
      by unfold VecReady Sound Accepts; decide +kernel⟩⟩

/-- Hypotheses of VectorArithmeticAndFunctionsRoundOnce (VectorFunctionsRoundCorrectly), clause by clause. -/
theorem witness_VectorFunctionsRoundCorrectly :
    (∃ (s : State) (c : CoreId) (n : CtxId) (k : Cmd), VecReady s c n k 32) ∧
    (∃ (s : State) (c : CoreId) (n : CtxId) (k : Cmd), VecReady s c n k 33) ∧
    (∃ (s : State) (c : CoreId) (n : CtxId) (k : Cmd), VecReady s c n k 34) ∧
    (∃ (s : State) (c : CoreId) (n : CtxId) (k : Cmd), VecReady s c n k 35) ∧
    (∃ (s : State) (c : CoreId) (n : CtxId) (k : Cmd), VecReady s c n k 36) :=
  ⟨⟨(sv (vd 0x20 0 0 0 0 0 4 0 A 0 0 D 0 0 0 0)), 3, 1, { cls := 3, dep := 0, reco := false, setf := false, wflag := 0, dflag := 0, tag := 5, descAddr := 281475068993536, desc := (([32, 0, 0, 0, 4, 0, 0, 0, 0, 0, 129, 5, 0, 0, 1] ++ List.replicate 18 0 ++ [48, 129, 5, 0, 0, 1]) ++ List.replicate 25 0) },
      by unfold VecReady Sound Accepts; decide +kernel⟩,
   ⟨(sv (vd 0x21 0 0 0 0 0 4 0 A 0 0 D 0 0 0 0)), 3, 1, { cls := 3, dep := 0, reco := false, setf := false, wflag := 0, dflag := 0, tag := 5, descAddr := 281475068993536, desc := (([33, 0, 0, 0, 4, 0, 0, 0, 0, 0, 129, 5, 0, 0, 1] ++ List.replicate 18 0 ++ [48, 129, 5, 0, 0, 1]) ++ List.replicate 25 0) },
      by unfold VecReady Sound Accepts; decide +kernel⟩,
   ⟨(sv (vd 0x22 0 0 0 0 0 4 0 A 0 0 D 0 0 0 0)), 3, 1, { cls := 3, dep := 0, reco := false, setf := false, wflag := 0, dflag := 0, tag := 5, descAddr := 281475068993536, desc := (([34, 0, 0, 0, 4, 0, 0, 0, 0, 0, 129, 5, 0, 0, 1] ++ List.replicate 18 0 ++ [48, 129, 5, 0, 0, 1]) ++ List.replicate 25 0) },
      by unfold VecReady Sound Accepts; decide +kernel⟩,
   ⟨(sv (vd 0x23 0 0 0 0 0 4 0 C 0 0 D 0 0 0 0)), 3, 1, { cls := 3, dep := 0, reco := false, setf := false, wflag := 0, dflag := 0, tag := 5, descAddr := 281475068993536, desc := (([35, 0, 0, 0, 4, 0, 0, 0, 0, 32, 129, 5, 0, 0, 1] ++ List.replicate 18 0 ++ [48, 129, 5, 0, 0, 1]) ++ List.replicate 25 0) },
      by unfold VecReady Sound Accepts; decide +kernel⟩,
   ⟨(sv (vd 0x24 0 0 0 0 0 4 0 A B 0 D 0 0 0 0)), 3, 1, { cls := 3, dep := 0, reco := false, setf := false, wflag := 0, dflag := 0, tag := 5, descAddr := 281475068993536, desc := ([36, 0, 0, 0, 4, 0, 0, 0, 0, 0, 129, 5, 0, 0, 1, 0, 0, 16, 129, 5, 0, 0, 1, 0, 0, 0, 0, 0, 0, 0, 0, 0, 0, 48, 129, 5, 0, 0, 1] ++ List.replicate 25 0) },
      by unfold VecReady Sound Accepts; decide +kernel⟩⟩

end W66

namespace W67

/-- op sfmt dfmt rmode sat skip count nsrc src0 src1 src2 dst aux rowlen stream draw -/
def vd (op sf df rm sat skip count nsrc s0 s1 s2 dst aux rl st dr : Nat) : List Byte :=
  natLE 4 (op + sf * 256 + df * 2048 + rm * 2 ^ 14 + sat * 2 ^ 17 + skip * 2 ^ 18) ++ natLE 4 (count + nsrc * 2 ^ 24) ++ natLE 8 s0 ++ natLE 8 s1 ++ natLE 8 s2 ++
  natLE 8 dst ++ natLE 8 aux ++ natLE 4 0 ++ natLE 4 0 ++ natLE 4 rl ++ natLE 4 (st + dr * 65536)
def A : Nat := scratchBase 3 + 0x10000
def B : Nat := scratchBase 3 + 0x11000
def C : Nat := scratchBase 3 + 0x12000
def D : Nat := scratchBase 3 + 0x13000
def X : Nat := scratchBase 3 + 0x14000
def f32s (l : List Nat) : List Byte := l.flatMap (natLE 4)
def dat (s : State) : State := put (put (put (put s A (f32s [0x3f800000, 0xc0490fdb, 0x7f800000, 0x00000001])) B (f32s [0x40000000, 0x40490fdb, 0xff800000, 0x7fc00000])) C (f32s [1, 0x3f800001, 0x80000000, 0x41200000])) X (f32s [0x3fc00000])
def sv (d : List Byte) : State := dat (ctxIn live 3 1 (cw 3 0 0 0 0 0 5 (descAt 3)) d)
def exS (i : Instr) (s : State) : State := nx (exec i s)
def mOf (s : State) : List Nat := match ((s.core 3).ops.head?).bind Op.merge with
  | some (_, .scale m v _) => [m, v]
  | some (_, .opt u _ v _) => [u, v]
  | none => []
def xOf (s : State) : List Int := match ((s.core 3).ops.head?).bind Op.merge with
  | some (_, .opt _ _ _ x) => [x]
  | _ => []
def q1 := put (sv (vd 0x41 0 3 0 0 0 4 0 A 0 0 D X 0 0 0)) X (f32s [0x3f800000, 0x40000000])
def u1 (am ndec old : Nat) := put (sv (vd 0x42 0 3 0 0 0 1 0 0 0 0 0 X 0 0 0)) X (f32s [0x3f800000, 0x3f800000, ndec * 256 + 2, 7, am, old])
def u2 := u1 0x7f800000 3 5
def u3 := u1 0x40a00000 3 5
def u4 := u1 0x40a00000 0 0
def r0 (op df y : Nat) := sv (vd op 0 df 0 0 0 4 0 A y 0 D 0 0 0 0)
def sm1 := sv (vd 0x64 0 0 0 0 0 2 1 A 0x1000 0 D 0 0 0 0)
def xs := (exchEncode ⟨0, 5 * 2 ^ 300⟩).take 16 ++ (exchEncode ⟨1, 7⟩).take 16 ++ (exchEncode ⟨0, 5 * 2 ^ 300⟩).drop 16 ++ (exchEncode ⟨1, 7⟩).drop 16
def ed (good : Bool) := put (sv (vd 0x80 6 0 0 0 0 2 0 A 0 0 (accBase 3 + 32 * 16385) 0 0 0 0)) A (if good then xs else List.replicate 64 255)
def er (good : Bool) := put (put (sv (vd 0x81 6 0 0 0 0 2 1 A 0x1000 0 D 0 0 0 0)) A (if good then xs else List.replicate 64 255)) B xs
def op1 (sk : Nat) (good : Bool) := put (put (sv (vd 0xa0 0 0 0 0 sk 4 0 A B C D X 0 0 0)) X (f32s [0x3a83126f, 0x3f666666, 0x3dcccccd, 0x3f7fbe77, 0x3a831000, 0x322bcc77, 0x3c23d70a, 0x3f800000, 0x3f800000])) A
  (if good then f32s [0x3f800000, 0xc0490fdb, 0x3e800000, 0x00000001] else f32s [0x3f800000, 0x7f800000, 0, 0])
def op2 (sk : Nat) (good : Bool) := put (op1 sk good) B (f32s [0x3f800000, 0xc0490fdb, 0x3e800000, 0x00000001])

/-- Hypotheses of ConversionsAndScaleRecords, clause by clause. -/
theorem witness_ConversionsAndScaleRecords :
    (∃ (s : State) (c : CoreId) (n : CtxId) (k : Cmd), VecReady s c n k 64 ∧ vdSfmt k.desc ≠ 5 ∧ vdDfmt k.desc ≠ 5) ∧
    (∃ (s : State) (c : CoreId) (n : CtxId) (k : Cmd), VecReady s c n k 64 ∧ vdSfmt k.desc = 5 ∧ vdDfmt k.desc ≠ 5) ∧
    (∃ (s : State) (c : CoreId) (n : CtxId) (k : Cmd), VecReady s c n k 64 ∧ vdSfmt k.desc ≠ 5 ∧ vdDfmt k.desc = 5 ∧ vdCount
      k.desc = 32) ∧
    (∃ (s : State) (c : CoreId) (n : CtxId) (k : Cmd), VecReady s c n k 65 ∧ vdSfmt k.desc ≠ 5 ∧ vdDfmt k.desc ≠ 5) ∧
    (∃ (s : State) (c : CoreId) (n : CtxId) (k : Cmd), VecReady s c n k 66 ∧ (fp32.decode (s.readN (vdAux k.desc + 16) 4) =
      FVal.nan ∨ ∃ b, fp32.decode (s.readN (vdAux k.desc + 16) 4) = FVal.inf b) ∧ (s.readN (vdAux k.desc + 20) 4 ≠ 0 ∨ s.readN
      (vdAux k.desc + 8) 4 / 256 % 32 = 0)) ∧
    (∃ (s : State) (c : CoreId) (n : CtxId) (k : Cmd) (m : Nat) (e : Int), VecReady s c n k 66 ∧ fp32.decode (s.readN (vdAux
      k.desc + 16) 4) = FVal.fin false m e ∧ m ≠ 0 ∧ (s.readN (vdAux k.desc + 20) 4 ≠ 0 ∨ s.readN (vdAux k.desc + 8) 4 / 256 %
      32 = 0)) :=
  ⟨⟨(sv (vd 0x40 0 1 0 0 0 4 0 A 0 0 D 0 0 0 0)), 3, 1, { cls := 3, dep := 0, reco := false, setf := false, wflag := 0, dflag := 0, tag := 5, descAddr := 281475068993536, desc := (([64, 8, 0, 0, 4, 0, 0, 0, 0, 0, 129, 5, 0, 0, 1] ++ List.replicate 18 0 ++ [48, 129, 5, 0, 0, 1]) ++ List.replicate 25 0) },
      by unfold VecReady Sound Accepts; decide +kernel, by decide +kernel⟩,
   ⟨(sv (vd 0x40 5 0 0 0 0 32 0 A 0 C D 0 0 0 0)), 3, 1, { cls := 3, dep := 0, reco := false, setf := false, wflag := 0, dflag := 0, tag := 5, descAddr := 281475068993536, desc := ([64, 5, 0, 0, 32, 0, 0, 0, 0, 0, 129, 5, 0, 0, 1, 0, 0, 0, 0, 0, 0, 0, 0, 0, 0, 32, 129, 5, 0, 0, 1, 0, 0, 48, 129, 5, 0, 0, 1] ++ List.replicate 25 0) },
      by unfold VecReady Sound Accepts; decide +kernel, by decide +kernel⟩,
   ⟨(sv (vd 0x40 0 5 0 0 0 32 0 A B 0 D 0 0 0 0)), 3, 1, { cls := 3, dep := 0, reco := false, setf := false, wflag := 0, dflag := 0, tag := 5, descAddr := 281475068993536, desc := ([64, 40, 0, 0, 32, 0, 0, 0, 0, 0, 129, 5, 0, 0, 1, 0, 0, 16, 129, 5, 0, 0, 1, 0, 0, 0, 0, 0, 0, 0, 0, 0, 0, 48, 129, 5, 0, 0, 1] ++ List.replicate 25 0) },
      by unfold VecReady Sound Accepts; decide +kernel, by decide +kernel⟩,
   ⟨q1, 3, 1, { cls := 3, dep := 0, reco := false, setf := false, wflag := 0, dflag := 0, tag := 5, descAddr := 281475068993536, desc := (([65, 24, 0, 0, 4, 0, 0, 0, 0, 0, 129, 5, 0, 0, 1] ++ List.replicate 18 0 ++ [48, 129, 5, 0, 0, 1, 0, 0, 64, 129, 5, 0, 0, 1]) ++ List.replicate 17 0) },
      by unfold VecReady Sound Accepts; decide +kernel, by decide +kernel⟩,
   ⟨u2, 3, 1, { cls := 3, dep := 0, reco := false, setf := false, wflag := 0, dflag := 0, tag := 5, descAddr := 281475068993536, desc := (([66, 24, 0, 0, 1] ++ List.replicate 36 0 ++ [64, 129, 5, 0, 0, 1]) ++ List.replicate 17 0) },
      by unfold VecReady Sound Accepts; decide +kernel, by decide +kernel⟩,
   ⟨u3, 3, 1, { cls := 3, dep := 0, reco := false, setf := false, wflag := 0, dflag := 0, tag := 5, descAddr := 281475068993536, desc := (([66, 24, 0, 0, 1] ++ List.replicate 36 0 ++ [64, 129, 5, 0, 0, 1]) ++ List.replicate 17 0) },
      10485760, -21, by unfold VecReady Sound Accepts; decide +kernel, by decide +kernel⟩⟩

/-- Hypotheses of ReductionsAndExchangeArrays (ReductionsRoundTheExactSum), clause by clause. -/
theorem witness_ReductionsRoundTheExactSum :
    (∃ (s : State) (c : CoreId) (n : CtxId) (k : Cmd), VecReady s c n k 96 ∧ vdDfmt k.desc ≠ 6) ∧
    (∃ (s : State) (c : CoreId) (n : CtxId) (k : Cmd), VecReady s c n k 96 ∧ vdDfmt k.desc = 6) ∧
    (∃ (s : State) (c : CoreId) (n : CtxId) (k : Cmd), VecReady s c n k 97 ∧ vdDfmt k.desc ≠ 6) ∧
    (∃ (s : State) (c : CoreId) (n : CtxId) (k : Cmd), VecReady s c n k 97 ∧ vdDfmt k.desc = 6) ∧
    (∃ (s : State) (c : CoreId) (n : CtxId) (k : Cmd), VecReady s c n k 98 ∧ vdDfmt k.desc ≠ 6) ∧
    (∃ (s : State) (c : CoreId) (n : CtxId) (k : Cmd), VecReady s c n k 98 ∧ vdDfmt k.desc = 6) ∧
    (∃ (s : State) (c : CoreId) (n : CtxId) (k : Cmd), VecReady s c n k 99) ∧
    (∃ (s : State) (c : CoreId) (n : CtxId) (k : Cmd), VecReady s c n k 100) ∧
    (∃ (v : LVal), v.sc < 32 ∧ -2 ^ 639 ≤ v.l ∧ v.l < 2 ^ 639) ∧
    (∃ (ts : List LVal), (∀ v ∈ ts, v.sc = 0) ∧ -2 ^ 639 ≤ (ts.map LVal.l).sum ∧ (ts.map LVal.l).sum < 2 ^ 639) :=
  ⟨⟨(r0 0x60 0 0), 3, 1, { cls := 3, dep := 0, reco := false, setf := false, wflag := 0, dflag := 0, tag := 5, descAddr := 281475068993536, desc := (([96, 0, 0, 0, 4, 0, 0, 0, 0, 0, 129, 5, 0, 0, 1] ++ List.replicate 18 0 ++ [48, 129, 5, 0, 0, 1]) ++ List.replicate 25 0) },
      by unfold VecReady Sound Accepts; decide +kernel, by decide +kernel⟩,
   ⟨(r0 0x60 6 0), 3, 1, { cls := 3, dep := 0, reco := false, setf := false, wflag := 0, dflag := 0, tag := 5, descAddr := 281475068993536, desc := (([96, 48, 0, 0, 4, 0, 0, 0, 0, 0, 129, 5, 0, 0, 1] ++ List.replicate 18 0 ++ [48, 129, 5, 0, 0, 1]) ++ List.replicate 25 0) },
      by unfold VecReady Sound Accepts; decide +kernel, by decide +kernel⟩,
   ⟨(r0 0x61 0 0), 3, 1, { cls := 3, dep := 0, reco := false, setf := false, wflag := 0, dflag := 0, tag := 5, descAddr := 281475068993536, desc := (([97, 0, 0, 0, 4, 0, 0, 0, 0, 0, 129, 5, 0, 0, 1] ++ List.replicate 18 0 ++ [48, 129, 5, 0, 0, 1]) ++ List.replicate 25 0) },
      by unfold VecReady Sound Accepts; decide +kernel, by decide +kernel⟩,
   ⟨(r0 0x61 6 0), 3, 1, { cls := 3, dep := 0, reco := false, setf := false, wflag := 0, dflag := 0, tag := 5, descAddr := 281475068993536, desc := (([97, 48, 0, 0, 4, 0, 0, 0, 0, 0, 129, 5, 0, 0, 1] ++ List.replicate 18 0 ++ [48, 129, 5, 0, 0, 1]) ++ List.replicate 25 0) },
      by unfold VecReady Sound Accepts; decide +kernel, by decide +kernel⟩,
   ⟨(r0 0x62 0 B), 3, 1, { cls := 3, dep := 0, reco := false, setf := false, wflag := 0, dflag := 0, tag := 5, descAddr := 281475068993536, desc := ([98, 0, 0, 0, 4, 0, 0, 0, 0, 0, 129, 5, 0, 0, 1, 0, 0, 16, 129, 5, 0, 0, 1, 0, 0, 0, 0, 0, 0, 0, 0, 0, 0, 48, 129, 5, 0, 0, 1] ++ List.replicate 25 0) },
      by unfold VecReady Sound Accepts; decide +kernel, by decide +kernel⟩,
   ⟨(r0 0x62 6 B), 3, 1, { cls := 3, dep := 0, reco := false, setf := false, wflag := 0, dflag := 0, tag := 5, descAddr := 281475068993536, desc := ([98, 48, 0, 0, 4, 0, 0, 0, 0, 0, 129, 5, 0, 0, 1, 0, 0, 16, 129, 5, 0, 0, 1, 0, 0, 0, 0, 0, 0, 0, 0, 0, 0, 48, 129, 5, 0, 0, 1] ++ List.replicate 25 0) },
      by unfold VecReady Sound Accepts; decide +kernel, by decide +kernel⟩,
   ⟨(r0 0x63 0 0), 3, 1, { cls := 3, dep := 0, reco := false, setf := false, wflag := 0, dflag := 0, tag := 5, descAddr := 281475068993536, desc := (([99, 0, 0, 0, 4, 0, 0, 0, 0, 0, 129, 5, 0, 0, 1] ++ List.replicate 18 0 ++ [48, 129, 5, 0, 0, 1]) ++ List.replicate 25 0) },
      by unfold VecReady Sound Accepts; decide +kernel⟩,
   ⟨sm1, 3, 1, { cls := 3, dep := 0, reco := false, setf := false, wflag := 0, dflag := 0, tag := 5, descAddr := 281475068993536, desc := ([100, 0, 0, 0, 2, 0, 0, 1, 0, 0, 129, 5, 0, 0, 1, 0, 0, 16, 0, 0, 0, 0, 0, 0, 0, 0, 0, 0, 0, 0, 0, 0, 0, 48, 129, 5, 0, 0, 1] ++ List.replicate 25 0) },
      by unfold VecReady Sound Accepts; decide +kernel⟩,
   ⟨{ sc := 0, l := 5 }, by decide +kernel⟩,
   ⟨[⟨0, 2 ^ 638⟩, ⟨0, 2 ^ 638⟩, ⟨0, -2 ^ 638⟩], by decide +kernel⟩⟩

/-- Hypotheses of ReductionsAndExchangeArrays (ExchangeArraysAndOptimiserSteps), clause by clause. -/
theorem witness_ExchangeArraysAndOptimiserSteps :
    (∃ (s : State) (c : CoreId) (n : CtxId) (k : Cmd) (vs : List LVal), VecReady s c n k 128 ∧ readPacked s (vdSrc0 k.desc)
      (vdCount k.desc) (vdSrc0 k.desc + 16 * vdCount k.desc) = some vs ∧ localPlace c (vdSrc0 k.desc + 16 * vdCount k.desc) (80
      * longSlots s (vdSrc0 k.desc) (vdCount k.desc)) = true) ∧
    (∃ (s : State) (c : CoreId) (n : CtxId) (k : Cmd), VecReady s c n k 128 ∧ readPacked s (vdSrc0 k.desc) (vdCount k.desc)
      (vdSrc0 k.desc + 16 * vdCount k.desc) = none) ∧
    (∃ (s : State) (c : CoreId) (n : CtxId) (k : Cmd) (arrs : List (List LVal)) (f : Fmt), VecReady s c n k 129 ∧ exredArrays s
      k.desc (vdNsrc k.desc + 1) = some arrs ∧ fmtOf (vdDfmt k.desc) = some f) ∧
    (∃ (s : State) (c : CoreId) (n : CtxId) (k : Cmd), VecReady s c n k 129 ∧ exredArrays s k.desc (vdNsrc k.desc + 1) = none) ∧
    (∃ (s : State) (c : CoreId) (n : CtxId) (k : Cmd) (f : Fmt), VecReady s c n k 160 ∧ vdCount k.desc ≤ 128 ∧ fmtOf (vdSfmt
      k.desc) = some f ∧ (vdSkipNf k.desc = false ∨ (List.filter (fun e => e.g.nonFinite || e.w.nonFinite) (optBlock s c (opOf
      s c n k none) (readHyper s (vdAux k.desc)) f 0)).length = 0)) ∧
    (∃ (s : State) (c : CoreId) (n : CtxId) (k : Cmd) (f : Fmt), VecReady s c n k 160 ∧ vdCount k.desc ≤ 128 ∧ fmtOf (vdSfmt
      k.desc) = some f ∧ vdSkipNf k.desc = true ∧ (0 < (List.filter (fun e => e.g.nonFinite || e.w.nonFinite) (optBlock s c
      (opOf s c n k none) (readHyper s (vdAux k.desc)) f 0)).length)) :=
  ⟨⟨(ed true), 3, 1, { cls := 3, dep := 0, reco := false, setf := false, wflag := 0, dflag := 0, tag := 5, descAddr := 281475068993536, desc := (([128, 6, 0, 0, 2, 0, 0, 0, 0, 0, 129, 5, 0, 0, 1] ++ List.replicate 17 0 ++ [32, 0, 200, 5, 0, 0, 1]) ++ List.replicate 25 0) },
      [{ sc := 0, l := 10185179881672430431342228442046890805257341968329681253180702246771906498816683530916986880 }, { sc := 1, l := 0 }],
      by unfold VecReady Sound Accepts; decide +kernel, by decide +kernel⟩,
   ⟨(ed false), 3, 1, { cls := 3, dep := 0, reco := false, setf := false, wflag := 0, dflag := 0, tag := 5, descAddr := 281475068993536, desc := (([128, 6, 0, 0, 2, 0, 0, 0, 0, 0, 129, 5, 0, 0, 1] ++ List.replicate 17 0 ++ [32, 0, 200, 5, 0, 0, 1]) ++ List.replicate 25 0) },
      by unfold VecReady Sound Accepts; decide +kernel, by decide +kernel⟩,
   ⟨(er true), 3, 1, { cls := 3, dep := 0, reco := false, setf := false, wflag := 0, dflag := 0, tag := 5, descAddr := 281475068993536, desc := ([129, 6, 0, 0, 2, 0, 0, 1, 0, 0, 129, 5, 0, 0, 1, 0, 0, 16, 0, 0, 0, 0, 0, 0, 0, 0, 0, 0, 0, 0, 0, 0, 0, 48, 129, 5, 0, 0, 1] ++ List.replicate 25 0) },
      [[{ sc := 0, l := 10185179881672430431342228442046890805257341968329681253180702246771906498816683530916986880 }, { sc := 1, l := 0 }],
      [{ sc := 0, l := 10185179881672430431342228442046890805257341968329681253180702246771906498816683530916986880 }, { sc := 1, l := 0 }]],
      { width := 32, frac := 23, bias := 127, maxCode := 2139095039, inf := some 2139095040, nan := some 2143289344 },
     by unfold VecReady Sound Accepts; decide +kernel, by decide +kernel⟩,
   ⟨(er false), 3, 1, { cls := 3, dep := 0, reco := false, setf := false, wflag := 0, dflag := 0, tag := 5, descAddr := 281475068993536, desc := ([129, 6, 0, 0, 2, 0, 0, 1, 0, 0, 129, 5, 0, 0, 1, 0, 0, 16, 0, 0, 0, 0, 0, 0, 0, 0, 0, 0, 0, 0, 0, 0, 0, 48, 129, 5, 0, 0, 1] ++ List.replicate 25 0) },
      by unfold VecReady Sound Accepts; decide +kernel, by decide +kernel⟩,
   ⟨(op2 0 true), 3, 1, { cls := 3, dep := 0, reco := false, setf := false, wflag := 0, dflag := 0, tag := 5, descAddr := 281475068993536, desc := ([160, 0, 0, 0, 4, 0, 0, 0, 0, 0, 129, 5, 0, 0, 1, 0, 0, 16, 129, 5, 0, 0, 1, 0, 0, 32, 129, 5, 0, 0, 1, 0, 0, 48, 129, 5, 0, 0, 1, 0, 0, 64, 129, 5, 0, 0, 1] ++ List.replicate 17 0) },
      { width := 32, frac := 23, bias := 127, maxCode := 2139095039, inf := some 2139095040, nan := some 2143289344 },
     by unfold VecReady Sound Accepts; decide +kernel, by decide +kernel⟩,
   ⟨(op2 1 false), 3, 1, { cls := 3, dep := 0, reco := false, setf := false, wflag := 0, dflag := 0, tag := 5, descAddr := 281475068993536, desc := ([160, 0, 4, 0, 4, 0, 0, 0, 0, 0, 129, 5, 0, 0, 1, 0, 0, 16, 129, 5, 0, 0, 1, 0, 0, 32, 129, 5, 0, 0, 1, 0, 0, 48, 129, 5, 0, 0, 1, 0, 0, 64, 129, 5, 0, 0, 1] ++ List.replicate 17 0) },
      { width := 32, frac := 23, bias := 127, maxCode := 2139095039, inf := some 2139095040, nan := some 2143289344 },
     by unfold VecReady Sound Accepts; decide +kernel, by decide +kernel⟩⟩

end W67

namespace W67B

/-- op sfmt dfmt rmode sat skip count nsrc src0 src1 src2 dst aux rowlen stream draw -/
def vd (op sf df rm sat skip count nsrc s0 s1 s2 dst aux rl st dr : Nat) : List Byte :=
  natLE 4 (op + sf * 256 + df * 2048 + rm * 2 ^ 14 + sat * 2 ^ 17 + skip * 2 ^ 18) ++ natLE 4 (count + nsrc * 2 ^ 24) ++ natLE 8 s0 ++ natLE 8 s1 ++ natLE 8 s2 ++
  natLE 8 dst ++ natLE 8 aux ++ natLE 4 0 ++ natLE 4 0 ++ natLE 4 rl ++ natLE 4 (st + dr * 65536)
def A : Nat := scratchBase 3 + 0x10000
def B : Nat := scratchBase 3 + 0x11000
def C : Nat := scratchBase 3 + 0x12000
def D : Nat := scratchBase 3 + 0x13000
def X : Nat := scratchBase 3 + 0x14000
def f32s (l : List Nat) : List Byte := l.flatMap (natLE 4)
def dat (s : State) : State := put (put (put (put s A (f32s [0x3f800000, 0xc0490fdb, 0x7f800000, 0x00000001])) B (f32s [0x40000000, 0x40490fdb, 0xff800000, 0x7fc00000])) C (f32s [1, 0x3f800001, 0x80000000, 0x41200000])) X (f32s [0x3fc00000])
def sv (d : List Byte) : State := dat (ctxIn live 3 1 (cw 3 0 0 0 0 0 5 (descAt 3)) d)
def exS (i : Instr) (s : State) : State := nx (exec i s)
def mOf (s : State) : List Nat := match ((s.core 3).ops.head?).bind Op.merge with
  | some (_, .scale m v _) => [m, v]
  | some (_, .opt u _ v _) => [u, v]
  | none => []
def xOf (s : State) : List Int := match ((s.core 3).ops.head?).bind Op.merge with
  | some (_, .opt _ _ _ x) => [x]
  | _ => []
def q1 := put (sv (vd 0x41 0 3 0 0 0 4 0 A 0 0 D X 0 0 0)) X (f32s [0x3f800000, 0x40000000])

end W67B

namespace W68

/-- op sfmt dfmt rmode sat skip count nsrc src0 src1 src2 dst aux rowlen stream draw -/
def vd (op sf df rm sat skip count nsrc s0 s1 s2 dst aux rl st dr : Nat) : List Byte :=
  natLE 4 (op + sf * 256 + df * 2048 + rm * 2 ^ 14 + sat * 2 ^ 17 + skip * 2 ^ 18) ++ natLE 4 (count + nsrc * 2 ^ 24) ++ natLE 8 s0 ++ natLE 8 s1 ++ natLE 8 s2 ++
  natLE 8 dst ++ natLE 8 aux ++ natLE 4 0 ++ natLE 4 0 ++ natLE 4 rl ++ natLE 4 (st + dr * 65536)
def A : Nat := scratchBase 3 + 0x10000
def B : Nat := scratchBase 3 + 0x11000
def C : Nat := scratchBase 3 + 0x12000
def D : Nat := scratchBase 3 + 0x13000
def X : Nat := scratchBase 3 + 0x14000
def f32s (l : List Nat) : List Byte := l.flatMap (natLE 4)
def dat (s : State) : State := put (put (put (put s A (f32s [0x3f800000, 0xc0490fdb, 0x7f800000, 0x00000001])) B (f32s [0x40000000, 0x40490fdb, 0xff800000, 0x7fc00000])) C (f32s [1, 0x3f800001, 0x80000000, 0x41200000])) X (f32s [0x3fc00000])
def sv (d : List Byte) : State := dat (ctxIn live 3 1 (cw 3 0 0 0 0 0 5 (descAt 3)) d)
def g1 := sv (vd 0xc0 0 0 0 0 0 5 0 0 0 0 D 0 3 7 2)
def g2 := put (sv (vd 0xc1 0 0 0 0 0 4 0 A 0 0 D X 3 7 2)) X (f32s [0x80000000, 0x40000000])
def opV (st : Bool) (pre : Option Nat) (mg : Option (Nat × MergeOp)) : Op := ⟨4, 1, 0, 3, [], false, false, 0, 0, 0, 0, 5, false, 0, pre, st, 0, mg⟩
def vc1 (o : Op) := coreOfSt (put live X [1,2,3,4,5,6,7,8,9,10,11,12]) 3 fun x => { x with ops := [o] }
def oA := opV true (some 0) none
def oB := opV true (some 9) none
def oD := opV true none none
def oC := opV true (some 0) (some (X, .scale 0x40000000 3 4))
def i1 := sv (vd 0x7f 0 0 0 0 0 4 0 A B 0 D 0 0 0 0)
def i2 := sv (vd 0 0 0 0 0 0 4 1 A B 0 D 0 0 0 0)
def i3 := sv (vd 0 5 0 0 0 0 4 0 A B 0 D 0 0 0 0)
def i4 := sv (vd 0 0 0 0 0 0 0 0 A B 0 D 0 0 0 0)
def i5 := sv (vd 0 0 0 0 0 0 4 0 A B 0 0 0 0 0 0)

/-- Hypotheses of RandomStreamsAndVectorChecks (RandomStreamsDrawByPlace), clause by clause. -/
theorem witness_RandomStreamsDrawByPlace :
    (∃ (s : State) (c : CoreId) (n : CtxId) (k : Cmd), VecReady s c n k 192) ∧
    (∃ (s : State) (c : CoreId) (n : CtxId) (k : Cmd), VecReady s c n k 193 ∧ vdRmode k.desc < 4) :=
  ⟨⟨g1, 3, 1, { cls := 3, dep := 0, reco := false, setf := false, wflag := 0, dflag := 0, tag := 5, descAddr := 281475068993536, desc := ([192, 0, 0, 0, 5] ++ List.replicate 28 0 ++ [48, 129, 5, 0, 0, 1] ++ List.replicate 17 0 ++ [3, 0, 0, 0, 7, 0, 2, 0]) },
      by unfold VecReady Sound Accepts; decide +kernel⟩,
   ⟨g2, 3, 1, { cls := 3, dep := 0, reco := false, setf := false, wflag := 0, dflag := 0, tag := 5, descAddr := 281475068993536, desc := ([193, 0, 0, 0, 4, 0, 0, 0, 0, 0, 129, 5, 0, 0, 1] ++ List.replicate 18 0 ++ [48, 129, 5, 0, 0, 1, 0, 0, 64, 129, 5, 0, 0, 1, 0, 0, 0, 0, 0, 0, 0, 0, 0, 3, 0, 0, 0, 7, 0, 2, 0]) },
      by unfold VecReady Sound Accepts; decide +kernel, by decide +kernel⟩⟩

/-- Hypotheses of RandomStreamsAndVectorChecks (VectorCommandsAreCheckedAndComplete), clause by clause. -/
theorem witness_VectorCommandsAreCheckedAndComplete :
    (∃ (s : State) (c : CoreId) (n : CtxId) (k : Cmd), Sound s c n k ∧ k.cls = clVec ∧ (s.core c).ops = [] ∧ vopKnown (vdOp
      k.desc) = false) ∧
    (∃ (s : State) (c : CoreId), (∀ (o : Op), o ∈ (s.core c).ops → o.cls ≠ clVec)) ∧
    (∃ (s : State) (c : CoreId) (n : CtxId) (k : Cmd), Sound s c n k ∧ k.cls = clVec ∧ (s.core c).ops = [] ∧ vdOp k.desc = 0 ∧
      (vdNsrc k.desc ≠ 0 ∨ vdSrc2 k.desc ≠ 0 ∨ vdAux k.desc ≠ 0)) ∧
    (∃ (s : State) (c : CoreId) (n : CtxId) (k : Cmd), Sound s c n k ∧ k.cls = clVec ∧ (s.core c).ops = [] ∧ vdOp k.desc = 0 ∧
      vopUnusedSet k.desc = false ∧ (5 ≤ vdSfmt k.desc ∨ 5 ≤ vdDfmt k.desc ∨ 5 ≤ vdRmode k.desc)) ∧
    (∃ (s : State) (c : CoreId) (n : CtxId) (k : Cmd), Sound s c n k ∧ k.cls = clVec ∧ (s.core c).ops = [] ∧ vdOp k.desc = 0 ∧
      vopUnusedSet k.desc = false ∧ vdSfmt k.desc < 5 ∧ vdDfmt k.desc < 5 ∧ vdRmode k.desc < 5 ∧ vdCount k.desc = 0) ∧
    (∃ (s : State) (c : CoreId) (n : CtxId) (k : Cmd), Sound s c n k ∧ k.cls = clVec ∧ (s.core c).ops = [] ∧ vdOp k.desc = 0 ∧
      vopUnusedSet k.desc = false ∧ vdSfmt k.desc < 5 ∧ vdDfmt k.desc < 5 ∧ vdRmode k.desc < 5 ∧ vdCount k.desc ≠ 0 ∧ regionOf
      (vdDst k.desc) 1 = some Region.hbm) ∧
    (∃ (s : State) (c : CoreId) (o : Op) (st : Nat), (s.core c).ops = [o] ∧ o.cls = clVec ∧ o.started = true ∧ o.pre = some st
      ∧ o.reco = false ∧ o.setf = false ∧ o.merge = none ∧ depsDone (s.acc c) o.num = true) ∧
    (∃ (s : State) (c : CoreId) (o : Op) (st : Nat) (a : Nat) (m : Nat) (v : Nat) (z : Nat), (s.core c).ops = [o] ∧ o.cls =
      clVec ∧ o.started = true ∧ o.pre = some st ∧ o.reco = false ∧ o.setf = false ∧ o.merge = some (a, MergeOp.scale m v z) ∧
      depsDone (s.acc c) o.num = true) ∧
    (∃ (s : State) (c : CoreId) (o : Op), (s.core c).ops = [o] ∧ o.cls = clVec ∧ o.started = true ∧ depsDone (s.acc c)
      o.num = false) :=
  ⟨⟨i1, 3, 1, { cls := 3, dep := 0, reco := false, setf := false, wflag := 0, dflag := 0, tag := 5, descAddr := 281475068993536, desc := ([127, 0, 0, 0, 4, 0, 0, 0, 0, 0, 129, 5, 0, 0, 1, 0, 0, 16, 129, 5, 0, 0, 1, 0, 0, 0, 0, 0, 0, 0, 0, 0, 0, 48, 129, 5, 0, 0, 1] ++ List.replicate 25 0) },
      by unfold Sound Accepts; decide +kernel, by decide +kernel⟩,
   ⟨live, 3, by decide +kernel⟩,
   ⟨i2, 3, 1, { cls := 3, dep := 0, reco := false, setf := false, wflag := 0, dflag := 0, tag := 5, descAddr := 281475068993536, desc := ([0, 0, 0, 0, 4, 0, 0, 1, 0, 0, 129, 5, 0, 0, 1, 0, 0, 16, 129, 5, 0, 0, 1, 0, 0, 0, 0, 0, 0, 0, 0, 0, 0, 48, 129, 5, 0, 0, 1] ++ List.replicate 25 0) },
      by unfold Sound Accepts; decide +kernel, by decide +kernel⟩,
   ⟨i3, 3, 1, { cls := 3, dep := 0, reco := false, setf := false, wflag := 0, dflag := 0, tag := 5, descAddr := 281475068993536, desc := ([0, 5, 0, 0, 4, 0, 0, 0, 0, 0, 129, 5, 0, 0, 1, 0, 0, 16, 129, 5, 0, 0, 1, 0, 0, 0, 0, 0, 0, 0, 0, 0, 0, 48, 129, 5, 0, 0, 1] ++ List.replicate 25 0) },
      by unfold Sound Accepts; decide +kernel, by decide +kernel⟩,
   ⟨i4, 3, 1, { cls := 3, dep := 0, reco := false, setf := false, wflag := 0, dflag := 0, tag := 5, descAddr := 281475068993536, desc := ([0, 0, 0, 0, 0, 0, 0, 0, 0, 0, 129, 5, 0, 0, 1, 0, 0, 16, 129, 5, 0, 0, 1, 0, 0, 0, 0, 0, 0, 0, 0, 0, 0, 48, 129, 5, 0, 0, 1] ++ List.replicate 25 0) },
      by unfold Sound Accepts; decide +kernel, by decide +kernel⟩,
   ⟨i5, 3, 1, { cls := 3, dep := 0, reco := false, setf := false, wflag := 0, dflag := 0, tag := 5, descAddr := 281475068993536, desc := ([0, 0, 0, 0, 4, 0, 0, 0, 0, 0, 129, 5, 0, 0, 1, 0, 0, 16, 129, 5, 0, 0, 1] ++ List.replicate 41 0) },
      by unfold Sound Accepts; decide +kernel, by decide +kernel⟩,
   ⟨(vc1 oA), 3, { num := 4, ctx := 1, idx := 0, cls := 3, desc := [], reco := false, setf := false, dflag := 0, tag := 0, mb := 0, k := 0, entry := 5, spec := false, step := 0, pre := some 0, started := true, result := 0, merge := none },
      0, by decide +kernel⟩,
   ⟨(vc1 oC), 3, { num := 4, ctx := 1, idx := 0, cls := 3, desc := [], reco := false, setf := false, dflag := 0, tag := 0, mb := 0, k := 0, entry := 5, spec := false, step := 0, pre := some 0, started := true, result := 0, merge := some (281475069067264, Sys2Proof.MergeOp.scale 1073741824 3 4) },
      0, 281475069067264, 1073741824, 3, 4, by decide +kernel⟩,
   ⟨(coreOfSt (vc1 oD) 3 fun x => { x with acc := { x.acc with depQ := [⟨some 4, 5, 0, 0⟩] } }), 3, { num := 4, ctx := 1, idx := 0, cls := 3, desc := [], reco := false, setf := false, dflag := 0, tag := 0, mb := 0, k := 0, entry := 5, spec := false, step := 0, pre := none, started := true, result := 0, merge := none }, by decide +kernel⟩⟩

end W68

namespace W70

/-- op idx isrc addr istride imod beat count -/
def fd (op idx isrc addr istr imod beat cnt : Nat) : List Byte :=
  natLE 4 (op + idx * 16 + isrc * 32 + cnt * 65536) ++ natLE 4 0 ++ natLE 8 addr ++ natLE 4 (istr + imod * 65536) ++ natLE 4 0 ++ natLE 8 beat ++ natLE 32 0
def sf (d : List Byte) : State := ctxIn live 3 1 (cw 7 0 0 0 0 0 5 (descAt 3)) d
def wfl (s : State) (l : AMap FlagId Flag) : State := { s with flags := l }
def F0 := Flag.reset
def s1 := wfl (sf (fd 1 0 0 (fa 33) 0 0 0 0)) [(9, {F0 with set := true})]
def s2 := wfl (sf (fd 1 0 0 (fa 33) 0 0 0 0)) [(33, {F0 with waiters := [.ctx 4 2, .ctx 5 1]})]
def sC (op cnt : Nat) (a : Nat) := wfl (sf (fd op 0 0 (fa a) 0 0 0 cnt)) [(33, {F0 with set := true, poison := true, owner := some (3, 1)}), (34, {F0 with set := true, owner := some (4, 1)}), (35, {F0 with set := true, owner := some (3, 1)})]
def x1 := sf (fd 1 1 0 (fa 33) 5 7 0 0)
def x2 := (sf (fd 1 1 2 (fa 33) 5 0 0 0)).wf .VEC_RNG_STEP_STEP 9000 0
def f1 := { (sf (fd 5 0 0 0 0 0 8 0)) with fence := 8 }
def f2 := { (sf (fd 5 0 0 0 0 0 8 0)) with fence := 7 }
def f3 := { (sf (fd 5 0 0 0 0 0 (2 ^ 33) 0)) with fence := 7 }
def fOp : Op := { opOf f2 3 2 (kOf f2 3 1) none with started := true, num := 900 }
def f4 := coreOfSt (sC 2 2 33) 3 fun x => { x with ops := [fOp] }

def pkS : Packet :=
  { ptype := 1, pclass := 0, tc := 1, chk := false, srcDev := 0, srcAgent := 25, hops := 0, dst := globalAddr 0 0x1000, job := 0,
    epoch := 0, oseq := 0, tag := 4, via := 0, viaValid := false, payload := [1], trailer := [] }
/-- a put to this device is under way -/
def sP : State := fabOf (sf (fd 1 0 0 (fa 33) 0 0 0 0)) fun f => { f with selfQ := [pkS] }
def f5 : State := sf (fd 5 1 3 0 0 0 8 0)

/-- Hypotheses of FlagCommandsActOnTheirFlags, clause by clause. -/
theorem witness_FlagCommandsActOnTheirFlags :
    (∃ (s : State) (c : CoreId) (n : CtxId) (k : Cmd) (f : FlagId), Sound s c n k ∧ k.cls = clFlag ∧ k.desc.length = 64 ∧
      (s.core c).ops = [] ∧ k.reco = false ∧ k.setf = false ∧ flagTarget (opOf s c n k none) = some f ∧ (fdIdx k.desc = true →
      fdISrc k.desc ≤ 2) ∧ addrDev (fdAddr k.desc) = ownDev s ∧ fdOp k.desc = 2 ∧ f.val + max 1 (dfld k.desc 0 31 16) ≤ 32768) ∧
    (∃ (s : State) (c : CoreId) (n : CtxId) (k : Cmd) (f : FlagId), Sound s c n k ∧ k.cls = clFlag ∧ k.desc.length = 64 ∧
      (s.core c).ops = [] ∧ k.reco = false ∧ k.setf = false ∧ flagTarget (opOf s c n k none) = some f ∧ (fdIdx k.desc = true →
      fdISrc k.desc ≤ 2) ∧ addrDev (fdAddr k.desc) = ownDev s ∧ fdOp k.desc = 3 ∧ f.val + max 1 (dfld k.desc 0 31 16) ≤ 32768) ∧
    (∃ (s : State) (c : CoreId) (n : CtxId) (k : Cmd) (f : FlagId), Sound s c n k ∧ k.cls = clFlag ∧ k.desc.length = 64 ∧
      (s.core c).ops = [] ∧ k.reco = false ∧ k.setf = false ∧ flagTarget (opOf s c n k none) = some f ∧ (fdIdx k.desc = true →
      fdISrc k.desc ≤ 2) ∧ addrDev (fdAddr k.desc) = ownDev s ∧ fdOp k.desc = 4 ∧ f.val + max 1 (dfld k.desc 0 31 16) ≤ 32768) ∧
    (∃ (s : State) (c : CoreId) (n : CtxId) (k : Cmd) (f : FlagId), Sound s c n k ∧ k.cls = clFlag ∧ k.desc.length = 64 ∧
      (s.core c).ops = [] ∧ k.reco = false ∧ k.setf = false ∧ flagTarget (opOf s c n k none) = some f ∧ (fdIdx k.desc = true →
      fdISrc k.desc ≤ 2) ∧ addrDev (fdAddr k.desc) = ownDev s ∧ ¬f.val + max 1 (dfld k.desc 0 31 16) ≤ 32768 ∧ fdOp k.desc = 2) ∧
    (∃ (s : State) (c : CoreId) (n : CtxId) (k : Cmd) (f : FlagId), Sound s c n k ∧ k.cls = clFlag ∧ k.desc.length = 64 ∧
      (s.core c).ops = [] ∧ k.reco = false ∧ k.setf = false ∧ flagTarget (opOf s c n k none) = some f ∧ (fdIdx k.desc = true →
      fdISrc k.desc ≤ 2) ∧ addrDev (fdAddr k.desc) = ownDev s ∧ ¬f.val + max 1 (dfld k.desc 0 31 16) ≤ 32768 ∧ fdOp k.desc = 3) ∧
    (∃ (s : State) (c : CoreId) (n : CtxId) (k : Cmd) (f : FlagId), Sound s c n k ∧ k.cls = clFlag ∧ k.desc.length = 64 ∧
      (s.core c).ops = [] ∧ k.reco = false ∧ k.setf = false ∧ flagTarget (opOf s c n k none) = some f ∧ (fdIdx k.desc = true →
      fdISrc k.desc ≤ 2) ∧ addrDev (fdAddr k.desc) = ownDev s ∧ ¬f.val + max 1 (dfld k.desc 0 31 16) ≤ 32768 ∧ fdOp k.desc = 4) ∧
    (∃ (s : State) (c : CoreId) (n : CtxId) (k : Cmd) (f : FlagId), Sound s c n k ∧ k.cls = clFlag ∧ k.desc.length = 64 ∧
      (s.core c).ops = [] ∧ k.reco = false ∧ k.setf = false ∧ flagTarget (opOf s c n k none) = some f ∧ (fdIdx k.desc = true →
      fdISrc k.desc ≤ 2) ∧ addrDev (fdAddr k.desc) = ownDev s ∧ (fdOp k.desc = 0 ∨ 5 < fdOp k.desc)) ∧
    (∃ (s : State) (c : CoreId) (n : CtxId) (k : Cmd) (f : FlagId), Sound s c n k ∧ k.cls = clFlag ∧ k.desc.length = 64 ∧
      (s.core c).ops = [] ∧ k.reco = false ∧ k.setf = false ∧ flagTarget (opOf s c n k none) = some f ∧ (fdIdx k.desc = true →
      fdISrc k.desc ≤ 2) ∧ addrDev (fdAddr k.desc) = ownDev s ∧ fdOp k.desc = 1 ∧ selfPending s (8 * c.val + n.val) = false ∧
      s.beat.phases = [] ∧ flagDead s f = none ∧ (s.flag f).set = false ∧ (s.flag f).waiters = []) ∧
    (∃ (s : State) (c : CoreId) (n : CtxId) (k : Cmd) (f : FlagId) (x : CoreId) (m : CtxId) (w : List Waiter), Sound s c n k ∧
      k.cls = clFlag ∧ k.desc.length = 64 ∧ (s.core c).ops = [] ∧ k.reco = false ∧ k.setf = false ∧ flagTarget (opOf s c n k
      none) = some f ∧ (fdIdx k.desc = true → fdISrc k.desc ≤ 2) ∧ addrDev (fdAddr k.desc) = ownDev s ∧ fdOp k.desc = 1 ∧
      selfPending s (8 * c.val + n.val) = false ∧ s.beat.phases = [] ∧ flagDead s f = none ∧ (s.flag f).set = false ∧ (s.flag
      f).waiters = Waiter.ctx x m :: w ∧ x ≠ c) ∧
    (∃ (s : State) (c : CoreId) (n : CtxId) (k : Cmd) (f : FlagId), Sound s c n k ∧ k.cls = clFlag ∧ k.desc.length =
      64 ∧ (s.core c).ops = [] ∧ k.reco = false ∧ k.setf = false ∧ flagTarget (opOf s c n k none) = some f ∧ (fdIdx
      k.desc = true → fdISrc k.desc ≤ 2) ∧ addrDev (fdAddr k.desc) = ownDev s ∧ fdOp k.desc = 1 ∧ selfPending s (8 *
      c.val + n.val) = true) :=
  ⟨⟨(sC 2 2 33), 3, 1, { cls := 7, dep := 0, reco := false, setf := false, wflag := 0, dflag := 0, tag := 5, descAddr := 281475068993536, desc := ([2, 0, 2, 0, 0, 0, 0, 0, 8, 1, 0, 0, 0, 0, 2] ++ List.replicate 49 0) },
      33, by unfold Sound Accepts; decide +kernel, by decide +kernel⟩,
   ⟨(sC 3 2 33), 3, 1, { cls := 7, dep := 0, reco := false, setf := false, wflag := 0, dflag := 0, tag := 5, descAddr := 281475068993536, desc := ([3, 0, 2, 0, 0, 0, 0, 0, 8, 1, 0, 0, 0, 0, 2] ++ List.replicate 49 0) },
      33, by unfold Sound Accepts; decide +kernel, by decide +kernel⟩,
   ⟨(sC 4 2 33), 3, 1, { cls := 7, dep := 0, reco := false, setf := false, wflag := 0, dflag := 0, tag := 5, descAddr := 281475068993536, desc := ([4, 0, 2, 0, 0, 0, 0, 0, 8, 1, 0, 0, 0, 0, 2] ++ List.replicate 49 0) },
      33, by unfold Sound Accepts; decide +kernel, by decide +kernel⟩,
   ⟨(sC 2 2 32767), 3, 1, { cls := 7, dep := 0, reco := false, setf := false, wflag := 0, dflag := 0, tag := 5, descAddr := 281475068993536, desc := ([2, 0, 2, 0, 0, 0, 0, 0, 248, 255, 3, 0, 0, 0, 2] ++ List.replicate 49 0) },
      32767, by unfold Sound Accepts; decide +kernel, by decide +kernel⟩,
   ⟨(sC 3 2 32767), 3, 1, { cls := 7, dep := 0, reco := false, setf := false, wflag := 0, dflag := 0, tag := 5, descAddr := 281475068993536, desc := ([3, 0, 2, 0, 0, 0, 0, 0, 248, 255, 3, 0, 0, 0, 2] ++ List.replicate 49 0) },
      32767, by unfold Sound Accepts; decide +kernel, by decide +kernel⟩,
   ⟨(sC 4 2 32767), 3, 1, { cls := 7, dep := 0, reco := false, setf := false, wflag := 0, dflag := 0, tag := 5, descAddr := 281475068993536, desc := ([4, 0, 2, 0, 0, 0, 0, 0, 248, 255, 3, 0, 0, 0, 2] ++ List.replicate 49 0) },
      32767, by unfold Sound Accepts; decide +kernel, by decide +kernel⟩,
   ⟨(sC 6 2 33), 3, 1, { cls := 7, dep := 0, reco := false, setf := false, wflag := 0, dflag := 0, tag := 5, descAddr := 281475068993536, desc := ([6, 0, 2, 0, 0, 0, 0, 0, 8, 1, 0, 0, 0, 0, 2] ++ List.replicate 49 0) },
      33, by unfold Sound Accepts; decide +kernel, by decide +kernel⟩,
   ⟨s1, 3, 1, { cls := 7, dep := 0, reco := false, setf := false, wflag := 0, dflag := 0, tag := 5, descAddr := 281475068993536, desc := ([1, 0, 0, 0, 0, 0, 0, 0, 8, 1, 0, 0, 0, 0, 2] ++ List.replicate 49 0) },
      33, by unfold Sound Accepts; decide +kernel, by decide +kernel⟩,
   ⟨s2, 3, 1, { cls := 7, dep := 0, reco := false, setf := false, wflag := 0, dflag := 0, tag := 5, descAddr := 281475068993536, desc := ([1, 0, 0, 0, 0, 0, 0, 0, 8, 1, 0, 0, 0, 0, 2] ++ List.replicate 49 0) },
      33, 4, 2, [Sys2Proof.Machine.Waiter.ctx 5 1], by unfold Sound Accepts; decide +kernel, by decide +kernel⟩,
   ⟨sP, 3, 1, { cls := 7, dep := 0, reco := false, setf := false, wflag := 0, dflag := 0, tag := 5, descAddr :=
     281475068993536, desc := ([1, 0, 0, 0, 0, 0, 0, 0, 8, 1, 0, 0, 0, 0, 2] ++ List.replicate 49 0) }, 33,
     by unfold Sound Accepts; decide +kernel, by decide +kernel⟩⟩

/-- Hypotheses of FlagIndexesAndFencesFollowTheirDescriptor, clause by clause. -/
theorem witness_FlagIndexesAndFencesFollowTheirDescriptor :
    (∃ (k : Cmd) (f : FlagId), k.desc.length = 64 ∧ flagOfLocal (addrLocal (fdAddr k.desc)) = some f ∧ fdIdx k.desc = false) ∧
    (∃ (k : Cmd) (f : FlagId), k.desc.length = 64 ∧ flagOfLocal (addrLocal (fdAddr k.desc)) = some f ∧ fdIdx k.desc = true ∧
      fdISrc k.desc ≤ 2) ∧
    (∃ (s : State) (c : CoreId) (n : CtxId) (k : Cmd) (p : Op), Sound s c n k ∧ k.cls = clFlag ∧ k.desc.length = 64 ∧ (s.core
      c).ops = [p] ∧ 7 ≤ p.cls ∧ flagDone s p = false ∧ p.num ≠ (s.core c).nextNum ∧ fdOp k.desc = 2 ∧ flagCheck s (halfOfCore
      c) (opOf s c n k none) = none) ∧
    (∃ (s : State) (c : CoreId) (n : CtxId) (k : Cmd), Sound s c n k ∧ k.cls = clFlag ∧ k.desc.length = 64 ∧ (s.core c).ops =
      [] ∧ k.reco = false ∧ k.setf = false ∧ fdOp k.desc = 5 ∧ (fdIdx k.desc = true → fdISrc k.desc ≤ 2) ∧ fdBeat k.desc ≤
      beatNow s (halfOfCore c) + 2 ^ 32 ∧ fdBeat k.desc ≤ s.fence) ∧
    (∃ (s : State) (c : CoreId) (n : CtxId) (k : Cmd), Sound s c n k ∧ k.cls = clFlag ∧ k.desc.length = 64 ∧ (s.core c).ops =
      [] ∧ k.reco = false ∧ k.setf = false ∧ fdOp k.desc = 5 ∧ (fdIdx k.desc = true → fdISrc k.desc ≤ 2) ∧ fdBeat k.desc ≤
      beatNow s (halfOfCore c) + 2 ^ 32 ∧ s.fence < fdBeat k.desc) ∧
    (∃ (s : State) (c : CoreId) (n : CtxId) (k : Cmd), Sound s c n k ∧ k.cls = clFlag ∧ k.desc.length = 64 ∧ (s.core c).ops =
      [] ∧ fdOp k.desc = 5 ∧ (fdIdx k.desc = true → fdISrc k.desc ≤ 2) ∧ beatNow s (halfOfCore c) + 2 ^ 32 < fdBeat k.desc) ∧
    (∃ (s : State) (c : CoreId) (n : CtxId) (k : Cmd), Sound s c n k ∧ k.cls = clFlag ∧ k.desc.length = 64 ∧ (s.core
      c).ops = [] ∧ fdIdx k.desc = true ∧ 2 < fdISrc k.desc ∧ fdOp k.desc = 5) :=
  ⟨⟨{ cls := 7, dep := 0, reco := false, setf := false, wflag := 0, dflag := 0, tag := 5, descAddr := 281475068993536, desc := ([1, 0, 0, 0, 0, 0, 0, 0, 8, 1, 0, 0, 0, 0, 2] ++ List.replicate 49 0) },
      33, by decide +kernel⟩,
   ⟨{ cls := 7, dep := 0, reco := false, setf := false, wflag := 0, dflag := 0, tag := 5, descAddr := 281475068993536, desc := ([17, 0, 0, 0, 0, 0, 0, 0, 8, 1, 0, 0, 0, 0, 2, 0, 5, 0, 7] ++ List.replicate 45 0) },
      33, by decide +kernel⟩,
   ⟨f4, 3, 1, { cls := 7, dep := 0, reco := false, setf := false, wflag := 0, dflag := 0, tag := 5, descAddr := 281475068993536, desc := ([2, 0, 2, 0, 0, 0, 0, 0, 8, 1, 0, 0, 0, 0, 2] ++ List.replicate 49 0) },
      fOp, by unfold Sound Accepts; decide +kernel, by decide +kernel⟩,
   ⟨f1, 3, 1, { cls := 7, dep := 0, reco := false, setf := false, wflag := 0, dflag := 0, tag := 5, descAddr := 281475068993536, desc := (([5] ++ List.replicate 23 0 ++ [8]) ++ List.replicate 39 0) },
      by unfold Sound Accepts; decide +kernel, by decide +kernel⟩,
   ⟨f2, 3, 1, { cls := 7, dep := 0, reco := false, setf := false, wflag := 0, dflag := 0, tag := 5, descAddr := 281475068993536, desc := (([5] ++ List.replicate 23 0 ++ [8]) ++ List.replicate 39 0) },
      by unfold Sound Accepts; decide +kernel, by decide +kernel⟩,
   ⟨f3, 3, 1, { cls := 7, dep := 0, reco := false, setf := false, wflag := 0, dflag := 0, tag := 5, descAddr := 281475068993536, desc := (([5] ++ List.replicate 27 0 ++ [2]) ++ List.replicate 35 0) },
      by unfold Sound Accepts; decide +kernel, by decide +kernel⟩,
   ⟨f5, 3, 1, { cls := 7, dep := 0, reco := false, setf := false, wflag := 0, dflag := 0, tag := 5, descAddr :=
     281475068993536, desc := (([117] ++ List.replicate 23 0 ++ [8]) ++
     List.replicate 39 0) }, by unfold Sound Accepts; decide +kernel, by decide +kernel⟩⟩

/-- Hypotheses of SetsAndAtomicsReachTheirWord (SetsReachFlagsOrAreAbsorbed), clause by clause. -/
theorem witness_SetsReachFlagsOrAreAbsorbed :
    (∃ (s : State) (f : FlagId), s.beat.phases = [] ∧ flagDead s f = none ∧ (s.flag f).set = false ∧ (s.flag f).waiters = []) ∧
    (∃ (s : State) (f : FlagId), s.beat.phases = [] ∧ flagDead s f = none ∧ (s.flag f).set = true) ∧
    (∃ (s : State) (f : FlagId), s.beat.phases = [] ∧ (flagDead s f).isSome = true) ∧
    (∃ (s : State) (f : FlagId) (c : CoreId) (n : CtxId) (w : List Waiter), s.beat.phases = [] ∧ flagDead s f = none ∧ (s.flag
      f).set = false ∧ (s.flag f).waiters = Waiter.ctx c n :: w) :=
  ⟨⟨live, 33, by decide +kernel⟩,
   ⟨(wfl live [(33, {F0 with set := true})]), 33, by decide +kernel⟩,
   ⟨(coreOfSt live 3 fun x => { x with node := .off }), 800, by decide +kernel⟩,
   ⟨(coreOfSt (wfl live [(33, {F0 with waiters := [.ctx 4 2, .ctx 5 1]})]) 4 fun x => { x with gated := true }), 33, 4, 2,
     [Sys2Proof.Machine.Waiter.ctx 5 1], by decide +kernel⟩⟩

end W70

namespace W71

def td (esize tr ck rows rb src dst ss ds : Nat) : List Byte :=
  natLE 4 (esize + tr * 4 + ck * 8) ++ natLE 4 rows ++ natLE 8 rb ++ natLE 8 src ++ natLE 8 dst ++ natLE 4 ss ++ natLE 4 ds ++ natLE 24 0
def oL : Op := ⟨4, 1, 0, 4, td 0 0 0 2 64 0x10000 (scratchBase 3) 64 64, false, false, 0, 0, 0, 0, 5, false, 0, none, false, 0, none⟩
def cl : State := { (coreOfSt live 3 fun x => { x with node := .closing }).wf .CORE_DIS_CTL_CORE 1 3 with flags := [(769, { Flag.reset with owner := some (4, 1) })] }
def S : Nat := scratchBase 3
def b1 (r : Nat) : State := ((live.wf .CORE_BIST_CFG_EN 1 3).wf .CORE_BIST_STAT_REGION r 3).wf .CORE_BIST_CFG_FORCE 1 3
def m1 : State := { live with mem := (((((Memory.setBytes [] 3 [7]).setBytes (4096 * 6 + 1) [3]).setBytes (4096 * 17) [4]).setBytes 0x8000000000 [4]).setBytes (0x8000000000 + 4096 * 4 + 3) [5,6]).setBytes (gladeBase 1 + 5) [6], crc := [(3, 4), (4096 * 17, 4)] }
def t1 (l : Nat) : State := (((live.wf .HBM_THR_CFG_EN 1 1).wf .HBM_STK_LEVEL l 1 1).wf .HBM_THR_CFG_THRESH 60 1).wf .HBM_THR_CFG_STEP 10 1

/-- Hypotheses of DisablesCloseAbortAndPoison, clause by clause. -/
theorem witness_DisablesCloseAbortAndPoison :
    (∃ (a : Agent), isDexca a = false) ∧
    (∃ (s : State) (c : CoreId), ((s.core c).node ≠ NodeSt.closing ∨ s.rf Fld.CORE_DIS_CTL_CORE c.val = 0)) ∧
    (∃ (s : State) (g : GroveId), nodeState s (NodeId.grove g) ≠ NodeSt.closing) ∧
    (∃ (s : State) (a : Agent) (c : CoreId), isDexca a = true ∧ canClose s c = true ∧ (List.filter (fun w => w.core == c) (aget
      s.waiting (groveOfCore c) []) = [])) ∧
    (∃ (s : State) (a : Agent) (c : CoreId), isDexca a = true ∧ (s.core c).node ≠ NodeSt.closing ∧ s.rf Fld.CORE_DIS_CTL_MAT
      c.val = 0) ∧
    (∃ (s : State) (a : Agent) (c : CoreId), isDexca a = true ∧ (s.core c).node ≠ NodeSt.closing ∧ s.rf Fld.CORE_DIS_CTL_VEC
      c.val = 0) ∧
    (∃ (s : State) (a : Agent) (c : CoreId), isDexca a = true ∧ (s.core c).node ≠ NodeSt.closing ∧ s.rf Fld.CORE_DIS_CTL_LOAD
      c.val = 0) ∧
    (∃ (s : State) (a : Agent) (c : CoreId), isDexca a = true ∧ (s.core c).node ≠ NodeSt.closing ∧ s.rf Fld.CORE_DIS_CTL_STORE
      c.val = 0) ∧
    (∃ (s : State) (a : Agent) (g : GroveId), isDexca a = true ∧ nodeState s (NodeId.grove g) = NodeSt.active ∧ aget s.waiting
      g [] = [] ∧ (∀ (i : CoreId), groveOfCore i = g → (s.core i).node = NodeSt.active)) ∧
    (∃ (s : State) (a : Agent) (c : CoreId), isDexca a = true ∧ canClose s c = false) ∧
    (∃ (s : State) (a : Agent) (c : CoreId), isDexca a = true ∧ (s.core c).node ≠ NodeSt.closing ∧ s.rf Fld.CORE_DIS_CTL_LOAD
      c.val ≠ 0) ∧
    (∃ (s : State) (c : CoreId), s.fab.store = [] ∧ (s.core c).node = NodeSt.closing ∧ s.rf Fld.CORE_DIS_CTL_CORE c.val ≠ 0 ∧
      (s.core c).ops = [] ∧ (s.core c).spec = none ∧ (∀ (n : CtxId), (s.ctx c n).st = CtxSt.idle) ∧ (∀ (f : FlagId), f.val /
      256 = c.val → (s.flag f).waiters = [])) ∧
    (∃ (s : State) (a : Agent) (c : CoreId), isDexca a = true ∧ (s.core c).node = NodeSt.closing ∧ s.rf Fld.CORE_DIS_CTL_MAT
      c.val = 0) ∧
    (∃ (s : State) (a : Agent) (c : CoreId), isDexca a = true ∧ (s.core c).node = NodeSt.closing ∧ s.rf Fld.CORE_DIS_CTL_VEC
      c.val = 0) ∧
    (∃ (s : State) (a : Agent) (c : CoreId), isDexca a = true ∧ (s.core c).node = NodeSt.closing ∧ s.rf Fld.CORE_DIS_CTL_LOAD
      c.val = 0) ∧
    (∃ (s : State) (a : Agent) (c : CoreId), isDexca a = true ∧ (s.core c).node = NodeSt.closing ∧ s.rf Fld.CORE_DIS_CTL_STORE
      c.val = 0) ∧
    (∃ (s : State) (c : CoreId) (o : Op), s.fab.store = [] ∧ s.rf Fld.CORE_DIS_CTL_LOAD c.val ≠ 0 ∧ (s.core c).ops = [o] ∧
      o.cls = clLoad ∧ o.pre = none ∧ o.reco = false ∧ (s.core c).runAhead = [] ∧ (s.ctx c o.ctx).fail = none ∧ pairHead s c =
      false) :=
  ⟨⟨.host, by decide +kernel⟩,
   ⟨live, 3, by decide +kernel⟩,
   ⟨live, 0, by decide +kernel⟩,
   ⟨live, (.dexca 1), 3, by decide +kernel⟩,
   ⟨live, (.dexca 1), 3, by decide +kernel⟩,
   ⟨live, (.dexca 1), 3, by decide +kernel⟩,
   ⟨live, (.dexca 1), 3, by decide +kernel⟩,
   ⟨live, (.dexca 1), 3, by decide +kernel⟩,
   ⟨live, (.dexca 1), 0, by decide +kernel⟩,
   ⟨cl, (.dexca 1), 3, by decide +kernel⟩,
   ⟨(live.wf .CORE_DIS_CTL_LOAD 1 3), (.dexca 1), 3, by decide +kernel⟩,
   ⟨cl, 3, by decide +kernel, by decide +kernel, by decide +kernel, by decide +kernel, by decide +kernel, by decide +kernel,
     fun f _ => by
      show (aget [((769 : FlagId), { Flag.reset with owner := some (4, 1) })] f Flag.reset).waiters = []
      unfold aget aget?; split <;> rfl⟩,
   ⟨cl, (.dexca 1), 3, by decide +kernel⟩,
   ⟨cl, (.dexca 1), 3, by decide +kernel⟩,
   ⟨cl, (.dexca 1), 3, by decide +kernel⟩,
   ⟨cl, (.dexca 1), 3, by decide +kernel⟩,
   ⟨((coreOfSt (put live 0x10000 [1,2,3,4,5,6]) 3 fun x => { x with ops := [oL] }).wf .CORE_DIS_CTL_LOAD 1 3), 3, { num := 4, ctx := 1, idx := 0, cls := 4, desc := ([0, 0, 0, 0, 2, 0, 0, 0, 64, 0, 0, 0, 0, 0, 0, 0, 0, 0, 1, 0, 0, 0, 0, 0, 0, 0, 128, 5, 0, 0, 1, 0, 64, 0, 0, 0, 64] ++ List.replicate 27 0), reco := false, setf := false, dflag := 0, tag := 0, mb := 0, k := 0, entry := 5, spec := false, step := 0, pre := none, started := false, result := 0, merge := none },
      by decide +kernel⟩⟩

/-- Hypotheses of SetsAndAtomicsReachTheirWord (AtomicsReadAndWriteOneWord), clause by clause. -/
theorem witness_AtomicsReadAndWriteOneWord :
    (∃ (s : State) (a : Nat), (a % 4 = 0 ∧ ∃ c, regionOf a 4 = some (Region.scratch c) ∧ touchesPartition s c a 4 = false)) ∧
    (∃ (s : State) (a : Nat), (a % 8 = 0 ∧ ∃ c, regionOf a 8 = some (Region.scratch c) ∧ touchesPartition s c a 8 = false)) ∧
    (∃ (s : State) (a : Nat), (a % 16 = 0 ∧ ∃ c, regionOf a 16 = some (Region.scratch c) ∧ touchesPartition s c a 16 = false)) ∧
    (∃ (s : State) (a : Nat), rangeBusy s a 4 = false ∧ a % 4 ≠ 0) ∧
    (∃ (s : State) (a : Nat), rangeBusy s a 16 = false ∧ a % 16 ≠ 0) ∧
    (∃ (s : State) (a : Nat) (h : HalfId), a % 4 = 0 ∧ regionOf a 4 = some (Region.glade h) ∧ touchesUnderstory s h a 4 = false
      ∧ s.rf Fld.GLD_CLR_CTL_BUSY h.val = 0) ∧
    (∃ (a : Nat) (c : CoreId), a % 4 = 0 ∧ regionOf a 4 = some (Region.acc c)) ∧
    (∃ (a : Nat), a % 8 = 0 ∧ regionOf a 8 = some Region.priv) ∧
    (∃ (s : State) (a : Nat) (h : HalfId), regionOf a 4 = some (Region.glade h) ∧ s.rf Fld.GLD_CLR_CTL_BUSY h.val ≠ 0 ∧
      regionOf a 16 = some (Region.glade h)) :=
  ⟨⟨(put live S [1,2,3,255,255,255,255,255,9,9,9,9,9,9]), S, by decide +kernel⟩,
   ⟨(put live S [1,2,3,255,255,255,255,255,9,9,9,9,9,9]), S, by decide +kernel⟩,
   ⟨(put live S [1,2,3,255,255,255,255,255,9,9,9,9,9,9]), S, by decide +kernel⟩,
   ⟨live, (S + 2), by decide +kernel⟩,
   ⟨live, (S + 2), by decide +kernel⟩,
   ⟨live, (gladeBase 1), 1, by decide +kernel⟩,
   ⟨(accBase 3), 3, by decide +kernel⟩,
   ⟨privBase, by decide +kernel⟩,
   ⟨(live.wf .GLD_CLR_CTL_BUSY 1 1), (gladeBase 1), 1, by decide +kernel⟩⟩

/-- Hypotheses of ClearsTestsAndMemoryHealth (BackgroundTestSweepsItsRegions), clause by clause. -/
theorem witness_BackgroundTestSweepsItsRegions :
    (∃ (s : State) (c : CoreId), bistRuns s (BistUnit.core c) = true) ∧
    (∃ (s : State) (c : CoreId), (s.rf Fld.CORE_BIST_STAT_ACTIVE c.val ≠ 1 ∨ s.rf Fld.CORE_BIST_CFG_FORCE c.val ≠ 1)) ∧
    (∃ (s : State) (c : CoreId), s.rf Fld.CORE_BIST_STAT_ACTIVE c.val ≠ 1) ∧
    (∃ (s : State) (c : CoreId), (s.rf Fld.CORE_BIST_CFG_EN c.val ≠ 1 ∨ s.rf Fld.CORE_BIST_STAT_FAIL c.val ≠ 0 ∨ (s.core
      c).node = NodeSt.disabled)) ∧
    (∃ (s : State) (c : CoreId), s.rf Fld.CORE_BIST_STAT_ACTIVE c.val = 1 ∧ s.rf Fld.CORE_BIST_CFG_FORCE c.val = 1) ∧
    (∃ (s : State) (c : CoreId), s.rf Fld.CORE_BIST_STAT_ACTIVE c.val = 1 ∧ s.rf Fld.CORE_BIST_STAT_FAIL c.val = 0 ∧ s.rf
      Fld.CORE_BIST_STAT_REGION c.val + 1 < 768) ∧
    (∃ (s : State) (c : CoreId), s.rf Fld.CORE_BIST_STAT_ACTIVE c.val = 1 ∧ s.rf Fld.CORE_BIST_STAT_FAIL c.val = 0 ∧ s.rf
      Fld.CORE_BIST_STAT_REGION c.val = 767) :=
  ⟨⟨live, 3, by decide +kernel⟩,
   ⟨live, 3, by decide +kernel⟩,
   ⟨live, 3, by decide +kernel⟩,
   ⟨((b1 5).wf .CORE_BIST_STAT_FAIL 1 3), 3, by decide +kernel⟩,
   ⟨((b1 5).wf .CORE_BIST_STAT_ACTIVE 1 3), 3, by decide +kernel⟩,
   ⟨((b1 5).wf .CORE_BIST_STAT_ACTIVE 1 3), 3, by decide +kernel⟩,
   ⟨((b1 767).wf .CORE_BIST_STAT_ACTIVE 1 3), 3, by decide +kernel⟩⟩

/-- Hypotheses of ClearsTestsAndMemoryHealth (ClearsAndInitialisationsZeroTheirPart), clause by clause. -/
theorem witness_ClearsAndInitialisationsZeroTheirPart :
    (∃ (s : State) (a : Agent), s.held = [] ∧ s.fab.store = [] ∧ isDexca a = false) ∧
    (∃ (s : State) (a : Agent) (h : HalfId), s.held = [] ∧ s.fab.store = [] ∧ isDexca a = true ∧ s.rf Fld.GLD_CLR_CTL_BUSY
      h.val = 0) ∧
    (∃ (s : State) (a : Agent) (h : HalfId), s.held = [] ∧ s.fab.store = [] ∧ isDexca a = true ∧ s.rf Fld.HBM_INIT_CTL_BUSY
      h.val = 0) ∧
    (∃ (s : State) (a : Agent) (h : HalfId), s.held = [] ∧ s.fab.store = [] ∧ isDexca a = true ∧ s.rf Fld.LPX_INIT_CTL_BUSY
      h.val = 0) ∧
    (∃ (s : State) (a : Agent) (h : HalfId), s.held = [] ∧ s.fab.store = [] ∧ isDexca a = true ∧ s.rf Fld.GLD_CLR_CTL_BUSY
      h.val ≠ 0) ∧
    (∃ (s : State) (a : Agent) (h : HalfId), s.held = [] ∧ s.fab.store = [] ∧ isDexca a = true ∧ s.rf Fld.HBM_INIT_CTL_BUSY
      h.val ≠ 0) ∧
    (∃ (s : State) (a : Agent) (h : HalfId), s.held = [] ∧ s.fab.store = [] ∧ isDexca a = true ∧ s.rf Fld.LPX_INIT_CTL_BUSY
      h.val ≠ 0) :=
  ⟨⟨m1, .host, by decide +kernel⟩,
   ⟨m1, (.dexca 0), 1, by decide +kernel⟩,
   ⟨m1, (.dexca 0), 1, by decide +kernel⟩,
   ⟨m1, (.dexca 0), 1, by decide +kernel⟩,
   ⟨(((m1.wf .GLD_CLR_CTL_BUSY 1 1).wf .HBM_INIT_CTL_BUSY 1 1).wf .LPX_INIT_CTL_BUSY 1 1), (.dexca 0), 1, by decide +kernel⟩,
   ⟨(((m1.wf .GLD_CLR_CTL_BUSY 1 1).wf .HBM_INIT_CTL_BUSY 1 1).wf .LPX_INIT_CTL_BUSY 1 1), (.dexca 0), 1, by decide +kernel⟩,
   ⟨(((m1.wf .GLD_CLR_CTL_BUSY 1 1).wf .HBM_INIT_CTL_BUSY 1 1).wf .LPX_INIT_CTL_BUSY 1 1), (.dexca 0), 1, by decide +kernel⟩⟩

/-- Hypotheses of ClearsTestsAndMemoryHealth (StackLevelsFollowReadings), clause by clause. -/
theorem witness_StackLevelsFollowReadings :
    (∃ (s : State) (st : StackId) (x : Nat), s.rf Fld.HBM_THR_CFG_EN (st.val / 6) = 1 ∧ s.rf Fld.HBM_STK_LEVEL (st.val / 6)
      (st.val % 6) ≤ 4 ∧ s.rf Fld.HBM_STK_LEVEL (st.val / 6) (st.val % 6) < 4 ∧ max 40 (min 105 (s.rf Fld.HBM_THR_CFG_THRESH
      (st.val / 6))) + s.rf Fld.HBM_STK_LEVEL (st.val / 6) (st.val % 6) * max 1 (s.rf Fld.HBM_THR_CFG_STEP (st.val / 6)) ≤ x) ∧
    (∃ (s : State) (k : HalfId), grants s k 0 = false) ∧
    (∃ (s : State) (st : StackId) (x : Nat), s.rf Fld.HBM_THR_CFG_EN (st.val / 6) = 1 ∧ s.rf Fld.HBM_STK_LEVEL (st.val / 6)
      (st.val % 6) ≤ 4 ∧ 1 ≤ s.rf Fld.HBM_STK_LEVEL (st.val / 6) (st.val % 6) ∧ x + s.rf Fld.HBM_THR_CFG_HYST (st.val / 6) <
      max 40 (min 105 (s.rf Fld.HBM_THR_CFG_THRESH (st.val / 6))) + (s.rf Fld.HBM_STK_LEVEL (st.val / 6) (st.val % 6) - 1) *
      max 1 (s.rf Fld.HBM_THR_CFG_STEP (st.val / 6))) ∧
    (∃ (s : State) (st : StackId), s.rf Fld.HBM_THR_CFG_EN (st.val / 6) = 0) ∧
    (∃ (s : State) (k : HalfId) (v : Nat), grants s k 0 = true ∧ (s.rf Fld.TST_INJ_ARMED k.val ≠ 0 ∨ v / 2 ^ 59 % 8 = 0 ∨ 4 < v
      / 2 ^ 59 % 8)) ∧
    (∃ (s : State) (k : HalfId) (v : Nat), grants s k 0 = true ∧ s.rf Fld.TST_INJ_ARMED k.val = 0 ∧ 1 ≤ v / 2 ^ 59 % 8 ∧ v / 2
      ^ 59 % 8 ≤ 4) :=
  ⟨⟨(t1 0), 7, 60, by decide +kernel⟩,
   ⟨(t1 0), 0, by decide +kernel⟩,
   ⟨(t1 2), 7, 0, by decide +kernel⟩,
   ⟨(live.wf .HBM_THR_CFG_EN 0 1), 7, by decide +kernel⟩,
   ⟨(((live.wf .SEC_LC_STATE 3 0).wf .SEC_LC_STATE 3 1)), 0, 0, by decide +kernel⟩,
   ⟨(((live.wf .SEC_LC_STATE 3 0).wf .SEC_LC_STATE 3 1)), 0, 576460752303423488, by decide +kernel⟩⟩

end W71

namespace W72

def PP : PortId := 11
def pst (st : Nat) : State := (live.setPf .FAB_PORT_STAT_STATE PP st).setPf .FAB_PORT_EXP_VALID PP 1
def pset (s : State) (f : Port → Port) : State := s.setPort PP (f (s.port PP))
def rcd (ser port vmin vmax coord : Nat) (pass : Bool) : IdRecord := ⟨ser, port, vmin, vmax, false, pass, coord, 0, 0⟩
/-- a serial number that is not this device's -/
def other : Nat := if Config.serial % 2 ^ 64 = 77 then 78 else 77
theorem other_ne : other ≠ Config.serial % 2 ^ 64 := by unfold other; split <;> omega
theorem other_cases : other = 77 ∨ other = 78 := by unfold other; split <;> simp
/-- a peer's record -/
def rb (port vmin vmax coord : Nat) (pass : Bool) : List Byte := identityBytes (rcd other port vmin vmax coord pass)
theorem rb_serial (a b c d : Nat) (e : Bool) : (identityOf (rb a b c d e)).serial ≠ Config.serial % 2 ^ 64 := by
  unfold rb
  rw [serial_identityBytes _ (by show other < 2 ^ 64; have := other_cases; omega)]
  exact other_ne
theorem rb_all (P : List Byte → Prop) {a b c d : Nat} {e : Bool} (h1 : P (identityBytes (rcd 77 a b c d e)))
    (h2 : P (identityBytes (rcd 78 a b c d e))) : P (rb a b c d e) := by
  unfold rb; rcases other_cases with h | h <;> rw [h] <;> assumption
def own : List Byte := identityBytes (rcd (Config.serial % 2 ^ 64) 4 2 3 9 false)
theorem own_serial : (identityOf own).serial = Config.serial % 2 ^ 64 := serial_identityBytes _ (Nat.mod_lt _ (by decide))
def r4 (s : State) : State := ((s.setPf .FAB_PORT_PEER_DEV PP 9).setPf .FAB_PORT_PEER_PORT PP 4)
def ex (s : State) : State := (((s.setPf .FAB_PORT_EXP_DEV PP 9).setPf .FAB_PORT_EXP_PORT PP 4))
def fl (fseq ack : Nat) (good : Bool) (unc cor ms sec : Nat) : Flit := ⟨if good then flitBytes fseq ack 0 0 [] else (flitBytes fseq ack 0 0 []).take 255 ++ [7], unc, cor, ms, sec, none⟩
def pk : Packet := { ptype := 0x0A, pclass := 0, tc := 0, chk := false, srcDev := 0, srcAgent := 3, hops := 1, dst := globalAddr 1 0, job := 0, epoch := 0, oseq := 0, tag := 0, via := 0, viaValid := false, payload := [], trailer := [] }
def pk1 : Packet := { pk with ptype := 1 }
def un (l : List (Nat × Packet)) (s : State) : State := pset s fun x => { x with unacked := l, rxSeq := 9, txSeq := 12, fecRem := 1000 }

/-- Hypotheses of PortsTrainAndCheckTheirPeers (PortsTrainStateByState), clause by clause. -/
theorem witness_PortsTrainStateByState :
    (∃ (s : State) (p : PortId), s.pf Fld.FAB_PORT_STAT_STATE p = 0 ∧ (s.pf Fld.FAB_PORT_STAT_DIS p = 0 ∧ (s.port p).closing =
      false ∧ (s.pf Fld.FAB_PORT_EXP_VALID p = 1 ∨ s.rf Fld.FAB_CFG_MODE (portHalf p).val ≠ 0)) ∧ (s.port p).eqFailed = false) ∧
    (∃ (s : State) (p : PortId), s.pf Fld.FAB_PORT_STAT_STATE p ≠ 1) ∧
    (∃ (s : State) (p : PortId), s.pf Fld.FAB_PORT_STAT_STATE p ≠ 2 ∧ s.pf Fld.FAB_PORT_STAT_STATE p ≠ 7) ∧
    (∃ (s : State) (p : PortId), (¬(s.pf Fld.FAB_PORT_STAT_STATE p = 0 ∧ s.pf Fld.FAB_PORT_STAT_DIS p = 0 ∧ (s.port p).closing
      = false ∧ (s.pf Fld.FAB_PORT_EXP_VALID p = 1 ∨ s.rf Fld.FAB_CFG_MODE (portHalf p).val ≠ 0)))) ∧
    (∃ (s : State) (p : PortId), s.pf Fld.FAB_PORT_STAT_STATE p = 1) ∧
    (∃ (s : State) (p : PortId) (l : Fin 16), (s.pf Fld.FAB_PORT_STAT_STATE p = 2 ∨ s.pf Fld.FAB_PORT_STAT_STATE p = 7) ∧ l.val
      = 15) ∧
    (∃ (s : State) (p : PortId) (l : Fin 16), (s.pf Fld.FAB_PORT_STAT_STATE p = 2 ∨ s.pf Fld.FAB_PORT_STAT_STATE p = 7) ∧ l.val
      ≠ 15 ∧ (l.val % 4 = 3 ∨ 12 ≤ l.val)) ∧
    (∃ (s : State) (p : PortId), s.pf Fld.FAB_PORT_STAT_STATE p = 6) ∧
    (∃ (s : State) (p : PortId), s.pf Fld.FAB_PORT_STAT_STATE p = 0 ∧ (s.pf Fld.FAB_PORT_STAT_DIS p = 0 ∧ (s.port p).closing =
      false ∧ (s.pf Fld.FAB_PORT_EXP_VALID p = 1 ∨ s.rf Fld.FAB_CFG_MODE (portHalf p).val ≠ 0)) ∧ (s.port p).eqFailed = true) ∧
    (∃ (s : State) (p : PortId) (l : Fin 16), (s.pf Fld.FAB_PORT_STAT_STATE p = 2 ∨ s.pf Fld.FAB_PORT_STAT_STATE p = 7) ∧ l.val
      % 4 ≠ 3 ∧ l.val < 12 ∧ (s.port p).unacked = [] ∧ (s.port p).queue = []) ∧
    (∃ (s : State) (p : PortId), (s.port p).unacked = [] ∧ (s.port p).queue = [] ∧ s.pf Fld.FAB_PORT_STAT_STATE p = 3) ∧
    (∃ (s : State) (p : PortId), (s.port p).unacked = [] ∧ (s.port p).queue = [] ∧ s.pf Fld.FAB_PORT_STAT_STATE p = 7) ∧
    (∃ (s : State) (p : PortId), (s.port p).unacked = [] ∧ (s.port p).queue = [] ∧ s.pf Fld.FAB_PORT_STAT_STATE p ≠ 0 ∧ s.pf
      Fld.FAB_PORT_STAT_STATE p ≠ 6) ∧
    (∃ (s : State) (p : PortId), s.pf Fld.FAB_PORT_STAT_STATE p = 4 ∧ (s.port p).unacked = [] ∧ (s.port p).queue = []) ∧
    (∃ (s : State) (p : PortId), s.pf Fld.FAB_PORT_STAT_STATE p ≠ 3 ∧ s.pf Fld.FAB_PORT_STAT_STATE p ≠ 4) :=
  ⟨⟨(pst 0), PP, by decide +kernel⟩,
   ⟨live, PP, by decide +kernel⟩,
   ⟨live, PP, by decide +kernel⟩,
   ⟨live, PP, by decide +kernel⟩,
   ⟨(pst 1), PP, by decide +kernel⟩,
   ⟨(pst 2), PP, 15, by decide +kernel⟩,
   ⟨(pst 2), PP, 3, by decide +kernel⟩,
   ⟨(pst 6), PP, by decide +kernel⟩,
   ⟨(pset (pst 0) fun x => { x with eqFailed := true }), PP, by decide +kernel⟩,
   ⟨(pst 2), PP, 0, by decide +kernel⟩,
   ⟨(pst 3), PP, by decide +kernel⟩,
   ⟨(pst 7), PP, by decide +kernel⟩,
   ⟨(pst 1), PP, by decide +kernel⟩,
   ⟨(pst 4), PP, by decide +kernel⟩,
   ⟨live, PP, by decide +kernel⟩⟩

/-- Hypotheses of PortsTrainAndCheckTheirPeers (PeersAreCheckedOrQuarantined), clause by clause. -/
theorem witness_PeersAreCheckedOrQuarantined :
    (∃ (s : State) (p : PortId) (b : List Byte) (r : IdRecord), (s.port p).unacked = [] ∧ (s.port p).queue = [] ∧ b.length = 32
      ∧ crc32c (List.take 28 b) = dfld b 28 31 0 ∧ r = identityOf b ∧ s.pf Fld.FAB_PORT_STAT_STATE p = 3 ∧ r.serial =
      Config.serial % 2 ^ 64) ∧
    (∃ (s : State) (p : PortId) (b : List Byte) (r : IdRecord), (s.port p).unacked = [] ∧ (s.port p).queue = [] ∧ b.length = 32
      ∧ crc32c (List.take 28 b) = dfld b 28 31 0 ∧ r = identityOf b ∧ s.pf Fld.FAB_PORT_STAT_STATE p = 3 ∧ r.serial ≠
      Config.serial % 2 ^ 64 ∧ s.rf Fld.FAB_CFG_MODE (portHalf p).val = 0 ∧ (¬(r.coord = s.pf Fld.FAB_PORT_EXP_DEV p ∧ r.port =
      s.pf Fld.FAB_PORT_EXP_PORT p))) ∧
    (∃ (s : State) (p : PortId) (b : List Byte) (r : IdRecord), (s.port p).unacked = [] ∧ (s.port p).queue = [] ∧ b.length = 32
      ∧ crc32c (List.take 28 b) = dfld b 28 31 0 ∧ r = identityOf b ∧ s.pf Fld.FAB_PORT_STAT_STATE p = 3 ∧ r.serial ≠
      Config.serial % 2 ^ 64 ∧ (s.rf Fld.FAB_CFG_MODE (portHalf p).val = 0 → r.coord = s.pf Fld.FAB_PORT_EXP_DEV p ∧ r.port =
      s.pf Fld.FAB_PORT_EXP_PORT p) ∧ min (max 2 (min 3 (s.rf Fld.FAB_CFG_VMAX (portHalf p).val))) r.vmax < max (max 2 (min 3
      (s.rf Fld.FAB_CFG_VMIN (portHalf p).val))) r.vmin) ∧
    (∃ (s : State) (p : PortId) (b : List Byte) (r : IdRecord), (s.port p).unacked = [] ∧ (s.port p).queue = [] ∧ b.length = 32
      ∧ crc32c (List.take 28 b) = dfld b 28 31 0 ∧ r = identityOf b ∧ s.pf Fld.FAB_PORT_STAT_STATE p = 3 ∧ (r.serial ≠
      Config.serial % 2 ^ 64 ∧ (s.rf Fld.FAB_CFG_MODE (portHalf p).val = 0 → r.coord = s.pf Fld.FAB_PORT_EXP_DEV p ∧ r.port =
      s.pf Fld.FAB_PORT_EXP_PORT p) ∧ max (max 2 (min 3 (s.rf Fld.FAB_CFG_VMIN (portHalf p).val))) r.vmin ≤ min (max 2 (min 3
      (s.rf Fld.FAB_CFG_VMAX (portHalf p).val))) r.vmax) ∧ r.pass = false) ∧
    (∃ (s : State) (p : PortId) (b : List Byte) (r : IdRecord), (s.port p).unacked = [] ∧ (s.port p).queue = [] ∧ b.length = 32
      ∧ crc32c (List.take 28 b) = dfld b 28 31 0 ∧ r = identityOf b ∧ s.pf Fld.FAB_PORT_STAT_STATE p = 3 ∧ (r.serial ≠
      Config.serial % 2 ^ 64 ∧ (s.rf Fld.FAB_CFG_MODE (portHalf p).val = 0 → r.coord = s.pf Fld.FAB_PORT_EXP_DEV p ∧ r.port =
      s.pf Fld.FAB_PORT_EXP_PORT p) ∧ max (max 2 (min 3 (s.rf Fld.FAB_CFG_VMIN (portHalf p).val))) r.vmin ≤ min (max 2 (min 3
      (s.rf Fld.FAB_CFG_VMAX (portHalf p).val))) r.vmax) ∧ r.pass = true) ∧
    (∃ (s : State) (p : PortId) (b : List Byte) (r : IdRecord), (s.port p).unacked = [] ∧ (s.port p).queue = [] ∧ b.length = 32
      ∧ crc32c (List.take 28 b) = dfld b 28 31 0 ∧ r = identityOf b ∧ s.pf Fld.FAB_PORT_STAT_STATE p = 4 ∧ r.serial ≠
      Config.serial % 2 ^ 64 ∧ (s.port p).discover = false ∧ (¬(r.coord = s.pf Fld.FAB_PORT_PEER_DEV p ∧ r.port = s.pf
      Fld.FAB_PORT_PEER_PORT p))) ∧
    (∃ (s : State) (p : PortId) (b : List Byte) (r : IdRecord), (s.port p).unacked = [] ∧ (s.port p).queue = [] ∧ b.length = 32
      ∧ crc32c (List.take 28 b) = dfld b 28 31 0 ∧ r = identityOf b ∧ s.pf Fld.FAB_PORT_STAT_STATE p = 6) ∧
    (∃ (s : State) (p : PortId) (b : List Byte) (r : IdRecord), (s.port p).unacked = [] ∧ (s.port p).queue = [] ∧ b.length = 32
      ∧ crc32c (List.take 28 b) = dfld b 28 31 0 ∧ r = identityOf b ∧ s.pf Fld.FAB_PORT_STAT_STATE p ≠ 3 ∧ s.pf
      Fld.FAB_PORT_STAT_STATE p ≠ 4 ∧ s.pf Fld.FAB_PORT_STAT_STATE p ≠ 6) ∧
    (∃ (s : State) (p : PortId) (b : List Byte) (r : IdRecord) (bs : List (List Byte)), (s.port p).unacked = [] ∧ (s.port
      p).queue = [] ∧ b.length = 32 ∧ crc32c (List.take 28 b) = dfld b 28 31 0 ∧ r = identityOf b ∧ identityTaken bs = none) ∧
    (∃ (s : State) (p : PortId) (b : List Byte) (r : IdRecord) (x : List Byte) (y : List Byte) (z : List Byte), (s.port
      p).unacked = [] ∧ (s.port p).queue = [] ∧ b.length = 32 ∧ crc32c (List.take 28 b) = dfld b 28 31 0 ∧ r = identityOf b ∧
      (x ≠ y ∨ y ≠ z ∨ x.length ≠ 32 ∨ crc32c (List.take 28 x) ≠ dfld x 28 31 0)) ∧
    (∃ (s : State) (p : PortId) (b : List Byte) (r : IdRecord) (a : Agent), (s.port p).unacked = [] ∧ (s.port p).queue = [] ∧
      b.length = 32 ∧ crc32c (List.take 28 b) = dfld b 28 31 0 ∧ r = identityOf b ∧ isDexca a = false) ∧
    (∃ (s : State) (p : PortId) (b : List Byte) (r : IdRecord) (a : Agent), (s.port p).unacked = [] ∧ (s.port p).queue = [] ∧
      b.length = 32 ∧ crc32c (List.take 28 b) = dfld b 28 31 0 ∧ r = identityOf b ∧ isDexca a = true) ∧
    (∃ (s : State) (p : PortId) (b : List Byte) (r : IdRecord), (s.port p).unacked = [] ∧ (s.port p).queue = [] ∧ b.length = 32
      ∧ crc32c (List.take 28 b) = dfld b 28 31 0 ∧ r = identityOf b ∧ s.pf Fld.FAB_PORT_STAT_STATE p = 4 ∧ r.serial =
      Config.serial % 2 ^ 64) ∧
    (∃ (s : State) (p : PortId) (b : List Byte) (r : IdRecord), (s.port p).unacked = [] ∧ (s.port p).queue = [] ∧ b.length = 32
      ∧ crc32c (List.take 28 b) = dfld b 28 31 0 ∧ r = identityOf b ∧ s.pf Fld.FAB_PORT_STAT_STATE p = 4 ∧ r.serial ≠
      Config.serial % 2 ^ 64 ∧ ((s.port p).discover = false → r.coord = s.pf Fld.FAB_PORT_PEER_DEV p ∧ r.port = s.pf
      Fld.FAB_PORT_PEER_PORT p) ∧ min (max 2 (min 3 (s.rf Fld.FAB_CFG_VMAX (portHalf p).val))) r.vmax < max (max 2 (min 3
      (s.rf Fld.FAB_CFG_VMIN (portHalf p).val))) r.vmin) ∧
    (∃ (s : State) (p : PortId) (b : List Byte) (r : IdRecord), (s.port p).unacked = [] ∧ (s.port p).queue = [] ∧ b.length = 32
      ∧ crc32c (List.take 28 b) = dfld b 28 31 0 ∧ r = identityOf b ∧ s.pf Fld.FAB_PORT_STAT_STATE p = 4 ∧ (r.serial ≠
      Config.serial % 2 ^ 64 ∧ ((s.port p).discover = false → r.coord = s.pf Fld.FAB_PORT_PEER_DEV p ∧ r.port = s.pf
      Fld.FAB_PORT_PEER_PORT p) ∧ max (max 2 (min 3 (s.rf Fld.FAB_CFG_VMIN (portHalf p).val))) r.vmin ≤ min (max 2 (min 3
      (s.rf Fld.FAB_CFG_VMAX (portHalf p).val))) r.vmax) ∧ r.pass = true) ∧
    (∃ (s : State) (p : PortId) (b : List Byte) (r : IdRecord), (s.port p).unacked = [] ∧ (s.port p).queue = [] ∧ b.length = 32
      ∧ crc32c (List.take 28 b) = dfld b 28 31 0 ∧ r = identityOf b ∧ s.pf Fld.FAB_PORT_STAT_STATE p = 4 ∧ (r.serial ≠
      Config.serial % 2 ^ 64 ∧ ((s.port p).discover = false → r.coord = s.pf Fld.FAB_PORT_PEER_DEV p ∧ r.port = s.pf
      Fld.FAB_PORT_PEER_PORT p) ∧ max (max 2 (min 3 (s.rf Fld.FAB_CFG_VMIN (portHalf p).val))) r.vmin ≤ min (max 2 (min 3
      (s.rf Fld.FAB_CFG_VMAX (portHalf p).val))) r.vmax) ∧ r.pass = false) :=
  ⟨⟨(ex (pst 3)), PP, own, _, by decide +kernel, by decide +kernel, length_identityBytes _, crc_identityBytes _, rfl, by decide +kernel, own_serial⟩,
   ⟨(ex (pst 3)), PP, rb 5 2 3 9 false, _, by decide +kernel, by decide +kernel, length_identityBytes _, crc_identityBytes _, rfl, by decide +kernel,
     rb_serial _ _ _ _ _, by decide +kernel, rb_all (fun b => ¬((identityOf b).coord = (ex (pst 3)).pf Fld.FAB_PORT_EXP_DEV PP ∧ (identityOf b).port = (ex (pst 3)).pf Fld.FAB_PORT_EXP_PORT PP)) (by decide +kernel) (by decide +kernel)⟩,
   ⟨(ex (pst 3)), PP, rb 4 4 5 9 false, _, by decide +kernel, by decide +kernel, length_identityBytes _, crc_identityBytes _, rfl, by decide +kernel,
     rb_serial _ _ _ _ _, fun _ => rb_all (fun b => (identityOf b).coord = (ex (pst 3)).pf Fld.FAB_PORT_EXP_DEV PP ∧ (identityOf b).port = (ex (pst 3)).pf Fld.FAB_PORT_EXP_PORT PP) (by decide +kernel) (by decide +kernel),
     rb_all (fun b => min (max 2 (min 3 ((ex (pst 3)).rf Fld.FAB_CFG_VMAX (portHalf PP).val))) (identityOf b).vmax < max (max 2 (min 3 ((ex (pst 3)).rf Fld.FAB_CFG_VMIN (portHalf PP).val))) (identityOf b).vmin) (by decide +kernel) (by decide +kernel)⟩,
   ⟨(ex (pst 3)), PP, rb 4 2 3 9 false, _, by decide +kernel, by decide +kernel, length_identityBytes _, crc_identityBytes _, rfl, by decide +kernel,
     ⟨rb_serial _ _ _ _ _, fun _ => rb_all (fun b => (identityOf b).coord = (ex (pst 3)).pf Fld.FAB_PORT_EXP_DEV PP ∧ (identityOf b).port = (ex (pst 3)).pf Fld.FAB_PORT_EXP_PORT PP) (by decide +kernel) (by decide +kernel),
     rb_all (fun b => max (max 2 (min 3 ((ex (pst 3)).rf Fld.FAB_CFG_VMIN (portHalf PP).val))) (identityOf b).vmin ≤ min (max 2 (min 3 ((ex (pst 3)).rf Fld.FAB_CFG_VMAX (portHalf PP).val))) (identityOf b).vmax) (by decide +kernel) (by decide +kernel)⟩,
     rb_all (fun b => (identityOf b).pass = false) (by decide +kernel) (by decide +kernel)⟩,
   ⟨(ex (pst 3)), PP, rb 4 2 3 9 true, _, by decide +kernel, by decide +kernel, length_identityBytes _, crc_identityBytes _, rfl, by decide +kernel,
     ⟨rb_serial _ _ _ _ _, fun _ => rb_all (fun b => (identityOf b).coord = (ex (pst 3)).pf Fld.FAB_PORT_EXP_DEV PP ∧ (identityOf b).port = (ex (pst 3)).pf Fld.FAB_PORT_EXP_PORT PP) (by decide +kernel) (by decide +kernel),
     rb_all (fun b => max (max 2 (min 3 ((ex (pst 3)).rf Fld.FAB_CFG_VMIN (portHalf PP).val))) (identityOf b).vmin ≤ min (max 2 (min 3 ((ex (pst 3)).rf Fld.FAB_CFG_VMAX (portHalf PP).val))) (identityOf b).vmax) (by decide +kernel) (by decide +kernel)⟩,
     rb_all (fun b => (identityOf b).pass = true) (by decide +kernel) (by decide +kernel)⟩,
   ⟨(r4 (pst 4)), PP, rb 5 2 3 9 true, _, by decide +kernel, by decide +kernel, length_identityBytes _, crc_identityBytes _, rfl, by decide +kernel,
     rb_serial _ _ _ _ _, by decide +kernel, rb_all (fun b => ¬((identityOf b).coord = (r4 (pst 4)).pf Fld.FAB_PORT_PEER_DEV PP ∧ (identityOf b).port = (r4 (pst 4)).pf Fld.FAB_PORT_PEER_PORT PP)) (by decide +kernel) (by decide +kernel)⟩,
   ⟨((ex (pst 6)).setPf .FAB_PORT_STAT_QCAUSE PP 2), PP, own, _, by decide +kernel, by decide +kernel, length_identityBytes _, crc_identityBytes _, rfl, by decide +kernel⟩,
   ⟨(ex (pst 5)), PP, own, _, by decide +kernel, by decide +kernel, length_identityBytes _, crc_identityBytes _, rfl, by and_intros <;> decide +kernel⟩,
   ⟨(ex (pst 3)), PP, own, _, [], by decide +kernel, by decide +kernel, length_identityBytes _, crc_identityBytes _, rfl, rfl⟩,
   ⟨(ex (pst 3)), PP, own, _, [], [1], [], by decide +kernel, by decide +kernel, length_identityBytes _, crc_identityBytes _, rfl, by decide⟩,
   ⟨(ex (pst 3)), PP, own, _, .host, by decide +kernel, by decide +kernel, length_identityBytes _, crc_identityBytes _, rfl, rfl⟩,
   ⟨(ex (pst 3)), PP, own, _, .dexca 1, by decide +kernel, by decide +kernel, length_identityBytes _, crc_identityBytes _, rfl, rfl⟩,
   ⟨(r4 (pst 4)), PP, own, _, by decide +kernel, by decide +kernel, length_identityBytes _, crc_identityBytes _, rfl, by decide +kernel, own_serial⟩,
   ⟨(r4 (pst 4)), PP, rb 4 4 5 9 true, _, by decide +kernel, by decide +kernel, length_identityBytes _, crc_identityBytes _, rfl, by decide +kernel,
     rb_serial _ _ _ _ _, fun _ => rb_all (fun b => (identityOf b).coord = (r4 (pst 4)).pf Fld.FAB_PORT_PEER_DEV PP ∧ (identityOf b).port = (r4 (pst 4)).pf Fld.FAB_PORT_PEER_PORT PP) (by decide +kernel) (by decide +kernel),
     rb_all (fun b => min (max 2 (min 3 ((r4 (pst 4)).rf Fld.FAB_CFG_VMAX (portHalf PP).val))) (identityOf b).vmax < max (max 2 (min 3 ((r4 (pst 4)).rf Fld.FAB_CFG_VMIN (portHalf PP).val))) (identityOf b).vmin) (by decide +kernel) (by decide +kernel)⟩,
   ⟨(r4 (pst 4)), PP, rb 4 2 3 9 true, _, by decide +kernel, by decide +kernel, length_identityBytes _, crc_identityBytes _, rfl, by decide +kernel,
     ⟨rb_serial _ _ _ _ _, fun _ => rb_all (fun b => (identityOf b).coord = (r4 (pst 4)).pf Fld.FAB_PORT_PEER_DEV PP ∧ (identityOf b).port = (r4 (pst 4)).pf Fld.FAB_PORT_PEER_PORT PP) (by decide +kernel) (by decide +kernel),
     rb_all (fun b => max (max 2 (min 3 ((r4 (pst 4)).rf Fld.FAB_CFG_VMIN (portHalf PP).val))) (identityOf b).vmin ≤ min (max 2 (min 3 ((r4 (pst 4)).rf Fld.FAB_CFG_VMAX (portHalf PP).val))) (identityOf b).vmax) (by decide +kernel) (by decide +kernel)⟩,
     rb_all (fun b => (identityOf b).pass = true) (by decide +kernel) (by decide +kernel)⟩,
   ⟨(r4 (pst 4)), PP, rb 4 2 3 9 false, _, by decide +kernel, by decide +kernel, length_identityBytes _, crc_identityBytes _, rfl, by decide +kernel,
     ⟨rb_serial _ _ _ _ _, fun _ => rb_all (fun b => (identityOf b).coord = (r4 (pst 4)).pf Fld.FAB_PORT_PEER_DEV PP ∧ (identityOf b).port = (r4 (pst 4)).pf Fld.FAB_PORT_PEER_PORT PP) (by decide +kernel) (by decide +kernel),
     rb_all (fun b => max (max 2 (min 3 ((r4 (pst 4)).rf Fld.FAB_CFG_VMIN (portHalf PP).val))) (identityOf b).vmin ≤ min (max 2 (min 3 ((r4 (pst 4)).rf Fld.FAB_CFG_VMAX (portHalf PP).val))) (identityOf b).vmax) (by decide +kernel) (by decide +kernel)⟩,
     rb_all (fun b => (identityOf b).pass = false) (by decide +kernel) (by decide +kernel)⟩⟩

/-- Hypotheses of FlitsAreAcceptedInOrder, clause by clause. -/
theorem witness_FlitsAreAcceptedInOrder :

     (∃ (s : State) (p : PortId), s.pf Fld.FAB_PORT_STAT_STATE p ≠ 5) ∧
    (∃ (s : State) (p : PortId), (s.pf Fld.FAB_PORT_STAT_STATE p ≠ 5 ∨ (s.port p).unacked = [])) ∧
    (∃ (a : Agent), isDexca a = false) ∧
    (∃ (s : State) (a : Agent) (k : HalfId), isDexca a = true ∧ s.rf Fld.FAB_DIS_CTL_PORT k.val < 512) ∧
    (∃ (s : State) (p : PortId), (s.port p).closing = false) ∧
    (∃ (s : State) (p : PortId) (f : Flit), s.pf Fld.FAB_PORT_STAT_STATE p = 5 ∧ flGood f = true ∧ f.fecUncorrectable = 0 ∧ dfld f.bytes 0 11 0 = (s.port p).rxSeq ∧ (s.port p).queue = [] ∧ f.replay = none) ∧
    (∃ (s : State) (p : PortId) (f : Flit), s.pf Fld.FAB_PORT_STAT_STATE p = 5 ∧ flGood f = true ∧ f.fecUncorrectable = 0 ∧ dfld f.bytes 0 11 0 ≠ (s.port p).rxSeq) ∧
    (∃ (s : State) (p : PortId) (f : Flit), s.pf Fld.FAB_PORT_STAT_STATE p = 5 ∧ flGood f = false ∧ s.pf Fld.FAB_PORT_ERR_LCRC p < 65535 ∧ f.msErrors < max 1 (s.rf Fld.FAB_CFG_ERRLIM (portHalf p).val)) ∧
    (∃ (s : State) (p : PortId) (f : Flit), s.pf Fld.FAB_PORT_STAT_STATE p = 5 ∧ flGood f = false ∧ s.pf Fld.FAB_PORT_ERR_LCRC p < 65535 ∧ max 1 (s.rf Fld.FAB_CFG_ERRLIM (portHalf p).val) ≤ f.msErrors ∧ f.secRetrains + 1 < max 1 (s.rf Fld.FAB_CFG_RTLIM (portHalf p).val)) ∧
    (∃ (s : State) (p : PortId) (f : Flit), s.pf Fld.FAB_PORT_STAT_STATE p = 5 ∧ flGood f = false ∧ s.pf Fld.FAB_PORT_ERR_LCRC p < 65535 ∧ max 1 (s.rf Fld.FAB_CFG_ERRLIM (portHalf p).val) ≤ f.msErrors ∧ max 1 (s.rf Fld.FAB_CFG_RTLIM (portHalf p).val) ≤ f.secRetrains + 1 ∧ (s.port p).unacked = [] ∧ (s.port p).queue = []) ∧
    (∃ (s : State) (p : PortId) (n : Nat) (pkt : Packet) (q : PortId) (x : Packet), PortsIdle s (flitsOf pkt) ∧ s.pf Fld.FAB_PORT_STAT_STATE p = 5 ∧ (s.port p).unacked = [(n, pkt)] ∧ nextPort (setPortState s p 0) { pkt with hops := pkt.hops - 1 } false = some (q, x)) ∧
    (∃ (s : State) (p : PortId) (n : Nat) (pkt : Packet), PortsIdle s (flitsOf pkt) ∧ s.pf Fld.FAB_PORT_STAT_STATE p = 5 ∧ (s.port p).unacked = [(n, pkt)] ∧ nextPort (setPortState s p 0) { pkt with hops := pkt.hops - 1 } false = none ∧ isRequest pkt.ptype = false) ∧
    (∃ (s : State) (p : PortId), (s.port p).closing = true ∧ s.pf Fld.FAB_PORT_STAT_DIS p = 0 ∧ (s.port p).unacked = [] ∧ (s.port p).queue = []) ∧
    (∃ (s : State) (p : PortId) (f : Flit) (n : Nat), s.pf Fld.FAB_PORT_STAT_STATE p = 5 ∧ flGood f = true ∧ f.fecUncorrectable = 0 ∧ dfld f.bytes 0 11 0 = (s.port p).rxSeq ∧ (s.port p).queue = [] ∧ f.replay = some n) ∧
    (∃ (s : State) (p : PortId) (f : Flit) (k : Packet), s.pf Fld.FAB_PORT_STAT_STATE p = 5 ∧ flGood f = true ∧ f.fecUncorrectable = 0 ∧ dfld f.bytes 0 11 0 = (s.port p).rxSeq ∧ (s.port p).queue = [k] ∧ f.replay = none ∧ (s.port p).unacked = [] ∧ s.rf Fld.TST_INJ_ARMED 0 = 0 ∧ s.rf Fld.TST_INJ_ARMED 1 = 0 ∧ flitsOf k ≤ 1024 ∧ (s.port p).outstanding = 1 ∧ dfld f.bytes 0 23 12 = ((s.port p).txSeq + 4095) % 4096) :=
  ⟨⟨(pst 4), PP, by decide +kernel⟩,
   ⟨(pst 4), PP, by decide +kernel⟩,
   ⟨Sys2Proof.Agent.host, by decide +kernel⟩,
   ⟨(pst 4), Sys2Proof.Agent.dexca 1, 0, by decide +kernel⟩,
   ⟨(pst 4), PP, by decide +kernel⟩,
   ⟨(un [(4, pk), (7, pk1)] (pst 5)), PP, (fl 9 5 true 0 30 0 0), by decide +kernel⟩,
   ⟨(un [(4, pk), (7, pk1)] (pst 5)), PP, (fl 10 5 true 0 30 0 0), by decide +kernel⟩,
   ⟨(un [(7, pk)] (pst 5)), PP, (fl 10 5 false 0 30 0 0), by decide +kernel⟩,
   ⟨(un [(4, pk), (7, pk1)] (pst 5)), PP, (fl 10 5 false 0 30 100000 0), by decide +kernel⟩,
   ⟨(un [] (pst 5)), PP, (fl 10 5 false 0 30 100000 100000), by decide +kernel⟩,
   ⟨(un [(7, pk)] (upAll live)), PP, 7, { ptype := 10, pclass := 0, tc := 0, chk := false, srcDev := 0, srcAgent := 3, hops := 1, dst := 1125899906842624, job := 0, epoch := 0, oseq := 0, tag := 0, via := 0, viaValid := false, payload := [], trailer := [] },
      0, { ptype := 10, pclass := 0, tc := 0, chk := false, srcDev := 0, srcAgent := 3, hops := 0, dst := 1125899906842624, job := 0, epoch := 0, oseq := 0, tag := 0, via := 0, viaValid := false, payload := [], trailer := [] },
      by unfold PortsIdle; decide +kernel, by decide +kernel⟩,
   ⟨(un [(7, { pk with hops := 9 })] (pst 5)), PP, 7, { pk with hops := 9 },
      by unfold PortsIdle; decide +kernel, by decide +kernel⟩,
   ⟨(pset (pst 5) fun x => { x with closing := true }), PP, by decide +kernel⟩,
   ⟨un [(7, pk)] (pst 5), PP, { fl 9 5 true 0 30 0 0 with replay := some 7 }, 7, by decide +kernel⟩,
   ⟨pset (un [] (pst 5)) fun x => { x with queue := [pk], txAck := 11 }, PP, fl 9 11 true 0 30 0 0, pk, by decide +kernel⟩⟩

end W72

namespace W73

/-- op chk tc atop last len laddr raddr rflag operand spec tbytes -/
def fb (op chk tc atop last len la ra rf opd spec tb : Nat) : List Byte :=
  natLE 4 (op + chk * 16 + tc * 32 + atop * 256 + last * 2048) ++ natLE 4 len ++ natLE 8 la ++ natLE 8 ra ++ natLE 8 rf ++ natLE 8 opd ++ natLE 4 spec ++ natLE 4 tb ++ natLE 16 0
def L : Nat := scratchBase 3 + 0x8000
def R1 : Nat := globalAddr 1 0x10000
def sx (up : Bool) (d : List Byte) : State :=
  let s := put (ctxIn live 3 1 (cw 6 0 0 0 0 0 5 (descAt 3)) d) L ((exchEncode ⟨0, 5⟩).take 16 ++ List.replicate 64 3)
  if up then upAll s else s
def undy (s : State) : State := (s.wf .COL_UND_CFG_SIZE 2 0).wf .COL_UND_CFG_BASE 3 0
def UG : Nat := gladeBase 0 + 3 * 65536
def a0 := sx true (fb 0 0 1 0 0 16 L R1 0 0 0 0)
def a1 := sx true (fb 1 0 3 0 0 16 L R1 0 0 0 0)
def a2 := sx true (fb 2 0 1 0 0 16 L R1 5 0 0 0)
def a3 := sx true (fb 5 0 1 0 0 0 L R1 0 0 1 16)
def a4 := sx true (fb 1 0 1 0 0 16 (scratchBase 4) R1 0 0 1 16)
def a5 := undy (sx true (fb 1 0 1 0 0 16 UG R1 0 0 1 16))
def a6 := sx true (fb 1 0 1 0 0 16 L (globalAddr 1 privBase) 0 0 1 16)
def a7 := put (sx true (fb 3 0 1 0 0 1 L (globalAddr 1 (accBase 3)) 0 0 1 16)) L (List.replicate 64 255)
/-- an address of a device that a link reaches, or of one two hops away -/
def gd (up : Bool) (l : Nat) : Nat := globalAddr (if up then 1 else 9) l
def tx (t : Nat) (up : Bool) : State := match t with
  | 1 => sx up (fb 1 0 1 0 0 16 L (gd up 0x10000) 0 0 0 0)
  | 2 => sx up (fb 2 0 1 0 0 16 L (gd up 0x10000) 0 0 0 0)
  | 3 => sx up (fb 3 0 1 0 0 1 L (gd up (accBase 3)) 0 0 0 0)
  | 4 => sx up (fb 4 0 1 1 0 0 L (gd up (scratchBase 3)) 0 7 0 0)
  | 5 => put (sx up (fb 5 0 1 0 1 1 L (gd up sramBase) 0 0 9 16)) L (natLE 4 0 ++ natLE 4 7 ++ natLE 4 1 ++ natLE 4 16 ++ natLE 32 99)
  | 6 => sx up (fb 6 0 1 0 0 0 0 (gd up sramBase) 0 0 9 0)
  | 7 => sx up (fb 7 0 1 0 0 0 0 (gd up sramBase) 0 0 9 0)
  | 8 => sx up (fb 1 0 1 0 0 16 L (gd up 0x10000) (globalAddr 1 (fa 33)) 0 0 0)
  | _ => sx up (fb 1 0 1 0 0 0 L (gd up 0x10000) 0 0 0 0)
def kt (i : Nat) (up : Bool) := kOf (tx i up) 3 1
def pkts : List Packet := [1, 8].flatMap fun i => (sentBy (tx i true) (sentPacket (tx i true) 3 1 (kt i true).desc 1 1 R1 ((tx i true).read L 16) (trailerOf false ((tx i true).read L 16)))).map Prod.snd
def ports : List PortId := [1, 8].flatMap fun i => (sentBy (tx i true) (sentPacket (tx i true) 3 1 (kt i true).desc 1 1 R1 ((tx i true).read L 16) (trailerOf false ((tx i true).read L 16)))).map Prod.fst
def tokB (i : Nat) : List (List Byte) := match (nx (exec (.token 3 1) (tx i true))).fab.sent with | [(_, x)] => [x.payload] | _ => [(tx i true).read L 48]

/-- Hypotheses of FabricCommandsAreCheckedAndSent (FabricCommandsAreCheckedInOrder), clause by clause. -/
theorem witness_FabricCommandsAreCheckedInOrder :
    (∃ (s : State) (c : CoreId) (n : CtxId) (k : Cmd), Sound s c n k ∧ k.cls = clFabric ∧ (fbOp k.desc = 0 ∨ 8 < fbOp k.desc ∨
      fbOp k.desc = 8 ∧ (dfld k.desc 0 6 4 = 0 ∨ 4 < dfld k.desc 0 6 4))) ∧
    (∃ (s : State) (c : CoreId) (n : CtxId) (k : Cmd), Sound s c n k ∧ k.cls = clFabric ∧ 1 ≤ fbOp k.desc ∧ fbOp k.desc ≤ 7 ∧
      fbTc k.desc = 3) ∧
    (∃ (s : State) (c : CoreId) (n : CtxId) (k : Cmd), Sound s c n k ∧ k.cls = clFabric ∧ 1 ≤ fbOp k.desc ∧ fbOp k.desc ≤ 7 ∧
      fbTc k.desc ≠ 3 ∧ (fbOp k.desc = 4 ∧ 4 ≤ fbAtop k.desc ∨ fbRflag k.desc ≠ 0 ∧ fbOp k.desc ≠ 1 ∧ fbOp k.desc ≠ 3)) ∧
    (∃ (s : State) (c : CoreId) (n : CtxId) (k : Cmd), Sound s c n k ∧ k.cls = clFabric ∧ 1 ≤ fbOp k.desc ∧ fbOp k.desc ≤ 7 ∧
      fbTc k.desc ≠ 3 ∧ (¬(fbOp k.desc = 4 ∧ 4 ≤ fbAtop k.desc ∨ fbRflag k.desc ≠ 0 ∧ fbOp k.desc ≠ 1 ∧ fbOp k.desc ≠ 3)) ∧
      (fbOp k.desc = 5 ∧ (fbLen k.desc = 0 ∨ fbTBytes k.desc % 16 ≠ 0 ∨ fbTBytes k.desc < 16 ∨ 65536 < fbTBytes k.desc) ∨ 5 ≤
      fbOp k.desc ∧ fbSpec k.desc = 0)) ∧
    (∃ (s : State) (c : CoreId) (n : CtxId) (k : Cmd), Sound s c n k ∧ k.cls = clFabric ∧ 1 ≤ fbOp k.desc ∧ fbOp k.desc ≤ 7 ∧
      fbTc k.desc ≠ 3 ∧ (¬(fbOp k.desc = 4 ∧ 4 ≤ fbAtop k.desc ∨ fbRflag k.desc ≠ 0 ∧ fbOp k.desc ≠ 1 ∧ fbOp k.desc ≠ 3)) ∧
      (¬(fbOp k.desc = 5 ∧ (fbLen k.desc = 0 ∨ fbTBytes k.desc % 16 ≠ 0 ∨ fbTBytes k.desc < 16 ∨ 65536 < fbTBytes k.desc) ∨ 5 ≤
      fbOp k.desc ∧ fbSpec k.desc = 0)) ∧ (¬(fbOp k.desc = 6 ∨ fbOp k.desc = 7 ∨ fbOp k.desc = 4 ∧ fbLaddr k.desc = 0) ∧ (fbOp
      k.desc = 4 ∧ fbLaddr k.desc % 8 ≠ 0 ∨ ∀ (x : Region), regionOf (fbLaddr k.desc) (fbSpan s k.desc) = some x → x ≠
      Region.scratch c ∧ x ≠ Region.glade (halfOfCore c) ∧ (x = Region.hbm → fbOp k.desc ≠ 1 ∧ fbOp k.desc ≠ 2 ∧ fbOp k.desc ≠
      5) ∧ (x = Region.lpddr → fbOp k.desc ≠ 1 ∧ fbOp k.desc ≠ 2)))) ∧
    (∃ (s : State) (c : CoreId) (n : CtxId) (k : Cmd), Sound s c n k ∧ k.cls = clFabric ∧ 1 ≤ fbOp k.desc ∧ fbOp k.desc ≤ 7 ∧
      fbTc k.desc ≠ 3 ∧ (¬(fbOp k.desc = 4 ∧ 4 ≤ fbAtop k.desc ∨ fbRflag k.desc ≠ 0 ∧ fbOp k.desc ≠ 1 ∧ fbOp k.desc ≠ 3)) ∧
      (¬(fbOp k.desc = 5 ∧ (fbLen k.desc = 0 ∨ fbTBytes k.desc % 16 ≠ 0 ∨ fbTBytes k.desc < 16 ∨ 65536 < fbTBytes k.desc) ∨ 5 ≤
      fbOp k.desc ∧ fbSpec k.desc = 0)) ∧ (¬(fbOp k.desc = 6 ∨ fbOp k.desc = 7 ∨ fbOp k.desc = 4 ∧ fbLaddr k.desc = 0)) ∧
      (¬(¬(fbOp k.desc = 6 ∨ fbOp k.desc = 7 ∨ fbOp k.desc = 4 ∧ fbLaddr k.desc = 0) ∧ (fbOp k.desc = 4 ∧ fbLaddr k.desc % 8 ≠
      0 ∨ ∀ (x : Region), regionOf (fbLaddr k.desc) (fbSpan s k.desc) = some x → x ≠ Region.scratch c ∧ x ≠ Region.glade
      (halfOfCore c) ∧ (x = Region.hbm → fbOp k.desc ≠ 1 ∧ fbOp k.desc ≠ 2 ∧ fbOp k.desc ≠ 5) ∧ (x = Region.lpddr → fbOp k.desc
      ≠ 1 ∧ fbOp k.desc ≠ 2)))) ∧ touchesHidden s (fbLaddr k.desc, fbSpan s k.desc) = true) ∧
    (∃ (s : State) (c : CoreId) (n : CtxId) (k : Cmd), Sound s c n k ∧ k.cls = clFabric ∧ 1 ≤ fbOp k.desc ∧ fbOp k.desc ≤ 7 ∧
      fbTc k.desc ≠ 3 ∧ (¬(fbOp k.desc = 4 ∧ 4 ≤ fbAtop k.desc ∨ fbRflag k.desc ≠ 0 ∧ fbOp k.desc ≠ 1 ∧ fbOp k.desc ≠ 3)) ∧
      (¬(fbOp k.desc = 5 ∧ (fbLen k.desc = 0 ∨ fbTBytes k.desc % 16 ≠ 0 ∨ fbTBytes k.desc < 16 ∨ 65536 < fbTBytes k.desc) ∨ 5 ≤
      fbOp k.desc ∧ fbSpec k.desc = 0)) ∧ ((fbOp k.desc = 6 ∨ fbOp k.desc = 7 ∨ fbOp k.desc = 4 ∧ fbLaddr k.desc = 0) ∨
      ¬(¬(fbOp k.desc = 6 ∨ fbOp k.desc = 7 ∨ fbOp k.desc = 4 ∧ fbLaddr k.desc = 0) ∧ (fbOp k.desc = 4 ∧ fbLaddr k.desc % 8 ≠ 0
      ∨ ∀ (x : Region), regionOf (fbLaddr k.desc) (fbSpan s k.desc) = some x → x ≠ Region.scratch c ∧ x ≠ Region.glade
      (halfOfCore c) ∧ (x = Region.hbm → fbOp k.desc ≠ 1 ∧ fbOp k.desc ≠ 2 ∧ fbOp k.desc ≠ 5) ∧ (x = Region.lpddr → fbOp k.desc
      ≠ 1 ∧ fbOp k.desc ≠ 2))) ∧ touchesHidden s (fbLaddr k.desc, fbSpan s k.desc) = false) ∧ (raddrForm k.desc = false ∨
      rflagGood k.desc = false ∨ wholeBlocks k.desc = false)) ∧
    (∃ (s : State) (c : CoreId) (n : CtxId) (k : Cmd), Sound s c n k ∧ k.cls = clFabric ∧ 1 ≤ fbOp k.desc ∧ fbOp k.desc ≤ 7 ∧
      fbTc k.desc ≠ 3 ∧ (¬(fbOp k.desc = 4 ∧ 4 ≤ fbAtop k.desc ∨ fbRflag k.desc ≠ 0 ∧ fbOp k.desc ≠ 1 ∧ fbOp k.desc ≠ 3)) ∧
      (¬(fbOp k.desc = 5 ∧ (fbLen k.desc = 0 ∨ fbTBytes k.desc % 16 ≠ 0 ∨ fbTBytes k.desc < 16 ∨ 65536 < fbTBytes k.desc) ∨ 5 ≤
      fbOp k.desc ∧ fbSpec k.desc = 0)) ∧ ((fbOp k.desc = 6 ∨ fbOp k.desc = 7 ∨ fbOp k.desc = 4 ∧ fbLaddr k.desc = 0) ∨
      ¬(¬(fbOp k.desc = 6 ∨ fbOp k.desc = 7 ∨ fbOp k.desc = 4 ∧ fbLaddr k.desc = 0) ∧ (fbOp k.desc = 4 ∧ fbLaddr k.desc % 8 ≠ 0
      ∨ ∀ (x : Region), regionOf (fbLaddr k.desc) (fbSpan s k.desc) = some x → x ≠ Region.scratch c ∧ x ≠ Region.glade
      (halfOfCore c) ∧ (x = Region.hbm → fbOp k.desc ≠ 1 ∧ fbOp k.desc ≠ 2 ∧ fbOp k.desc ≠ 5) ∧ (x = Region.lpddr → fbOp k.desc
      ≠ 1 ∧ fbOp k.desc ≠ 2))) ∧ touchesHidden s (fbLaddr k.desc, fbSpan s k.desc) = false) ∧ raddrForm k.desc = true ∧
      rflagGood k.desc = true ∧ wholeBlocks k.desc = true ∧ fbOp k.desc = 3 ∧ exaddValues s k.desc = none) :=
  ⟨⟨a0, 3, 1, { cls := 6, dep := 0, reco := false, setf := false, wflag := 0, dflag := 0, tag := 5, descAddr := 281475068993536, desc := ([32, 0, 0, 0, 16, 0, 0, 0, 0, 128, 128, 5, 0, 0, 1, 0, 0, 0, 1, 0, 0, 0, 4] ++ List.replicate 41 0) },
      by unfold Sound Accepts; decide +kernel, by decide +kernel⟩,
   ⟨a1, 3, 1, { cls := 6, dep := 0, reco := false, setf := false, wflag := 0, dflag := 0, tag := 5, descAddr := 281475068993536, desc := ([97, 0, 0, 0, 16, 0, 0, 0, 0, 128, 128, 5, 0, 0, 1, 0, 0, 0, 1, 0, 0, 0, 4] ++ List.replicate 41 0) },
      by unfold Sound Accepts; decide +kernel, by decide +kernel⟩,
   ⟨a2, 3, 1, { cls := 6, dep := 0, reco := false, setf := false, wflag := 0, dflag := 0, tag := 5, descAddr := 281475068993536, desc := ([34, 0, 0, 0, 16, 0, 0, 0, 0, 128, 128, 5, 0, 0, 1, 0, 0, 0, 1, 0, 0, 0, 4, 0, 5] ++ List.replicate 39 0) },
      by unfold Sound Accepts; decide +kernel, by decide +kernel⟩,
   ⟨a3, 3, 1, { cls := 6, dep := 0, reco := false, setf := false, wflag := 0, dflag := 0, tag := 5, descAddr := 281475068993536, desc := (([37, 0, 0, 0, 0, 0, 0, 0, 0, 128, 128, 5, 0, 0, 1, 0, 0, 0, 1, 0, 0, 0, 4] ++ List.replicate 17 0 ++ [1, 0, 0, 0, 16]) ++ List.replicate 19 0) },
      by unfold Sound Accepts; decide +kernel, by decide +kernel⟩,
   ⟨a4, 3, 1, { cls := 6, dep := 0, reco := false, setf := false, wflag := 0, dflag := 0, tag := 5, descAddr := 281475068993536, desc := (([33, 0, 0, 0, 16, 0, 0, 0, 0, 0, 0, 6, 0, 0, 1, 0, 0, 0, 1, 0, 0, 0, 4] ++ List.replicate 17 0 ++ [1, 0, 0, 0, 16]) ++ List.replicate 19 0) },
      by unfold Sound Accepts; decide +kernel, by decide +kernel⟩,
   ⟨a5, 3, 1, { cls := 6, dep := 0, reco := false, setf := false, wflag := 0, dflag := 0, tag := 5, descAddr := 281475068993536, desc := (([33, 0, 0, 0, 16, 0, 0, 0, 0, 0, 3, 0, 0, 0, 1, 0, 0, 0, 1, 0, 0, 0, 4] ++ List.replicate 17 0 ++ [1, 0, 0, 0, 16]) ++ List.replicate 19 0) },
      by unfold Sound Accepts; decide +kernel, by decide +kernel⟩,
   ⟨a6, 3, 1, { cls := 6, dep := 0, reco := false, setf := false, wflag := 0, dflag := 0, tag := 5, descAddr := 281475068993536, desc := (([33, 0, 0, 0, 16, 0, 0, 0, 0, 128, 128, 5, 0, 0, 1, 0, 0, 0, 0, 0, 112, 0, 4] ++ List.replicate 17 0 ++ [1, 0, 0, 0, 16]) ++ List.replicate 19 0) },
      by unfold Sound Accepts; decide +kernel, by decide +kernel⟩,
   ⟨a7, 3, 1, { cls := 6, dep := 0, reco := false, setf := false, wflag := 0, dflag := 0, tag := 5, descAddr := 281475068993536, desc := (([35, 0, 0, 0, 1, 0, 0, 0, 0, 128, 128, 5, 0, 0, 1, 0, 0, 0, 192, 5, 0, 0, 5] ++ List.replicate 17 0 ++ [1, 0, 0, 0, 16]) ++ List.replicate 19 0) },
      by unfold Sound Accepts; decide +kernel, by decide +kernel⟩⟩

/-- Hypotheses of FabricCommandsAreCheckedAndSent (FabricCommandsSendTheirPackets), clause by clause. -/
theorem witness_FabricCommandsSendTheirPackets :
    (∃ (s : State) (c : CoreId) (n : CtxId) (k : Cmd), FabricReady s c n k 1 ∧ (0 < fbLen k.desc ∧ fbRaddr k.desc % 4096 +
      fbLen k.desc ≤ 4096 ∧ fbRflag k.desc = 0) ∧ failedDev s (addrDev (sentPacket s c n k.desc 1 (fbTc k.desc) (fbRaddr
      k.desc) (s.read (fbLaddr k.desc) (fbLen k.desc)) (trailerOf (fbChk k.desc) (s.read (fbLaddr k.desc) (fbLen
      k.desc)))).dst) = false ∧ toSelf s (sentPacket s c n k.desc 1 (fbTc k.desc) (fbRaddr k.desc) (s.read (fbLaddr k.desc)
      (fbLen k.desc)) (trailerOf (fbChk k.desc) (s.read (fbLaddr k.desc) (fbLen k.desc)))) = false ∧ sentBy s (sentPacket s c n
      k.desc 1 (fbTc k.desc) (fbRaddr k.desc) (s.read (fbLaddr k.desc) (fbLen k.desc)) (trailerOf (fbChk k.desc) (s.read
      (fbLaddr k.desc) (fbLen k.desc)))) = []) ∧
    (∃ (s : State) (c : CoreId) (n : CtxId) (k : Cmd), FabricReady s c n k 2 ∧ (0 < fbLen k.desc ∧ fbRaddr k.desc % 4096 +
      fbLen k.desc ≤ 4096 ∧ fbRflag k.desc = 0) ∧ failedDev s (addrDev (sentPacket s c n k.desc 2 (fbTc k.desc) (fbRaddr
      k.desc) (natLE 8 (fbLaddr k.desc) ++ natLE 4 (fbLen k.desc) ++ natLE 4 0) []).dst) = false ∧ toSelf s (sentPacket s c n
      k.desc 2 (fbTc k.desc) (fbRaddr k.desc) (natLE 8 (fbLaddr k.desc) ++ natLE 4 (fbLen k.desc) ++ natLE 4 0) []) = false ∧
      sentBy s (sentPacket s c n k.desc 2 (fbTc k.desc) (fbRaddr k.desc) (natLE 8 (fbLaddr k.desc) ++ natLE 4 (fbLen k.desc) ++
      natLE 4 0) []) = []) ∧
    (∃ (s : State) (c : CoreId) (n : CtxId) (k : Cmd), FabricReady s c n k 3 ∧ fbLen k.desc = 1 ∧ fbRflag k.desc = 0 ∧
      exchIsLong (s.read (fbLaddr k.desc) 16) = false ∧ failedDev s (addrDev (sentPacket s c n k.desc 4 (fbTc k.desc) (fbRaddr
      k.desc) (s.read (fbLaddr k.desc) 16) []).dst) = false ∧ toSelf s (sentPacket s c n k.desc 4 (fbTc k.desc) (fbRaddr
      k.desc) (s.read (fbLaddr k.desc) 16) []) = false ∧ sentBy s (sentPacket s c n k.desc 4 (fbTc k.desc) (fbRaddr k.desc)
      (s.read (fbLaddr k.desc) 16) []) = []) ∧
    (∃ (s : State) (c : CoreId) (n : CtxId) (k : Cmd), FabricReady s c n k 4 ∧ failedDev s (addrDev (sentPacket s c n k.desc 7
      (fbTc k.desc) (fbRaddr k.desc) (natLE 8 (fbAtop k.desc) ++ natLE 8 (fbOperand k.desc)) []).dst) = false ∧ toSelf s
      (sentPacket s c n k.desc 7 (fbTc k.desc) (fbRaddr k.desc) (natLE 8 (fbAtop k.desc) ++ natLE 8 (fbOperand k.desc)) []) =
      false ∧ sentBy s (sentPacket s c n k.desc 7 (fbTc k.desc) (fbRaddr k.desc) (natLE 8 (fbAtop k.desc) ++ natLE 8 (fbOperand
      k.desc)) []) = []) ∧
    (∃ (s : State) (c : CoreId) (n : CtxId) (k : Cmd), FabricReady s c n k 5 ∧ fbLen k.desc = 1 ∧ 32 + fbTBytes k.desc ≤ 4096) ∧
    (∃ (s : State) (c : CoreId) (n : CtxId) (k : Cmd), FabricReady s c n k 6 ∧ failedDev s (addrDev (sentPacket s c n k.desc 8
      (fbTc k.desc) (fbRaddr k.desc + fbSpec k.desc) [] []).dst) = false ∧ toSelf s (sentPacket s c n k.desc 8 (fbTc k.desc)
      (fbRaddr k.desc + fbSpec k.desc) [] []) = false ∧ sentBy s (sentPacket s c n k.desc 8 (fbTc k.desc) (fbRaddr k.desc +
      fbSpec k.desc) [] []) = []) ∧
    (∃ (s : State) (c : CoreId) (n : CtxId) (k : Cmd), FabricReady s c n k 7 ∧ failedDev s (addrDev (sentPacket s c n k.desc 9
      (fbTc k.desc) (fbRaddr k.desc + fbSpec k.desc) [] []).dst) = false ∧ toSelf s (sentPacket s c n k.desc 9 (fbTc k.desc)
      (fbRaddr k.desc + fbSpec k.desc) [] []) = false ∧ sentBy s (sentPacket s c n k.desc 9 (fbTc k.desc) (fbRaddr k.desc +
      fbSpec k.desc) [] []) = []) ∧
    (∃ (s : State) (c : CoreId) (n : CtxId) (k : Cmd), FabricReady s c n k 1 ∧ fbLen k.desc = 0 ∧ fbRflag k.desc = 0 ∧ k.reco =
      false ∧ k.setf = false) ∧
    (∃ (s : State) (c : CoreId) (n : CtxId) (k : Cmd), FabricReady s c n k 1 ∧ PortsIdle s 20 ∧ (0 < fbLen k.desc ∧ fbRaddr
      k.desc % 4096 + fbLen k.desc ≤ 4096 ∧ fbRflag k.desc = 0) ∧ failedDev s (addrDev (sentPacket s c n k.desc 1 (fbTc k.desc)
      (fbRaddr k.desc) (s.read (fbLaddr k.desc) (fbLen k.desc)) (trailerOf (fbChk k.desc) (s.read (fbLaddr k.desc) (fbLen
      k.desc)))).dst) = false ∧ sentBy s (sentPacket s c n k.desc 1 (fbTc k.desc) (fbRaddr k.desc) (s.read (fbLaddr k.desc)
      (fbLen k.desc)) (trailerOf (fbChk k.desc) (s.read (fbLaddr k.desc) (fbLen k.desc)))) ≠ []) ∧
    (∃ (s : State) (c : CoreId) (n : CtxId) (k : Cmd), FabricReady s c n k 2 ∧ PortsIdle s 20 ∧ (0 < fbLen k.desc ∧ fbRaddr
      k.desc % 4096 + fbLen k.desc ≤ 4096 ∧ fbRflag k.desc = 0) ∧ failedDev s (addrDev (sentPacket s c n k.desc 2 (fbTc k.desc)
      (fbRaddr k.desc) (natLE 8 (fbLaddr k.desc) ++ natLE 4 (fbLen k.desc) ++ natLE 4 0) []).dst) = false ∧ sentBy s
      (sentPacket s c n k.desc 2 (fbTc k.desc) (fbRaddr k.desc) (natLE 8 (fbLaddr k.desc) ++ natLE 4 (fbLen k.desc) ++ natLE 4
      0) []) ≠ []) ∧
    (∃ (s : State) (c : CoreId) (n : CtxId) (k : Cmd), FabricReady s c n k 3 ∧ PortsIdle s 20 ∧ fbLen k.desc = 1 ∧ fbRflag
      k.desc = 0 ∧ exchIsLong (s.read (fbLaddr k.desc) 16) = false ∧ failedDev s (addrDev (sentPacket s c n k.desc 4 (fbTc
      k.desc) (fbRaddr k.desc) (s.read (fbLaddr k.desc) 16) []).dst) = false ∧ sentBy s (sentPacket s c n k.desc 4 (fbTc
      k.desc) (fbRaddr k.desc) (s.read (fbLaddr k.desc) 16) []) ≠ []) ∧
    (∃ (s : State) (c : CoreId) (n : CtxId) (k : Cmd), FabricReady s c n k 4 ∧ PortsIdle s 20 ∧ failedDev s (addrDev
      (sentPacket s c n k.desc 7 (fbTc k.desc) (fbRaddr k.desc) (natLE 8 (fbAtop k.desc) ++ natLE 8 (fbOperand k.desc))
      []).dst) = false ∧ sentBy s (sentPacket s c n k.desc 7 (fbTc k.desc) (fbRaddr k.desc) (natLE 8 (fbAtop k.desc) ++ natLE 8
      (fbOperand k.desc)) []) ≠ []) ∧
    (∃ (s : State) (c : CoreId) (n : CtxId) (k : Cmd), FabricReady s c n k 6 ∧ PortsIdle s 20 ∧ failedDev s (addrDev
      (sentPacket s c n k.desc 8 (fbTc k.desc) (fbRaddr k.desc + fbSpec k.desc) [] []).dst) = false ∧ sentBy s (sentPacket s c
      n k.desc 8 (fbTc k.desc) (fbRaddr k.desc + fbSpec k.desc) [] []) ≠ []) ∧
    (∃ (s : State) (c : CoreId) (n : CtxId) (k : Cmd), FabricReady s c n k 7 ∧ PortsIdle s 20 ∧ failedDev s (addrDev
      (sentPacket s c n k.desc 9 (fbTc k.desc) (fbRaddr k.desc + fbSpec k.desc) [] []).dst) = false ∧ sentBy s (sentPacket s c
      n k.desc 9 (fbTc k.desc) (fbRaddr k.desc + fbSpec k.desc) [] []) ≠ []) ∧
    (∃ (s : State) (c : CoreId) (n : CtxId) (k : Cmd) (q : PortId) (x : Packet), FabricReady s c n k 1 ∧ PortsIdle s 20 ∧ 0 <
      fbLen k.desc ∧ fbRaddr k.desc % 4096 + fbLen k.desc ≤ 4096 ∧ fbRflag k.desc ≠ 0 ∧ failedDev s (addrDev (fbRaddr k.desc))
      = false ∧ sentBy s (sentPacket s c n k.desc 1 (fbTc k.desc) (fbRaddr k.desc) (s.read (fbLaddr k.desc) (fbLen k.desc))
      (trailerOf (fbChk k.desc) (s.read (fbLaddr k.desc) (fbLen k.desc)))) = [(q, x)]) :=
  ⟨⟨(tx 1 false), 3, 1, { cls := 6, dep := 0, reco := false, setf := false, wflag := 0, dflag := 0, tag := 5, descAddr := 281475068993536, desc := ([33, 0, 0, 0, 16, 0, 0, 0, 0, 128, 128, 5, 0, 0, 1, 0, 0, 0, 1, 0, 0, 0, 36] ++ List.replicate 41 0) },
      by unfold FabricReady Sound Accepts; decide +kernel, by decide +kernel⟩,
   ⟨(tx 2 false), 3, 1, { cls := 6, dep := 0, reco := false, setf := false, wflag := 0, dflag := 0, tag := 5, descAddr := 281475068993536, desc := ([34, 0, 0, 0, 16, 0, 0, 0, 0, 128, 128, 5, 0, 0, 1, 0, 0, 0, 1, 0, 0, 0, 36] ++ List.replicate 41 0) },
      by unfold FabricReady Sound Accepts; decide +kernel, by decide +kernel⟩,
   ⟨(tx 3 false), 3, 1, { cls := 6, dep := 0, reco := false, setf := false, wflag := 0, dflag := 0, tag := 5, descAddr := 281475068993536, desc := ([35, 0, 0, 0, 1, 0, 0, 0, 0, 128, 128, 5, 0, 0, 1, 0, 0, 0, 192, 5, 0, 0, 37] ++ List.replicate 41 0) },
      by unfold FabricReady Sound Accepts; decide +kernel, by decide +kernel⟩,
   ⟨(tx 4 false), 3, 1, { cls := 6, dep := 0, reco := false, setf := false, wflag := 0, dflag := 0, tag := 5, descAddr := 281475068993536, desc := ([36, 1, 0, 0, 0, 0, 0, 0, 0, 128, 128, 5, 0, 0, 1, 0, 0, 0, 128, 5, 0, 0, 37, 0, 0, 0, 0, 0, 0, 0, 0, 0, 7] ++ List.replicate 31 0) },
      by unfold FabricReady Sound Accepts; decide +kernel, by decide +kernel⟩,
   ⟨(tx 5 true), 3, 1, { cls := 6, dep := 0, reco := false, setf := false, wflag := 0, dflag := 0, tag := 5, descAddr := 281475068993536, desc := (([37, 8, 0, 0, 1, 0, 0, 0, 0, 128, 128, 5, 0, 0, 1, 0, 0, 0, 0, 0, 0, 0, 5] ++ List.replicate 17 0 ++ [9, 0, 0, 0, 16]) ++ List.replicate 19 0) },
      by unfold FabricReady Sound Accepts; decide +kernel, by decide +kernel⟩,
   ⟨(tx 6 false), 3, 1, { cls := 6, dep := 0, reco := false, setf := false, wflag := 0, dflag := 0, tag := 5, descAddr := 281475068993536, desc := (([38] ++ List.replicate 21 0 ++ [37] ++ List.replicate 17 0 ++ [9]) ++ List.replicate 23 0) },
      by unfold FabricReady Sound Accepts; decide +kernel, by decide +kernel⟩,
   ⟨(tx 7 false), 3, 1, { cls := 6, dep := 0, reco := false, setf := false, wflag := 0, dflag := 0, tag := 5, descAddr := 281475068993536, desc := (([39] ++ List.replicate 21 0 ++ [37] ++ List.replicate 17 0 ++ [9]) ++ List.replicate 23 0) },
      by unfold FabricReady Sound Accepts; decide +kernel, by decide +kernel⟩,
   ⟨(tx 9 true), 3, 1, { cls := 6, dep := 0, reco := false, setf := false, wflag := 0, dflag := 0, tag := 5, descAddr := 281475068993536, desc := ([33, 0, 0, 0, 0, 0, 0, 0, 0, 128, 128, 5, 0, 0, 1, 0, 0, 0, 1, 0, 0, 0, 4] ++ List.replicate 41 0) },
      by unfold FabricReady Sound Accepts; decide +kernel, by decide +kernel⟩,
   ⟨(tx 1 true), 3, 1, { cls := 6, dep := 0, reco := false, setf := false, wflag := 0, dflag := 0, tag := 5, descAddr := 281475068993536, desc := ([33, 0, 0, 0, 16, 0, 0, 0, 0, 128, 128, 5, 0, 0, 1, 0, 0, 0, 1, 0, 0, 0, 4] ++ List.replicate 41 0) },
      by unfold FabricReady Sound Accepts; decide +kernel, by unfold PortsIdle; decide +kernel, by decide +kernel⟩,
   ⟨(tx 2 true), 3, 1, { cls := 6, dep := 0, reco := false, setf := false, wflag := 0, dflag := 0, tag := 5, descAddr := 281475068993536, desc := ([34, 0, 0, 0, 16, 0, 0, 0, 0, 128, 128, 5, 0, 0, 1, 0, 0, 0, 1, 0, 0, 0, 4] ++ List.replicate 41 0) },
      by unfold FabricReady Sound Accepts; decide +kernel, by unfold PortsIdle; decide +kernel, by decide +kernel⟩,
   ⟨(tx 3 true), 3, 1, { cls := 6, dep := 0, reco := false, setf := false, wflag := 0, dflag := 0, tag := 5, descAddr := 281475068993536, desc := ([35, 0, 0, 0, 1, 0, 0, 0, 0, 128, 128, 5, 0, 0, 1, 0, 0, 0, 192, 5, 0, 0, 5] ++ List.replicate 41 0) },
      by unfold FabricReady Sound Accepts; decide +kernel, by unfold PortsIdle; decide +kernel, by decide +kernel⟩,
   ⟨(tx 4 true), 3, 1, { cls := 6, dep := 0, reco := false, setf := false, wflag := 0, dflag := 0, tag := 5, descAddr := 281475068993536, desc := ([36, 1, 0, 0, 0, 0, 0, 0, 0, 128, 128, 5, 0, 0, 1, 0, 0, 0, 128, 5, 0, 0, 5, 0, 0, 0, 0, 0, 0, 0, 0, 0, 7] ++ List.replicate 31 0) },
      by unfold FabricReady Sound Accepts; decide +kernel, by unfold PortsIdle; decide +kernel, by decide +kernel⟩,
   ⟨(tx 6 true), 3, 1, { cls := 6, dep := 0, reco := false, setf := false, wflag := 0, dflag := 0, tag := 5, descAddr := 281475068993536, desc := (([38] ++ List.replicate 21 0 ++ [5] ++ List.replicate 17 0 ++ [9]) ++ List.replicate 23 0) },
      by unfold FabricReady Sound Accepts; decide +kernel, by unfold PortsIdle; decide +kernel, by decide +kernel⟩,
   ⟨(tx 7 true), 3, 1, { cls := 6, dep := 0, reco := false, setf := false, wflag := 0, dflag := 0, tag := 5, descAddr := 281475068993536, desc := (([39] ++ List.replicate 21 0 ++ [5] ++ List.replicate 17 0 ++ [9]) ++ List.replicate 23 0) },
      by unfold FabricReady Sound Accepts; decide +kernel, by unfold PortsIdle; decide +kernel, by decide +kernel⟩,
   ⟨(tx 8 true), 3, 1, { cls := 6, dep := 0, reco := false, setf := false, wflag := 0, dflag := 0, tag := 5, descAddr := 281475068993536, desc := ([33, 0, 0, 0, 16, 0, 0, 0, 0, 128, 128, 5, 0, 0, 1, 0, 0, 0, 1, 0, 0, 0, 4, 0, 8, 1, 0, 0, 0, 0, 6] ++ List.replicate 33 0) },
      0, { ptype := 1, pclass := 0, tc := 1, chk := false, srcDev := 0, srcAgent := 25, hops := 1, dst := 1125899906908160, job := 0, epoch := 0, oseq := 0, tag := 0, via := 0, viaValid := false, payload := ([0, 0, 5] ++ List.replicate 13 0), trailer := [] },
      by unfold FabricReady Sound Accepts; decide +kernel, by unfold PortsIdle; decide +kernel, by decide +kernel⟩⟩

/-- Hypotheses of FabricCommandsAreCheckedAndSent (FabricCommandsSendTheirPackets), clause by clause. -/
theorem witness_FabricCommandsSendTheirPackets_own :
    (∃ (s : State) (c : CoreId) (n : CtxId) (k : Cmd), FabricReady s c n k 1 ∧ (0 < fbLen k.desc ∧ fbRaddr k.desc % 4096 +
      fbLen k.desc ≤ 4096 ∧ fbRflag k.desc = 0) ∧ failedDev s (addrDev (sentPacket s c n k.desc 1 (fbTc k.desc) (fbRaddr
      k.desc) (s.read (fbLaddr k.desc) (fbLen k.desc)) (trailerOf (fbChk k.desc) (s.read (fbLaddr k.desc) (fbLen
      k.desc)))).dst) = false ∧ toSelf s (sentPacket s c n k.desc 1 (fbTc k.desc) (fbRaddr k.desc) (s.read (fbLaddr k.desc)
      (fbLen k.desc)) (trailerOf (fbChk k.desc) (s.read (fbLaddr k.desc) (fbLen k.desc)))) = true) ∧
    (∃ (s : State) (c : CoreId) (n : CtxId) (k : Cmd), FabricReady s c n k 2 ∧ (0 < fbLen k.desc ∧ fbRaddr k.desc % 4096 +
      fbLen k.desc ≤ 4096 ∧ fbRflag k.desc = 0) ∧ failedDev s (addrDev (sentPacket s c n k.desc 2 (fbTc k.desc) (fbRaddr
      k.desc) (natLE 8 (fbLaddr k.desc) ++ natLE 4 (fbLen k.desc) ++ natLE 4 0) []).dst) = false ∧ toSelf s (sentPacket s c n
      k.desc 2 (fbTc k.desc) (fbRaddr k.desc) (natLE 8 (fbLaddr k.desc) ++ natLE 4 (fbLen k.desc) ++ natLE 4 0) []) = true) ∧
    (∃ (s : State) (c : CoreId) (n : CtxId) (k : Cmd), FabricReady s c n k 3 ∧ fbLen k.desc = 1 ∧ fbRflag k.desc = 0 ∧
      exchIsLong (s.read (fbLaddr k.desc) 16) = false ∧ failedDev s (addrDev (sentPacket s c n k.desc 4 (fbTc k.desc) (fbRaddr
      k.desc) (s.read (fbLaddr k.desc) 16) []).dst) = false ∧ toSelf s (sentPacket s c n k.desc 4 (fbTc k.desc) (fbRaddr
      k.desc) (s.read (fbLaddr k.desc) 16) []) = true) ∧
    (∃ (s : State) (c : CoreId) (n : CtxId) (k : Cmd), FabricReady s c n k 4 ∧ failedDev s (addrDev (sentPacket s c n k.desc 7
      (fbTc k.desc) (fbRaddr k.desc) (natLE 8 (fbAtop k.desc) ++ natLE 8 (fbOperand k.desc)) []).dst) = false ∧ toSelf s
      (sentPacket s c n k.desc 7 (fbTc k.desc) (fbRaddr k.desc) (natLE 8 (fbAtop k.desc) ++ natLE 8 (fbOperand k.desc)) []) =
      true) ∧
    (∃ (s : State) (c : CoreId) (n : CtxId) (k : Cmd), FabricReady s c n k 6 ∧ failedDev s (addrDev (sentPacket s c n k.desc 8
      (fbTc k.desc) (fbRaddr k.desc + fbSpec k.desc) [] []).dst) = false ∧ toSelf s (sentPacket s c n k.desc 8 (fbTc k.desc)
      (fbRaddr k.desc + fbSpec k.desc) [] []) = true) ∧
    (∃ (s : State) (c : CoreId) (n : CtxId) (k : Cmd), FabricReady s c n k 7 ∧ failedDev s (addrDev (sentPacket s c n k.desc 9
      (fbTc k.desc) (fbRaddr k.desc + fbSpec k.desc) [] []).dst) = false ∧ toSelf s (sentPacket s c n k.desc 9 (fbTc k.desc)
      (fbRaddr k.desc + fbSpec k.desc) [] []) = true) :=
  ⟨⟨(dev (tx 1 true) 1), 3, 1, { cls := 6, dep := 0, reco := false, setf := false, wflag := 0, dflag := 0, tag := 5, descAddr := 281475068993536, desc := ([33, 0, 0, 0, 16, 0, 0, 0, 0, 128, 128, 5, 0, 0, 1, 0, 0, 0, 1, 0, 0, 0, 4] ++ List.replicate 41 0) },
      by unfold FabricReady Sound Accepts; decide +kernel, by decide +kernel⟩,
   ⟨(dev (tx 2 true) 1), 3, 1, { cls := 6, dep := 0, reco := false, setf := false, wflag := 0, dflag := 0, tag := 5, descAddr := 281475068993536, desc := ([34, 0, 0, 0, 16, 0, 0, 0, 0, 128, 128, 5, 0, 0, 1, 0, 0, 0, 1, 0, 0, 0, 4] ++ List.replicate 41 0) },
      by unfold FabricReady Sound Accepts; decide +kernel, by decide +kernel⟩,
   ⟨(dev (tx 3 true) 1), 3, 1, { cls := 6, dep := 0, reco := false, setf := false, wflag := 0, dflag := 0, tag := 5, descAddr := 281475068993536, desc := ([35, 0, 0, 0, 1, 0, 0, 0, 0, 128, 128, 5, 0, 0, 1, 0, 0, 0, 192, 5, 0, 0, 5] ++ List.replicate 41 0) },
      by unfold FabricReady Sound Accepts; decide +kernel, by decide +kernel⟩,
   ⟨(dev (tx 4 true) 1), 3, 1, { cls := 6, dep := 0, reco := false, setf := false, wflag := 0, dflag := 0, tag := 5, descAddr := 281475068993536, desc := ([36, 1, 0, 0, 0, 0, 0, 0, 0, 128, 128, 5, 0, 0, 1, 0, 0, 0, 128, 5, 0, 0, 5, 0, 0, 0, 0, 0, 0, 0, 0, 0, 7] ++ List.replicate 31 0) },
      by unfold FabricReady Sound Accepts; decide +kernel, by decide +kernel⟩,
   ⟨(dev (tx 6 true) 1), 3, 1, { cls := 6, dep := 0, reco := false, setf := false, wflag := 0, dflag := 0, tag := 5, descAddr := 281475068993536, desc := (([38] ++ List.replicate 21 0 ++ [5] ++ List.replicate 17 0 ++ [9]) ++ List.replicate 23 0) },
      by unfold FabricReady Sound Accepts; decide +kernel, by decide +kernel⟩,
   ⟨(dev (tx 7 true) 1), 3, 1, { cls := 6, dep := 0, reco := false, setf := false, wflag := 0, dflag := 0, tag := 5, descAddr := 281475068993536, desc := (([39] ++ List.replicate 21 0 ++ [5] ++ List.replicate 17 0 ++ [9]) ++ List.replicate 23 0) },
      by unfold FabricReady Sound Accepts; decide +kernel, by decide +kernel⟩⟩

end W73

namespace W74

def U : State := dev (upAll live) 5
def pk (ty dst : Nat) (pl : List Byte) : Packet := { ptype := ty, pclass := 0, tc := 1, chk := false, srcDev := 1, srcAgent := 3, hops := 1, dst := globalAddr 5 dst, job := 0, epoch := 0, oseq := 0, tag := 4, via := 0, viaValid := false, payload := pl, trailer := [] }
def P1 := pk 1 0x10000 [1,2,3,4]
def A0 : Nat := scratchBase 3 + 0x100
def fwd : List Byte := natLE 4 0 ++ natLE 4 1 ++ natLE 24 0 ++ natLE 8 0x10000 ++ natLE 8 0x100 ++ natLE 8 2 ++ natLE 8 0x20000
def arm2 (s : State) : State :=
  put (put ((s.wfBoth .COL_ARM_EPOCH_CURRENT 1).wfBoth .COL_ARM_ADDR_ADDR armBase) armBase
    (natLE 4 1 ++ natLE 4 1 ++ natLE 8 40 ++ natLE 4 0 ++ natLE 4 77 ++ natLE 4 5 ++ natLE 4 5 ++ natLE 8 (armBase + 0x1000) ++ natLE 8 0 ++ natLE 32 0)) (armBase + 0x1000) fwd
def ty2 (t : Nat) : Packet := { P1 with ptype := t, job := 4 }
def D5 : State := dev live 5
def me (t d : Nat) (pl : List Byte) : Packet := { pk t d pl with srcDev := 5, hops := 0 }
def SQ (p : Packet) : State := fabOf D5 fun f => { f with selfQ := [p, P1] }

/-- Hypotheses of RequestsAreTakenInOrder, clause by clause. -/
theorem witness_RequestsAreTakenInOrder :
    (∃ (s : State) (p : PortId) (pkt : Packet), isRequest pkt.ptype = true ∧ arrives s p pkt = false ∧ ownNext s p pkt = false) ∧
    (∃ (s : State) (p : PortId) (pkt : Packet), isRequest pkt.ptype = true ∧ arrives s p pkt = true ∧ failedDev s pkt.srcDev =
      true) ∧
    (∃ (s : State) (p : PortId) (pkt : Packet), isRequest pkt.ptype = true ∧ arrives s p pkt = true ∧ failedDev s pkt.srcDev =
      false ∧ 32768 ≤ (pkt.oseq + 65536 - aget s.fab.oseqIn pkt.srcDev 0) % 65536) ∧
    (∃ (s : State) (p : PortId) (pkt : Packet), isRequest pkt.ptype = true ∧ arrives s p pkt = true ∧ failedDev s pkt.srcDev =
      false ∧ (pkt.oseq + 65536 - aget s.fab.oseqIn pkt.srcDev 0) % 65536 < 32768 ∧ ((s.fab.store.any fun x => x.snd.snd.srcDev
      == pkt.srcDev && x.snd.snd.oseq == pkt.oseq) = true)) ∧
    (∃ (s : State) (p : PortId) (pkt : Packet), isRequest pkt.ptype = true ∧ arrives s p pkt = true ∧ failedDev s pkt.srcDev =
      false ∧ 0 < (pkt.oseq + 65536 - aget s.fab.oseqIn pkt.srcDev 0) % 65536 ∧ (pkt.oseq + 65536 - aget s.fab.oseqIn
      pkt.srcDev 0) % 65536 < 32768 ∧ ((s.fab.store.any fun x => x.snd.snd.srcDev == pkt.srcDev && x.snd.snd.oseq == pkt.oseq)
      = false) ∧ ((List.filter (fun x => x.fst == portHalf p) s.fab.store).length < 512)) ∧
    (∃ (s : State) (p : PortId) (pkt : Packet), isRequest pkt.ptype = true ∧ arrives s p pkt = true ∧ failedDev s pkt.srcDev =
      false ∧ 0 < (pkt.oseq + 65536 - aget s.fab.oseqIn pkt.srcDev 0) % 65536 ∧ (pkt.oseq + 65536 - aget s.fab.oseqIn
      pkt.srcDev 0) % 65536 < 32768 ∧ ((s.fab.store.any fun x => x.snd.snd.srcDev == pkt.srcDev && x.snd.snd.oseq == pkt.oseq)
      = false) ∧ (512 ≤ (List.filter (fun x => x.fst == portHalf p) s.fab.store).length)) ∧
    (∃ (s : State) (p : PortId) (pkt : Packet), InTurn s p pkt pkt.ptype ∧ isRequest pkt.ptype = true ∧ pkt.job ≠ jobTag s) ∧
    (∃ (s : State) (p : PortId) (pkt : Packet), InTurn s p pkt pkt.ptype ∧ isRequest pkt.ptype = true ∧ pkt.job = jobTag s ∧
      pkt.epoch ≠ epochNow s ∧ (¬(pkt.epoch = epochNow s + 1 ∧ s.rf Fld.COL_ARM_STAT_ARMED ≠ 0)) ∧ (¬(pkt.epoch + 1 = epochNow
      s ∧ s.fence < armBeat s + 1))) ∧
    (∃ (s : State) (p : PortId) (pkt : Packet), InTurn s p pkt pkt.ptype ∧ isRequest pkt.ptype = true ∧ pkt.job = jobTag s ∧
      pkt.epoch = epochNow s + 1 ∧ s.rf Fld.COL_ARM_STAT_ARMED ≠ 0) ∧
    (∃ (s : State) (p : PortId) (pkt : Packet) (dev : Nat) (addr : Nat), InTurn s p pkt pkt.ptype ∧ isRequest pkt.ptype = true
      ∧ pkt.job = jobTag s ∧ (pkt.epoch + 1 = epochNow s ∧ s.fence < armBeat s + 1) ∧ fwdMap s ≠ 0 ∧ pkt.pclass = 0 ∧
      s.fab.tracker = [] ∧ s.fab.unsent = [] ∧ failedDev s dev = false ∧ dev < 2 ^ 14 ∧ fwdFind s (fwdMap s) (addrLocal
      pkt.dst) (min 65536 (s.readN (fwdMap s + 4) 4)) 0 = some (dev, addr) ∧ sentBy s { ptype := pkt.ptype, pclass := pkt.pclass, tc := pkt.tc, chk := pkt.chk, srcDev := ownDev s, srcAgent := 1021 + (portHalf p).val, hops := 0, dst := globalAddr dev addr, job := pkt.job, epoch := epochNow s, oseq := aget s.fab.oseqOut dev 0, tag := 0, via := 0, viaValid := false, payload := pkt.payload, trailer := pkt.trailer }
      ≠ []) ∧
    (∃ (s : State) (p : PortId) (pkt : Packet), InTurn s p pkt pkt.ptype ∧ isRequest pkt.ptype = true ∧ pkt.job = jobTag s ∧
      pkt.epoch = epochNow s ∧ destFault s (addrLocal pkt.dst) = true) ∧
    (∃ (s : State) (p : PortId) (pkt : Packet) (rest : List Packet), isRequest pkt.ptype = true ∧ TakenFromSelf s p pkt rest ∧
      pkt.oseq = aget s.fab.oseqIn pkt.srcDev 0 ∧ pkt.oseq < 65536 ∧ aget? s.fab.verdicts (pkt.srcDev, pkt.oseq) = none ∧
      pkt.job ≠ jobTag s) ∧
    (∃ (s : State) (p : PortId) (pkt : Packet) (rest : List Packet) (c : CoreId), isRequest pkt.ptype = true ∧ TakenFromSelf s
      p pkt rest ∧ pkt.oseq = aget s.fab.oseqIn pkt.srcDev 0 ∧ pkt.oseq < 65536 ∧ aget? s.fab.verdicts (pkt.srcDev, pkt.oseq) =
      none ∧ pkt.ptype = 1 ∧ pkt.job = jobTag s ∧ pkt.epoch = epochNow s ∧ destFault s (addrLocal pkt.dst) = false ∧
      pkt.payload ≠ [] ∧ pkt.chk = false ∧ regionOf (addrLocal pkt.dst) pkt.payload.length = some (Region.scratch c) ∧
      touchesHidden s (addrLocal pkt.dst, pkt.payload.length) = false ∧ rangeBusy s (addrLocal pkt.dst) pkt.payload.length =
      false ∧ chunkColl s pkt = none) :=
  ⟨⟨(U.setPf .FAB_PORT_STAT_STATE 3 4), 3, P1, by decide +kernel⟩,
   ⟨(U.wf .HLF_FAILSET_FAILED 2 0 0), 3, P1, by decide +kernel⟩,
   ⟨(fabOf U fun x => { x with oseqIn := [(1, 5)] }), 3, P1, by decide +kernel⟩,
   ⟨(fabOf U fun x => { x with store := [(0, 3, P1)] }), 3, P1, by decide +kernel⟩,
   ⟨(fabOf U fun x => { x with oseqIn := [(1, 65530)] }), 3, P1, by decide +kernel⟩,
   ⟨(fabOf U fun x => { x with oseqIn := [(1, 65530)], store := List.replicate 512 (0, 3, { P1 with oseq := 7 }) }), 3, P1,
     by decide +kernel⟩,
   ⟨U, 3, (ty2 2), by unfold InTurn PortsIdle; decide +kernel, by decide +kernel⟩,
   ⟨U, 3, { P1 with epoch := 4 }, by unfold InTurn PortsIdle; decide +kernel, by decide +kernel⟩,
   ⟨(U.wfBoth .COL_ARM_STAT_ARMED 1), 3, { P1 with epoch := 1 }, by unfold InTurn PortsIdle; decide +kernel, by decide +kernel⟩,
   ⟨(arm2 U), 3, { P1 with job := 77 }, 2, 131072, by unfold InTurn PortsIdle; decide +kernel, by decide +kernel⟩,
   ⟨(U.wf .HLF_LEAD_STAT_FENCED 1 (destHalf 0x10000).val), 3, P1, by unfold InTurn PortsIdle; decide +kernel, by decide +kernel⟩,
   ⟨(SQ { me 1 0x10000 [1] with job := 4 }), 3, { me 1 0x10000 [1] with job := 4 }, [{ ptype := 1, pclass := 0, tc := 1, chk := false, srcDev := 1, srcAgent := 3, hops := 1, dst := 5629499534278656, job := 0, epoch := 0, oseq := 0, tag := 4, via := 0, viaValid := false, payload := [1, 2, 3, 4], trailer := [] }],
      by decide +kernel, by unfold TakenFromSelf; decide +kernel, by decide +kernel⟩,
   ⟨(SQ (me 1 A0 [1,2,3])), 3, (me 1 A0 [1,2,3]), [{ ptype := 1, pclass := 0, tc := 1, chk := false, srcDev := 1, srcAgent := 3, hops := 1, dst := 5629499534278656, job := 0, epoch := 0, oseq := 0, tag := 4, via := 0, viaValid := false, payload := [1, 2, 3, 4], trailer := [] }],
      3, by decide +kernel, by unfold TakenFromSelf; decide +kernel, by decide +kernel⟩⟩

end W74

namespace W75

def U : State := dev (upAll live) 5
def pk (ty dst : Nat) (pl : List Byte) : Packet := { ptype := ty, pclass := 0, tc := 1, chk := false, srcDev := 1, srcAgent := 3, hops := 1, dst := globalAddr 5 dst, job := 0, epoch := 0, oseq := 0, tag := 4, via := 0, viaValid := false, payload := pl, trailer := [] }
def P1 := pk 1 0x10000 [1,2,3,4]
def A0 : Nat := scratchBase 3 + 0x100
def blk : List Byte := List.replicate 2048 7
def PC (good : Bool) := { pk 1 0x10000 blk with chk := true, trailer := if good then trailerOf true blk else [] }
def G (a m : Nat) := pk 2 a (natLE 8 0x40000 ++ natLE 4 m ++ natLE 4 0)
def AT (a code v : Nat) := pk 7 a (natLE 8 code ++ natLE 8 v)
def AX := AT (accBase 3) 0 5
def EX (pl : List Byte) := pk 4 (accBase 3 + 32 * 7) pl
def UC : State := coreOfSt U 3 fun x => { x with acc := { x.acc with elems := [(7, ⟨13, 1, 0, false, 3⟩)] } }
def UE : State := coreOfSt U 3 fun x => { x with acc := { x.acc with elems := [(7, ⟨12, 1, 2 ^ 239 - 1, false, 3⟩)], spill := fullTable } }
def dpo (s : State) : State × DepRes := deposit (useTile s 3 (elemTile ((addrLocal (EX (exchEncode ⟨0, 5⟩)).dst - accBase 3) / 32))) 3
  ((addrLocal (EX (exchEncode ⟨0, 5⟩)).dst - accBase 3) / 32) 5 0
theorem pair_eq {α β : Type} (x : α × β) (r : β) (h : x.2 = r) : x = (x.1, r) := by rw [← h]
theorem dpo_full : (dpo UE).2 = .exhausted :=
  deposit_exhausted _ _ _ _ _ (by decide +kernel) (by decide +kernel) (by decide +kernel) (by decide +kernel) (by decide +kernel)
    (by decide +kernel) (freeSpill_full _ rfl) (by decide +kernel)
theorem trailer_ne (b : Byte) (l : List Byte) : [] ≠ trailerOf true (b :: l) := by unfold trailerOf blockCrcs; simp
theorem pc_trailer : (PC true).trailer = trailerOf true (PC true).payload := by simp [PC, pk]
theorem pc_bad : (PC false).trailer ≠ trailerOf true (PC false).payload := by
  exact trailer_ne 7 (List.replicate 2047 7)
def e5 := exchEncode ⟨0, 5⟩
def dep3 (s : State) : State × DepRes := deposit (useTile s 3 0) 3 7 5 0
def full : List (Nat × SpillEntry) := (List.range 1024).map (fun i => (i, ⟨7, 0, i⟩))
def CX : Coll := { id := 9, core := 3, ctx := 1, num := 4, desc := natLE 4 40 ++ natLE 4 (0x100) ++ natLE 4 0 ++ natLE 4 1 ++ natLE 8 16 ++ natLE 8 0 ++ natLE 8 0x10000 ++ natLE 8 0 ++ natLE 8 0 ++ natLE 8 0, epoch := 0, phase := none, running := true, contribs := [5], owners := [1], step := 0, mb := 0, incl := [], seen := [], closed := [], got := [], recvClosed := false, nlate := 0, ndigest := 0, nmismatch := 0, cfails := [], ofails := [], ended := false, moved := [], perm := [], parts := [] }
def UC1 (x : Coll) : State := { U with fab := { U.fab with colls := [x] } }
def UR : State := U.wfBoth .SEC_LC_STATE 1
def URS : State := coreOfSt UR 3 fun x => { x with spec := some ⟨(9, 1), 1, 5, 2, 0, 1, none, none, false, []⟩ }

/-- Hypotheses of RequestsTakeEffectAndAreAnswered, clause by clause. -/
theorem witness_RequestsTakeEffectAndAreAnswered :
    (∃ (s : State) (p : PortId) (pkt : Packet), Served s p pkt 1 ∧ pkt.payload.length = 0) ∧
    (∃ (s : State) (p : PortId) (pkt : Packet) (c : CoreId) (v : LVal) (u : State) (r : DepRes), Served s p pkt 4 ∧
      pkt.payload.length = 16 ∧ exchIsLong pkt.payload = false ∧ exchDecode pkt.payload = some v ∧ regionOf (addrLocal pkt.dst)
      32 = some (Region.acc c) ∧ addrLocal pkt.dst % 32 = 0 ∧ deposit (useTile s c (elemTile ((addrLocal pkt.dst - accBase c) /
      32))) c ((addrLocal pkt.dst - accBase c) / 32) v.l v.sc = (u, r) ∧ r = DepRes.done) ∧
    (∃ (s : State) (p : PortId) (pkt : Packet) (c : CoreId) (v : LVal) (u : State) (r : DepRes), Served s p pkt 4 ∧
      pkt.payload.length = 16 ∧ exchIsLong pkt.payload = false ∧ exchDecode pkt.payload = some v ∧ regionOf (addrLocal pkt.dst)
      32 = some (Region.acc c) ∧ addrLocal pkt.dst % 32 = 0 ∧ deposit (useTile s c (elemTile ((addrLocal pkt.dst - accBase c) /
      32))) c ((addrLocal pkt.dst - accBase c) / 32) v.l v.sc = (u, r) ∧ r = DepRes.corrupt) ∧
    (∃ (s : State) (p : PortId) (pkt : Packet) (c : CoreId) (v : LVal) (u : State) (r : DepRes), Served s p pkt 4 ∧
      pkt.payload.length = 16 ∧ exchIsLong pkt.payload = false ∧ exchDecode pkt.payload = some v ∧ regionOf (addrLocal pkt.dst)
      32 = some (Region.acc c) ∧ addrLocal pkt.dst % 32 = 0 ∧ deposit (useTile s c (elemTile ((addrLocal pkt.dst - accBase c) /
      32))) c ((addrLocal pkt.dst - accBase c) / 32) v.l v.sc = (u, r) ∧ r = DepRes.exhausted) ∧
    (∃ (s : State) (p : PortId) (pkt : Packet), Served s p pkt 1 ∧ 0 < pkt.payload.length ∧ regionOf (addrLocal pkt.dst)
      pkt.payload.length = some Region.priv) ∧
    (∃ (s : State) (p : PortId) (pkt : Packet), Served s p pkt 1 ∧ 0 < pkt.payload.length ∧ ((∃ x, regionOf (addrLocal pkt.dst)
      pkt.payload.length = some x ∧ x ≠ Region.priv ∧ x ≠ Region.regs ∧ ∀ (c : CoreId), x ≠ Region.acc c) ∧ touchesHidden s
      (addrLocal pkt.dst, pkt.payload.length) = false ∧ rangeBusy s (addrLocal pkt.dst) pkt.payload.length = false) ∧ pkt.chk =
      false ∧ chunkColl s pkt = none) ∧
    (∃ (s : State) (p : PortId) (pkt : Packet) (x : Coll), Served s p pkt 1 ∧ chunkColl s pkt = some x ∧ 0 < pkt.payload.length
      ∧ ((∃ x, regionOf (addrLocal pkt.dst) pkt.payload.length = some x ∧ x ≠ Region.priv ∧ x ≠ Region.regs ∧ ∀ (c : CoreId), x
      ≠ Region.acc c) ∧ touchesHidden s (addrLocal pkt.dst, pkt.payload.length) = false ∧ rangeBusy s (addrLocal pkt.dst)
      pkt.payload.length = false) ∧ pkt.chk = false) ∧
    (∃ (s : State) (p : PortId) (pkt : Packet), Served s p pkt 1 ∧ 0 < pkt.payload.length ∧ ((∃ x, regionOf (addrLocal pkt.dst)
      pkt.payload.length = some x ∧ x ≠ Region.priv ∧ x ≠ Region.regs ∧ ∀ (c : CoreId), x ≠ Region.acc c) ∧ touchesHidden s
      (addrLocal pkt.dst, pkt.payload.length) = false ∧ rangeBusy s (addrLocal pkt.dst) pkt.payload.length = false) ∧ pkt.chk =
      true ∧ chunkColl s pkt = none ∧ addrLocal pkt.dst % 2048 = 0 ∧ pkt.payload.length % 2048 = 0 ∧ pkt.trailer = trailerOf
      true pkt.payload) ∧
    (∃ (s : State) (p : PortId) (pkt : Packet), Served s p pkt 1 ∧ 0 < pkt.payload.length ∧ ((∃ x, regionOf (addrLocal pkt.dst)
      pkt.payload.length = some x ∧ x ≠ Region.priv ∧ x ≠ Region.regs ∧ ∀ (c : CoreId), x ≠ Region.acc c) ∧ touchesHidden s
      (addrLocal pkt.dst, pkt.payload.length) = false ∧ rangeBusy s (addrLocal pkt.dst) pkt.payload.length = false) ∧ pkt.chk =
      true ∧ chunkColl s pkt = none ∧ addrLocal pkt.dst % 2048 = 0 ∧ pkt.payload.length % 2048 = 0 ∧ pkt.trailer ≠ trailerOf
      true pkt.payload) ∧
    (∃ (s : State) (p : PortId) (pkt : Packet), Served s p pkt 2 ∧ PortsIdle s (leNat (List.take 4 (List.drop 8 pkt.payload)) /
      248 + 20) ∧ 0 < leNat (List.take 4 (List.drop 8 pkt.payload)) ∧ ((∃ x, regionOf (addrLocal pkt.dst) (leNat (List.take 4
      (List.drop 8 pkt.payload))) = some x ∧ x ≠ Region.priv ∧ x ≠ Region.regs ∧ ∀ (c : CoreId), x ≠ Region.acc c) ∧
      touchesHidden s (addrLocal pkt.dst, leNat (List.take 4 (List.drop 8 pkt.payload))) = false ∧ rangeBusy s (addrLocal
      pkt.dst) (leNat (List.take 4 (List.drop 8 pkt.payload))) = false) ∧ flagOfLocal (addrLocal pkt.dst) = none ∧ pkt.chk =
      false) :=
  ⟨⟨U, 3, (pk 1 0x10000 []), by unfold Served InTurn PortsIdle; decide +kernel, by decide +kernel⟩,
   ⟨U, 3, (EX e5), 3, { sc := 0, l := 5 }, (dpo U).1,
      Sys2Proof.Machine.DepRes.done, by unfold Served InTurn PortsIdle; decide +kernel, by decide +kernel, by decide +kernel, by decide +kernel,
      by decide +kernel, by decide +kernel, pair_eq (dpo U) _ (by decide +kernel), rfl⟩,
   ⟨UC, 3, (EX e5), 3, { sc := 0, l := 5 }, (dpo UC).1,
      Sys2Proof.Machine.DepRes.corrupt, by unfold Served InTurn PortsIdle; decide +kernel, by decide +kernel, by decide +kernel, by decide +kernel,
      by decide +kernel, by decide +kernel, pair_eq (dpo UC) _ (by decide +kernel), rfl⟩,
   ⟨UE, 3, (EX e5), 3, { sc := 0, l := 5 }, (dpo UE).1,
      Sys2Proof.Machine.DepRes.exhausted, by unfold Served InTurn PortsIdle; decide +kernel, by decide +kernel, by decide +kernel, by decide +kernel,
      by decide +kernel, by decide +kernel, pair_eq (dpo UE) _ dpo_full, rfl⟩,
   ⟨U, 3, (pk 1 privBase [1]), by unfold Served InTurn PortsIdle; decide +kernel, by decide +kernel⟩,
   ⟨U, 3, P1, by unfold Served InTurn PortsIdle; decide +kernel, by decide +kernel⟩,
   ⟨UC1 CX, 3, { P1 with srcAgent := 0x3FD }, CX, by unfold Served InTurn PortsIdle; decide +kernel, by decide +kernel⟩,
   ⟨U, 3, (PC true), by unfold Served InTurn PortsIdle; decide +kernel, by decide +kernel, by decide +kernel, by decide +kernel,
     by decide +kernel, by decide +kernel, by decide +kernel, pc_trailer⟩,
   ⟨U, 3, (PC false), by unfold Served InTurn PortsIdle; decide +kernel, by decide +kernel⟩,
   ⟨(put U 0x10000 [1,2,3]), 3, (G 0x10000 4), by unfold Served InTurn PortsIdle; decide +kernel,
     by unfold PortsIdle; decide +kernel, by decide +kernel⟩⟩

/-- Hypotheses of RequestsTakeEffectAndAreAnswered, clause by clause. -/
theorem witness_RequestsTakeEffectAndAreAnswered_2 :
    (∃ (s : State) (p : PortId) (pkt : Packet) (c : CoreId), Served s p pkt 1 ∧ 0 < pkt.payload.length ∧ regionOf (addrLocal
      pkt.dst) pkt.payload.length = some (Region.acc c)) ∧
    (∃ (s : State) (p : PortId) (pkt : Packet), Served s p pkt 1 ∧ 0 < pkt.payload.length ∧ (regionOf (addrLocal pkt.dst)
      pkt.payload.length = none ∨ regionOf (addrLocal pkt.dst) pkt.payload.length = some Region.regs)) ∧
    (∃ (s : State) (p : PortId) (pkt : Packet), Served s p pkt 1 ∧ 0 < pkt.payload.length ∧ regionOf (addrLocal pkt.dst)
      pkt.payload.length = some Region.hbm ∧ rangeBusy s (addrLocal pkt.dst) pkt.payload.length = true) ∧
    (∃ (s : State) (p : PortId) (pkt : Packet) (f : FlagId), Served s p pkt 2 ∧ 0 < leNat (List.take 4 (List.drop 8
      pkt.payload)) ∧ leNat (List.take 4 (List.drop 8 pkt.payload)) ≤ 8 ∧ flagOfLocal (addrLocal pkt.dst) = some f ∧ rangeBusy
      s (addrLocal pkt.dst) (leNat (List.take 4 (List.drop 8 pkt.payload))) = false) ∧
    (∃ (s : State) (p : PortId) (pkt : Packet), Served s p pkt 2 ∧ 0 < leNat (List.take 4 (List.drop 8 pkt.payload)) ∧
      rangeBusy s (addrLocal pkt.dst) (leNat (List.take 4 (List.drop 8 pkt.payload))) = false ∧ flagOfLocal (addrLocal pkt.dst)
      = none ∧ regionOf (addrLocal pkt.dst) (leNat (List.take 4 (List.drop 8 pkt.payload))) = some Region.priv) ∧
    (∃ (s : State) (p : PortId) (pkt : Packet) (c : CoreId), Served s p pkt 2 ∧ 0 < leNat (List.take 4 (List.drop 8
      pkt.payload)) ∧ rangeBusy s (addrLocal pkt.dst) (leNat (List.take 4 (List.drop 8 pkt.payload))) = false ∧ flagOfLocal
      (addrLocal pkt.dst) = none ∧ regionOf (addrLocal pkt.dst) (leNat (List.take 4 (List.drop 8 pkt.payload))) = some
      (Region.acc c) ∧ rawAllowed s (halfOfCore c) = false) ∧
    (∃ (s : State) (p : PortId) (pkt : Packet), Served s p pkt 2 ∧ 0 < leNat (List.take 4 (List.drop 8 pkt.payload)) ∧
      rangeBusy s (addrLocal pkt.dst) (leNat (List.take 4 (List.drop 8 pkt.payload))) = true) ∧
    (∃ (s : State) (p : PortId) (pkt : Packet) (c : CoreId), Served s p pkt 2 ∧ 0 < leNat (List.take 4 (List.drop 8
      pkt.payload)) ∧ rangeBusy s (addrLocal pkt.dst) (leNat (List.take 4 (List.drop 8 pkt.payload))) = false ∧ flagOfLocal
      (addrLocal pkt.dst) = none ∧ regionOf (addrLocal pkt.dst) (leNat (List.take 4 (List.drop 8 pkt.payload))) = some
      (Region.acc c) ∧ rawAllowed s (halfOfCore c) = true ∧ touchesShadow s (addrLocal pkt.dst, leNat (List.take 4 (List.drop 8
      pkt.payload))) = true) ∧
    (∃ (s : State) (p : PortId) (pkt : Packet) (c : CoreId), Served s p pkt 2 ∧ PortsIdle s (leNat (List.take 4 (List.drop 8
      pkt.payload)) / 248 + 20) ∧ 0 < leNat (List.take 4 (List.drop 8 pkt.payload)) ∧ rangeBusy s (addrLocal pkt.dst) (leNat
      (List.take 4 (List.drop 8 pkt.payload))) = false ∧ flagOfLocal (addrLocal pkt.dst) = none ∧ regionOf (addrLocal pkt.dst)
      (leNat (List.take 4 (List.drop 8 pkt.payload))) = some (Region.acc c) ∧ rawAllowed s (halfOfCore c) = true ∧
      touchesShadow s (addrLocal pkt.dst, leNat (List.take 4 (List.drop 8 pkt.payload))) = false) :=
  ⟨⟨U, 3, (pk 1 (accBase 3) [1]), 3, by unfold Served InTurn PortsIdle; decide +kernel, by decide +kernel⟩,
   ⟨U, 3, (pk 1 regBase [1]), by unfold Served InTurn PortsIdle; decide +kernel, by decide +kernel⟩,
   ⟨((U.wf .HBM_INIT_CTL_BUSY 1 0).wf .HBM_INIT_CTL_BUSY 1 1), 3, P1, by unfold Served InTurn PortsIdle; decide +kernel,
     by decide +kernel⟩,
   ⟨U, 3, (G (fa 33) 8), 33, by unfold Served InTurn PortsIdle; decide +kernel, by decide +kernel⟩,
   ⟨U, 3, (G privBase 8), by unfold Served InTurn PortsIdle; decide +kernel, by decide +kernel⟩,
   ⟨U, 3, (G (accBase 3) 8), 3, by unfold Served InTurn PortsIdle; decide +kernel, by decide +kernel⟩,
   ⟨((U.wf .HBM_INIT_CTL_BUSY 1 0).wf .HBM_INIT_CTL_BUSY 1 1), 3, (G 0x10000 4), by unfold Served InTurn PortsIdle; decide +kernel,
     by decide +kernel⟩,
   ⟨URS, 3, G (accBase 3) 8, 3, by unfold Served InTurn PortsIdle; decide +kernel, by decide +kernel⟩,
   ⟨UR, 3, G (accBase 3) 8, 3, by unfold Served InTurn PortsIdle; decide +kernel, by unfold PortsIdle; decide +kernel,
     by decide +kernel⟩⟩

/-- Hypotheses of RequestsTakeEffectAndAreAnswered, clause by clause. -/
theorem witness_RequestsTakeEffectAndAreAnswered_3 :
    (∃ (s : State) (p : PortId) (pkt : Packet) (v : Nat) (u : State) (old : Nat), Served s p pkt 7 ∧ leNat (List.take 1 pkt.payload) < 4 ∧ v = leNat (List.take 8 (List.drop 8 pkt.payload)) ∧ (rangeBusy s (addrLocal pkt.dst) (if leNat (List.take 1 pkt.payload) % 2 = 0 then 4 else 8) = false) ∧ (exec (match leNat (List.take 1 pkt.payload) with | 0 => Instr.add32 (addrLocal pkt.dst) v | 1 => Instr.add64 (addrLocal pkt.dst) v | 2 => Instr.swap32 (addrLocal pkt.dst) v | _ => Instr.swap64 (addrLocal pkt.dst) v) s = Host.Outcome.next u) ∧ u.reply = Reply.value old) ∧
    (∃ (s : State) (p : PortId) (pkt : Packet), Served s p pkt 7 ∧ 4 ≤ leNat (List.take 1 pkt.payload)) ∧
    (∃ (s : State) (p : PortId) (pkt : Packet) (v : Nat) (u : State) (st : Nat), Served s p pkt 7 ∧ leNat (List.take 1 pkt.payload) < 4 ∧ v = leNat (List.take 8 (List.drop 8 pkt.payload)) ∧ (rangeBusy s (addrLocal pkt.dst) (if leNat (List.take 1 pkt.payload) % 2 = 0 then 4 else 8) = false) ∧ (exec (match leNat (List.take 1 pkt.payload) with | 0 => Instr.add32 (addrLocal pkt.dst) v | 1 => Instr.add64 (addrLocal pkt.dst) v | 2 => Instr.swap32 (addrLocal pkt.dst) v | _ => Instr.swap64 (addrLocal pkt.dst) v) s = Host.Outcome.next u) ∧ u.reply = Reply.status st) ∧
    (∃ (s : State) (p : PortId) (pkt : Packet), Served s p pkt 4 ∧ pkt.payload.length = 16 ∧ exchIsLong pkt.payload = false ∧
      exchDecode pkt.payload = none) ∧
    (∃ (s : State) (p : PortId) (pkt : Packet) (f : FlagId), Served s p pkt 5 ∧ flagOfLocal (addrLocal pkt.dst) = some f ∧
      s.beat.phases = [] ∧ flagDead s f = none ∧ (s.flag f).set = false ∧ (s.flag f).waiters = []) ∧
    (∃ (s : State) (p : PortId) (pkt : Packet), Served s p pkt 5 ∧ flagOfLocal (addrLocal pkt.dst) = none ∧ seqPlace (addrLocal
      pkt.dst) = false) :=
  ⟨⟨U, 3, (AT A0 0 5), 5, (nx (exec (.add32 (addrLocal (AT A0 0 5).dst) 5) U)), 0, by unfold Served InTurn PortsIdle; decide +kernel,
      by decide +kernel, by decide +kernel, by decide +kernel, rfl, by decide +kernel⟩,
   ⟨U, 3, (AT A0 4 5), by unfold Served InTurn PortsIdle; decide +kernel, by decide +kernel⟩,
   ⟨U, 3, AX, 5, (nx (exec (.add32 (addrLocal AX.dst) 5) U)), 15, by unfold Served InTurn PortsIdle; decide +kernel,
      by decide +kernel, by decide +kernel, by decide +kernel, rfl, by decide +kernel⟩,
   ⟨U, 3, (EX (17#8 :: List.replicate 15 255)), by unfold Served InTurn PortsIdle; decide +kernel, by decide +kernel⟩,
   ⟨U, 3, (pk 5 (fa 33) []), 33, by unfold Served InTurn PortsIdle; decide +kernel, by decide +kernel⟩,
   ⟨U, 3, (pk 5 privBase []), by unfold Served InTurn PortsIdle; decide +kernel, by decide +kernel⟩⟩

end W75

namespace W76

def U : State := dev (upAll live) 5
def pk (ty dst : Nat) (pl : List Byte) : Packet := { ptype := ty, pclass := 0, tc := 1, chk := false, srcDev := 1, srcAgent := 3, hops := 1, dst := globalAddr 5 dst, job := 0, epoch := 0, oseq := 0, tag := 4, via := 0, viaValid := false, payload := pl, trailer := [] }
def P1 := pk 1 0x10000 [1,2,3,4]
def HB : Nat := sramBase
def UU (ks : List UKey) : State := (((U.wf .COL_UND_CFG_SIZE 2 0).wf .COL_UND_CFG_BASE 3 0)).setHalf 0 { U.half 0 with und := ks }
def rec0 (spec last : Nat) : List Byte := natLE 4 (spec + 1 * 65536 + last * 2 ^ 30) ++ natLE 4 7 ++ natLE 4 0 ++ natLE 4 16 ++ natLE 4 0 ++ natLE 2 3 ++ natLE 26 9
def k0 (l v : Bool) : UKey := ⟨1, 6, 1, [[1,2,3]], 2, l, v, false, 0, false, none⟩
def kBig : UKey := ⟨1, 6, 1, [[1,2,3]], 512, false, false, false, 0, false, none⟩
def kOther : UKey := ⟨2, 6, 1, [[1,2,3]], 512, false, false, false, 0, false, none⟩
def T0 := pk 6 HB (rec0 6 0)
def T1 := pk 6 HB (rec0 6 1)
def und (s : State) : List UKey := (s.half 0).und
def res0 (s : State) (x : Packet) := und (nx (exec (.tokenPacket 3 x) s))
def tplS : State := put (put ((UU []).wf .COL_TPL_BASE_ADDR 0x50000 0) (0x50000 + 16 * 7) (natLE 8 0x60000 ++ natLE 4 (nodeRefOf U (.core 3)) ++ natLE 4 (8 + 2))) 0x60000 (natLE 64 5 ++ natLE 64 7)
def C8 := pk 8 (HB + 6) []
def C9 := pk 9 (HB + 6) []
def z1 : SpecSt := ⟨(1, 6), 1, 5, 2, 1, 2, some 3, none, false, []⟩
def zS : State := coreOfSt (UU [{k0 true false with started := true}]) 3 fun x => { x with spec := some z1, acc := { x.acc with elems := [(16389, ⟨3, 5, 77, false, 0⟩), (32773, ⟨3, 5, 77, false, 0⟩)] } }

set_option maxRecDepth 4000 in

/-- Hypotheses of TokensAndResolutionsReachTheirKey, clause by clause. -/
theorem witness_TokensAndResolutionsReachTheirKey :
    (∃ (s : State) (p : PortId) (pkt : Packet) (h : HalfId) (k : UKey), Served s p pkt 6 ∧ addrLocal pkt.dst = sramBase + h.val
      * halfStride ∧ pkt.payload.length = 32 + trTBytes pkt.payload ∧ aget (s.half h).undRx pkt.srcDev [] = [] ∧ findKey s h
      (trSender pkt.payload) (trSpec pkt.payload) = some k ∧ k.void = true) ∧
    (∃ (s : State) (p : PortId) (pkt : Packet) (h : HalfId) (k : UKey), Served s p pkt 6 ∧ addrLocal pkt.dst = sramBase + h.val
      * halfStride ∧ pkt.payload.length = 32 + trTBytes pkt.payload ∧ aget (s.half h).undRx pkt.srcDev [] = [] ∧ findKey s h
      (trSender pkt.payload) (trSpec pkt.payload) = some k ∧ k.void = false ∧ k.last = true) ∧
    (∃ (s : State) (p : PortId) (pkt : Packet) (h : HalfId) (k : UKey), Served s p pkt 6 ∧ addrLocal pkt.dst = sramBase + h.val
      * halfStride ∧ pkt.payload.length = 32 + trTBytes pkt.payload ∧ aget (s.half h).undRx pkt.srcDev [] = [] ∧ findKey s h
      (trSender pkt.payload) (trSpec pkt.payload) = some k ∧ k.void = false ∧ k.last = false ∧ (List.foldl (fun n k => n +
      k.granules) 0 (heldKeys s h) + (32 + trTBytes pkt.payload + 255) / 256 ≤ undGranules s h) ∧ trLast pkt.payload = false) ∧
    (∃ (s : State) (p : PortId) (pkt : Packet) (h : HalfId) (k : UKey), Served s p pkt 6 ∧ addrLocal pkt.dst = sramBase + h.val
      * halfStride ∧ pkt.payload.length = 32 + trTBytes pkt.payload ∧ aget (s.half h).undRx pkt.srcDev [] = [] ∧ findKey s h
      (trSender pkt.payload) (trSpec pkt.payload) = some k ∧ k.void = false ∧ k.last = false ∧ (¬List.foldl (fun n k => n +
      k.granules) 0 (heldKeys s h) + (32 + trTBytes pkt.payload + 255) / 256 ≤ undGranules s h)) ∧
    (∃ (s : State) (p : PortId) (pkt : Packet) (h : HalfId), Served s p pkt 6 ∧ addrLocal pkt.dst = sramBase + h.val *
      halfStride ∧ pkt.payload.length = 32 + trTBytes pkt.payload ∧ aget (s.half h).undRx pkt.srcDev [] = [] ∧ findKey s h
      (trSender pkt.payload) (trSpec pkt.payload) = none ∧ (¬List.foldl (fun n k => n + k.granules) 0 (heldKeys s h) + (32 +
      trTBytes pkt.payload + 255) / 256 ≤ undGranules s h)) ∧
    (∃ (s : State) (p : PortId) (pkt : Packet) (h : HalfId), Served s p pkt 6 ∧ addrLocal pkt.dst = sramBase + h.val *
      halfStride ∧ pkt.payload.length = 32 + trTBytes pkt.payload ∧ aget (s.half h).undRx pkt.srcDev [] = [] ∧ findKey s h
      (trSender pkt.payload) (trSpec pkt.payload) = none ∧ (List.foldl (fun n k => n + k.granules) 0 (heldKeys s h) + (32 +
      trTBytes pkt.payload + 255) / 256 ≤ undGranules s h) ∧ trLast pkt.payload = false) ∧
    (∃ (s : State) (p : PortId) (pkt : Packet) (h : HalfId), Served s p pkt 6 ∧ addrLocal pkt.dst = sramBase + h.val *
      halfStride ∧ pkt.payload.length = 32 + trTBytes pkt.payload ∧ aget (s.half h).undRx pkt.srcDev [] = [] ∧ findKey s h
      (trSender pkt.payload) (trSpec pkt.payload) = none ∧ (List.foldl (fun n k => n + k.granules) 0 (heldKeys s h) + (32 +
      trTBytes pkt.payload + 255) / 256 ≤ undGranules s h) ∧ trLast pkt.payload = true ∧ s.rf Fld.COL_TPL_BASE_ADDR h.val = 0) ∧
    (∃ (s : State) (p : PortId) (pkt : Packet) (h : HalfId) (nd : NodeId), Served s p pkt 6 ∧ resolveLocal s (s.readN (s.rf
      Fld.COL_TPL_BASE_ADDR h.val + 16 * (trExpert pkt.payload % 256) + 8) 4) = Except.ok nd ∧ addrLocal pkt.dst = sramBase +
      h.val * halfStride ∧ pkt.payload.length = 32 + trTBytes pkt.payload ∧ aget (s.half h).undRx pkt.srcDev [] = [] ∧ findKey
      s h (trSender pkt.payload) (trSpec pkt.payload) = none ∧ (List.foldl (fun n k => n + k.granules) 0 (heldKeys s h) + (32 +
      trTBytes pkt.payload + 255) / 256 ≤ undGranules s h) ∧ trLast pkt.payload = true ∧ s.rf Fld.COL_TPL_BASE_ADDR h.val ≠ 0 ∧
      bit (s.readN (s.rf Fld.COL_TPL_BASE_ADDR h.val + 16 * (trExpert pkt.payload % 256) + 12) 4) 3 = true) ∧
    (∃ (s : State) (p : PortId) (pkt : Packet) (h : HalfId) (off : Nat) (confirm : Bool), Served s p pkt (if confirm = true
      then 8 else 9) ∧ addrLocal pkt.dst = sramBase + h.val * halfStride + off ∧ 0 < off ∧ off < 65536 ∧ findKey s h pkt.srcDev
      off = none) ∧
    (∃ (s : State) (p : PortId) (pkt : Packet) (h : HalfId) (off : Nat) (confirm : Bool) (k : UKey) (c : CoreId) (z : SpecSt),
      Served s p pkt (if confirm = true then 8 else 9) ∧ addrLocal pkt.dst = sramBase + h.val * halfStride + off ∧ 0 < off ∧
      off < 65536 ∧ findKey s h pkt.srcDev off = some k ∧ k.void = false ∧ k.last = true ∧ k.dead = false ∧ k.started = true ∧
      specCores s h k.sender k.tag = [c] ∧ (s.core c).spec = some z ∧ confirm = true) ∧
    (∃ (s : State) (p : PortId) (pkt : Packet) (h : HalfId) (off : Nat) (confirm : Bool) (k : UKey) (c : CoreId) (z : SpecSt),
      Served s p pkt (if confirm = true then 8 else 9) ∧ addrLocal pkt.dst = sramBase + h.val * halfStride + off ∧ 0 < off ∧
      off < 65536 ∧ findKey s h pkt.srcDev off = some k ∧ k.void = false ∧ k.last = true ∧ k.dead = false ∧ k.started = true ∧
      specCores s h k.sender k.tag = [c] ∧ (s.core c).spec = some z ∧ confirm = false ∧ (s.core c).ops = [] ∧ aget? s.entries
      z.entry = none) ∧
    (∃ (s : State) (p : PortId) (pkt : Packet) (h : HalfId) (off : Nat) (confirm : Bool) (k : UKey), Served s p pkt (if confirm
      = true then 8 else 9) ∧ addrLocal pkt.dst = sramBase + h.val * halfStride + off ∧ 0 < off ∧ off < 65536 ∧ findKey s h
      pkt.srcDev off = some k ∧ (k.void = true ∨ k.last = false)) ∧
    (∃ (s : State) (p : PortId) (pkt : Packet) (h : HalfId) (off : Nat) (confirm : Bool) (k : UKey), Served s p pkt (if confirm
      = true then 8 else 9) ∧ addrLocal pkt.dst = sramBase + h.val * halfStride + off ∧ 0 < off ∧ off < 65536 ∧ findKey s h
      pkt.srcDev off = some k ∧ k.void = false ∧ k.last = true ∧ k.dead = false ∧ k.started = false ∧ specCores s h k.sender
      k.tag = []) :=
  ⟨⟨(UU [k0 false true]), 3, T0, 0, { sender := 1, tag := 6, handle := 1, recs := [[1, 2, 3]], granules := 2, last := false, void := true, dead := false, beat := 0, started := false, resolved := none },
      by unfold Served InTurn PortsIdle; decide +kernel, by decide +kernel⟩,
   ⟨(UU [k0 true false]), 3, T0, 0, { sender := 1, tag := 6, handle := 1, recs := [[1, 2, 3]], granules := 2, last := true, void := false, dead := false, beat := 0, started := false, resolved := none },
      by unfold Served InTurn PortsIdle; decide +kernel, by decide +kernel⟩,
   ⟨(UU [k0 false false]), 3, T0, 0, { sender := 1, tag := 6, handle := 1, recs := [[1, 2, 3]], granules := 2, last := false, void := false, dead := false, beat := 0, started := false, resolved := none },
      by unfold Served InTurn PortsIdle; decide +kernel, by decide +kernel⟩,
   ⟨(UU [kBig]), 3, T0, 0, { sender := 1, tag := 6, handle := 1, recs := [[1, 2, 3]], granules := 512, last := false, void := false, dead := false, beat := 0, started := false, resolved := none },
      by unfold Served InTurn PortsIdle; decide +kernel, by decide +kernel⟩,
   ⟨(UU [kOther]), 3, T0, 0, by unfold Served InTurn PortsIdle; decide +kernel, by decide +kernel⟩,
   ⟨(UU []), 3, T0, 0, by unfold Served InTurn PortsIdle; decide +kernel, by decide +kernel⟩,
   ⟨(UU []), 3, T1, 0, by unfold Served InTurn PortsIdle; decide +kernel, by decide +kernel⟩,
   ⟨tplS, 3, T1, 0, Sys2Proof.NodeId.core 3, by unfold Served InTurn PortsIdle; decide +kernel, rfl, by decide +kernel⟩,
   ⟨(UU []), 3, C8, 0, 6, true, by unfold Served InTurn PortsIdle; decide +kernel, by decide +kernel⟩,
   ⟨zS, 3, C8, 0, 6, true, { sender := 1, tag := 6, handle := 1, recs := [[1, 2, 3]], granules := 2, last := true, void := false, dead := false, beat := 0, started := true, resolved := none },
      3, { key := (1, 6), ctx := 1, entry := 5, k := 2, shadow := 1, target := 2, partDone := some 3, resolved := none, dead := false, excs := [] },
      by unfold Served InTurn PortsIdle; decide +kernel, by decide +kernel⟩,
   ⟨zS, 3, C9, 0, 6, false, { sender := 1, tag := 6, handle := 1, recs := [[1, 2, 3]], granules := 2, last := true, void := false, dead := false, beat := 0, started := true, resolved := none },
      3, { key := (1, 6), ctx := 1, entry := 5, k := 2, shadow := 1, target := 2, partDone := some 3, resolved := none, dead := false, excs := [] },
      by unfold Served InTurn PortsIdle; decide +kernel, by decide +kernel⟩,
   ⟨(UU [k0 false false]), 3, C9, 0, 6, false, { sender := 1, tag := 6, handle := 1, recs := [[1, 2, 3]], granules := 2, last := false, void := false, dead := false, beat := 0, started := false, resolved := none },
      by unfold Served InTurn PortsIdle; decide +kernel, by decide +kernel⟩,
   ⟨(UU [k0 true false]), 3, C8, 0, 6, true, { sender := 1, tag := 6, handle := 1, recs := [[1, 2, 3]], granules := 2, last := true, void := false, dead := false, beat := 0, started := false, resolved := none },
      by unfold Served InTurn PortsIdle; decide +kernel, by decide +kernel⟩⟩

end W76

namespace W77

def U : State := dev (upAll live) 5
def pk (ty dst : Nat) (pl : List Byte) : Packet := { ptype := ty, pclass := 0, tc := 1, chk := false, srcDev := 1, srcAgent := 3, hops := 1, dst := globalAddr 5 dst, job := 0, epoch := 0, oseq := 0, tag := 4, via := 0, viaValid := false, payload := pl, trailer := [] }
def P1 := pk 1 0x10000 [1,2,3,4]
def en : FabEntry := ⟨2, 1, 9, 0x10000⟩
def fo (code : Nat) (openp : Nat) (fails : List (Nat × Nat)) : FabOp := ⟨.core 3 1 4, code, false, scratchBase 3, globalAddr 1 0x10000, 8, openp, fails, 0⟩
def RS (x : FabOp) : State := fabOf U fun f => { f with tracker := [(4, en)], ops := [(2, x)], nextOp := 3 }
def dn (st seq : Nat) : Packet := pk 0x0A 0 ([BitVec.ofNat 8 st] ++ natLE 2 seq ++ natLE 5 0 ++ natLE 8 77)
def opX : Op := ⟨4, 1, 0, 6, [], false, false, 0, 0, 0, 0, 5, false, 0, none, true, 0, none⟩
def done2 (x : FabOp) : State := coreOfSt (fabOf U fun f => { f with ops := [(2, x)], nextOp := 3 }) 3 fun y => { y with ops := [opX] }
def D5 : State := dev live 5
def me (p : Packet) : Packet := { p with srcDev := 5, hops := 0 }
def en5 : FabEntry := ⟨2, 5, 9, 0x10000⟩
def SQ (x : FabOp) (p : Packet) : State := fabOf D5 fun f => { f with tracker := [(4, en5)], ops := [(2, x)], nextOp := 3, selfQ := [p, P1] }

/-- Hypotheses of ResponsesCompleteOperations, clause by clause. -/
theorem witness_ResponsesCompleteOperations :
    (∃ (s : State) (g : Fin 1024), aget? s.fab.tracker g.val = none) ∧
    (∃ (s : State) (i : Nat), (∀ (x : FabOp), aget? s.fab.ops i = some x → x.openPkts ≠ 0)) ∧
    (∃ (s : State) (p : PortId) (pkt : Packet), arrives s p pkt = true ∧ failedDev s pkt.srcDev = false ∧ pkt.job ≠ jobTag s ∧
      pkt.ptype = 10) ∧
    (∃ (s : State) (p : PortId) (pkt : Packet), arrives s p pkt = true ∧ failedDev s pkt.srcDev = false ∧ pkt.job ≠ jobTag s ∧
      pkt.ptype = 3) ∧
    (∃ (s : State) (g : Fin 1024) (e : FabEntry) (x : FabOp) (c : CoreId) (n : CtxId) (num : Nat), s.fab.unsent = [] ∧ aget?
      s.fab.tracker g.val = some e ∧ aget? s.fab.ops e.op = some x ∧ x.owner = FabOwner.core c n num ∧ x.code ≠ 4 ∧ (epochNow s
      = 0 ∨ deviceGone s e.dev = true)) ∧
    (∃ (s : State) (p : PortId) (pkt : Packet) (e : FabEntry) (x : FabOp) (c : CoreId) (n : CtxId) (num : Nat), pkt.ptype = 3 ∧
      (arrives s p pkt = true ∧ failedDev s pkt.srcDev = false ∧ pkt.job = jobTag s) ∧ aget? s.fab.tracker pkt.tag = some e ∧
      e.dev = pkt.srcDev ∧ aget? s.fab.ops e.op = some x ∧ x.owner = FabOwner.core c n num ∧ x.code = 2 ∧ pkt.chk = true ∧
      pkt.trailer ≠ trailerOf true pkt.payload) ∧
    (∃ (s : State) (p : PortId) (pkt : Packet), s.pf Fld.FAB_PORT_STAT_STATE p = 5 ∧ (knownType pkt.ptype = false ∨ 1 <
      pkt.pclass)) ∧
    (∃ (pkt : Packet), 8 ≤ pkt.hops) ∧
    (∃ (s : State) (p : PortId) (pkt : Packet) (e : FabEntry) (x : FabOp) (c : CoreId) (n : CtxId) (num : Nat), pkt.ptype = 10
      ∧ (arrives s p pkt = true ∧ failedDev s pkt.srcDev = false ∧ pkt.job = jobTag s) ∧ s.fab.unsent = [] ∧ aget?
      s.fab.tracker pkt.tag = some e ∧ e.oseq = leNat (List.take 2 (List.drop 1 pkt.payload)) ∧ aget? s.fab.ops e.op = some x ∧
      x.owner = FabOwner.core c n num ∧ (x.code = 4 → leNat (List.take 1 pkt.payload) = 0 → x.laddr ≠ 0 → memWaits s
      (halfOfCore c) x.laddr 8 = false)) ∧
    (∃ (s : State) (p : PortId) (pkt : Packet), pkt.ptype = 10 ∧ (arrives s p pkt = true ∧ failedDev s pkt.srcDev = false ∧
      pkt.job = jobTag s) ∧ (∀ (e : FabEntry), aget? s.fab.tracker pkt.tag = some e → e.oseq ≠ leNat (List.take 2 (List.drop 1
      pkt.payload)))) ∧
    (∃ (s : State) (p : PortId) (pkt : Packet) (e : FabEntry) (x : FabOp) (c : CoreId) (n : CtxId) (num : Nat), pkt.ptype = 3 ∧
      (arrives s p pkt = true ∧ failedDev s pkt.srcDev = false ∧ pkt.job = jobTag s) ∧ aget? s.fab.tracker pkt.tag = some e ∧
      e.dev = pkt.srcDev ∧ aget? s.fab.ops e.op = some x ∧ x.owner = FabOwner.core c n num ∧ x.code = 2 ∧ (pkt.chk = false ∨
      pkt.trailer = trailerOf true pkt.payload) ∧ memWaits s (halfOfCore c) (addrLocal pkt.dst) pkt.payload.length = false) ∧
    (∃ (s : State) (p : PortId) (pkt : Packet) (rest : List Packet) (e : FabEntry) (x : FabOp) (c : CoreId) (n : CtxId) (num :
      Nat), TakenFromSelf s p pkt rest ∧ pkt.ptype = 10 ∧ pkt.job = jobTag s ∧ s.fab.unsent = [] ∧ aget? s.fab.tracker pkt.tag
      = some e ∧ e.oseq = leNat (List.take 2 (List.drop 1 pkt.payload)) ∧ aget? s.fab.ops e.op = some x ∧ x.owner =
      FabOwner.core c n num ∧ x.code ≠ 4) ∧
    (∃ (s : State) (i : Nat) (x : FabOp) (c : CoreId) (n : CtxId) (o : Op), aget? s.fab.ops i = some x ∧ x.openPkts = 0 ∧
      x.owner = FabOwner.core c n o.num ∧ s.fab.store = [] ∧ (s.core c).ops = [o] ∧ o.cls = clFabric ∧ o.reco = false ∧ o.setf
      = false ∧ slotWard s x = none ∧ x.fails = []) ∧
    (∃ (s : State) (i : Nat) (x : FabOp) (c : CoreId) (n : CtxId) (o : Op) (a1 : Nat) (s1 : Nat) (a2 : Nat) (s2 : Nat), aget?
      s.fab.ops i = some x ∧ x.openPkts = 0 ∧ x.owner = FabOwner.core c n o.num ∧ s.fab.store = [] ∧ (s.core c).ops = [o] ∧
      o.cls = clFabric ∧ o.reco = false ∧ o.setf = false ∧ slotWard s x = none ∧ x.fails = [(a1, s1), (a2, s2)] ∧ (s.ctx c
      o.ctx).fail = none ∧ s1 ≠ 0 ∧ s2 ≠ 0) ∧
    (∃ (s : State) (p : PortId) (pkt : Packet), PortsIdle s 20 ∧ s.pf Fld.FAB_PORT_STAT_STATE p = 5 ∧ addrDev pkt.dst ≠ ownDev
      s ∧ knownType pkt.ptype = true ∧ pkt.pclass = 0 ∧ ((s.port p).discover = false ∨ 16 ≤ pkt.ptype) ∧ pkt.payload.length ≤
      4096 ∧ pkt.ptype ≠ 16 ∧ sentBy s pkt ≠ []) ∧
    (∃ (s : State) (p : PortId) (pkt : Packet), PortsIdle s 20 ∧ s.pf Fld.FAB_PORT_STAT_STATE p = 5 ∧ addrDev pkt.dst ≠ ownDev
      s ∧ knownType pkt.ptype = true ∧ pkt.pclass = 0 ∧ ((s.port p).discover = false ∨ 16 ≤ pkt.ptype) ∧ pkt.payload.length ≤
      4096 ∧ sentBy s pkt = [] ∧ isRequest pkt.ptype = true) ∧
    (∃ (s : State) (p : PortId) (pkt : Packet), PortsIdle s 20 ∧ s.pf Fld.FAB_PORT_STAT_STATE p = 5 ∧ addrDev pkt.dst ≠ ownDev
      s ∧ knownType pkt.ptype = true ∧ pkt.pclass = 0 ∧ ((s.port p).discover = false ∨ 16 ≤ pkt.ptype) ∧ pkt.payload.length ≤
      4096 ∧ sentBy s pkt = [] ∧ isRequest pkt.ptype = false) ∧
    (∃ (s : State) (i : Nat) (x : FabOp) (c : CoreId) (n : CtxId) (num : Nat), aget? s.fab.ops i = some x ∧ x.openPkts
      = 0 ∧ x.owner = FabOwner.core c n num ∧ s.fab.store = [] ∧ (∀ (o : Op), o ∈ (s.core c).ops → o.num ≠ num) ∧
      slotWard s x = none) ∧
    (∃ (s : State) (p : PortId) (pkt : Packet), s.pf Fld.FAB_PORT_STAT_STATE p = 5 ∧ addrDev pkt.dst ≠ ownDev s ∧
      knownType pkt.ptype = true ∧ pkt.pclass = 0 ∧ (s.port p).discover = true ∧ pkt.ptype < 16) ∧
    (∃ (s : State) (p : PortId) (pkt : Packet), PortsIdle s 20 ∧ s.pf Fld.FAB_PORT_STAT_STATE p = 5 ∧ addrDev pkt.dst
      ≠ ownDev s ∧ knownType pkt.ptype = true ∧ pkt.pclass = 0 ∧ ((s.port p).discover = false ∨ 16 ≤ pkt.ptype) ∧
      pkt.payload.length ≤ 4096 ∧ pkt.ptype = 16 ∧ pkt.payload.length = 32 ∧ sentBy s pkt ≠ []) :=
  ⟨⟨U, 4, by decide +kernel⟩,
   ⟨U, 0, by decide +kernel⟩,
   ⟨(RS (fo 4 2 [])), 3, { dn 3 10 with job := 5 }, by decide +kernel⟩,
   ⟨(RS (fo 4 2 [])), 3, { dn 3 10 with job := 5, ptype := 3 }, by decide +kernel⟩,
   ⟨(RS (fo 2 2 [])), 4, { op := 2, dev := 1, oseq := 9, addr := 65536 }, { owner := Sys2Proof.Machine.FabOwner.core 3 1 4, code := 2, chk := false, laddr := 281475068985344, raddr := 1125899906908160, len := 8, openPkts := 2, fails := [], old := 0 },
      3, 1, 4, by decide +kernel⟩,
   ⟨(RS (fo 2 2 [])), 3, { pk 3 0x20000 [1,2,3] with chk := true }, { op := 2, dev := 1, oseq := 9, addr := 65536 }, { owner := Sys2Proof.Machine.FabOwner.core 3 1 4, code := 2, chk := false, laddr := 281475068985344, raddr := 1125899906908160, len := 8, openPkts := 2, fails := [], old := 0 },
      3, 1, 4, by decide +kernel⟩,
   ⟨U, 3, (pk 0x1f 0 []), by decide +kernel⟩,
   ⟨{ pk 3 0 [] with hops := 8 }, by decide +kernel⟩,
   ⟨(RS (fo 4 2 [])), 3, (dn 0 9), { op := 2, dev := 1, oseq := 9, addr := 65536 }, { owner := Sys2Proof.Machine.FabOwner.core 3 1 4, code := 4, chk := false, laddr := 281475068985344, raddr := 1125899906908160, len := 8, openPkts := 2, fails := [], old := 0 },
      3, 1, 4, by decide +kernel⟩,
   ⟨(RS (fo 4 2 [])), 3, (dn 3 10), by decide +kernel⟩,
   ⟨(RS (fo 2 2 [])), 3, (pk 3 0x20000 [1,2,3]), { op := 2, dev := 1, oseq := 9, addr := 65536 }, { owner := Sys2Proof.Machine.FabOwner.core 3 1 4, code := 2, chk := false, laddr := 281475068985344, raddr := 1125899906908160, len := 8, openPkts := 2, fails := [], old := 0 },
      3, 1, 4, by decide +kernel⟩,
   ⟨(SQ (fo 2 2 []) (me (dn 3 9))), 3, (me (dn 3 9)), [{ ptype := 1, pclass := 0, tc := 1, chk := false, srcDev := 1, srcAgent := 3, hops := 1, dst := 5629499534278656, job := 0, epoch := 0, oseq := 0, tag := 4, via := 0, viaValid := false, payload := [1, 2, 3, 4], trailer := [] }],
      { op := 2, dev := 5, oseq := 9, addr := 65536 }, { owner := Sys2Proof.Machine.FabOwner.core 3 1 4, code := 2, chk := false, laddr := 281475068985344, raddr := 1125899906908160, len := 8, openPkts := 2, fails := [], old := 0 },
      3, 1, 4, by unfold TakenFromSelf; decide +kernel, by decide +kernel⟩,
   ⟨(done2 (fo 1 0 [])), 2, { owner := Sys2Proof.Machine.FabOwner.core 3 1 4, code := 1, chk := false, laddr := 281475068985344, raddr := 1125899906908160, len := 8, openPkts := 0, fails := [], old := 0 },
      3, 1, { num := 4, ctx := 1, idx := 0, cls := 6, desc := [], reco := false, setf := false, dflag := 0, tag := 0, mb := 0, k := 0, entry := 5, spec := false, step := 0, pre := none, started := true, result := 0, merge := none },
      by decide +kernel⟩,
   ⟨(done2 (fo 1 0 [(20, 3), (10, 4)])), 2, { owner := Sys2Proof.Machine.FabOwner.core 3 1 4, code := 1, chk := false, laddr := 281475068985344, raddr := 1125899906908160, len := 8, openPkts := 0, fails := [(20, 3), (10, 4)], old := 0 },
      3, 1, { num := 4, ctx := 1, idx := 0, cls := 6, desc := [], reco := false, setf := false, dflag := 0, tag := 0, mb := 0, k := 0, entry := 5, spec := false, step := 0, pre := none, started := true, result := 0, merge := none },
      20, 3, 10, 4, by decide +kernel⟩,
   ⟨U, 3, { pk 1 0 [] with dst := globalAddr 6 0 }, by unfold PortsIdle; decide +kernel, by decide +kernel⟩,
   ⟨U, 3, { pk 1 0 [] with dst := globalAddr 600 0 }, by unfold PortsIdle; decide +kernel, by decide +kernel⟩,
   ⟨U, 3, { pk 3 0 [] with dst := globalAddr 600 0 }, by unfold PortsIdle; decide +kernel, by decide +kernel⟩,
   ⟨(fabOf U fun f => { f with ops := [(2, fo 1 0 [])], nextOp := 3 }), 2, { owner := Sys2Proof.Machine.FabOwner.core 3 1 4, code := 1, chk := false, laddr := 281475068985344, raddr := 1125899906908160, len := 8, openPkts := 0, fails := [], old := 0 }, 3, 1, 4, by decide +kernel⟩,
   ⟨(U.setPort 3 { U.port 3 with discover := true }), 3, { pk 1 0 [] with dst := globalAddr 6 0 }, by decide +kernel⟩,
   ⟨(fabOf (U.setPort 3 { U.port 3 with discover := true }) fun f => f), 3, { pk 0x10 0 (BMark.bytes ⟨1, 3, 4, false,
     0, 98, 0, 0⟩) with dst := globalAddr 6 0, srcDev := 5 }, by unfold PortsIdle; decide +kernel, by decide +kernel⟩⟩

end W77

namespace W78

/-- kind ifmt ofmt rmode roundx role ncontrib first nown count src dst stage stagelen id -/
def kd (kind ifm ofm rx role nc first no cnt src dst st sl id : Nat) : List Byte :=
  natLE 4 (8 + kind * 16 + ifm * 128 + ofm * 1024 + rx * 131072) ++ natLE 4 (role + nc * 256) ++ natLE 4 first ++ natLE 4 no ++ natLE 8 cnt ++ natLE 8 src ++ natLE 8 dst ++
  natLE 8 st ++ natLE 8 sl ++ natLE 4 id ++ natLE 4 0
def L : Nat := scratchBase 3 + 0x8000
def STG : Nat := 0x100000
def arm (ds : List Nat) (s : State) : State := withArm s 5 5 (ds.zipIdx.map (fun x => entry 4 x.2 (dref x.1) 0))
def SRC : Nat := scratchBase 3 + 0x9000
def CS (ds : List Nat) (d : List Byte) : State :=
  put (put (arm ds (dev (upAll (ctxIn live 3 1 (cw 6 0 0 0 0 0 5 (descAt 3)) d)) 5)) 0x40000 (List.replicate 64 3)) SRC (List.replicate 64 3)
def CK (ds : List Nat) (d : List Byte) : Cmd := kOf (CS ds d) 3 1
def dA (k : Nat) := kd k 9 0 0 4 1 0 1 4 0x40000 0x80000 STG 0x1000 77
def pS : State := beatOf ((CS [1, 5] (kd 4 0 0 0 4 2 0 1 4 0x40000 0x80000 STG 0x1000 77)).wfBoth .COL_ARM_STAT_ARMED 1) fun b => { b with armed := some (armBase + 0x100000, 40) }
def q (k nc no : Nat) := kd k 0 0 0 4 nc 0 no 4 0x40000 0x80000 STG 0x1000 77
def sS (sl : Nat) := kd 1 0 0 0 4 2 0 1 4 SRC 0x80000 STG sl 77
def sent1 (s : State) := (nx (exec (.reduceScatter 3 1) s)).fab.sent
def sH (sl : Nat) := kd 1 0 0 0 4 2 0 1 4 0x40000 0x80000 STG sl 77

/-- a block with an injected error that no second read mends escalates -/
theorem verify_inj (s : State) (a n b : Nat) (h1 : 0 < n) (h2 : inTier a n = true) (h3 : blocksOf a n = [b])
    (h4 : blockInj s b = 2) : (verifyRead s a n).2 = true := by
  unfold verifyRead
  rw [if_pos ⟨h1, h2⟩, h3]
  unfold verifyBlocks verifyBlock
  simp [h4]
def HI : State := (((CS [1, 5] (sH 0x1000)).wf .TST_INJ_ARMED 1 0).wf .TST_INJ_KIND 1 0).wf .TST_INJ_BLOCK 128 0
def HB : State := HI.setHalf 0 { HI.half 0 with injLeft := 2 }

/-- the stage in the understory -/
def sG : List Byte := kd 1 0 0 0 4 2 0 1 4 SRC 0x80000 (gladeBase 0 + 0x10000) 0x1000 77
def tH : State := ((CS [1, 5] sG).wf .COL_UND_CFG_SIZE 4 0).wf .COL_UND_CFG_BASE 1 0

/-- Hypotheses of CollectivesAreCheckedAndStart, clause by clause. -/
theorem witness_CollectivesAreCheckedAndStart :

     (∃ (s : State) (c : CoreId) (n : CtxId) (k : Cmd), Sound s c n k ∧ k.cls = clFabric ∧ fbOp k.desc = 8 ∧ 1 ≤ kdKind k.desc ∧ kdKind k.desc ≤ 4 ∧ kdFormats k.desc = false) ∧
    (∃ (s : State) (c : CoreId) (n : CtxId) (k : Cmd), Sound s c n k ∧ k.cls = clFabric ∧ fbOp k.desc = 8 ∧ 1 ≤ kdKind k.desc ∧ kdKind k.desc ≤ 4 ∧ kdFormats k.desc = true ∧ (kdNContrib k.desc = 0 ∨ 16384 < kdNContrib k.desc ∨ kdNOwn k.desc = 0 ∨ 16384 < kdNOwn k.desc ∨ kdCount k.desc = 0)) ∧
    (∃ (s : State) (c : CoreId) (n : CtxId) (k : Cmd), Sound s c n k ∧ k.cls = clFabric ∧ fbOp k.desc = 8 ∧ 1 ≤ kdKind k.desc ∧ kdKind k.desc ≤ 4 ∧ kdFormats k.desc = true ∧ (¬(kdNContrib k.desc = 0 ∨ 16384 < kdNContrib k.desc ∨ kdNOwn k.desc = 0 ∨ 16384 < kdNOwn k.desc ∨ kdCount k.desc = 0)) ∧ (¬(64 ≤ kdStageLen k.desc ∧ (regionOf (kdStage k.desc) (kdStageLen k.desc) = some Region.hbm ∨ regionOf (kdStage k.desc) (kdStageLen k.desc) = some (Region.glade (halfOfCore c)))))) ∧
    (∃ (s : State) (c : CoreId) (n : CtxId) (k : Cmd) (new : Nat) (b : Nat), Sound s c n k ∧ k.cls = clFabric ∧ fbOp k.desc = 8 ∧ 1 ≤ kdKind k.desc ∧ kdKind k.desc ≤ 4 ∧ ((s.core c).ops = [] ∧ k.desc.length = 64 ∧ s.fab.colls = [] ∧ s.fab.collEarly = [] ∧ collCheck s c k = none) ∧ kdKind k.desc = 4 ∧ s.beat.armed = some (new, b) ∧ (∀ (q : PermPart), q ∈ permParts s k.desc new (kdNOwn k.desc) 0 → q.oldDev ≠ ownDev s)) ∧
    (∃ (s : State) (c : CoreId) (n : CtxId) (k : Cmd) (cs : List Nat) (os : List Nat), Sound s c n k ∧ k.cls = clFabric ∧ fbOp k.desc = 8 ∧ 1 ≤ kdKind k.desc ∧ kdKind k.desc ≤ 4 ∧ ((s.core c).ops = [] ∧ k.desc.length = 64 ∧ s.fab.colls = [] ∧ s.fab.collEarly = [] ∧ collCheck s c k = none) ∧ kdContribs s k.desc = some cs ∧ kdOwners s k.desc = some os ∧ kdKind k.desc = 1 ∧ ¬ownDev s ∈ cs) ∧
    (∃ (s : State) (c : CoreId) (n : CtxId) (k : Cmd) (cs : List Nat) (os : List Nat), Sound s c n k ∧ k.cls = clFabric ∧ fbOp k.desc = 8 ∧ 1 ≤ kdKind k.desc ∧ kdKind k.desc ≤ 4 ∧ ((s.core c).ops = [] ∧ k.desc.length = 64 ∧ s.fab.colls = [] ∧ s.fab.collEarly = [] ∧ collCheck s c k = none) ∧ kdContribs s k.desc = some cs ∧ kdOwners s k.desc = some os ∧ kdKind k.desc = 2 ∧ ¬ownDev s ∈ os) ∧
    (∃ (s : State) (c : CoreId) (n : CtxId) (k : Cmd) (cs : List Nat) (os : List Nat), Sound s c n k ∧ k.cls = clFabric ∧ fbOp k.desc = 8 ∧ 1 ≤ kdKind k.desc ∧ kdKind k.desc ≤ 4 ∧ ((s.core c).ops = [] ∧ k.desc.length = 64 ∧ s.fab.colls = [] ∧ s.fab.collEarly = [] ∧ collCheck s c k = none) ∧ kdContribs s k.desc = some cs ∧ kdOwners s k.desc = some os ∧ kdKind k.desc = 3 ∧ ¬ownDev s ∈ cs) ∧
    (∃ (s : State) (c : CoreId) (n : CtxId) (k : Cmd), Sound s c n k ∧ k.cls = clFabric ∧ fbOp k.desc = 8 ∧ 1 ≤ kdKind k.desc ∧ kdKind k.desc ≤ 4 ∧ kdFormats k.desc = true ∧ (¬(kdNContrib k.desc = 0 ∨ 16384 < kdNContrib k.desc ∨ kdNOwn k.desc = 0 ∨ 16384 < kdNOwn k.desc ∨ kdCount k.desc = 0)) ∧ (64 ≤ kdStageLen k.desc ∧ (regionOf (kdStage k.desc) (kdStageLen k.desc) = some Region.hbm ∨ regionOf (kdStage k.desc) (kdStageLen k.desc) = some (Region.glade (halfOfCore c)))) ∧ touchesHidden s (kdStage k.desc, kdStageLen k.desc) = false ∧ kdKind k.desc = 4 ∧ ¬s.rf Fld.COL_ARM_STAT_ARMED ≠ 0) ∧
    (∃ (s : State) (c : CoreId) (n : CtxId) (k : Cmd), Sound s c n k ∧ k.cls = clFabric ∧ fbOp k.desc = 8 ∧ 1 ≤ kdKind k.desc ∧ kdKind k.desc ≤ 4 ∧ kdFormats k.desc = true ∧ (¬(kdNContrib k.desc = 0 ∨ 16384 < kdNContrib k.desc ∨ kdNOwn k.desc = 0 ∨ 16384 < kdNOwn k.desc ∨ kdCount k.desc = 0)) ∧ (64 ≤ kdStageLen k.desc ∧ (regionOf (kdStage k.desc) (kdStageLen k.desc) = some Region.hbm ∨ regionOf (kdStage k.desc) (kdStageLen k.desc) = some (Region.glade (halfOfCore c)))) ∧ touchesHidden s (kdStage k.desc, kdStageLen k.desc) = false ∧ (kdKind k.desc = 4 → s.rf Fld.COL_ARM_STAT_ARMED ≠ 0) ∧ (kdContribs s k.desc = none ∨ kdOwners s k.desc = none ∨ ∃ cs os, kdContribs s k.desc = some cs ∧ kdOwners s k.desc = some os ∧ ¬ownDev s ∈ cs ∧ ¬ownDev s ∈ os)) ∧
    (∃ (s : State) (c : CoreId) (n : CtxId) (k : Cmd) (dev : Nat) (vals : List LVal), Sound s c n k ∧ k.cls = clFabric ∧ fbOp k.desc = 8 ∧ 1 ≤ kdKind k.desc ∧ kdKind k.desc ≤ 4 ∧ ((s.core c).ops = [] ∧ k.desc.length = 64 ∧ s.fab.colls = [] ∧ s.fab.collEarly = [] ∧ collCheck s c k = none) ∧ kdKind k.desc = 1 ∧ kdRoundx k.desc = false ∧ kdContribs s k.desc = some [dev, ownDev s] ∧ kdOwners s k.desc = some [dev] ∧ dev ≠ ownDev s ∧ dev < 2 ^ 14 ∧ failedDev s dev = false ∧ s.fab.tracker = [] ∧ s.fab.unsent = [] ∧ kdValues s k.desc = some vals ∧ (verifyRead s (kdSrc k.desc) (srcSpan s k.desc)).snd = true) ∧
    (∃ (s : State) (c : CoreId) (n : CtxId) (k : Cmd) (dev : Nat) (vals : List LVal), Sound s c n k ∧ k.cls = clFabric ∧ fbOp k.desc = 8 ∧ 1 ≤ kdKind k.desc ∧ kdKind k.desc ≤ 4 ∧ ((s.core c).ops = [] ∧ k.desc.length = 64 ∧ s.fab.colls = [] ∧ s.fab.collEarly = [] ∧ collCheck s c k = none) ∧ kdKind k.desc = 1 ∧ kdRoundx k.desc = false ∧ kdContribs s k.desc = some [dev, ownDev s] ∧ kdOwners s k.desc = some [dev] ∧ dev ≠ ownDev s ∧ dev < 2 ^ 14 ∧ failedDev s dev = false ∧ s.fab.tracker = [] ∧ s.fab.unsent = [] ∧ kdValues s k.desc = some vals ∧ (verifyRead s (kdSrc k.desc) (srcSpan s k.desc)).snd = false ∧ ((kdStageLen k.desc - 64) / kdNContrib k.desc / 16 * 16 < (natLE 4 (kdCollId k.desc) ++ natLE 4 (epochNow s) ++ natLE 4 (ownDev s) ++ natLE 4 (crc32c (List.take 24 k.desc ++ List.take 4 (List.drop 56 k.desc))) ++ natLE 8 (digest 1 (List.flatMap (fun b => List.take 16 b) (List.map exchEncode vals) ++ List.flatMap (fun b => List.drop 16 b) (List.map exchEncode vals))) ++ natLE 4 (List.filter exchEscapes vals).length ++ natLE 4 0 ++ (List.flatMap (fun b => List.take 16 b) (List.map exchEncode vals) ++ List.flatMap (fun b => List.drop 16 b) (List.map exchEncode vals))).length)) ∧
    (∃ (s : State) (c : CoreId) (n : CtxId) (k : Cmd) (dev : Nat) (vals : List LVal) (q : PortId) (y : Packet), Sound s c n k ∧ PortsIdle s 20 ∧ k.cls = clFabric ∧ fbOp k.desc = 8 ∧ 1 ≤ kdKind k.desc ∧ kdKind k.desc ≤ 4 ∧ ((s.core c).ops = [] ∧ k.desc.length = 64 ∧ s.fab.colls = [] ∧ s.fab.collEarly = [] ∧ collCheck s c k = none) ∧ kdKind k.desc = 1 ∧ kdRoundx k.desc = false ∧ kdContribs s k.desc = some [dev, ownDev s] ∧ kdOwners s k.desc = some [dev] ∧ dev ≠ ownDev s ∧ dev < 2 ^ 14 ∧ failedDev s dev = false ∧ s.fab.tracker = [] ∧ s.fab.unsent = [] ∧ kdValues s k.desc = some vals ∧ (verifyRead s (kdSrc k.desc) (srcSpan s k.desc)).snd = false ∧ ((natLE 4 (kdCollId k.desc) ++ natLE 4 (epochNow s) ++ natLE 4 (ownDev s) ++ natLE 4 (crc32c (List.take 24 k.desc ++ List.take 4 (List.drop 56 k.desc))) ++ natLE 8 (digest 1 (List.flatMap (fun b => List.take 16 b) (List.map exchEncode vals) ++ List.flatMap (fun b => List.drop 16 b) (List.map exchEncode vals))) ++ natLE 4 (List.filter exchEscapes vals).length ++ natLE 4 0 ++ (List.flatMap (fun b => List.take 16 b) (List.map exchEncode vals) ++ List.flatMap (fun b => List.drop 16 b) (List.map exchEncode vals))).length ≤ (kdStageLen k.desc - 64) / kdNContrib k.desc / 16 * 16) ∧ (globalAddr dev (kdStage k.desc + 64 + (kdStageLen k.desc - 64) / kdNContrib k.desc / 16 * 16) % 4096 + (natLE 4 (kdCollId k.desc) ++ natLE 4 (epochNow s) ++ natLE 4 (ownDev s) ++ natLE 4 (crc32c (List.take 24 k.desc ++ List.take 4 (List.drop 56 k.desc))) ++ natLE 8 (digest 1 (List.flatMap (fun b => List.take 16 b) (List.map exchEncode vals) ++ List.flatMap (fun b => List.drop 16 b) (List.map exchEncode vals))) ++ natLE 4 (List.filter exchEscapes vals).length ++ natLE 4 0 ++ (List.flatMap (fun b => List.take 16 b) (List.map exchEncode vals) ++ List.flatMap (fun b => List.drop 16 b) (List.map exchEncode vals))).length ≤ 4096) ∧ (sentBy s { (donePacket s (mkPacket s 0 1 0 0 false false [] []) 0 0) with ptype := 1, srcAgent := 1021 + (halfOfCore c).val, dst := globalAddr dev (kdStage k.desc + 64 + (kdStageLen k.desc - 64) / kdNContrib k.desc / 16 * 16), oseq := aget s.fab.oseqOut dev 0, payload := natLE 4 (kdCollId k.desc) ++ natLE 4 (epochNow s) ++ natLE 4 (ownDev s) ++ natLE 4 (crc32c (List.take 24 k.desc ++ List.take 4 (List.drop 56 k.desc))) ++ natLE 8 (digest 1 (List.flatMap (fun b => List.take 16 b) (List.map exchEncode vals) ++ List.flatMap (fun b => List.drop 16 b) (List.map exchEncode vals))) ++ natLE 4 (List.filter exchEscapes vals).length ++ natLE 4 0 ++ (List.flatMap (fun b => List.take 16 b) (List.map exchEncode vals) ++ List.flatMap (fun b => List.drop 16 b) (List.map exchEncode vals)) } = [(q, y)])) ∧
    (∃ (s : State) (c : CoreId) (n : CtxId) (k : Cmd), Sound s c n k ∧ k.cls = clFabric ∧ fbOp k.desc = 8 ∧ 1 ≤ kdKind
      k.desc ∧ kdKind k.desc ≤ 4 ∧ kdFormats k.desc = true ∧ (¬(kdNContrib k.desc = 0 ∨ 16384 < kdNContrib k.desc ∨
      kdNOwn k.desc = 0 ∨ 16384 < kdNOwn k.desc ∨ kdCount k.desc = 0)) ∧ (64 ≤ kdStageLen k.desc ∧ (regionOf (kdStage
      k.desc) (kdStageLen k.desc) = some Region.hbm ∨ regionOf (kdStage k.desc) (kdStageLen k.desc) = some
      (Region.glade (halfOfCore c)))) ∧ touchesHidden s (kdStage k.desc, kdStageLen k.desc) = true) :=
  ⟨⟨(CS [5] (kd 1 5 0 0 4 1 0 1 4 0x40000 0x80000 STG 0x1000 77)), 3, 1, { cls := 6, dep := 0, reco := false, setf := false, wflag := 0, dflag := 0, tag := 5, descAddr := 281475068993536, desc := [152, 2, 0, 0, 4, 1, 0, 0, 0, 0, 0, 0, 1, 0, 0, 0, 4, 0, 0, 0, 0, 0, 0, 0, 0, 0, 4, 0, 0, 0, 0, 0, 0, 0, 8, 0, 0, 0, 0, 0, 0, 0, 16, 0, 0, 0, 0, 0, 0, 16, 0, 0, 0, 0, 0, 0, 77, 0, 0, 0, 0, 0, 0, 0] },
      by unfold Sound Accepts; decide +kernel, by decide +kernel⟩,
   ⟨(CS [5] (kd 1 0 0 0 4 0 0 1 4 0x40000 0x80000 STG 0x1000 77)), 3, 1, { cls := 6, dep := 0, reco := false, setf := false, wflag := 0, dflag := 0, tag := 5, descAddr := 281475068993536, desc := [24, 0, 0, 0, 4, 0, 0, 0, 0, 0, 0, 0, 1, 0, 0, 0, 4, 0, 0, 0, 0, 0, 0, 0, 0, 0, 4, 0, 0, 0, 0, 0, 0, 0, 8, 0, 0, 0, 0, 0, 0, 0, 16, 0, 0, 0, 0, 0, 0, 16, 0, 0, 0, 0, 0, 0, 77, 0, 0, 0, 0, 0, 0, 0] },
      by unfold Sound Accepts; decide +kernel, by decide +kernel⟩,
   ⟨(CS [5] (kd 1 0 0 0 4 1 0 1 4 0x40000 0x80000 STG 60 77)), 3, 1, { cls := 6, dep := 0, reco := false, setf := false, wflag := 0, dflag := 0, tag := 5, descAddr := 281475068993536, desc := [24, 0, 0, 0, 4, 1, 0, 0, 0, 0, 0, 0, 1, 0, 0, 0, 4, 0, 0, 0, 0, 0, 0, 0, 0, 0, 4, 0, 0, 0, 0, 0, 0, 0, 8, 0, 0, 0, 0, 0, 0, 0, 16, 0, 0, 0, 0, 0, 60, 0, 0, 0, 0, 0, 0, 0, 77, 0, 0, 0, 0, 0, 0, 0] },
      by unfold Sound Accepts; decide +kernel, by decide +kernel⟩,
   ⟨pS, 3, 1, { cls := 6, dep := 0, reco := false, setf := false, wflag := 0, dflag := 0, tag := 5, descAddr := 281475068993536, desc := [72, 0, 0, 0, 4, 2, 0, 0, 0, 0, 0, 0, 1, 0, 0, 0, 4, 0, 0, 0, 0, 0, 0, 0, 0, 0, 4, 0, 0, 0, 0, 0, 0, 0, 8, 0, 0, 0, 0, 0, 0, 0, 16, 0, 0, 0, 0, 0, 0, 16, 0, 0, 0, 0, 0, 0, 77, 0, 0, 0, 0, 0, 0, 0] },
      481305821184, 40, by unfold Sound Accepts; decide +kernel, by decide +kernel⟩,
   ⟨(CS [1, 5] (q 1 1 2)), 3, 1, { cls := 6, dep := 0, reco := false, setf := false, wflag := 0, dflag := 0, tag := 5, descAddr := 281475068993536, desc := [24, 0, 0, 0, 4, 1, 0, 0, 0, 0, 0, 0, 2, 0, 0, 0, 4, 0, 0, 0, 0, 0, 0, 0, 0, 0, 4, 0, 0, 0, 0, 0, 0, 0, 8, 0, 0, 0, 0, 0, 0, 0, 16, 0, 0, 0, 0, 0, 0, 16, 0, 0, 0, 0, 0, 0, 77, 0, 0, 0, 0, 0, 0, 0] },
      [1], [1, 5], by unfold Sound Accepts; decide +kernel, by decide +kernel⟩,
   ⟨(CS [1, 5] (q 2 2 1)), 3, 1, { cls := 6, dep := 0, reco := false, setf := false, wflag := 0, dflag := 0, tag := 5, descAddr := 281475068993536, desc := [40, 0, 0, 0, 4, 2, 0, 0, 0, 0, 0, 0, 1, 0, 0, 0, 4, 0, 0, 0, 0, 0, 0, 0, 0, 0, 4, 0, 0, 0, 0, 0, 0, 0, 8, 0, 0, 0, 0, 0, 0, 0, 16, 0, 0, 0, 0, 0, 0, 16, 0, 0, 0, 0, 0, 0, 77, 0, 0, 0, 0, 0, 0, 0] },
      [1, 5], [1], by unfold Sound Accepts; decide +kernel, by decide +kernel⟩,
   ⟨(CS [1, 5] (q 3 1 2)), 3, 1, { cls := 6, dep := 0, reco := false, setf := false, wflag := 0, dflag := 0, tag := 5, descAddr := 281475068993536, desc := [56, 0, 0, 0, 4, 1, 0, 0, 0, 0, 0, 0, 2, 0, 0, 0, 4, 0, 0, 0, 0, 0, 0, 0, 0, 0, 4, 0, 0, 0, 0, 0, 0, 0, 8, 0, 0, 0, 0, 0, 0, 0, 16, 0, 0, 0, 0, 0, 0, 16, 0, 0, 0, 0, 0, 0, 77, 0, 0, 0, 0, 0, 0, 0] },
      [1], [1, 5], by unfold Sound Accepts; decide +kernel, by decide +kernel⟩,
   ⟨(CS [5] (kd 4 0 0 0 4 1 0 1 4 0x40000 0x80000 STG 0x1000 77)), 3, 1, { cls := 6, dep := 0, reco := false, setf := false, wflag := 0, dflag := 0, tag := 5, descAddr := 281475068993536, desc := [72, 0, 0, 0, 4, 1, 0, 0, 0, 0, 0, 0, 1, 0, 0, 0, 4, 0, 0, 0, 0, 0, 0, 0, 0, 0, 4, 0, 0, 0, 0, 0, 0, 0, 8, 0, 0, 0, 0, 0, 0, 0, 16, 0, 0, 0, 0, 0, 0, 16, 0, 0, 0, 0, 0, 0, 77, 0, 0, 0, 0, 0, 0, 0] },
      by unfold Sound Accepts; decide +kernel, by decide +kernel⟩,
   ⟨(CS [1] (kd 1 0 0 0 4 1 0 1 4 0x40000 0x80000 STG 0x1000 77)), 3, 1, { cls := 6, dep := 0, reco := false, setf := false, wflag := 0, dflag := 0, tag := 5, descAddr := 281475068993536, desc := [24, 0, 0, 0, 4, 1, 0, 0, 0, 0, 0, 0, 1, 0, 0, 0, 4, 0, 0, 0, 0, 0, 0, 0, 0, 0, 4, 0, 0, 0, 0, 0, 0, 0, 8, 0, 0, 0, 0, 0, 0, 0, 16, 0, 0, 0, 0, 0, 0, 16, 0, 0, 0, 0, 0, 0, 77, 0, 0, 0, 0, 0, 0, 0] },
      by unfold Sound Accepts; decide +kernel, by
     refine ⟨?_, ?_, ?_, ?_, ?_, ?_, ?_, ?_, ?_,
       .inr (.inr ⟨[1], [1], by and_intros <;> decide +kernel⟩)⟩ <;> decide +kernel⟩,
   ⟨HB, 3, 1, { cls := 6, dep := 0, reco := false, setf := false, wflag := 0, dflag := 0, tag := 5, descAddr := 281475068993536, desc := [24, 0, 0, 0, 4, 2, 0, 0, 0, 0, 0, 0, 1, 0, 0, 0, 4, 0, 0, 0, 0, 0, 0, 0, 0, 0, 4, 0, 0, 0, 0, 0, 0, 0, 8, 0, 0, 0, 0, 0, 0, 0, 16, 0, 0, 0, 0, 0, 0, 16, 0, 0, 0, 0, 0, 0, 77, 0, 0, 0, 0, 0, 0, 0] },
      1, [{ sc := 0, l := 822374174464530655081850557287575106033194191216238743519232 }, { sc := 0, l := 822374174464530655081850557287575106033194191216238743519232 },
      { sc := 0, l := 822374174464530655081850557287575106033194191216238743519232 }, { sc := 0, l := 822374174464530655081850557287575106033194191216238743519232 }],
      by unfold Sound Accepts; decide +kernel,
      by
     refine ⟨?_, ?_, ?_, ?_, ?_, ?_, ?_, ?_, ?_, ?_, ?_, ?_, ?_, ?_, ?_,
       verify_inj HB _ _ 0x40000 (by decide +kernel) (by decide +kernel) (by decide +kernel) (by decide +kernel)⟩ <;> decide +kernel⟩,
   ⟨(CS [1, 5] (sS 128)), 3, 1, { cls := 6, dep := 0, reco := false, setf := false, wflag := 0, dflag := 0, tag := 5, descAddr := 281475068993536, desc := [24, 0, 0, 0, 4, 2, 0, 0, 0, 0, 0, 0, 1, 0, 0, 0, 4, 0, 0, 0, 0, 0, 0, 0, 0, 144, 128, 5, 0, 0, 1, 0, 0, 0, 8, 0, 0, 0, 0, 0, 0, 0, 16, 0, 0, 0, 0, 0, 128, 0, 0, 0, 0, 0, 0, 0, 77, 0, 0, 0, 0, 0, 0, 0] },
      1, [{ sc := 0, l := 822374174464530655081850557287575106033194191216238743519232 }, { sc := 0, l := 822374174464530655081850557287575106033194191216238743519232 },
      { sc := 0, l := 822374174464530655081850557287575106033194191216238743519232 }, { sc := 0, l := 822374174464530655081850557287575106033194191216238743519232 }],
      by unfold Sound Accepts; decide +kernel, by decide +kernel⟩,
   ⟨(CS [1, 5] (sS 0x1000)), 3, 1, { cls := 6, dep := 0, reco := false, setf := false, wflag := 0, dflag := 0, tag := 5, descAddr := 281475068993536, desc := [24, 0, 0, 0, 4, 2, 0, 0, 0, 0, 0, 0, 1, 0, 0, 0, 4, 0, 0, 0, 0, 0, 0, 0, 0, 144, 128, 5, 0, 0, 1, 0, 0, 0, 8, 0, 0, 0, 0, 0, 0, 0, 16, 0, 0, 0, 0, 0, 0, 16, 0, 0, 0, 0, 0, 0, 77, 0, 0, 0, 0, 0, 0, 0] },
      1, [{ sc := 0, l := 822374174464530655081850557287575106033194191216238743519232 }, { sc := 0, l := 822374174464530655081850557287575106033194191216238743519232 },
      { sc := 0, l := 822374174464530655081850557287575106033194191216238743519232 }, { sc := 0, l := 822374174464530655081850557287575106033194191216238743519232 }],
      3, { ptype := 1, pclass := 0, tc := 1, chk := false, srcDev := 5, srcAgent := 1021, hops := 1, dst := 1125899907893280, job := 77, epoch := 1, oseq := 0, tag := 0, via := 0, viaValid := false, payload := [77, 0, 0, 0, 1, 0, 0, 0, 5, 0, 0, 0, 8, 39, 213, 53, 117, 226, 95, 73, 137, 89, 104, 213, 0, 0, 0, 0, 0, 0, 0, 0, 3, 0, 0, 0, 0, 0, 0, 0, 0, 0, 0, 0, 3, 3, 131, 0, 3, 0, 0, 0, 0, 0, 0, 0, 0, 0, 0, 0, 3, 3, 131, 0, 3, 0, 0, 0, 0, 0, 0, 0, 0, 0, 0, 0, 3, 3, 131, 0, 3, 0, 0, 0, 0, 0, 0, 0, 0, 0, 0, 0, 3, 3, 131, 0], trailer := [] },
      by unfold Sound Accepts; decide +kernel, by unfold PortsIdle; decide +kernel, by decide +kernel⟩,
   ⟨tH, 3, 1, { cls := 6, dep := 0, reco := false, setf := false, wflag := 0, dflag := 0, tag := 5, descAddr :=
     281475068993536, desc := [24, 0, 0, 0, 4, 2, 0, 0, 0, 0, 0, 0, 1, 0, 0, 0, 4, 0, 0, 0, 0, 0, 0, 0, 0, 144, 128,
     5, 0, 0, 1, 0, 0, 0, 8, 0, 0, 0, 0, 0, 0, 0, 1, 0, 0, 0, 1, 0, 0, 16, 0, 0, 0, 0, 0, 0, 77, 0, 0, 0, 0, 0, 0, 0]
     }, by unfold Sound Accepts; decide +kernel, by decide +kernel⟩⟩

end W78

namespace W79

/-- kind ifmt ofmt rmode roundx role ncontrib first nown count src dst stage stagelen id -/
def kd (kind ifm ofm rx role nc first no cnt src dst st sl id : Nat) : List Byte :=
  natLE 4 (8 + kind * 16 + ifm * 128 + ofm * 1024 + rx * 131072) ++ natLE 4 (role + nc * 256) ++ natLE 4 first ++ natLE 4 no ++ natLE 8 cnt ++ natLE 8 src ++ natLE 8 dst ++
  natLE 8 st ++ natLE 8 sl ++ natLE 4 id ++ natLE 4 0
def L : Nat := scratchBase 3 + 0x8000
def STG : Nat := 0x100000
def arm (ds : List Nat) (s : State) : State := withArm s 5 5 (ds.zipIdx.map (fun x => entry 4 x.2 (dref x.1) 0))
def CS (ds : List Nat) (d : List Byte) : State := put (arm ds (dev (upAll (ctxIn live 3 1 (cw 6 0 0 0 0 0 5 (descAt 3)) d)) 5)) 0x40000 (List.replicate 64 3)
def CK (ds : List Nat) (d : List Byte) : Cmd := kOf (CS ds d) 3 1
/-- the collective at the owner: device 5 owns, contributors [1,5]; owners [5] -/
def cd (kind : Nat) := kd kind 0 0 0 4 2 0 1 4 0x40000 0x80000 STG 0x1000 77
def X0 (kind : Nat) (f : Coll → Coll) : Coll := f { id := 9, core := 3, ctx := 1, num := 4, desc := cd kind, epoch := 1, phase := none, running := true, contribs := [1, 5], owners := [5], step := 0, mb := 0, incl := [], seen := [], closed := [], got := [], recvClosed := false, nlate := 0, ndigest := 0, nmismatch := 0, cfails := [], ofails := [], ended := false, moved := [], perm := [], parts := [] }
def zz : Nat := (0x1000 - 64) / 2 / 16 * 16
def arr : List Byte := ([0,1,2,3] : List Int).flatMap (fun i => exchEncode ⟨0, i⟩)
def hdr (id : Nat) (dg : Nat) : List Byte := natLE 4 id ++ natLE 4 1 ++ natLE 4 1 ++ natLE 4 (crc32c ((cd 1).take 0x18 ++ ((cd 1).drop 0x38).take 4)) ++ natLE 8 dg ++ natLE 4 0 ++ natLE 4 0
def base (x : Coll) (h : List Byte) : State := fabOf (put (CS [1, 5] []) (STG + 64) (h ++ arr)) fun f => { f with colls := [x] }
def pk (ty dst : Nat) : Packet := { ptype := ty, pclass := 0, tc := 1, chk := false, srcDev := 1, srcAgent := 3, hops := 1, dst := globalAddr 5 dst, job := 77, epoch := 1, oseq := 0, tag := 4, via := 0, viaValid := false, payload := [], trailer := [] }
def opX : Op := ⟨4, 1, 0, 6, [], false, false, 0, 0, 0, 0, 5, false, 0, none, true, 0, none⟩
def F := pk 5 (STG + 64)
def good := hdr 77 (digest 1 arr)
def X1 := X0 1 fun x => { x with incl := [(0, 1)], seen := [(0, 1)] }
def X2 (c : Bool) := X0 2 fun x => { x with owners := [1], contribs := [1, 5], recvClosed := c }
def F2 := pk 5 0x80000
def X3 (f : List Nat) := X0 1 fun x => { x with owners := [1], contribs := [1, 5], recvClosed := true, ofails := f }

/-- an array whose values are invalid, with its digest -/
def badA : List Byte := List.replicate 64 255
def baseB (x : Coll) : State := fabOf (put (CS [1, 5] []) (STG + 64) (hdr 77 (digest 1 badA) ++ badA)) fun f => { f with colls := [x] }

/-- the collective with a contribution included -/
abbrev joined (x : Coll) (j r : Nat) : Coll := { x with seen := x.seen ++ [(j, r)], incl := x.incl ++ [(j, r)] }

/-- Hypotheses of OwnersCloseAndCollectivesComplete, clause by clause. -/
theorem witness_OwnersCloseAndCollectivesComplete :
    (∃ (s : State) (x : Coll) (i : Nat), s.fab.colls = [x] ∧ x.running = true ∧ s.fab.collEarly = [] ∧ i ≠ x.id) ∧
    (∃ (s : State) (x : Coll), s.fab.colls = [x] ∧ x.running = true ∧ s.fab.collEarly = [] ∧ collReady s x = false) ∧
    (∃ (s : State) (p : PortId) (pkt : Packet) (x : Coll) (j : Nat) (r : Nat), Served s p pkt 5 ∧ s.fab.colls = [x] ∧
      x.running = true ∧ s.fab.collEarly = [] ∧ flagOfLocal (addrLocal pkt.dst) = none ∧ seqPlace (addrLocal pkt.dst) =
      true ∧ seqFlagOf s x pkt.srcDev (addrLocal pkt.dst) = some (SeqFlag.contrib j r) ∧ (x.ended = true → s.readN
      (addrLocal pkt.dst) 4 = kdCollId x.desc) ∧ j ∈ x.closed) ∧
    (∃ (s : State) (p : PortId) (pkt : Packet) (x : Coll) (j : Nat) (r : Nat), Served s p pkt 5 ∧ s.fab.colls = [x] ∧
      x.running = true ∧ s.fab.collEarly = [] ∧ flagOfLocal (addrLocal pkt.dst) = none ∧ seqPlace (addrLocal pkt.dst) =
      true ∧ seqFlagOf s x pkt.srcDev (addrLocal pkt.dst) = some (SeqFlag.contrib j r) ∧ (x.ended = true → s.readN
      (addrLocal pkt.dst) 4 = kdCollId x.desc) ∧ ¬j ∈ x.closed ∧ (¬(s.readN (slotBase x j r) 4 = kdCollId x.desc ∧ s.readN
      (slotBase x j r + 4) 4 = x.epoch ∧ s.readN (slotBase x j r + 12) 4 = crc32c (List.take 24 x.desc ++ List.take 4
      (List.drop 56 x.desc))))) ∧
    (∃ (s : State) (p : PortId) (pkt : Packet) (x : Coll) (j : Nat) (r : Nat), Served s p pkt 5 ∧ s.fab.colls = [x] ∧
      x.running = true ∧ s.fab.collEarly = [] ∧ flagOfLocal (addrLocal pkt.dst) = none ∧ seqPlace (addrLocal pkt.dst) =
      true ∧ seqFlagOf s x pkt.srcDev (addrLocal pkt.dst) = some (SeqFlag.contrib j r) ∧ (x.ended = true → s.readN
      (addrLocal pkt.dst) 4 = kdCollId x.desc) ∧ ¬j ∈ x.closed ∧ (s.readN (slotBase x j r) 4 = kdCollId x.desc ∧ s.readN
      (slotBase x j r + 4) 4 = x.epoch ∧ s.readN (slotBase x j r + 12) 4 = crc32c (List.take 24 x.desc ++ List.take 4
      (List.drop 56 x.desc))) ∧ (¬((32 + if kdRoundx x.desc = true then ((j + 1) * kdCount x.desc / kdNOwn x.desc - j *
      kdCount x.desc / kdNOwn x.desc) * elemBytes (kdOfmt x.desc) else 16 * ((j + 1) * kdCount x.desc / kdNOwn x.desc - j
      * kdCount x.desc / kdNOwn x.desc) + 80 * s.readN (slotBase x j r + 24) 4) ≤ kdSlot x.desc ∧ digest 1 (s.read
      (slotBase x j r + 32) (if kdRoundx x.desc = true then ((j + 1) * kdCount x.desc / kdNOwn x.desc - j * kdCount x.desc
      / kdNOwn x.desc) * elemBytes (kdOfmt x.desc) else 16 * ((j + 1) * kdCount x.desc / kdNOwn x.desc - j * kdCount
      x.desc / kdNOwn x.desc) + 80 * s.readN (slotBase x j r + 24) 4)) = s.readN (slotBase x j r + 16) 8))) ∧
    (∃ (s : State) (p : PortId) (pkt : Packet) (x : Coll) (j : Nat) (r : Nat), Served s p pkt 5 ∧ s.fab.colls = [x] ∧
      x.running = true ∧ s.fab.collEarly = [] ∧ flagOfLocal (addrLocal pkt.dst) = none ∧ seqPlace (addrLocal pkt.dst) =
      true ∧ seqFlagOf s x pkt.srcDev (addrLocal pkt.dst) = some (SeqFlag.contrib j r) ∧ (x.ended = true → s.readN
      (addrLocal pkt.dst) 4 = kdCollId x.desc) ∧ ¬j ∈ x.closed ∧ (s.readN (slotBase x j r) 4 = kdCollId x.desc ∧ s.readN
      (slotBase x j r + 4) 4 = x.epoch ∧ s.readN (slotBase x j r + 12) 4 = crc32c (List.take 24 x.desc ++ List.take 4
      (List.drop 56 x.desc))) ∧ ((32 + if kdRoundx x.desc = true then ((j + 1) * kdCount x.desc / kdNOwn x.desc - j *
      kdCount x.desc / kdNOwn x.desc) * elemBytes (kdOfmt x.desc) else 16 * ((j + 1) * kdCount x.desc / kdNOwn x.desc - j
      * kdCount x.desc / kdNOwn x.desc) + 80 * s.readN (slotBase x j r + 24) 4) ≤ kdSlot x.desc ∧ digest 1 (s.read
      (slotBase x j r + 32) (if kdRoundx x.desc = true then ((j + 1) * kdCount x.desc / kdNOwn x.desc - j * kdCount x.desc
      / kdNOwn x.desc) * elemBytes (kdOfmt x.desc) else 16 * ((j + 1) * kdCount x.desc / kdNOwn x.desc - j * kdCount
      x.desc / kdNOwn x.desc) + 80 * s.readN (slotBase x j r + 24) 4)) = s.readN (slotBase x j r + 16) 8) ∧ ¬(j, r) ∈
      x.incl ∧ (included (joined x j r) j).length < expected s (joined x j r) j) ∧
    (∃ (s : State) (p : PortId) (pkt : Packet) (x : Coll) (j : Nat) (r : Nat), Served s p pkt 5 ∧ s.fab.colls = [x] ∧
      x.running = true ∧ s.fab.collEarly = [] ∧ flagOfLocal (addrLocal pkt.dst) = none ∧ seqPlace (addrLocal pkt.dst) =
      true ∧ seqFlagOf s x pkt.srcDev (addrLocal pkt.dst) = some (SeqFlag.contrib j r) ∧ (x.ended = true → s.readN
      (addrLocal pkt.dst) 4 = kdCollId x.desc) ∧ ¬j ∈ x.closed ∧ (s.readN (slotBase x j r) 4 = kdCollId x.desc ∧ s.readN
      (slotBase x j r + 4) 4 = x.epoch ∧ s.readN (slotBase x j r + 12) 4 = crc32c (List.take 24 x.desc ++ List.take 4
      (List.drop 56 x.desc))) ∧ ((32 + if kdRoundx x.desc = true then ((j + 1) * kdCount x.desc / kdNOwn x.desc - j *
      kdCount x.desc / kdNOwn x.desc) * elemBytes (kdOfmt x.desc) else 16 * ((j + 1) * kdCount x.desc / kdNOwn x.desc - j
      * kdCount x.desc / kdNOwn x.desc) + 80 * s.readN (slotBase x j r + 24) 4) ≤ kdSlot x.desc ∧ digest 1 (s.read
      (slotBase x j r + 32) (if kdRoundx x.desc = true then ((j + 1) * kdCount x.desc / kdNOwn x.desc - j * kdCount x.desc
      / kdNOwn x.desc) * elemBytes (kdOfmt x.desc) else 16 * ((j + 1) * kdCount x.desc / kdNOwn x.desc - j * kdCount
      x.desc / kdNOwn x.desc) + 80 * s.readN (slotBase x j r + 24) 4)) = s.readN (slotBase x j r + 16) 8) ∧ ¬(j, r) ∈
      x.incl ∧ expected s (joined x j r) j ≤ (included (joined x j r) j).length ∧ chunkValid s (joined x j r) j = true ∧ kdKind x.desc = 1 ∧ x.moved = [] ∧ (memWaits s (halfOfCore x.core) (kdDst x.desc
      + (if kdOfmt x.desc = 6 then 96 else kdBytes (kdOfmt x.desc)) * ownedBefore x.desc (placesOf (ownDev s) x.owners) j)
      (outValues s (joined x j r) (j * kdCount x.desc / kdNOwn x.desc)
      (chunkSums s (joined x j r) j)).length = false)) ∧
    (∃ (s : State) (p : PortId) (pkt : Packet) (x : Coll) (j : Nat), Served s p pkt 5 ∧ s.fab.colls = [x] ∧ x.running =
      true ∧ s.fab.collEarly = [] ∧ flagOfLocal (addrLocal pkt.dst) = none ∧ seqPlace (addrLocal pkt.dst) = true ∧
      seqFlagOf s x pkt.srcDev (addrLocal pkt.dst) = some (SeqFlag.chunk j) ∧ (x.recvClosed = true ∨ x.ended = true)) ∧
    (∃ (s : State) (p : PortId) (pkt : Packet) (x : Coll) (j : Nat), Served s p pkt 5 ∧ s.fab.colls = [x] ∧ x.running =
      true ∧ s.fab.collEarly = [] ∧ flagOfLocal (addrLocal pkt.dst) = none ∧ seqPlace (addrLocal pkt.dst) = true ∧
      seqFlagOf s x pkt.srcDev (addrLocal pkt.dst) = some (SeqFlag.chunk j) ∧ x.recvClosed = false ∧ x.ended = false ∧ (∀
      (q : Nat × List Byte), q ∈ List.filter (fun q => inChunk x j q.fst q.snd.length) x.parts → memWaits s (halfOfCore
      x.core) q.fst q.snd.length = false)) ∧
    (∃ (s : State) (x : Coll) (o : Op), s.fab.colls = [x] ∧ x.running = true ∧ s.fab.collEarly = [] ∧ collReady s x = true
      ∧ findOp (s.core x.core) x.num = some o ∧ (s.core x.core).ops = [o] ∧ o.cls = clFabric ∧ o.reco = false ∧ o.setf =
      false ∧ (s.ctx x.core o.ctx).fail = none ∧ x.cfails = [] ∧ ¬ownDev s ∈ x.owners ∧ memWaits s (halfOfCore x.core)
      (kdStage x.desc) 64 = false) ∧
    (∃ (s : State) (p : PortId) (pkt : Packet) (x : Coll) (j : Nat) (r : Nat), Served s p pkt 5 ∧ s.fab.colls = [x] ∧
      x.running = true ∧ s.fab.collEarly = [] ∧ flagOfLocal (addrLocal pkt.dst) = none ∧ seqPlace (addrLocal pkt.dst) =
      true ∧ seqFlagOf s x pkt.srcDev (addrLocal pkt.dst) = some (SeqFlag.contrib j r) ∧ (x.ended = true → s.readN
      (addrLocal pkt.dst) 4 = kdCollId x.desc) ∧ ¬j ∈ x.closed ∧ (s.readN (slotBase x j r) 4 = kdCollId x.desc ∧ s.readN
      (slotBase x j r + 4) 4 = x.epoch ∧ s.readN (slotBase x j r + 12) 4 = crc32c (List.take 24 x.desc ++ List.take 4
      (List.drop 56 x.desc))) ∧ ((32 + if kdRoundx x.desc = true then ((j + 1) * kdCount x.desc / kdNOwn x.desc - j *
      kdCount x.desc / kdNOwn x.desc) * elemBytes (kdOfmt x.desc) else 16 * ((j + 1) * kdCount x.desc / kdNOwn x.desc - j
      * kdCount x.desc / kdNOwn x.desc) + 80 * s.readN (slotBase x j r + 24) 4) ≤ kdSlot x.desc ∧ digest 1 (s.read
      (slotBase x j r + 32) (if kdRoundx x.desc = true then ((j + 1) * kdCount x.desc / kdNOwn x.desc - j * kdCount x.desc
      / kdNOwn x.desc) * elemBytes (kdOfmt x.desc) else 16 * ((j + 1) * kdCount x.desc / kdNOwn x.desc - j * kdCount
      x.desc / kdNOwn x.desc) + 80 * s.readN (slotBase x j r + 24) 4)) = s.readN (slotBase x j r + 16) 8) ∧ ¬(j, r) ∈
      x.incl ∧ expected s (joined x j r) j ≤ (included (joined x j r) j).length ∧ chunkValid s (joined x j r) j = false) :=
  ⟨⟨(base X1 good), X1, 0, by decide +kernel⟩,
   ⟨(base X1 good), X1, by decide +kernel⟩,
   ⟨(base (X0 1 fun x => { x with closed := [0] }) good), 3, F, (X0 1 fun x => { x with closed := [0] }), 0, 0,
     by unfold Served InTurn PortsIdle; decide +kernel, by decide +kernel⟩,
   ⟨(base (X0 1 id) (hdr 78 0)), 3, F, (X0 1 id), 0, 0, by unfold Served InTurn PortsIdle; decide +kernel, by decide +kernel⟩,
   ⟨(base (X0 1 id) (hdr 77 0)), 3, F, (X0 1 id), 0, 0, by unfold Served InTurn PortsIdle; decide +kernel, by decide +kernel⟩,
   ⟨(base (X0 1 id) good), 3, F, (X0 1 id), 0, 0, by unfold Served InTurn PortsIdle; decide +kernel, by decide +kernel⟩,
   ⟨(base X1 good), 3, F, X1, 0, 0, by unfold Served InTurn PortsIdle; decide +kernel, by decide +kernel⟩,
   ⟨(base (X2 true) good), 3, F2, (X2 true), 0, by unfold Served InTurn PortsIdle; decide +kernel, by decide +kernel⟩,
   ⟨(base (X2 false) good), 3, F2, (X2 false), 0, by unfold Served InTurn PortsIdle; decide +kernel, by decide +kernel⟩,
   ⟨(coreOfSt (base (X3 []) good) 3 fun y => { y with ops := [opX] }), (X3 []), opX, by decide +kernel⟩,
   ⟨(baseB X1), 3, F, X1, 0, 0, by unfold Served InTurn PortsIdle; decide +kernel, by decide +kernel⟩⟩

end W79

namespace W80

/-- device 5 of an armature; gp, hp -/
def D (gp hp : Nat) : State := ((dev (withArm (upAll live) gp hp [entry 6 0 (dref 5) 0, entry 6 1 (dref 6) 0, entry 6 2 (dref 7) 0]) 5).wfBoth .BEAT_CFG_EN 1).wfBoth .BEAT_NOW_BEAT 99
def ph (n pol opn dl : Nat) : PhaseRun := { phase := n, policy := pol, extMax := 2, dflag := 9, lflag := 10, shares := (1, 2, 3), part := true, openBeat := opn, deadline := dl, ext := 0, opened := true, closed := false, deciding := false, done := none, early := false, late := false, inExt := false, logged := false, passed := none }
def bt (s : State) (f : Beat → Beat) : State := beatOf s f
def SCH : Nat := 0x7020000000
def stp : State := jobOf (bt ((put (D 5 5) SCH (sched 20 8 77 [schedEnt 1 1 64 2 0 4 9 10, schedEnt 2 0 64 2 3 4 11 12])).wfBoth .BEAT_SCHED_ADDR SCH) fun b => { b with started := true, nextStep := 99 }) 3
def dl (s : State) (p : PhaseRun) : State := bt s fun b => { b with phases := [p] }
def pl := ph 3 0 90 95
def bm (k p c : Nat) (e : Bool) (b : Nat) : Packet := { ptype := 0x10, pclass := 0, tc := 3, chk := false, srcDev := 6, srcAgent := 3, hops := 1, dst := globalAddr 5 0, job := 77, epoch := 1, oseq := 0, tag := 4, via := 0, viaValid := false, payload := BMark.bytes ⟨k, p, c, e, 0, b, 0, 0⟩, trailer := [] }

/-- Hypotheses of PhasesOpenAndFindLateDevices (BoundariesAdvanceTheBeat), clause by clause. -/
theorem witness_BoundariesAdvanceTheBeat :
    (∃ (s : State), s.rf Fld.BEAT_CFG_EN = 0) ∧
    (∃ (s : State), s.rf Fld.BEAT_CFG_EN ≠ 0 ∧ s.rf Fld.PMC_RING_BASE_ADDR = 0 ∧ s.rf Fld.PMC_RING_BASE_ADDR 1 = 0 ∧ s.dx.job ≠
      3 ∧ (∀ (p : PhaseRun), p ∈ s.beat.phases → p.deciding = false ∧ ¬(p.policy = 1 ∧ p.opened = true ∧ p.closed = false ∧
      p.deadline = (s.rf Fld.BEAT_NOW_BEAT + 1) % 2 ^ 64)) ∧ (List.map PhaseRun.phase s.beat.phases).Nodup ∧ s.beat.preDone =
      []) ∧
    (∃ (s : State) (p : PhaseRun), s.rf Fld.BEAT_CFG_EN ≠ 0 ∧ s.rf Fld.PMC_RING_BASE_ADDR = 0 ∧ s.rf Fld.PMC_RING_BASE_ADDR 1 =
      0 ∧ s.beat.phases = [p] ∧ p.policy = 1 ∧ p.opened = true ∧ p.closed = false ∧ p.deadline = (s.rf Fld.BEAT_NOW_BEAT + 1) %
      2 ^ 64) ∧
    (∃ (s : State), s.rf Fld.BEAT_CFG_EN ≠ 0 ∧ s.rf Fld.PMC_RING_BASE_ADDR = 0 ∧ s.rf Fld.PMC_RING_BASE_ADDR 1 = 0 ∧ s.dx.job =
      3 ∧ s.beat.phases = [] ∧ s.beat.started = true ∧ s.beat.nextStep ≤ (s.rf Fld.BEAT_NOW_BEAT + 1) % 2 ^ 64 ∧
      s.beat.nextStep < 2 ^ 64 ∧ s.clk.slowDue = false ∧ s.beat.preDone = []) :=
  ⟨⟨live, by decide +kernel⟩,
   ⟨(bt (D 5 5) fun b => { b with phases := [ph 3 1 90 120, { ph 4 1 100 120 with opened := false }, { ph 5 1 101 120 with opened := false }] }),
      by decide +kernel⟩,
   ⟨(bt (D 5 5) fun b => { b with phases := [ph 3 1 90 100] }), { phase := 3, policy := 1, extMax := 2, dflag := 9, lflag := 10, shares := (1, 2, 3), part := true, openBeat := 90, deadline := 100, ext := 0, opened := true, closed := false, deciding := false, done := none, early := false, late := false, inExt := false, logged := false, passed := none },
      by decide +kernel⟩,
   ⟨stp, by decide +kernel⟩⟩

/-- Hypotheses of PhasesOpenAndFindLateDevices (DeadlinesFindLateDevices), clause by clause. -/
theorem witness_DeadlinesFindLateDevices :
    (∃ (s : State) (ph : Fin 64) (p : PhaseRun), s.beat.phases = [p] ∧ p.phase = ph.val ∧ (¬(p.opened = true ∧ p.closed = false
      ∧ p.deadline ≤ s.rf Fld.BEAT_NOW_BEAT ∧ p.passed ≠ some p.deadline))) ∧
    (∃ (s : State) (ph : Fin 64) (p : PhaseRun) (q : PortId) (pkt : Packet), ControlArrives s q pkt 16 ∧ s.beat.phases = [p] ∧
      p.phase = ph.val ∧ dfld pkt.payload 0 2 0 = 2 ∧ isHall s = true ∧ groupPrincipal s (pkt.srcDev / 64) = pkt.srcDev) ∧
    (∃ (s : State) (ph : Fin 64) (p : PhaseRun) (q : PortId) (pkt : Packet), ControlArrives s q pkt 16 ∧ s.beat.phases = [p] ∧
      p.phase = ph.val ∧ dfld pkt.payload 0 2 0 = 2 ∧ isHall s = false ∧ isGroupPrin s = false) ∧
    (∃ (s : State) (ph : Fin 64) (p : PhaseRun) (q : PortId) (pkt : Packet), s.beat.phases = [p] ∧ p.phase = ph.val ∧ (arrives
      s q pkt = false ∨ pkt.ptype ≠ 16 ∨ dfld pkt.payload 0 2 0 ≠ 2) ∧ failedDev s pkt.srcDev = false) ∧
    (∃ (s : State) (ph : Fin 64) (p : PhaseRun), s.beat.phases = [p] ∧ p.phase = ph.val ∧ (p.opened = true ∧ p.closed = false ∧
      p.deadline ≤ s.rf Fld.BEAT_NOW_BEAT ∧ p.passed ≠ some p.deadline) ∧ (s.dx.job ≠ 3 ∧ s.rf Fld.BEAT_LOG_BASE_ADDR = 0 ∧
      p.deciding = false) ∧ (p.part = false ∨ (match p.done with | none => true | some ns => decide ((p.deadline - p.openBeat)
      * (1000 * max 4 (s.rf Fld.BEAT_CFG_PERIOD)) ≤ ns)) = false)) ∧
    (∃ (s : State) (ph : Fin 64) (p : PhaseRun), s.beat.phases = [p] ∧ p.phase = ph.val ∧ (p.opened = true ∧ p.closed = false ∧
      p.deadline ≤ s.rf Fld.BEAT_NOW_BEAT ∧ p.passed ≠ some p.deadline) ∧ (s.dx.job ≠ 3 ∧ s.rf Fld.BEAT_LOG_BASE_ADDR = 0 ∧
      p.deciding = false) ∧ p.part = true ∧ ((match p.done with | none => true | some ns => decide ((p.deadline - p.openBeat) *
      (1000 * max 4 (s.rf Fld.BEAT_CFG_PERIOD)) ≤ ns)) = true) ∧ p.dflag ≠ p.lflag ∧ flagDead s p.lflag = none ∧ (s.flag
      p.lflag).set = false ∧ (s.flag p.lflag).waiters = []) ∧
    (∃ (s : State) (ph : Fin 64) (p : PhaseRun) (q : PortId) (pkt : Packet), ControlArrives s q pkt 16 ∧ PortsIdle s 1 ∧
      s.beat.phases = [p] ∧ p.phase = ph.val ∧ dfld pkt.payload 0 2 0 = 2 ∧ isHall s = false ∧ isGroupPrin s = true) :=
  ⟨⟨(dl (D 5 5) (ph 3 0 90 100)), 3, (ph 3 0 90 100), by decide +kernel⟩,
   ⟨(dl (D 6 5) (ph 3 1 90 95)), 3, (ph 3 1 90 95), 3, { ptype := 16, pclass := 0, tc := 3, chk := false, srcDev := 6, srcAgent := 3, hops := 1, dst := 5629499534213120, job := 77, epoch := 1, oseq := 0, tag := 4, via := 0, viaValid := false, payload := ([2, 3, 1, 0, 0, 0, 0, 0, 95] ++ List.replicate 23 0), trailer := [] },
      by unfold ControlArrives; decide +kernel, by decide +kernel⟩,
   ⟨(dl (D 6 6) (ph 3 1 90 95)), 3, (ph 3 1 90 95), 3, { ptype := 16, pclass := 0, tc := 3, chk := false, srcDev := 6, srcAgent := 3, hops := 1, dst := 5629499534213120, job := 77, epoch := 1, oseq := 0, tag := 4, via := 0, viaValid := false, payload := ([2, 3, 1, 0, 0, 0, 0, 0, 95] ++ List.replicate 23 0), trailer := [] },
      by unfold ControlArrives; decide +kernel, by decide +kernel⟩,
   ⟨(dl (D 6 5) (ph 3 1 90 95)), 3, (ph 3 1 90 95), 3, { ptype := 16, pclass := 0, tc := 3, chk := false, srcDev := 6, srcAgent := 3, hops := 1, dst := 5629499534213120, job := 77, epoch := 1, oseq := 0, tag := 4, via := 0, viaValid := false, payload := ([3, 3, 1, 0, 0, 0, 0, 0, 95] ++ List.replicate 23 0), trailer := [] },
      by decide +kernel⟩,
   ⟨(dl (D 5 5) { pl with done := some 3 }), 3, { pl with done := some 3 }, by decide +kernel⟩,
   ⟨(dl (D 6 6) (ph 3 1 90 95)), 3, (ph 3 1 90 95), by decide +kernel⟩,
   ⟨(dl (D 5 6) (ph 3 1 90 95)), 3, (ph 3 1 90 95), 3, { ptype := 16, pclass := 0, tc := 3, chk := false, srcDev := 6, srcAgent := 3, hops := 1, dst := 5629499534213120, job := 77, epoch := 1, oseq := 0, tag := 4, via := 0, viaValid := false, payload := ([2, 3, 1, 0, 0, 0, 0, 0, 95] ++ List.replicate 23 0), trailer := [] },
      by unfold ControlArrives; decide +kernel, by unfold PortsIdle; decide +kernel, by decide +kernel⟩⟩

end W80

namespace W81

/-- device 5 of an armature; gp, hp -/
def D (gp hp : Nat) : State := ((dev (withArm (upAll live) gp hp [entry 6 0 (dref 5) 0, entry 6 1 (dref 6) 0, entry 6 2 (dref 7) 0]) 5).wfBoth .BEAT_CFG_EN 1).wfBoth .BEAT_NOW_BEAT 99
def ph (n pol opn dl : Nat) : PhaseRun := { phase := n, policy := pol, extMax := 2, dflag := 9, lflag := 10, shares := (1, 2, 3), part := true, openBeat := opn, deadline := dl, ext := 0, opened := true, closed := false, deciding := false, done := none, early := false, late := false, inExt := false, logged := false, passed := none }
def bt (s : State) (f : Beat → Beat) : State := beatOf s f
def bm (k p c : Nat) (e : Bool) (b : Nat) : Packet := { ptype := 0x10, pclass := 0, tc := 3, chk := false, srcDev := 6, srcAgent := 3, hops := 1, dst := globalAddr 5 0, job := 77, epoch := 1, oseq := 0, tag := 4, via := 0, viaValid := false, payload := BMark.bytes ⟨k, p, c, e, 0, b, 0, 0⟩, trailer := [] }
def P := { ph 3 1 90 98 with deciding := true, passed := some 98 }
def Q := { ph 4 1 100 120 with opened := false }
def Q2 := ph 4 1 90 120
def ds (s : State) (p q : PhaseRun) (late : Nat) : State := bt s fun b => { b with phases := [p, q], lateRep := [(3, late)], nextStep := 130 }
def smpR (s : State) : List PhaseRun := ([nx (execExtendDecide 3 s), nx (execDecideTimeout 3 s), nx (execDecide 3 (bm 3 3 4 false 98) s), nx (execDecide 3 (bm 3 3 4 true 98) s)]).flatMap (fun t => t.beat.phases)
def S1 := ds (D 5 5) P Q 1
def S2 := ds (D 5 5) P Q2 0
def S3 := ds (D 6 6) P Q 1
def S4 := bt (ds (D 5 6) P Q 1) fun b => { b with shiftDue := some 97 }
def S5 := bt (ds (D 5 6) P Q 1) fun b => { b with shiftDue := some 105 }
def S6 := bt (ds (D 5 5) P Q2 1) fun b => b
def sy (k : Nat) (b t2 t3 : Nat) : Packet := { bm k 0 0 false 0 with payload := BMark.bytes ⟨k, 0, 0, false, t2, b, t3, 7⟩ }
def A1 := bt (D 6 6) fun b => { b with sentT1 := some 99020, lastStamp := some 17 }
def A2 := bt (D 6 6) fun b => { b with sentT1 := some 390000 }

def Pn : PhaseRun := { P with deciding := false }

/-- Hypotheses of DecisionsMoveOrCloseThePhase, clause by clause. -/
theorem witness_DecisionsMoveOrCloseThePhase :
    (∃ (s : State) (ph : Fin 64) (p : PhaseRun) (q : PhaseRun), s.beat.phases = [p, q] ∧ p.phase = ph.val ∧ q.phase ≠ p.phase ∧
      q.phase < 64 ∧ (p.deciding = true ∧ p.opened = true ∧ p.closed = false) ∧ (s.dx.job ≠ 3 ∧ s.rf Fld.BEAT_LOG_BASE_ADDR = 0
      ∧ s.fab.colls = [] ∧ s.beat.preDone = [] ∧ q.deciding = false) ∧ isHall s = true ∧ p.passed = some p.deadline ∧ (0 < aget
      s.beat.lateRep (ph.val) 0 ∧ p.ext < p.extMax)) ∧
    (∃ (s : State) (ph : Fin 64) (p : PhaseRun) (q : PhaseRun), s.beat.phases = [p, q] ∧ p.phase = ph.val ∧ q.phase ≠ p.phase ∧
      q.phase < 64 ∧ (p.deciding = true ∧ p.opened = true ∧ p.closed = false) ∧ (s.dx.job ≠ 3 ∧ s.rf Fld.BEAT_LOG_BASE_ADDR = 0
      ∧ s.fab.colls = [] ∧ s.beat.preDone = [] ∧ q.deciding = false) ∧ p.deadline < s.rf Fld.BEAT_NOW_BEAT) ∧
    (∃ (s : State) (ph : Fin 64) (p : PhaseRun) (q : PhaseRun) (a : PortId) (pkt : Packet), ControlArrives s a pkt 16 ∧
      s.beat.phases = [p, q] ∧ p.phase = ph.val ∧ q.phase ≠ p.phase ∧ q.phase < 64 ∧ (p.deciding = true ∧ p.opened = true ∧
      p.closed = false) ∧ (s.dx.job ≠ 3 ∧ s.rf Fld.BEAT_LOG_BASE_ADDR = 0 ∧ s.fab.colls = [] ∧ s.beat.preDone = [] ∧ q.deciding
      = false) ∧ (bmarkOf pkt.payload).kind = 3 ∧ (bmarkOf pkt.payload).phase = ph.val ∧ (bmarkOf pkt.payload).beat =
      p.deadline ∧ (bmarkOf pkt.payload).ext = true) ∧
    (∃ (s : State) (ph : Fin 64) (p : PhaseRun) (q : PhaseRun) (a : PortId) (pkt : Packet), ControlArrives s a pkt 16 ∧
      s.beat.phases = [p, q] ∧ p.phase = ph.val ∧ q.phase ≠ p.phase ∧ q.phase < 64 ∧ (p.deciding = true ∧ p.opened = true ∧
      p.closed = false) ∧ (s.dx.job ≠ 3 ∧ s.rf Fld.BEAT_LOG_BASE_ADDR = 0 ∧ s.fab.colls = [] ∧ s.beat.preDone = [] ∧ q.deciding
      = false) ∧ (bmarkOf pkt.payload).kind = 3 ∧ (bmarkOf pkt.payload).phase = ph.val ∧ (bmarkOf pkt.payload).beat =
      p.deadline ∧ (bmarkOf pkt.payload).ext = false) ∧
    (∃ (s : State) (ph : Fin 64) (p : PhaseRun) (q : PhaseRun) (a : PortId) (pkt : Packet), ControlArrives s a pkt 16 ∧
      s.beat.phases = [p, q] ∧ p.phase = ph.val ∧ q.phase ≠ p.phase ∧ q.phase < 64 ∧ (bmarkOf pkt.payload).kind = 4) ∧
    (∃ (s : State) (ph : Fin 64) (p : PhaseRun) (q : PhaseRun) (a : PortId) (pkt : Packet), ControlArrives s a pkt 16 ∧
      s.beat.phases = [p, q] ∧ p.phase = ph.val ∧ q.phase ≠ p.phase ∧ q.phase < 64 ∧ (bmarkOf pkt.payload).kind ≠ 3) ∧
    (∃ (s : State) (ph : Fin 64) (p : PhaseRun) (q : PhaseRun) (a : PortId) (pkt : Packet), ControlArrives s a pkt 16 ∧
      s.beat.phases = [p, q] ∧ p.phase = ph.val ∧ q.phase ≠ p.phase ∧ q.phase < 64 ∧ (bmarkOf pkt.payload).kind ≠ 4) ∧
    (∃ (s : State) (ph : Fin 64) (p : PhaseRun) (q : PhaseRun), s.beat.phases = [p, q] ∧ p.phase = ph.val ∧ q.phase ≠ p.phase ∧
      q.phase < 64 ∧ s.beat.shiftDue = none) ∧
    (∃ (s : State) (ph : Fin 64) (p : PhaseRun) (q : PhaseRun), s.beat.phases = [p, q] ∧ p.phase = ph.val ∧ q.phase ≠ p.phase ∧
      q.phase < 64 ∧ (p.deciding = true ∧ p.opened = true ∧ p.closed = false) ∧ (s.dx.job ≠ 3 ∧ s.rf Fld.BEAT_LOG_BASE_ADDR = 0
      ∧ s.fab.colls = [] ∧ s.beat.preDone = [] ∧ q.deciding = false) ∧ isHall s = true ∧ p.passed = some p.deadline ∧ (¬(0 <
      aget s.beat.lateRep (ph.val) 0 ∧ p.ext < p.extMax))) ∧
    (∃ (s : State) (ph : Fin 64) (p : PhaseRun) (q : PhaseRun), s.beat.phases = [p, q] ∧ p.phase = ph.val ∧ q.phase ≠ p.phase ∧
      q.phase < 64 ∧ (isHall s = false ∨ p.deciding = false ∨ p.passed ≠ some p.deadline)) ∧
    (∃ (s : State) (ph : Fin 64) (p : PhaseRun) (q : PhaseRun) (f : Nat), s.beat.phases = [p, q] ∧ p.phase = ph.val ∧ q.phase ≠
      p.phase ∧ q.phase < 64 ∧ s.beat.shiftDue = some f ∧ f < s.rf Fld.BEAT_NOW_BEAT) ∧
    (∃ (s : State) (ph : Fin 64) (p : PhaseRun) (q : PhaseRun) (f : Nat), s.beat.phases = [p, q] ∧ p.phase = ph.val ∧ q.phase ≠
      p.phase ∧ q.phase < 64 ∧ s.beat.shiftDue = some f ∧ s.rf Fld.BEAT_NOW_BEAT ≤ f) ∧
    (∃ (s : State) (ph : Fin 64) (p : PhaseRun) (q : PhaseRun), s.beat.phases = [p, q] ∧ p.phase = ph.val ∧ q.phase ≠
      p.phase ∧ q.phase < 64 ∧ (p.deciding = false ∨ s.rf Fld.BEAT_NOW_BEAT ≤ p.deadline)) :=
  ⟨⟨S1, 3, P, Q, by decide +kernel⟩,
   ⟨S1, 3, P, Q, by decide +kernel⟩,
   ⟨S1, 3, P, Q, 3, { ptype := 16, pclass := 0, tc := 3, chk := false, srcDev := 6, srcAgent := 3, hops := 1, dst := 5629499534213120, job := 77, epoch := 1, oseq := 0, tag := 4, via := 0, viaValid := false, payload := ([3, 3, 65, 0, 0, 0, 0, 0, 98] ++ List.replicate 23 0), trailer := [] },
      by unfold ControlArrives; decide +kernel, by decide +kernel⟩,
   ⟨S1, 3, P, Q, 3, { ptype := 16, pclass := 0, tc := 3, chk := false, srcDev := 6, srcAgent := 3, hops := 1, dst := 5629499534213120, job := 77, epoch := 1, oseq := 0, tag := 4, via := 0, viaValid := false, payload := ([3, 3, 1, 0, 0, 0, 0, 0, 98] ++ List.replicate 23 0), trailer := [] },
      by unfold ControlArrives; decide +kernel, by decide +kernel⟩,
   ⟨S1, 3, P, Q, 3, { ptype := 16, pclass := 0, tc := 3, chk := false, srcDev := 6, srcAgent := 3, hops := 1, dst := 5629499534213120, job := 77, epoch := 1, oseq := 0, tag := 4, via := 0, viaValid := false, payload := ([4, 3, 65, 0, 0, 0, 0, 0, 98] ++ List.replicate 23 0), trailer := [] },
      by unfold ControlArrives; decide +kernel, by decide +kernel⟩,
   ⟨S1, 3, P, Q, 3, { ptype := 16, pclass := 0, tc := 3, chk := false, srcDev := 6, srcAgent := 3, hops := 1, dst := 5629499534213120, job := 77, epoch := 1, oseq := 0, tag := 4, via := 0, viaValid := false, payload := ([4, 3, 65, 0, 0, 0, 0, 0, 98] ++ List.replicate 23 0), trailer := [] },
      by unfold ControlArrives; decide +kernel, by decide +kernel⟩,
   ⟨S1, 3, P, Q, 3, { ptype := 16, pclass := 0, tc := 3, chk := false, srcDev := 6, srcAgent := 3, hops := 1, dst := 5629499534213120, job := 77, epoch := 1, oseq := 0, tag := 4, via := 0, viaValid := false, payload := ([3, 3, 1, 0, 0, 0, 0, 0, 98] ++ List.replicate 23 0), trailer := [] },
      by unfold ControlArrives; decide +kernel, by decide +kernel⟩,
   ⟨S1, 3, P, Q, by decide +kernel⟩,
   ⟨S2, 3, P, Q2, by decide +kernel⟩,
   ⟨S3, 3, P, Q, by decide +kernel⟩,
   ⟨S4, 3, P, Q, 97, by decide +kernel⟩,
   ⟨S5, 3, P, Q, 105, by decide +kernel⟩,
   ⟨(ds (D 5 5) Pn Q 1), 3, Pn, Q, by decide +kernel⟩⟩

/-- Hypotheses of AlignmentSteersAndFallsBack, clause by clause. -/
theorem witness_AlignmentSteersAndFallsBack :
    (∃ (s : State) (p : PortId) (pkt : Packet) (m : BMark), ControlArrives s p pkt 16 ∧ m = bmarkOf pkt.payload ∧ m.kind = 0 ∧
      pkt.srcDev ≠ ownDev s) ∧
    (∃ (s : State) (p : PortId) (pkt : Packet) (m : BMark), ControlArrives s p pkt 16 ∧ m = bmarkOf pkt.payload ∧ s.beat.sentT1
      = none) ∧
    (∃ (s : State) (pkt : Packet) (m : BMark), m = bmarkOf pkt.payload ∧ s.rf Fld.BEAT_CFG_EN ≠ 0 ∧ epochNow s ≠ 0 ∧ isHall s =
      false) ∧
    (∃ (s : State) (pkt : Packet) (m : BMark), m = bmarkOf pkt.payload ∧ s.rf Fld.BEAT_CFG_EN ≠ 0 ∧ isGroupPrin s = false) ∧
    (∃ (s : State) (pkt : Packet) (m : BMark), m = bmarkOf pkt.payload ∧ s.rf Fld.BEAT_STAT_SRC ≠ 3) ∧
    (∃ (s : State) (p : PortId) (pkt : Packet) (m : BMark), ControlArrives s p pkt 16 ∧ m = bmarkOf pkt.payload ∧ m.kind ≠ 0) ∧
    (∃ (s : State) (p : PortId) (pkt : Packet) (m : BMark) (t1 : Nat), ControlArrives s p pkt 16 ∧ m = bmarkOf pkt.payload ∧
      m.kind = 1 ∧ s.beat.sentT1 = some t1 ∧ m.t2 < 1000 * max 4 (s.rf Fld.BEAT_CFG_PERIOD) ∧ m.t3 < 1000 * max 4 (s.rf
      Fld.BEAT_CFG_PERIOD) ∧ m.t2 ≤ m.t3) ∧
    (∃ (s : State) (pkt : Packet) (m : BMark), m = bmarkOf pkt.payload ∧ (s.rf Fld.BEAT_CFG_EN = 0 ∨ epochNow s = 0 ∨ isHall s
      = true)) ∧
    (∃ (s : State) (pkt : Packet) (m : BMark), m = bmarkOf pkt.payload ∧ isGroupPrin s = true) ∧
    (∃ (s : State) (pkt : Packet) (m : BMark), m = bmarkOf pkt.payload ∧ s.rf Fld.BEAT_CFG_EN = 0 ∧ isGroupPrin s = false) ∧
    (∃ (s : State) (pkt : Packet) (m : BMark), m = bmarkOf pkt.payload ∧ s.rf Fld.BEAT_CFG_EN ≠ 0 ∧ s.rf Fld.BEAT_STAT_SRC = 3
      ∧ irqStopped s (leadHalf s) = false) :=
  ⟨⟨(D 6 6), 3, (sy 0 99 4 5), (bmarkOf (sy 0 99 4 5).payload), by unfold ControlArrives; decide +kernel, by decide +kernel⟩,
   ⟨(D 6 6), 3, (sy 0 99 4 5), (bmarkOf (sy 0 99 4 5).payload), by unfold ControlArrives; decide +kernel, by decide +kernel⟩,
   ⟨A1, (sy 1 99 4 5), (bmarkOf (sy 1 99 4 5).payload), by decide +kernel⟩,
   ⟨A1, (sy 1 99 4 5), (bmarkOf (sy 1 99 4 5).payload), by decide +kernel⟩,
   ⟨A1, (sy 1 99 4 5), (bmarkOf (sy 1 99 4 5).payload), by decide +kernel⟩,
   ⟨A1, 3, (sy 1 99 4 5), (bmarkOf (sy 1 99 4 5).payload), by unfold ControlArrives; decide +kernel, by decide +kernel⟩,
   ⟨A1, 3, (sy 1 99 4 5), (bmarkOf (sy 1 99 4 5).payload), 99020, by unfold ControlArrives; decide +kernel, by decide +kernel⟩,
   ⟨live, (sy 1 99 4 5), (bmarkOf (sy 1 99 4 5).payload), by decide +kernel⟩,
   ⟨(D 5 5), (sy 1 99 4 5), (bmarkOf (sy 1 99 4 5).payload), by decide +kernel⟩,
   ⟨live, (sy 1 99 4 5), (bmarkOf (sy 1 99 4 5).payload), by decide +kernel⟩,
   ⟨((D 6 6).wfBoth .BEAT_STAT_SRC 3), (sy 1 99 4 5), (bmarkOf (sy 1 99 4 5).payload), by decide +kernel⟩⟩

end W81

namespace W82

/-- device 5 of an armature; gp, hp -/
def D (gp hp : Nat) : State := ((dev (withArm (upAll live) gp hp [entry 6 0 (dref 5) 0, entry 6 1 (dref 6) 0, entry 6 2 (dref 7) 0]) 5).wfBoth .BEAT_CFG_EN 1).wfBoth .BEAT_NOW_BEAT 99
def ph (n pol opn dl : Nat) : PhaseRun := { phase := n, policy := pol, extMax := 2, dflag := 9, lflag := 10, shares := (1, 2, 3), part := true, openBeat := opn, deadline := dl, ext := 0, opened := true, closed := false, deciding := false, done := none, early := false, late := false, inExt := false, logged := false, passed := none }
def bt (s : State) (f : Beat → Beat) : State := beatOf s f
def D0 : State := (D 6 6).wfBoth .HLF_HB_CFG_EN 0
def T1 : DistTable := ⟨2, 99, []⟩
def T2 : DistTable := ⟨3, 200, []⟩
def fcmd : List Byte := natLE 4 5 ++ natLE 20 0 ++ natLE 8 99 ++ natLE 32 0
def opF : Op := ⟨4, 1, 0, 7, fcmd, false, false, 0, 0, 0, 0, 5, false, 0, none, false, 0, none⟩
def AR : Nat := 0x7030000000

/-- Hypotheses of FencesApplyWhatIsTiedToTheBeat, clause by clause. -/
theorem witness_FencesApplyWhatIsTiedToTheBeat :
    (∃ (s : State), (¬(s.rf Fld.BEAT_CFG_EN ≠ 0 ∧ s.fence < s.rf Fld.BEAT_NOW_BEAT))) ∧
    (∃ (s : State), (s.beat.armed = none ∨ ∃ a f, s.beat.armed = some (a, f) ∧ s.rf Fld.BEAT_NOW_BEAT + 2 < f)) ∧
    (∃ (s : State), (s.rf Fld.BEAT_CFG_EN ≠ 0 ∧ s.fence < s.rf Fld.BEAT_NOW_BEAT) ∧ (∀ (c : CoreId), (s.core c).ops = [] ∧
      rotatedOut s c = false) ∧ (∀ (g : GroveId), s.rf Fld.GRV_PAIR_CFG_EN g.val = s.rf Fld.GRV_PAIR_CFG_ACT g.val) ∧ (s.rf
      Fld.HLF_HB_CFG_EN (leadHalf s).val = 0 ∧ s.fab.store = [] ∧ (s.beat.started = false ∨ s.rf Fld.BEAT_STEP_START ≠ s.rf
      Fld.BEAT_NOW_BEAT)) ∧ (s.beat.armed = none ∧ s.beat.declares = []) ∧ s.beat.phases = []) ∧
    (∃ (s : State) (c : CoreId) (o : Op), (s.rf Fld.BEAT_CFG_EN ≠ 0 ∧ s.fence < s.rf Fld.BEAT_NOW_BEAT) ∧ (∀ (g : GroveId),
      s.rf Fld.GRV_PAIR_CFG_EN g.val = s.rf Fld.GRV_PAIR_CFG_ACT g.val) ∧ (s.rf Fld.HLF_HB_CFG_EN (leadHalf s).val = 0 ∧
      s.fab.store = [] ∧ (s.beat.started = false ∨ s.rf Fld.BEAT_STEP_START ≠ s.rf Fld.BEAT_NOW_BEAT)) ∧ (s.beat.armed = none ∧
      s.beat.declares = []) ∧ s.beat.phases = [] ∧ (∀ (d : CoreId), d ≠ c → (s.core d).ops = []) ∧ (∀ (d : CoreId), rotatedOut
      s d = false) ∧ (s.core c).ops = [o] ∧ o.cls = clFlag ∧ fdOp o.desc = 5 ∧ o.started = false ∧ fdBeat o.desc ≤ s.rf
      Fld.BEAT_NOW_BEAT ∧ o.pre = none ∧ o.reco = false ∧ o.setf = false) ∧
    (∃ (s : State) (g : GroveId) (p : Nat), (s.rf Fld.BEAT_CFG_EN ≠ 0 ∧ s.fence < s.rf Fld.BEAT_NOW_BEAT) ∧ (∀ (c : CoreId),
      (s.core c).ops = [] ∧ rotatedOut s c = false) ∧ (s.rf Fld.HLF_HB_CFG_EN (leadHalf s).val = 0 ∧ s.fab.store = [] ∧
      (s.beat.started = false ∨ s.rf Fld.BEAT_STEP_START ≠ s.rf Fld.BEAT_NOW_BEAT)) ∧ (s.beat.armed = none ∧ s.beat.declares =
      []) ∧ s.beat.phases = [] ∧ p < 4 ∧ s.rf Fld.GRV_PAIR_CFG_ACT g.val = 0 ∧ s.rf Fld.GRV_PAIR_CFG_EN g.val = 2 ^ p ∧ (∀ (k :
      GroveId), k ≠ g → s.rf Fld.GRV_PAIR_CFG_EN k.val = s.rf Fld.GRV_PAIR_CFG_ACT k.val) ∧ (∀ (c : CoreId), c ∈ [Fin.ofNat 80
      (g.val * 8 + 2 * p), Fin.ofNat 80 (g.val * 8 + 2 * p + 1)] → ((s.core c).node = NodeSt.active ∨ (s.core c).node =
      NodeSt.paired) ∧ ∀ (i : Nat), i ≤ 2 → (s.tile c i).released = true)) ∧
    (∃ (s : State) (g : GroveId) (p : Nat), (s.rf Fld.BEAT_CFG_EN ≠ 0 ∧ s.fence < s.rf Fld.BEAT_NOW_BEAT) ∧ (∀ (c : CoreId),
      (s.core c).ops = [] ∧ rotatedOut s c = false) ∧ (s.rf Fld.HLF_HB_CFG_EN (leadHalf s).val = 0 ∧ s.fab.store = [] ∧
      (s.beat.started = false ∨ s.rf Fld.BEAT_STEP_START ≠ s.rf Fld.BEAT_NOW_BEAT)) ∧ (s.beat.armed = none ∧ s.beat.declares =
      []) ∧ s.beat.phases = [] ∧ p < 4 ∧ s.rf Fld.GRV_PAIR_CFG_ACT g.val = 0 ∧ s.rf Fld.GRV_PAIR_CFG_EN g.val = 2 ^ p ∧ (∀ (k :
      GroveId), k ≠ g → s.rf Fld.GRV_PAIR_CFG_EN k.val = s.rf Fld.GRV_PAIR_CFG_ACT k.val) ∧ (¬∀ (c : CoreId), c ∈ [Fin.ofNat 80
      (g.val * 8 + 2 * p), Fin.ofNat 80 (g.val * 8 + 2 * p + 1)] → ((s.core c).node = NodeSt.active ∨ (s.core c).node =
      NodeSt.paired) ∧ ∀ (i : Nat), i ≤ 2 → (s.tile c i).released = true)) ∧
    (∃ (s : State) (a : Nat) (f : Nat), s.beat.armed = some (a, f) ∧ f ≤ s.rf Fld.BEAT_NOW_BEAT + 2 ∧ isHall s = false) ∧
    (∃ (s : State), (s.rf Fld.BEAT_CFG_EN ≠ 0 ∧ s.fence < s.rf Fld.BEAT_NOW_BEAT) ∧ (∀ (c : CoreId), (s.core c).ops = [] ∧
      rotatedOut s c = false) ∧ (∀ (g : GroveId), s.rf Fld.GRV_PAIR_CFG_EN g.val = s.rf Fld.GRV_PAIR_CFG_ACT g.val) ∧ s.rf
      Fld.HLF_HB_CFG_EN (leadHalf s).val = 0 ∧ s.fab.store = [] ∧ (s.beat.armed = none ∧ s.beat.declares = []) ∧ s.beat.phases
      = [] ∧ s.beat.started = true ∧ s.rf Fld.BEAT_STEP_START = s.rf Fld.BEAT_NOW_BEAT ∧ s.beat.notes = [] ∧ (∀ (c : CoreId),
      dueRotation s c = false)) ∧
    (∃ (s : State) (p : PhaseRun), (s.rf Fld.BEAT_CFG_EN ≠ 0 ∧ s.fence < s.rf Fld.BEAT_NOW_BEAT) ∧ (∀ (c : CoreId), (s.core
      c).ops = [] ∧ rotatedOut s c = false) ∧ (∀ (g : GroveId), s.rf Fld.GRV_PAIR_CFG_EN g.val = s.rf Fld.GRV_PAIR_CFG_ACT
      g.val) ∧ (s.rf Fld.HLF_HB_CFG_EN (leadHalf s).val = 0 ∧ s.fab.store = [] ∧ (s.beat.started = false ∨ s.rf
      Fld.BEAT_STEP_START ≠ s.rf Fld.BEAT_NOW_BEAT)) ∧ (s.beat.armed = none ∧ s.beat.declares = []) ∧ s.beat.phases = [p] ∧
      p.part = true ∧ p.opened = true ∧ p.closed = false ∧ p.policy = 0 ∧ p.shares.fst + p.shares.snd.fst + p.shares.snd.snd ≤
      192 ∧ s.nextTables = []) ∧
    (∃ (s : State) (a : Nat) (f : Nat), (s.rf Fld.BEAT_CFG_EN ≠ 0 ∧ s.fence < s.rf Fld.BEAT_NOW_BEAT) ∧ (∀ (c : CoreId),
      (s.core c).ops = [] ∧ rotatedOut s c = false) ∧ (∀ (g : GroveId), s.rf Fld.GRV_PAIR_CFG_EN g.val = s.rf
      Fld.GRV_PAIR_CFG_ACT g.val) ∧ (s.rf Fld.HLF_HB_CFG_EN (leadHalf s).val = 0 ∧ s.fab.store = [] ∧ (s.beat.started = false ∨
      s.rf Fld.BEAT_STEP_START ≠ s.rf Fld.BEAT_NOW_BEAT)) ∧ s.beat.phases = [] ∧ s.beat.declares = [] ∧ s.beat.armed = some (a,
      f) ∧ f ≤ s.rf Fld.BEAT_NOW_BEAT ∧ a < 2 ^ 64 ∧ s.nextTables = [] ∧ (isHall s = true → allAcked s (s.readN (a + 4) 4) =
      true) ∧ s.fab.permCopies = [] ∧ s.beat.takeovers = []) ∧
    (∃ (s : State) (d : Nat) (f : Nat), (s.rf Fld.BEAT_CFG_EN ≠ 0 ∧ s.fence < s.rf Fld.BEAT_NOW_BEAT) ∧ (∀ (c : CoreId),
      (s.core c).ops = [] ∧ rotatedOut s c = false) ∧ (∀ (g : GroveId), s.rf Fld.GRV_PAIR_CFG_EN g.val = s.rf
      Fld.GRV_PAIR_CFG_ACT g.val) ∧ (s.rf Fld.HLF_HB_CFG_EN (leadHalf s).val = 0 ∧ s.fab.store = [] ∧ (s.beat.started = false ∨
      s.rf Fld.BEAT_STEP_START ≠ s.rf Fld.BEAT_NOW_BEAT)) ∧ s.beat.armed = none ∧ s.beat.phases = [] ∧ s.beat.declares = [(d,
      f)] ∧ f ≤ s.rf Fld.BEAT_NOW_BEAT ∧ d < 2 ^ 14 ∧ s.fab.tracker = [] ∧ s.fab.unsent = [] ∧ s.fab.colls = [] ∧ partnerOf s d
      = none ∧ s.nextTables = []) ∧
    (∃ (s : State) (a : Nat) (f : Nat), (s.rf Fld.BEAT_CFG_EN ≠ 0 ∧ s.fence < s.rf Fld.BEAT_NOW_BEAT) ∧ (∀ (c :
      CoreId), (s.core c).ops = [] ∧ rotatedOut s c = false) ∧ (∀ (g : GroveId), s.rf Fld.GRV_PAIR_CFG_EN g.val = s.rf
      Fld.GRV_PAIR_CFG_ACT g.val) ∧ (s.rf Fld.HLF_HB_CFG_EN (leadHalf s).val = 0 ∧ s.fab.store = [] ∧ (s.beat.started
      = false ∨ s.rf Fld.BEAT_STEP_START ≠ s.rf Fld.BEAT_NOW_BEAT)) ∧ s.beat.phases = [] ∧ s.beat.declares = [] ∧
      s.beat.armed = some (a, f) ∧ f ≤ s.rf Fld.BEAT_NOW_BEAT ∧ s.nextTables = [] ∧ isHall s = true ∧ allAcked s
      (s.readN (a + 4) 4) = false) :=
  ⟨⟨{ D0 with fence := 99 }, by decide +kernel⟩,
   ⟨{ D0 with fence := 99 }, .inl rfl⟩,
   ⟨{ D0 with nextTables := [(.grove 0, T1), (.grove 1, T2)] }, by decide +kernel⟩,
   ⟨(coreOfSt D0 3 fun x => { x with ops := [opF] }), 3, { num := 4, ctx := 1, idx := 0, cls := 7, desc := (([5] ++ List.replicate 23 0 ++ [99]) ++ List.replicate 39 0), reco := false, setf := false, dflag := 0, tag := 0, mb := 0, k := 0, entry := 5, spec := false, step := 0, pre := none, started := false, result := 0, merge := none },
      by decide +kernel⟩,
   ⟨(D0.wf .GRV_PAIR_CFG_EN 2 1), 1, 1, by decide +kernel⟩,
   ⟨(coreOfSt (D0.wf .GRV_PAIR_CFG_EN 1 1) 9 fun x => { x with node := .disabled }), 1, 0, by decide +kernel⟩,
   ⟨(bt (put D0 AR (armImg 2 77 6 6 [])) fun b => { b with armed := some (AR, 99) }), 481841643520, 99, by decide +kernel⟩,
   ⟨(bt ((D0.wfBoth .BEAT_STEP_START 99).wfBoth .BEAT_STEP_STEP 12) fun b => { b with started := true }), by decide +kernel⟩,
   ⟨(bt D0 fun b => { b with phases := [ph 3 0 90 120] }), { phase := 3, policy := 0, extMax := 2, dflag := 9, lflag := 10, shares := (1, 2, 3), part := true, openBeat := 90, deadline := 120, ext := 0, opened := true, closed := false, deciding := false, done := none, early := false, late := false, inExt := false, logged := false, passed := none },
      by decide +kernel⟩,
   ⟨(bt (put D0 AR (armImg 2 77 6 6 [])) fun b => { b with armed := some (AR, 99) }), 481841643520, 99, by decide +kernel⟩,
   ⟨(bt D0 fun b => { b with declares := [(2, 90)] }), 2, 90, by decide +kernel⟩,
   ⟨(bt (put (D 5 5 |>.wfBoth .HLF_HB_CFG_EN 0) AR (armImg 2 77 6 6 [entry 6 0 (dref 5) 0, entry 6 1 (dref 6) 0])) fun
     b => { b with armed := some (AR, 99) }), 481841643520, 99, by decide +kernel⟩⟩

end W82

namespace W83

/-- device 5 of an armature; gp, hp -/
def D (gp hp : Nat) : State := ((dev (withArm (upAll live) gp hp [entry 6 0 (dref 5) 0, entry 6 1 (dref 6) (dref 7), entry 6 2 (dref 7) 0]) 5).wfBoth .BEAT_CFG_EN 1).wfBoth .BEAT_NOW_BEAT 99
def bt (s : State) (f : Beat → Beat) : State := beatOf s f
def mp (pt : Nat) (pl : List Byte) : Packet := { ptype := pt, pclass := 0, tc := 3, chk := false, srcDev := 6, srcAgent := 3, hops := 1, dst := globalAddr 5 0, job := 77, epoch := 1, oseq := 0, tag := 4, via := 0, viaValid := false, payload := pl, trailer := [] }
def mr (k ca su b a : Nat) : Packet := mp 0x20 (MRec.bytes ⟨k, 0, ca, su, 1, 3, b, a⟩)
def hb (fl : Nat) : Packet := mp 0x11 (natLE 8 90 ++ natLE 8 (fl * 2^14) ++ natLE 8 0 ++ natLE 8 7)
def run (o : Host.Outcome State Fault Refusal) : List (Nat × Nat) := (nx o).beat.declares

/-- Hypotheses of FailuresAreNotedProbedAndDeclared, clause by clause. -/
theorem witness_FailuresAreNotedProbedAndDeclared :
    (∃ (s : State) (p : PortId) (pkt : Packet), ControlArrives s p pkt 17 ∧ pkt.srcDev ∈ watchedBy s ∧ dbit pkt.payload 8 14 =
      false) ∧
    (∃ (s : State) (d : Nat), aget? s.beat.probes d = none) ∧
    (∃ (s : State) (p : PortId) (pkt : Packet), ControlArrives s p pkt 17 ∧ ¬pkt.srcDev ∈ watchedBy s) ∧
    (∃ (s : State) (p : PortId) (pkt : Packet), arrives s p pkt = true ∧ pkt.ptype = 17 ∧ failedDev s pkt.srcDev = true) ∧
    (∃ (s : State) (p : PortId) (pkt : Packet), ControlArrives s p pkt 32 ∧ (mrecOf pkt.payload).kind = 1 ∧ (epochNow s ≠ 0 ∧
      actingHall s (some (mrecOf pkt.payload).subject) = ownDev s ∧ deviceGone s (mrecOf pkt.payload).subject = false ∧ (mrecOf
      pkt.payload).subject ≠ ownDev s) ∧ (mrecOf pkt.payload).cause ≠ 1 ∧ aget? s.beat.probes (mrecOf pkt.payload).subject =
      none) ∧
    (∃ (s : State) (p : PortId) (pkt : Packet), ControlArrives s p pkt 32 ∧ (mrecOf pkt.payload).kind ≠ 4) ∧
    (∃ (s : State) (p : PortId) (pkt : Packet), ControlArrives s p pkt 32 ∧ (mrecOf pkt.payload).kind ≠ 8) ∧
    (∃ (s : State) (p : PortId) (pkt : Packet), ControlArrives s p pkt 32 ∧ (mrecOf pkt.payload).kind = 1 ∧ ((epochNow s ≠ 0 ∧
      actingHall s (some (mrecOf pkt.payload).subject) = ownDev s ∧ deviceGone s (mrecOf pkt.payload).subject = false ∧ (mrecOf
      pkt.payload).subject ≠ ownDev s) ∧ (mrecOf pkt.payload).subject ∈ jobDevices s ∧ doubleFault s (mrecOf
      pkt.payload).subject = false) ∧ (mrecOf pkt.payload).cause = 1) ∧
    (∃ (s : State) (p : PortId) (pkt : Packet), ControlArrives s p pkt 32 ∧ (mrecOf pkt.payload).kind = 1 ∧ (epochNow s = 0 ∨
      actingHall s (some (mrecOf pkt.payload).subject) ≠ ownDev s ∨ deviceGone s (mrecOf pkt.payload).subject = true)) ∧
    (∃ (s : State) (p : PortId) (pkt : Packet), ControlArrives s p pkt 32 ∧ (mrecOf pkt.payload).kind ≠ 1) ∧
    (∃ (s : State) (p : PortId) (pkt : Packet) (c : Nat), ControlArrives s p pkt 32 ∧ (mrecOf pkt.payload).kind = 3 ∧ aget?
      s.beat.probes (mrecOf pkt.payload).subject = some c) ∧
    (∃ (s : State) (d : Nat) (c : Nat), aget? s.beat.probes d = some c ∧ ((epochNow s ≠ 0 ∧ actingHall s (some d) = ownDev s ∧
      deviceGone s d = false ∧ d ≠ ownDev s) ∧ d ∈ jobDevices s ∧ doubleFault s d = false)) ∧
    (∃ (s : State) (p : PortId) (pkt : Packet), ControlArrives s p pkt 32 ∧ (mrecOf pkt.payload).kind = 3 ∧ aget? s.beat.probes
      (mrecOf pkt.payload).subject = none) ∧
    (∃ (s : State) (p : PortId) (pkt : Packet), ControlArrives s p pkt 32 ∧ (mrecOf pkt.payload).kind = 4 ∧ deviceGone s
      (mrecOf pkt.payload).subject = false ∧ (mrecOf pkt.payload).subject ≠ ownDev s) ∧
    (∃ (s : State) (p : PortId) (pkt : Packet), ControlArrives s p pkt 32 ∧ (mrecOf pkt.payload).kind = 4 ∧ deviceGone s
      (mrecOf pkt.payload).subject = true ∧ isGroupPrin s = false) ∧
    (∃ (s : State) (p : PortId) (pkt : Packet), ControlArrives s p pkt 32 ∧ (mrecOf pkt.payload).kind = 8 ∧ ((epochNow s ≠ 0 ∧
      actingHall s (some (mrecOf pkt.payload).subject) = ownDev s ∧ deviceGone s (mrecOf pkt.payload).subject = false ∧ (mrecOf
      pkt.payload).subject ≠ ownDev s) ∧ (mrecOf pkt.payload).subject ∈ jobDevices s ∧ doubleFault s (mrecOf
      pkt.payload).subject = false)) ∧
    (∃ (s : State) (p : PortId) (pkt : Packet), ControlArrives s p pkt 32 ∧ (mrecOf pkt.payload).kind = 2 ∧ (s.half (leadHalf
      s)).rangerStopped = false ∧ clockDead s (leadHalf s) 1 = false ∧ s.rf Fld.HLF_LEAD_STAT_FENCED (leadHalf s).val = 0) ∧
    (∃ (s : State) (p : PortId) (pkt : Packet), ControlArrives s p pkt 32 ∧ (mrecOf pkt.payload).kind = 2 ∧ ((s.half (leadHalf
      s)).rangerStopped = true ∨ clockDead s (leadHalf s) 1 = true)) :=
  ⟨⟨(D 5 5), 3, (hb 0), by unfold ControlArrives; decide +kernel, by decide +kernel⟩,
   ⟨(D 5 5), 99, by decide +kernel⟩,
   ⟨(D 5 5), 3, { hb 0 with srcDev := 9 }, by unfold ControlArrives; decide +kernel, by decide +kernel⟩,
   ⟨((D 5 5).wf .HLF_FAILSET_FAILED 64 0), 3, hb 0, by decide +kernel⟩,
   ⟨(D 5 5), 3, (mr 1 0 6 0 0), by unfold ControlArrives; decide +kernel, by decide +kernel⟩,
   ⟨(D 5 5), 3, (mr 1 0 6 0 0), by unfold ControlArrives; decide +kernel, by decide +kernel⟩,
   ⟨(D 5 5), 3, (mr 1 0 6 0 0), by unfold ControlArrives; decide +kernel, by decide +kernel⟩,
   ⟨(D 5 5), 3, (mr 1 1 6 0 0), by unfold ControlArrives; decide +kernel, by decide +kernel⟩,
   ⟨(D 5 6), 3, (mr 1 1 7 0 0), by unfold ControlArrives; decide +kernel, by decide +kernel⟩,
   ⟨(D 5 5), 3, (mr 2 1 5 0 0), by unfold ControlArrives; decide +kernel, by decide +kernel⟩,
   ⟨(bt (D 5 5) fun b => { b with probes := [(6, 0)] }), 3, (mr 3 0 6 0 0), 0, by unfold ControlArrives; decide +kernel,
     by decide +kernel⟩,
   ⟨(bt (D 5 5) fun b => { b with probes := [(6, 0)] }), 6, 0, by decide +kernel⟩,
   ⟨(D 5 5), 3, (mr 3 0 6 0 0), by unfold ControlArrives; decide +kernel, by decide +kernel⟩,
   ⟨(D 5 5), 3, (mr 4 0 6 101 0), by unfold ControlArrives; decide +kernel, by decide +kernel⟩,
   ⟨(bt (D 6 6) fun b => { b with declares := [(6, 110)] }), 3, (mr 4 0 6 101 0), by unfold ControlArrives; decide +kernel,
     by decide +kernel⟩,
   ⟨(D 5 5), 3, (mr 8 3 6 0 0), by unfold ControlArrives; decide +kernel, by decide +kernel⟩,
   ⟨(D 5 5), 3, (mr 2 1 5 0 0), by unfold ControlArrives; decide +kernel, by decide +kernel⟩,
   ⟨((D 5 5).setHalf (leadHalf (D 5 5)) { (D 5 5).half (leadHalf (D 5 5)) with rangerStopped := true }), 3, (mr 2 1 5 0 0),
     by unfold ControlArrives; decide +kernel, by decide +kernel⟩⟩

end W83

namespace W84

def D (gp hp : Nat) : State := ((dev (withArm (upAll live) gp hp [entry 6 0 (dref 5) 0, entry 6 1 (dref 6) (dref 7), entry 6 2 (dref 7) 0]) 5).wfBoth .BEAT_CFG_EN 1).wfBoth .BEAT_NOW_BEAT 99
def bt (s : State) (f : Beat → Beat) : State := beatOf s f
def mp (pt : Nat) (pl : List Byte) : Packet := { ptype := pt, pclass := 0, tc := 3, chk := false, srcDev := 6, srcAgent := 3, hops := 1, dst := globalAddr 5 0, job := 77, epoch := 1, oseq := 0, tag := 4, via := 0, viaValid := false, payload := pl, trailer := [] }
def mr (k ca su b a : Nat) : Packet := mp 0x20 (MRec.bytes ⟨k, 0, ca, su, 1, 3, b, a⟩)
def S3 : State := coreOfSt (coreOfSt (jobOf (D 5 5) 3) 2 fun x => { x with node := .active }) 3 fun x => { x with node := .spare }
def O5 : LongOp := ⟨0x0205, [], 0, [], 0, 0, none⟩
def tb (ca b arg : Nat) (x : List Byte) : Packet := mp 0x20 (MRec.bytes ⟨16, 0, ca, 0, 1, 3, b, arg⟩ ++ x)
def sc : List Byte := sched 20 8 77 [schedEnt 1 1 64 2 0 4 9 10, schedEnt 2 0 64 2 3 4 11 12]
def DS : State := (D 6 6).wfBoth .BEAT_CFG_PERIOD 20
def AB : State := { DS with beat := { DS.beat with armed := some (5, 110) } }
def AO : State := AB
def a2 : List Byte := armImg 2 77 5 5 [entry 6 0 (dref 5) 0] ++ natLE 96 0

/-- Hypotheses of StopsAndTablesArrive, clause by clause. -/
theorem witness_StopsAndTablesArrive :
    (∃ (s : State) (p : PortId) (pkt : Packet), ControlArrives s p pkt 32 ∧ (mrecOf pkt.payload).kind = 5 ∧ s.dx.job = 3 ∧
      (s.waiting = [] ∧ ∀ (kv : FlagId × Flag), kv ∈ s.flags → kv.snd.owner = none)) ∧
    (∃ (s : State) (p : PortId) (pkt : Packet), ControlArrives s p pkt 32 ∧ (mrecOf pkt.payload).kind = 5 ∧ s.dx.job ≠ 3) ∧
    (∃ (s : State) (p : PortId) (pkt : Packet), ControlArrives s p pkt 32 ∧ (mrecOf pkt.payload).kind = 7 ∧ isHall s = true ∧
      s.dx.job = 3 ∧ (s.waiting = [] ∧ ∀ (kv : FlagId × Flag), kv ∈ s.flags → kv.snd.owner = none)) ∧
    (∃ (s : State) (p : PortId) (pkt : Packet), ControlArrives s p pkt 32 ∧ (mrecOf pkt.payload).kind = 7 ∧ isHall s = false) ∧
    (∃ (s : State) (p : PortId) (pkt : Packet), ControlArrives s p pkt 32 ∧ (mrecOf pkt.payload).kind = 4 ∧ (mrecOf
      pkt.payload).subject = ownDev s ∧ deviceGone s (ownDev s) = false ∧ (s.waiting = [] ∧ ∀ (kv : FlagId × Flag), kv ∈
      s.flags → kv.snd.owner = none) ∧ isGroupPrin s = false) ∧
    (∃ (s : State) (p : PortId) (pkt : Packet), ControlArrives s p pkt 32 ∧ (mrecOf pkt.payload).kind = 6) ∧
    (∃ (s : State) (p : PortId) (pkt : Packet), ControlArrives s p pkt 32 ∧ (mrecOf pkt.payload).kind = 9 ∧ (mrecOf
      pkt.payload).cause ≠ 0) ∧
    (∃ (s : State) (p : PortId) (pkt : Packet), ControlArrives s p pkt 32 ∧ (mrecOf pkt.payload).kind = 16 ∧ aget s.beat.tables
      (pkt.srcDev, (mrecOf pkt.payload).cause, (mrecOf pkt.payload).beat) [] = [] ∧ 0 < (mrecOf pkt.payload).arg / 2 ^ 32 ∧ 0 <
      (mrecOf pkt.payload).arg % 2 ^ 32) ∧
    (∃ (s : State) (p : PortId) (pkt : Packet), ControlArrives s p pkt 32 ∧ (mrecOf pkt.payload).kind = 16 ∧ (aget
      s.beat.tables (pkt.srcDev, (mrecOf pkt.payload).cause, (mrecOf pkt.payload).beat) [] = [] ∧ (mrecOf pkt.payload).arg / 2
      ^ 32 = 0 ∧ (List.drop 32 pkt.payload).length = (mrecOf pkt.payload).arg % 2 ^ 32 ∧ 0 < (mrecOf pkt.payload).arg % 2 ^ 32)
      ∧ (mrecOf pkt.payload).cause = 2) ∧
    (∃ (s : State) (p : PortId) (pkt : Packet), ControlArrives s p pkt 32 ∧ (mrecOf pkt.payload).kind = 9 ∧ (mrecOf
      pkt.payload).cause = 0 ∧ ackOpen s = false) ∧
    (∃ (s : State) (p : PortId) (pkt : Packet), ControlArrives s p pkt 32 ∧ (mrecOf pkt.payload).kind = 16 ∧ (aget
      s.beat.tables (pkt.srcDev, (mrecOf pkt.payload).cause, (mrecOf pkt.payload).beat) [] = [] ∧ (mrecOf pkt.payload).arg / 2
      ^ 32 = 0 ∧ (List.drop 32 pkt.payload).length = (mrecOf pkt.payload).arg % 2 ^ 32 ∧ 0 < (mrecOf pkt.payload).arg % 2 ^ 32)
      ∧ (mrecOf pkt.payload).cause = 1 ∧ (∀ (x : Nat), s.beat.armed ≠ some (x, (mrecOf pkt.payload).beat)) ∧ s.rf
      Fld.BEAT_NOW_BEAT + 2 ≤ (mrecOf pkt.payload).beat ∧ s.fence + 2 < (mrecOf pkt.payload).beat) ∧
    (∃ (s : State) (p : PortId) (pkt : Packet), ControlArrives s p pkt 32 ∧ (mrecOf pkt.payload).kind = 9 ∧ (mrecOf
      pkt.payload).cause = 0 ∧ ackOpen s = true) ∧
    (∃ (s : State) (p : PortId) (pkt : Packet), ControlArrives s p pkt 32 ∧ (mrecOf pkt.payload).kind = 16 ∧ (aget
      s.beat.tables (pkt.srcDev, (mrecOf pkt.payload).cause, (mrecOf pkt.payload).beat) [] = [] ∧ (mrecOf pkt.payload).arg / 2
      ^ 32 = 0 ∧ (List.drop 32 pkt.payload).length = (mrecOf pkt.payload).arg % 2 ^ 32 ∧ 0 < (mrecOf pkt.payload).arg % 2 ^ 32)
      ∧ (mrecOf pkt.payload).cause = 1 ∧ ((mrecOf pkt.payload).beat < s.rf Fld.BEAT_NOW_BEAT + 2 ∨ (mrecOf pkt.payload).beat ≤
      s.fence + 2)) ∧
    (∃ (s : State) (p : PortId) (pkt : Packet) (x : Nat), ControlArrives s p pkt 32 ∧ (mrecOf pkt.payload).kind = 16 ∧ (aget
      s.beat.tables (pkt.srcDev, (mrecOf pkt.payload).cause, (mrecOf pkt.payload).beat) [] = [] ∧ (mrecOf pkt.payload).arg / 2
      ^ 32 = 0 ∧ (List.drop 32 pkt.payload).length = (mrecOf pkt.payload).arg % 2 ^ 32 ∧ 0 < (mrecOf pkt.payload).arg % 2 ^ 32)
      ∧ (mrecOf pkt.payload).cause = 1 ∧ s.beat.armed = some (x, (mrecOf pkt.payload).beat) ∧ s.rf Fld.BEAT_NOW_BEAT + 2 ≤
      (mrecOf pkt.payload).beat ∧ s.fence + 2 < (mrecOf pkt.payload).beat) :=
  ⟨⟨S3, 3, (mr 5 0 6 0 0), by unfold ControlArrives; decide +kernel, by decide +kernel⟩,
   ⟨jobOf S3 1, 3, (mr 5 0 6 0 0), by unfold ControlArrives; decide +kernel, by decide +kernel⟩,
   ⟨S3, 3, (mr 7 0 6 0 0), by unfold ControlArrives; decide +kernel, by decide +kernel⟩,
   ⟨D 6 6, 3, (mr 7 2 6 0 3), by unfold ControlArrives; decide +kernel, by decide +kernel⟩,
   ⟨D 6 6, 3, (mr 4 0 5 110 0), by unfold ControlArrives; decide +kernel, by decide +kernel⟩,
   ⟨D 6 6, 3, (mr 6 0 5 110 99), by unfold ControlArrives; decide +kernel, by decide +kernel⟩,
   ⟨dxOf (D 6 6) (fun d => { d with long := [(2, O5)] }), 3, (mr 9 3 5 110 99), by unfold ControlArrives; decide +kernel,
     by decide +kernel⟩,
   ⟨D 6 6, 3, tb 1 110 (2 ^ 32 * 64 + 200) (natLE 64 5), by unfold ControlArrives; decide +kernel, by decide +kernel⟩,
   ⟨DS, 3, tb 2 110 sc.length sc, by unfold ControlArrives; decide +kernel, by decide +kernel⟩,
   ⟨D 6 6, 3, (mr 9 0 5 110 99), by unfold ControlArrives; decide +kernel, by decide +kernel⟩,
   ⟨DS, 3, tb 1 110 a2.length a2, by unfold ControlArrives; decide +kernel, by decide +kernel, by decide +kernel, by decide +kernel,
     fun _ h => absurd (show (none : Option (Nat × Nat)) = some _ from h) (by simp), by decide +kernel, by decide +kernel⟩,
   ⟨AO, 3, mr 9 0 5 110 99, by unfold ControlArrives; decide +kernel, by decide +kernel⟩,
   ⟨DS, 3, tb 1 100 a2.length a2, by unfold ControlArrives; decide +kernel, by decide +kernel⟩,
   ⟨AB, 3, tb 1 110 a2.length a2, 5, by unfold ControlArrives; decide +kernel, by decide +kernel⟩⟩

end W84

namespace W85

def D (gp hp : Nat) : State := ((dev (withArm (upAll live) gp hp [entry 6 0 (dref 5) 0, entry 6 1 (dref 6) (dref 7), entry 6 2 (dref 7) 0]) 5).wfBoth .BEAT_CFG_EN 1).wfBoth .BEAT_NOW_BEAT 99
def bt (s : State) (f : Beat → Beat) : State := beatOf s f
def w5 (s : State) : State := dxOf s fun d => { d with weights := [16, 16, 16, 16, 16] }
def TK (s : State) (f : Beat → Beat) : State := bt s fun b => f { b with takeovers := [(6, 1)], started := true, nextStep := 102 }

/-- Hypotheses of FailoverStaysWithinTheStep, clause by clause. -/
theorem witness_FailoverStaysWithinTheStep :
    (∃ (s : State) (a : Agent), isDexca a = true ∧ s.dx.job = 0) ∧
    (∃ (s : State), (¬(isHall s = true ∧ takingOver s = true ∧ s.beat.started = true))) ∧
    (∃ (s : State), takingOver s = false) ∧
    (∃ (s : State), epochNow s ≠ 0) ∧
    (∃ (a : Agent), isDexca a = false) ∧
    (∃ (s : State) (m : RiskInputs), epochNow s = 0 ∧ s.dx.weights = [16, 16, 16, 16, 16] ∧ m.others = []) ∧
    (∃ (s : State) (a : Agent), isDexca a = true ∧ s.dx.job ≠ 0) ∧
    (∃ (s : State) (f : Nat), (isHall s = true ∧ takingOver s = true ∧ s.beat.started = true) ∧ s.beat.shiftDue = some f ∧ f ≤
      s.rf Fld.BEAT_NOW_BEAT ∧ (s.beat.foBeats + (4 - s.beat.nextStep % 4) ≤ if s.rf Fld.HLF_FO_CFG_FOEXT (leadHalf s).val = 0
      then 4 else s.rf Fld.HLF_FO_CFG_FOEXT (leadHalf s).val)) ∧
    (∃ (s : State), takingOver s = true ∧ isHall s = true ∧ s.beat.armed = none) ∧
    (∃ (s : State), (isHall s = true ∧ takingOver s = true ∧ s.beat.started = true) ∧ s.beat.shiftDue = none ∧ s.beat.foBeats ≠
      0 ∧ s.beat.nextStep ≤ s.rf Fld.BEAT_NOW_BEAT + 1 ∧ (s.beat.foBeats + 4 ≤ if s.rf Fld.HLF_FO_CFG_FOEXT (leadHalf s).val =
      0 then 4 else s.rf Fld.HLF_FO_CFG_FOEXT (leadHalf s).val)) ∧
    (∃ (s : State) (f : Nat), (isHall s = true ∧ takingOver s = true ∧ s.beat.started = true) ∧ s.beat.shiftDue = some f ∧ f ≤
      s.rf Fld.BEAT_NOW_BEAT ∧ ((if s.rf Fld.HLF_FO_CFG_FOEXT (leadHalf s).val = 0 then 4 else s.rf Fld.HLF_FO_CFG_FOEXT
      (leadHalf s).val) < s.beat.foBeats + (4 - s.beat.nextStep % 4)) ∧ s.dx.job = 3 ∧ s.waiting = [] ∧ (∀ (kv : FlagId × Flag),
       kv ∈ s.flags → kv.snd.owner = none)) ∧
    (∃ (s : State), takingOver s = true ∧ (isHall s = false ∨ s.beat.armed.isSome = true)) ∧
    (∃ (s : State) (x : Nat), (inTier (blockOf x) 2048 = false ∨ rangeBusy s (blockOf x) 2048 = true)) ∧
    (∃ (s : State) (x : Nat) (d : List Byte), inTier (blockOf x) 2048 = true ∧ rangeBusy s (blockOf x) 2048 = false ∧ ((∃ r, r
      ∈ s.dx.shards ∧ r.fst ≤ blockOf x ∧ blockOf x < r.fst + r.snd) ∧ s.dx.optSince = false ∧ ¬∃ n, aget? s.dx.repaired
      (blockOf x) = some n ∧ (s.rf Fld.BEAT_NOW_BEAT - n) * max 4 (s.rf Fld.BEAT_CFG_PERIOD) ≤ 24 * 60 * 60 * 10 ^ 6) ∧
      d.length = 2048) ∧
    (∃ (s : State) (x : Nat), inTier (blockOf x) 2048 = true ∧ rangeBusy s (blockOf x) 2048 = false ∧ (¬((∃ r, r ∈ s.dx.shards
      ∧ r.fst ≤ blockOf x ∧ blockOf x < r.fst + r.snd) ∧ s.dx.optSince = false ∧ ¬∃ n, aget? s.dx.repaired (blockOf x) = some n
      ∧ (s.rf Fld.BEAT_NOW_BEAT - n) * max 4 (s.rf Fld.BEAT_CFG_PERIOD) ≤ 24 * 60 * 60 * 10 ^ 6))) :=
  ⟨⟨D 5 5, .dexca 0, by decide +kernel⟩,
   ⟨D 5 5, by decide +kernel⟩,
   ⟨D 5 5, by decide +kernel⟩,
   ⟨D 5 5, by decide +kernel⟩,
   ⟨.host, by decide +kernel⟩,
   ⟨w5 live, { correctable := 100, drift := 3000, hottest := 99, retrains := 2, lateness := 3, others := [], dayBelow := true },
      by decide +kernel⟩,
   ⟨jobOf (w5 (dxOf live fun d => { d with level := 2 })) 3, .dexca 1, by decide +kernel⟩,
   ⟨TK (D 5 5) (fun b => { b with shiftDue := some 99 }), 99, by decide +kernel⟩,
   ⟨TK (D 5 5) (fun b => { b with shiftDue := some 99 }), by decide +kernel⟩,
   ⟨TK (D 5 5) (fun b => { b with foBeats := 2, nextStep := 100 }), by decide +kernel⟩,
   ⟨jobOf (TK (D 5 5) (fun b => { b with foBeats := 20, shiftDue := some 99 })) 3, 99, by decide +kernel⟩,
   ⟨TK (D 5 5) (fun b => { b with armed := some (0, 120) }), by decide +kernel⟩,
   ⟨D 5 5, 481573208064, by decide +kernel⟩,
   ⟨dxOf (D 5 5) (fun d => { d with shards := [(0x4000, 4096)], optSince := false }), 16384, ([77] ++ List.replicate 2047 0),
     by decide +kernel⟩,
   ⟨D 5 5, 99, by decide +kernel⟩⟩

end W85

namespace W86

def E : EchoSlot := ⟨0, 5, 0, 0, 3, 0, 0, false, some 8, none⟩
def cs (s : State) (l : List (CoreId × NodeSt)) : State := l.foldl (fun s x => coreOfSt s x.1 fun y => { y with node := x.2 }) s
def L0 : State := cs live (((List.range 40).map (Fin.ofNat 80)).map (fun c => (c, .disabled)))
def L : State := cs L0 [(0, .active), (8, .active), (9, .active)]
def ec (s : State) (e : EchoSlot) : State := dxOf s fun d => { d with echo := [((0, 2), e)] }
def bad (s : State) : State := ec s { E with bad := some (9, 3) }
def L3 : State := cs L [(10, .active)]
def pe (rnd tm ex : Nat) : List Byte := natLE 4 (rnd * 65536) ++ natLE 12 tm ++ natLE 16 ex
def dg : Nat := digest 3 (natLE 48 77)
def pk (s : State) (l : List (List Byte)) : State := dxOf (s.wf .HLF_SURV_CFG_EN 1 0) fun d => { d with package := l.flatten ++ natLE 64 0 }
def sv (s : State) (x : Survey) : State := dxOf s fun d => { d with surveys := [(1, x)] }
def L1 : State := cs L [(1, .active), (2, .spare), (3, .spare)]
def R1 : Survey := ⟨0, false, true, false, none, 10⟩

theorem getBytes_high (a n : Nat) (h : 5 < a) : Memory.getBytes [(5, 7)] a n = List.replicate n 0 := by
  induction n generalizing a with
  | zero => rfl
  | succ n ih =>
    rw [Memory.getBytes, ih (a + 1) (by omega), List.replicate_succ]
    have : Memory.get [(5, 7)] a = 0 := by unfold Memory.get; rw [if_neg (by omega)]; rfl
    rw [this]
/-- the one slice of an empty block -/
def sl0 : List (Nat × Nat × Slice × Exc) := slicesOf (List.replicate 64 0) 0 [[]] [[]]
theorem sl0_eq : sl0 = [(0, 0, ⟨0, 0, [], false⟩, excZero)] := by decide +kernel
theorem recheck_slot (s : State) (h : s.mem = [(5, 7)]) (hb : 5 < echoSlotBase s 0 2) :
    recheck s 0 2 = echoRecord sl0 (excOf (List.replicate 64 0) [[]] [[]] sl0) 0 ++ natLE 2304 0 := by
  have h1 : s.read (echoSlotBase s 0 2) 64 = List.replicate 64 0 := by rw [State.read, h]; exact getBytes_high _ _ hb
  have h2 : s.readN (echoSlotBase s 0 2 + 76) 4 = 0 := by
    rw [State.readN, State.read, h, getBytes_high _ _ (by omega)]; rfl
  dsimp only [recheck]
  rw [h1, h2]
  rfl
theorem record_zero : echoRecord sl0 (excOf (List.replicate 64 0) [[]] [[]] sl0) 0 = List.replicate 2304 0 := by
  rw [sl0_eq]; decide +kernel
theorem recheck_zero : recheck (ec L E) 0 2 = List.replicate 4608 0 := by
  rw [recheck_slot _ rfl (by decide +kernel), record_zero, show natLE 2304 0 = List.replicate 2304 0 from by decide +kernel]
  simp only [List.replicate_append_replicate]
theorem read_recheck (a : Nat) (h : 5 < a) : (ec L E).read a 4608 = recheck (ec L E) 0 2 := by
  rw [recheck_zero]; exact getBytes_high a 4608 h

/-- Hypotheses of EchoesAndSurveysFindSuspects, clause by clause. -/
theorem witness_EchoesAndSurveysFindSuspects :
    (∃ (s : State) (h : HalfId) (slot : Nat), aget? s.dx.echo (h, slot) = none) ∧
    (∃ (s : State) (c : CoreId), (¬(s.rf Fld.HLF_SURV_CFG_EN (halfOfCore c).val ≠ 0 ∧ (surveyOf s c).next < progCount s ∧
      (surveyOf s c).running = false ∧ hasSlack s c = true ∧ progTime (progEntry s (surveyOf s c).next) ≤ min 50 (max 1 (s.rf
      Fld.HLF_SURV_CFG_SLICE (halfOfCore c).val))))) ∧
    (∃ (s : State) (c : CoreId), (surveyOf s c).running = false) ∧
    (∃ (s : State) (c : CoreId), s.rf Fld.HLF_SURV_CFG_EN (halfOfCore c).val ≠ 0 ∧ ((s.core c).node = NodeSt.active ∨ (s.core
      c).node = NodeSt.paired)) ∧
    (∃ (s : State) (c : CoreId), s.rf Fld.HLF_SURV_CFG_EN (halfOfCore c).val ≠ 0 ∧ ((s.core c).node = NodeSt.closing ∨ (s.core
      c).node = NodeSt.disabled)) ∧
    (∃ (s : State) (h : HalfId) (slot : Nat) (e : EchoSlot) (k : CoreId) (col : Nat), aget? s.dx.echo (h, slot) = some e ∧
      e.bad = some (k, col) ∧ (s.core e.src).node = NodeSt.active ∧ (s.core k).node = NodeSt.active) ∧
    (∃ (s : State) (c : CoreId), (s.rf Fld.HLF_SURV_CFG_EN (halfOfCore c).val ≠ 0 ∧ (surveyOf s c).next < progCount s ∧
      (surveyOf s c).running = false ∧ hasSlack s c = true ∧ progTime (progEntry s (surveyOf s c).next) ≤ min 50 (max 1 (s.rf
      Fld.HLF_SURV_CFG_SLICE (halfOfCore c).val)))) ∧
    (∃ (s : State) (c : CoreId), s.rf Fld.HLF_SURV_CFG_EN (halfOfCore c).val ≠ 0 ∧ (s.core c).node = NodeSt.spare ∧ progCount s
      ≠ 0) ∧
    (∃ (s : State) (c : CoreId) (r : List Byte), (surveyOf s c).running = true ∧ (surveyOf s c).first = none ∧ progRandom
      (progEntry s (surveyOf s c).next) = false ∧ digest 3 r = progExpect (progEntry s (surveyOf s c).next) ∧ (surveyOf s
      c).whole = false ∧ (surveyOf s c).failed = false) ∧
    (∃ (s : State) (c : CoreId) (r : List Byte), (surveyOf s c).running = true ∧ (surveyOf s c).first = none ∧ progRandom
      (progEntry s (surveyOf s c).next) = false ∧ digest 3 r ≠ progExpect (progEntry s (surveyOf s c).next) ∧ (surveyOf s
      c).whole = false ∧ (surveyOf s c).next + 1 < progCount s ∧ (s.core c).node = NodeSt.active) ∧
    (∃ (s : State) (c : CoreId) (d : CoreId), (surveyOf s c).running = true ∧ (surveyOf s c).first = none ∧ progRandom
      (progEntry s (surveyOf s c).next) = true ∧ secondCore s c = some d ∧ d ≠ c) ∧
    (∃ (s : State) (c : CoreId), s.rf Fld.HLF_SURV_CFG_EN (halfOfCore c).val = 0) ∧
    (∃ (s : State) (h : HalfId) (slot : Nat) (e : EchoSlot) (k : CoreId), aget? s.dx.echo (h, slot) = some e ∧ e.bad = none ∧
      memWaits s h (s.rf Fld.HLF_ECHO_BASE_BASE h.val + 204800 * slot) 204800 = false ∧ (e.chk = some k ∧ ((s.core k).node =
      NodeSt.active ∨ (s.core k).node = NodeSt.spare)) ∧ s.read (s.rf Fld.HLF_ECHO_BASE_BASE h.val + 204800 * slot + 256) 4608
      = recheck s h slot) ∧
    (∃ (s : State) (h : HalfId) (slot : Nat) (e : EchoSlot) (k : CoreId), aget? s.dx.echo (h, slot) = some e ∧ e.bad = none ∧
      memWaits s h (s.rf Fld.HLF_ECHO_BASE_BASE h.val + 204800 * slot) 204800 = false ∧ (e.chk = some k ∧ ((s.core k).node =
      NodeSt.active ∨ (s.core k).node = NodeSt.spare)) ∧ s.read (s.rf Fld.HLF_ECHO_BASE_BASE h.val + 204800 * slot + 256) 4608
      ≠ recheck s h slot) ∧
    (∃ (s : State) (h : HalfId) (slot : Nat) (e : EchoSlot), aget? s.dx.echo (h, slot) = some e ∧ e.bad = none ∧ memWaits s h
      (s.rf Fld.HLF_ECHO_BASE_BASE h.val + 204800 * slot) 204800 = false ∧ (∀ (k : CoreId), ¬(e.chk = some k ∧ ((s.core k).node
      = NodeSt.active ∨ (s.core k).node = NodeSt.spare)))) ∧
    (∃ (s : State) (h : HalfId) (slot : Nat) (e : EchoSlot), aget? s.dx.echo (h, slot) = some e ∧ e.bad = none ∧ memWaits s h
      (s.rf Fld.HLF_ECHO_BASE_BASE h.val + 204800 * slot) 204800 = true) :=
  ⟨⟨L, 0, 2, by decide +kernel⟩,
   ⟨L, 0, by decide +kernel⟩,
   ⟨L, 0, by decide +kernel⟩,
   ⟨L, 0, by decide +kernel⟩,
   ⟨ec L0 E, 0, by decide +kernel⟩,
   ⟨bad L, 0, 2, { src := 0, num := 5, block := 0, mb := 0, step := 3, id := 0, n := 0, pair := false, chk := some 8, bad := some (9, 3) },
      9, 3, by decide +kernel⟩,
   ⟨pk L1 [pe 0 1 dg, pe 0 5 dg], 1, by decide +kernel⟩,
   ⟨pk L1 [pe 0 1 dg, pe 0 5 dg], 2, by decide +kernel⟩,
   ⟨sv (pk L1 [pe 0 1 dg]) R1, 1, ([77] ++ List.replicate 47 0), by decide +kernel⟩,
   ⟨sv (pk L1 [pe 0 1 dg, pe 0 5 dg]) R1, 1, [], by decide +kernel⟩,
   ⟨sv (pk L1 [pe 1 1 dg]) R1, 1, 0, by decide +kernel⟩,
   ⟨L.wf .HLF_SURV_CFG_EN 0 0, 0, by decide +kernel⟩,
   ⟨ec L E, 0, 2, E, 8, by decide +kernel, by decide +kernel, by decide +kernel, by decide +kernel,
      read_recheck _ (by decide +kernel)⟩,
   ⟨ec (put L (L.rf .HLF_ECHO_BASE_BASE 0 + 204800 * 2 + 0x100) [9]) E, 0, 2, { src := 0, num := 5, block := 0, mb := 0, step := 3, id := 0, n := 0, pair := false, chk := some 8, bad := none },
      8, by decide +kernel⟩,
   ⟨ec L0 E, 0, 2, { src := 0, num := 5, block := 0, mb := 0, step := 3, id := 0, n := 0, pair := false, chk := some 8, bad := none },
      by decide +kernel⟩,
   ⟨(ec L E).wf .HBM_INIT_CTL_BUSY 1 0, 0, 2, E, by decide +kernel⟩⟩

end W86

namespace W87
def md (tile beg af bf fp at_ bt keep m n k ao bo la lb exc : Nat) : List Byte :=
  natLE 4 (tile + beg * 4 + af * 8 + bf * 64 + fp * 512 + at_ * 2048 + bt * 4096 + keep * 8192) ++ natLE 4 (m - 1 + (n - 1) * 256) ++ natLE 4 k ++
  natLE 4 ao ++ natLE 4 bo ++ natLE 4 la ++ natLE 4 lb ++ natLE 4 0 ++ natLE 4 0 ++ natLE 4 0 ++ natLE 8 exc ++ natLE 16 0
def m0 := md 1 1 1 1 0 0 0 0 1 1 4 0x4000 0x8000 64 64 0
def sm (d : List Byte) : State := ctxIn live 3 1 (cw 1 0 0 0 0 0 5 (descAt 3)) d
def opM (d : List Byte) : Op := ⟨4, 1, 0, 1, d, false, false, 0, 0, 0, 0, 5, false, 0, none, false, 0, none⟩
def withOp (s : State) (o : Op) : State := coreOfSt s 3 fun x => { x with ops := [o], nextNum := 5 }
def fld_mdTile := mdTile m0
def el : AccElem := ⟨3, 5, 77, false, 0⟩
def far : AccElem := ⟨255, 1, 0, false, 3⟩
def gld : AccElem := ⟨255, 1, 0, true, 3⟩
def cor : AccElem := ⟨13, 1, 0, false, 3⟩
def full : List (Nat × SpillEntry) := (List.range 1024).map (fun i => (i, ⟨7, 0, i⟩))
def d1 : Dep := ⟨some 4, 16385, 99 * 2 ^ 100, 2⟩
def dBig : Dep := ⟨some 4, 16385, 3 * 2 ^ 400, 2⟩
def au (f : AccUnit → AccUnit) : State := coreOfSt live 3 fun x => { x with ops := [opM m0], mats := [⟨4, true, 1, 1, false, excZero, none⟩], acc := f { x.acc with elems := [(16385, el), (5, el)], spill := [(3, ⟨7, 0, 16385⟩), (4, ⟨9, 1, 33⟩)] } }
def exS : State := au fun a => { a with spill := full, depQ := [dBig, d1] }

theorem aget_range {α : Type} (f : Nat → α) (n k j : Nat) (h : k ≤ j) (h2 : j < k + n) :
    aget? ((List.range' k n).map (fun i => (i, f i))) j = some (f j) := by
  induction n generalizing k with
  | zero => omega
  | succ n ih =>
    rw [List.range'_succ, List.map_cons, aget?]
    split
    · next e => rw [e]
    · exact ih (k + 1) (by omega) (by omega)
/-- every entry of the spill table is taken -/
theorem full_free (a : AccUnit) (h : a.spill = full) : freeSpill a = none := by
  unfold freeSpill
  rw [h, List.find?_eq_none]
  intro i hi
  have : i < 1024 := by rw [List.mem_range] at hi; omega
  rw [full, List.range_eq_range', aget_range _ _ _ _ (by omega) (by omega)]
  simp
theorem dep_full : (deposit exS 3 16385 (3 * 2 ^ 400) 2).2 = .exhausted :=
  deposit_exhausted exS 3 16385 _ 2 (by decide +kernel) (by decide +kernel) (by decide +kernel) (by decide +kernel)
    (by decide +kernel) (by decide +kernel) (full_free _ (by decide +kernel)) (by decide +kernel)
/-- a first pending deposit that a full spill table exhausts stalls -/
theorem stalls (s : State) (c : CoreId) (d : Dep) (rest : List Dep) (hp : pickDep s c (s.acc c).depQ = some (d, rest))
    (ha : (s.elem c d.elem).anchor ≠ 255) (hd : (deposit s c d.elem d.d d.sc).2 = .exhausted) : stalledDeposit s c = some d := by
  unfold stalledDeposit
  simp [hp, ha, hd]

/-- Hypotheses of MatrixOperationsHoldAndClearTheirTile (BeginsClearTheirTile), clause by clause. -/
theorem witness_BeginsClearTheirTile :
    (∃ (s : State) (c : CoreId) (d : Dep) (rest : List Dep), s.fab.store = [] ∧ (s.acc c).depQ = d :: rest ∧ depReady s c d =
      true ∧ (s.elem c d.elem).anchor ≤ 12 ∧ List.length (s.acc c).spill < 1024) ∧
    (∃ (s : State) (c : CoreId) (d : Dep) (rest : List Dep) (col : Fin 128), s.fab.store = [] ∧ aget (s.acc c).residue col [] =
      d :: rest ∧ depReady s c d = true ∧ (s.elem c d.elem).anchor ≤ 12 ∧ List.length (s.acc c).spill < 1024) ∧
    (∃ (s : State) (c : CoreId) (d : Dep) (rest : List Dep), s.fab.store = [] ∧ (s.acc c).farQ = d :: rest) ∧
    (∃ (s : State) (c : CoreId) (d : Dep) (rest : List Dep), s.fab.store = [] ∧ (s.acc c).gladeQ = d :: rest ∧ s.rf
      Fld.GLD_CLR_CTL_BUSY (halfOfCore c).val = 0) ∧
    (∃ (s : State) (c : CoreId) (d : Dep), s.fab.store = [] ∧ stalledDeposit s c = some d) :=
  ⟨⟨(au fun a => { a with depQ := [dBig, d1] }), 3, { op := some 4, elem := 16385, d := 7746749634260725768967757516009035622989117378487670538491978069621942866050523583888936059840413494307709515918242480128, sc := 2 },
      [{ op := some 4, elem := 16385, d := 125497409422594710748173617332224, sc := 2 }], by decide +kernel⟩,
   ⟨(au fun a => { a with residue := [(1, [d1, dBig])] }), 3, { op := some 4, elem := 16385, d := 125497409422594710748173617332224, sc := 2 },
      [{ op := some 4, elem := 16385, d := 7746749634260725768967757516009035622989117378487670538491978069621942866050523583888936059840413494307709515918242480128, sc := 2 }],
      1, by decide +kernel⟩,
   ⟨(au fun a => { a with farQ := [d1, dBig], elems := [(16385, far)] }), 3, { op := some 4, elem := 16385, d := 125497409422594710748173617332224, sc := 2 },
      [{ op := some 4, elem := 16385, d := 7746749634260725768967757516009035622989117378487670538491978069621942866050523583888936059840413494307709515918242480128, sc := 2 }],
      by decide +kernel⟩,
   ⟨(au fun a => { a with gladeQ := [d1, dBig], elems := [(16385, gld)] }), 3, { op := some 4, elem := 16385, d := 125497409422594710748173617332224, sc := 2 },
      [{ op := some 4, elem := 16385, d := 7746749634260725768967757516009035622989117378487670538491978069621942866050523583888936059840413494307709515918242480128, sc := 2 }],
      by decide +kernel⟩,
   ⟨exS, 3, dBig, by decide +kernel, stalls exS 3 dBig [d1] (by decide +kernel) (by decide +kernel) dep_full⟩⟩

end W87

/-! ### The whole machine -/

/-- Hypotheses of StepRunsTheCommandInFront, clause by clause. -/
theorem witness_StepRunsTheCommandInFront :
    (∃ (s : State) (c : Instr) (rest : List Instr), s.pending = c :: rest) ∧ (∃ s : State, s.pending = []) :=
  ⟨⟨{ live with pending := [.shutdownCauseRead] }, .shutdownCauseRead, [], rfl⟩, live, rfl⟩

/-- Hypotheses of EveryStepKeepsTheInvariant: the state right after reset, with a command that changes the cause in front. -/
theorem witness_EveryStepKeepsTheInvariant : ∃ s t : State, s.Inv ∧ step s = .next t :=
  ⟨{ State.reset with pending := [.shutdownCauseRead] }, _, inv_of_same inv_reset rfl rfl, rfl⟩

/-- Hypotheses of OnlyItsWriteClearsTheCause. -/
theorem witness_OnlyItsWriteClearsTheCause :
    ∃ (s t : State) (i : Instr), s.mod.cause ≠ 0 ∧ exec i s = .next t ∧ t.mod.cause = 0 :=
  ⟨{ live with mod := { live.mod with cause := 3 } }, nx (exec (.shutdownCauseClear 0xA5) { live with mod := { live.mod with cause := 3 } }),
    .shutdownCauseClear 0xA5, by decide +kernel, rfl, by decide +kernel⟩

/-! ### Ill-formed commands are refused -/

theorem test_wf_width : (Instr.shutdownCauseClear 256).wf = false ∧ (Instr.shutdownCauseClear 255).wf = true := by decide
theorem test_wf_agent : (Instr.measExtend (.smbus 128) 0 0).wf = false ∧ (Instr.measExtend (.remote 16384) 0 0).wf = false := by decide
theorem test_wf_stream : (Instr.streamSubmit 0 1 [1, 2]).wf = false := by decide
theorem test_wf_packet : (Instr.putPacket 0 { donePacket State.reset (donePacket State.reset ⟨1, 0, 0, false, 0, 0, 0, 0, 0, 0, 0, 0, 0, false, [], []⟩ 0 0) 0 0 with hops := 16 }).wf = false := by decide +kernel
theorem test_wf_identity : (Instr.identityRecord 0 (List.replicate 2 (List.replicate 32 0))).wf = false ∧
    (Instr.identityRecord 0 (List.replicate 3 (List.replicate 31 0))).wf = false := by decide +kernel
theorem test_wf_flit : (Instr.flitReceive 0 ⟨List.replicate 255 0, 0, 0, 0, 0, none⟩).wf = false := by decide +kernel
theorem test_wf_merge : (Instr.merge 0 (.scale (2 ^ 32) 0 0)).wf = false := by decide +kernel
theorem test_wf_block : (Instr.blockRepair 0 []).wf = false := by decide +kernel

/-! ### No word of the table spells a command -/

theorem test_decode (n w : Nat) : decodeTableWord n w = none := rfl
theorem test_fetch (s : State) (n w : Nat) : s.withFetchWord n w = s := rfl

/-! ### The worked examples of the spec -/

/-- 00_scope.md, reading a global address: group 11, device 39, local 0x0080_0000_1000. -/
theorem test_global_address : addrDev 0x0B9C008000001000 = 11 * 64 + 39 ∧ addrLocal 0x0B9C008000001000 = 0x8000001000 := by decide +kernel
/-- 01_node_model.md, a slot reference: half 1, grove 3, core 5 of device 39 of group 11 is 0x1_73DD. -/
theorem test_node_reference : nodeRefOf (dev live (11 * 64 + 39)) (.core 69) = 0x173DD := by decide +kernel

/-- v = 3 + 2⁻⁷ + 2⁻⁸ (02_number_formats.md). -/
def exV : LVal := ⟨0, 2 ^ 321 + 2 ^ 320 + 2 ^ 313 + 2 ^ 312⟩
theorem test_round : bf16.ofLong .rne false exV = 0x4041 ∧ bf16.ofLong .rtz false exV = 0x4040 ∧ bf16.ofLong .rup false exV = 0x4041 ∧
    bf16.ofLong (.sr 0x30000000) false exV = 0x4040 ∧ bf16.ofLong (.sr 0x40000000) false exV = 0x4041 := by decide +kernel
theorem test_exchange : exchEncode exV = [7, 0, 0, 0, 0, 0, 0, 0, 0, 0, 0, 0, 0, 3, 3, 0] := by decide +kernel
/-- 2⁶³⁸ lies in no window, 2⁶²² in that of A = 16 (R68). -/
theorem test_exchange_top : (exchEncode ⟨0, 2 ^ 638⟩).length = 96 ∧ exchDecode (exchEncode ⟨0, 2 ^ 638⟩) = some ⟨0, 2 ^ 638⟩ ∧
    exchEncode ⟨0, 2 ^ 622⟩ = [16, 0, 0, 0, 0, 0, 0, 0, 0, 0, 0, 0, 0, 0, 0, 0x40] := by decide +kernel

/-- a k-slice of BF16 products -/
def sl (l : List (Nat × Nat)) : Slice := kSlice (l.map fun x => classify (bf16.decode x.1) (bf16.decode x.2))
/-- the sum that a slice deposits, its diverted products included -/
def slL (x : Slice) : LVal := ⟨x.sc, x.d + x.diverted.foldl (· + ·) 0⟩
/-- 03_exact_dot_product.md, three ordinary products. -/
theorem test_slice : sl [(0x3FC0, 0x4000), (0xBF40, 0x3F80), (0x3A80, 0x3E00)] = ⟨0, 2 ^ 321 + 2 ^ 318 + 2 ^ 307, [], true⟩ ∧
    fp32.ofLong .rne false ⟨0, 2 ^ 321 + 2 ^ 318 + 2 ^ 307⟩ = 0x40100200 := by decide +kernel
/-- 03, a large cancellation around a small term: one product is diverted, and 1.0 is left. -/
theorem test_cancellation : (sl [(0x5880, 0x5880), (0x3F80, 0x3F80), (0xD880, 0x5880)]) = ⟨0, 0, [2 ^ 320], true⟩ := by decide +kernel
/-- 03, the first diverted product: two of five. -/
theorem test_diverted : ((sl [(0x3F80, 0x3F80), (0x2D01, 0x2D81), (0x2D01, 0x2D01), (0x2A00, 0x2980), (0x2980, 0x2980)]).diverted).length = 2 := by
  decide +kernel
/-- 03, a product beyond the output range, in its three variants. -/
theorem test_range : fp16.ofLong .rne false (slL (sl [(0x4480, 0x4480), (0x7FC1, 0x3F80), (0x4040, 0x40A0)])) = 0x7E00 ∧
    fp16.ofLong .rne false (slL (sl [(0x4480, 0x4480), (0x4040, 0x40A0), (0xC480, 0x4480)])) = 0x4B80 ∧
    fp16.ofLong .rne false (slL (sl [(0x4480, 0x4480), (0x4040, 0x40A0)])) = 0x7C00 ∧
    fp16.ofLong .rne true (slL (sl [(0x4480, 0x4480), (0x4040, 0x40A0)])) = 0x7BFF := by decide +kernel
/-- 03, block-scaled FP4: −3 × 2³ by 1.5 × 2⁻³ and 6 × 2³ by 1 × 2⁻³ come to 1.5. -/
theorem test_fp4 : kSlice [classify (fp4Scaled 13 0x82) (fp4Scaled 3 0x7C), classify (fp4Scaled 7 0x82) (fp4Scaled 2 0x7C)] =
    ⟨0, 3 * 2 ^ 319, [], true⟩ := by decide +kernel

/-- element (tile 1, row 5, column 9) of core 3 after deposits -/
def elemAfter (ds : List Int) : AccElem :=
  (ds.foldl (fun s d => (deposit s 3 (elemIdx 1 5 9) d 0).1) live).elem 3 (elemIdx 1 5 9)
/-- 04_long_accumulators.md, one element through rebase and promotion. -/
theorem test_deposit : elemAfter [2 ^ 320 + 2 ^ 319] = ⟨4, 0, 2 ^ 192 + 2 ^ 191, false, 0⟩ := by decide +kernel
theorem test_rebase : elemAfter [2 ^ 320 + 2 ^ 319, 2 ^ 120] = ⟨3, 0, 2 ^ 224 + 2 ^ 223 + 2 ^ 24, false, 0⟩ := by decide +kernel
theorem test_promote : elemAfter [2 ^ 320 + 2 ^ 319, 2 ^ 120, 2 ^ 70] = ⟨255, 0, 0, false, 0⟩ := by decide +kernel
/-- 04, OWNER and VALID of the entry. -/
theorem test_owner : (slotBytes ⟨0, 2 ^ 70⟩ (elemOwner (elemIdx 1 5 9))).drop 0x50 = [0, 0x89, 0x42, 1] ++ natLE 44 0 := by decide +kernel
/-- 04, a masked attention row. -/
theorem test_softmax : softmaxPair (fp32.decode 0x40400000) (fp32.decode 0x40A00000)
    (List.replicate 8 (bf16.decode 0x4040) ++ List.replicate 120 (bf16.decode 0xFF80)) = (0x40400000, 0x41500000) := by decide +kernel

/-- the sum of the sweeps of one FP32 product at FP32P = p -/
def fp32Prod (p : Nat) (a b : Nat) : Nat :=
  fp32.ofLong .rne false ⟨0, (sweeps (natLE 4 (p * 2 ^ 9))).foldl (fun n sw => n + (kSlice [sweepProd true sw (fp32.decode a) (fp32.decode b)]).d) 0⟩
/-- 05_matrix_engine.md, one FP32 product at each pass count. -/
theorem test_fp32_passes : fp32Prod 0 0x3EAAAAAB 0x40400000 = 0x3F7F0000 ∧ fp32Prod 1 0x3EAAAAAB 0x40400000 = 0x3F7FFF00 ∧
    fp32Prod 2 0x3EAAAAAB 0x40400000 = 0x3F800000 := by decide +kernel

/-- a scale record at 0x10000 with what a conversion observed -/
def scr (est amax nsat ovf : Nat) : State :=
  put live 0x10000 (natLE 4 est ++ natLE 4 0x3F800000 ++ natLE 4 (1 + 4 * 256) ++ natLE 4 ovf ++ natLE 4 amax ++ natLE 4 nsat)
/-- SCUPD to FP8 E4M3 -/
def scO : Op := ⟨4, 1, 0, 2, natLE 4 (0x42 + 3 * 2 ^ 11) ++ natLE 36 0 ++ natLE 8 0x10000 ++ natLE 16 0, false, false, 0, 0, 0, 0, 5, false, 0, none, false, 0, none⟩
/-- EST, SCALE and OVFCNT after SCUPD -/
def scAfter (s : State) : Nat × Nat × Nat :=
  let t := (runScupd s 3 scO).st
  (t.readN 0x10000 4, t.readN 0x10004 4, t.readN 0x1000C 4)
/-- 06_vector_engine.md, an estimate overtaken and corrected: the three uses. -/
theorem test_scupd_1 : scAfter (scr 0x42C80000 0x42C00000 0 0) = (0x42C00000, 0x3F800000, 0) := by decide +kernel
theorem test_scupd_2 : scAfter (scr 0x42C00000 0x43160000 0 0) = (0x43160000, 0x3F000000, 0) := by decide +kernel
theorem test_scupd_3 : scAfter (scr 0x43160000 0x447A0000 3 0) = (0x447A0000, 0x3E000000, 1) := by decide +kernel

/-- a device whose step 5,000 runs with a period of 250 µs -/
def beatS : State := (live.wfBoth .BEAT_STEP_STEP 5000).wfBoth .BEAT_CFG_PERIOD 250
/-- the phase that a device ends 180 µs after the boundary of beat 80,010 -/
def lateRun (deadline ext : Nat) : PhaseRun := { phase := 1, policy := 0, extMax := 2, dflag := 9, lflag := 10, shares := (1, 2, 3), part := true, openBeat := 80006, deadline := deadline, ext := ext, opened := true, closed := true, deciding := false, done := some 1180000, early := false, late := true, inExt := true, logged := false, passed := none }
/-- 13_the_beat.md, the phase record of the late device under extend and under drop. -/
theorem test_phase_record : phaseBytes beatS (lateRun 80011 1) = natLE 4 5000 ++ natLE 4 0x581 ++ natLE 4 0x13886 ++ natLE 4 0x120160 ∧
    phaseBytes beatS (lateRun 80010 0) = natLE 4 5000 ++ natLE 4 0x281 ++ natLE 4 0x13886 ++ natLE 4 0x120160 := by decide +kernel

end Sys2Proof.Tests
end

section
/-!
PROOF. O40: what a CLEAR does in a core that holds one other operation, and a state that refutes the statement. The frames of the
operations by which a FLAG command is accepted and completes come first: which operations a core holds after each.
-/

namespace Sys2Proof.Machine

/-! ### The operations that a core holds -/

theorem core_of_cores_eq {s t : State} (h : t.cores = s.cores) (c : CoreId) : t.core c = s.core c := by
  unfold State.core; rw [h]

@[simp] theorem ops_setCtx (s : State) (c d : CoreId) (n : CtxId) (y : Ctx) : ((s.setCtx c n y).core d).ops = (s.core d).ops := by
  unfold State.setCtx
  rw [State.core_setCore]
  split
  · next h => rw [h]
  · rfl

@[simp] theorem ops_countCore (s : State) (c d : CoreId) (ev n : Nat) (spec : Bool) :
    ((countCore s c ev n spec).core d).ops = (s.core d).ops := by
  unfold countCore
  split
  · rw [State.core_setCore]
    split
    · next h => rw [h]
    · rfl
  · rw [core_of_cores_eq (countEv_cores _ _ _ _)]

@[simp] theorem core_trkStat (s : State) (c d : CoreId) : (trkStat s c).core d = s.core d := rfl

@[simp] theorem core_dropSamples (s : State) (c d : CoreId) (num : Nat) : (dropSamples s c num).core d = s.core d := rfl

@[simp] theorem ops_stopCtx (s : State) (c d : CoreId) (n : CtxId) : ((stopCtx s c n).core d).ops = (s.core d).ops := by
  unfold stopCtx
  rw [ops_setCtx]
  split <;> rfl

/-- An accepted command enters the tracker behind the operations of its core (R189). -/
@[simp] theorem ops_enterOp (s : State) (c : CoreId) (n : CtxId) (o : Op) :
    ((enterOp s c n o).core c).ops = (s.core c).ops ++ [o] := by
  simp [enterOp, enterAs]

@[simp] theorem core_clearFlag (s : State) (f : FlagId) (c : CoreId) : (clearFlag s f).core c = s.core c := by
  unfold clearFlag
  split
  · rfl
  · dsimp only
    split <;> rfl

@[simp] theorem core_clearFlags (s : State) (fs : List FlagId) (c : CoreId) : (clearFlags s fs).core c = s.core c := by
  induction fs generalizing s with
  | nil => rfl
  | cons f fs ih => rw [clearFlags, ih, core_clearFlag]

/-- A command without a record and without a flag of its own leaves the tracker, and no other operation does (R188). -/
theorem ops_completeOp (s : State) (c : CoreId) (o : Op) (status result : Nat) (stop : Bool) (hreco : o.reco = false)
    (hsetf : o.setf = false) :
    ((completeOp s c o status result stop).core c).ops = (s.core c).ops.filter (fun p => p.num != o.num) := by
  unfold completeOp writeRecord doSetf
  simp only [hreco, hsetf, Bool.false_eq_true, false_and, if_false]
  split_ifs <;> simp

/-! ### FLAG and COND commands complete in their turn -/

/-- No operation of the row of FLAG and COND is left to complete. -/
theorem drainFlags_of_none {s : State} {c : CoreId} (h : (s.core c).ops.find? (fun o => sameRow clFlag o.cls) = none) (fuel : Nat) :
    drainFlags s c fuel = s := by
  cases fuel with
  | zero => rfl
  | succ fuel => rw [drainFlags, h]

/-- The first operation of the row completes if it is done (R189). -/
theorem drainFlags_of_first_done {s : State} {c : CoreId} {o : Op}
    (h : (s.core c).ops.find? (fun o => sameRow clFlag o.cls) = some o) (hd : flagDone s o = true) (fuel : Nat) :
    drainFlags s c (fuel + 1) = drainFlags (completeOp s c o (o.pre.getD stOK) o.result) c fuel := by
  rw [drainFlags, h]
  exact if_pos hd

/-- A command of the row whose status is known completes at once beside an operation of another row. -/
theorem ops_drainFlags_beside_otherRow {s : State} {c : CoreId} {p o : Op} (fuel : Nat) (hops : (s.core c).ops = [p, o])
    (hp : sameRow clFlag p.cls = false) (ho : sameRow clFlag o.cls = true) (hdone : flagDone s o = true) (hnum : p.num ≠ o.num)
    (hreco : o.reco = false) (hsetf : o.setf = false) : ((drainFlags s c (fuel + 1)).core c).ops = [p] := by
  have hfirst : (s.core c).ops.find? (fun o => sameRow clFlag o.cls) = some o := by simp [hops, hp, ho]
  have hleft : ((completeOp s c o (o.pre.getD stOK) o.result).core c).ops = [p] := by
    rw [ops_completeOp _ _ _ _ _ _ hreco hsetf, hops]
    simp [hnum]
  rw [drainFlags_of_first_done hfirst hdone, drainFlags_of_none (by simp [hleft, hp]), hleft]

/-- A FLAG command that ends beside an operation of another row leaves that one alone in the tracker. -/
theorem ops_endFlagOp_beside_otherRow {s : State} {c : CoreId} {p o : Op} (status result : Nat) (hops : (s.core c).ops = [p, o])
    (hp : sameRow clFlag p.cls = false) (ho : o.cls = clFlag) (hnum : p.num ≠ o.num) (hreco : o.reco = false) (hsetf : o.setf = false) :
    ((endFlagOp s c o status result).core c).ops = [p] := by
  have hput : ((s.setCore c (putOp (s.core c) { o with started := true, pre := some status, result := result })).core c).ops =
      [p, { o with started := true, pre := some status, result := result }] := by simp [putOp, hops, hnum]
  unfold endFlagOp
  simp only [hput, List.length_cons]
  exact ops_drainFlags_beside_otherRow _ hput hp (by rw [ho]; rfl) rfl hnum hreco hsetf

/-! ### A FLAG command accepted -/

theorem padTo_of_length {n : Nat} {bs : List Byte} (h : bs.length = n) : padTo n bs = bs := by
  subst h; exact List.take_left

/-- A context that accepts its next command does so without a wait (R185, R186). -/
theorem tryAccept_of_accepts {s : State} {c : CoreId} {n : CtxId} {k : Cmd} {p : Cmd → Bool} (h : Accepts s c n k) (hp : p k = true) :
    tryAccept s c n p = (s, some k) := by
  obtain ⟨hnext, hruns, hfence, htakes, -, hdep, hturn⟩ := h
  have hgoes : goesOn s c n = true := by simp [goesOn, hruns, hfence, htakes]
  have hwait : mustWait s c n k = false := by simp [mustWait, depOf, hdep]
  simp [tryAccept, hnext, hp, hgoes, hwait, hturn]

/-- A sound command that its own checks do not refuse enters the tracker and goes on to `f` (R185). -/
theorem acceptChecked_of_sound {s : State} {c : CoreId} {n : CtxId} {k : Cmd} {p : Cmd → Bool} {check : State → Cmd → Option Nat}
    (f : State → Op → State) (h : Sound s c n k) (hp : p k = true) (hcheck : check s k = none) :
    acceptChecked s c n p check f = f (enterOp s c n (opOf s c n k none)) (opOf s c n k none) := by
  obtain ⟨hacc, hspec, hopen, hdesc⟩ := h
  simp [acceptChecked, tryAccept_of_accepts hacc hp, hspec, hopen, hdesc, hcheck]

/-- A sound CLEAR is accepted and run (R220). -/
theorem exec_clear_of_sound {s : State} {c : CoreId} {n : CtxId} {k : Cmd} (h : Sound s c n k) (hcls : k.cls = clFlag)
    (hop : fdOp k.desc = 2) :
    exec (.clear c n) s = .next (runFlagOp (enterOp s c n (opOf s c n k none)) c (opOf s c n k none)) :=
  congrArg Host.Outcome.next (acceptChecked_of_sound _ h (by simp [hcls, hop]) rfl)

/-- A CLEAR has its status at once, and only flags have changed by then (R189, R220). -/
theorem runFlagOp_clear (s : State) (c : CoreId) {o : Op} (h : fdOp o.desc = 2) :
    ∃ t status, runFlagOp s c o = endFlagOp t c o status 0 ∧ t.core c = s.core c := by
  unfold runFlagOp
  split
  · next status _ => exact ⟨s, status, rfl, rfl⟩
  · rw [if_neg (by simp [h]), if_neg (by simp [h])]
    refine ⟨_, _, rfl, ?_⟩
    unfold flagEffect
    split
    · rfl
    · simp [h]

/-- A CLEAR accepted beside an operation of another row of R189 completes ahead of it: the first operation that the row of FLAG and
COND looks at is the CLEAR itself. -/
theorem clear_completes_beside_otherRow {s : State} {c : CoreId} {n : CtxId} {k : Cmd} {p : Op} (h : Sound s c n k)
    (hcls : k.cls = clFlag) (hlen : k.desc.length = 64) (hop : fdOp k.desc = 2) (hreco : k.reco = false) (hsetf : k.setf = false)
    (hops : (s.core c).ops = [p]) (hp : sameRow clFlag p.cls = false) (hnum : p.num ≠ (s.core c).nextNum) :
    ∃ t, exec (.clear c n) s = .next t ∧ (t.core c).ops = [p] := by
  have hdesc : (opOf s c n k none).desc = k.desc := padTo_of_length hlen
  obtain ⟨t, status, hrun, hcore⟩ := runFlagOp_clear (enterOp s c n (opOf s c n k none)) c (hdesc ▸ hop)
  refine ⟨_, exec_clear_of_sound h hcls hop, ?_⟩
  rw [hrun]
  exact ops_endFlagOp_beside_otherRow _ _ (by simp [hcore, hops]) hp hcls hnum hreco hsetf

/-! ### The refuting state -/

/-- An operation of class 9, a value that R184 gives to no class and whose row R189 does not name. -/
def classNineOp : Op :=
  { num := 0, ctx := 1, idx := 0, cls := 9, desc := [], reco := false, setf := false, dflag := 0, tag := 0, mb := 0, k := 0,
    entry := 0, spec := false, step := 0, pre := none, started := false, result := 0, merge := none }

/-- CLEAR of flag 0 of the device, its descriptor in the scratchpad of core 0. -/
def clearFlagZero : Cmd :=
  ⟨clFlag, 0, false, false, 0, 0, 0, scratchBase 0 + 0x2000, natLE 8 2 ++ natLE 8 regBase ++ natLE 48 0⟩

/-- The device after reset, but that core 0 holds the operation of class 9, and its context 0 a ring of two commands that starts with
the CLEAR. -/
def classNineState : State :=
  ((State.reset.write (scratchBase 0 + 0x1000) (natLE 8 clFlag ++ natLE 8 clearFlagZero.descAddr)).write clearFlagZero.descAddr
    clearFlagZero.desc).setCore 0 { CoreSt.reset with
      nextNum := 1
      ops := [classNineOp]
      ctxs := [(0, { Ctx.reset with st := .ready, ring := scratchBase 0 + 0x1000, plen := 2 })] }

theorem sound_clearFlagZero : Sound classNineState 0 0 clearFlagZero := by
  unfold Sound Accepts; decide +kernel

theorem flagCheck_clearFlagZero :
    flagCheck classNineState (halfOfCore 0) (opOf classNineState 0 0 clearFlagZero none) = none := by decide +kernel

/-- Refutes O40: the clause of the command behind one that waits asks only that the class of the earlier operation is 7 or more, and
R189 orders FLAG and COND, 7 and 8, alone. Behind an operation of class 9 a CLEAR completes at once. -/
theorem not_flagIndexesAndFencesFollowTheirDescriptor : ¬ Obligations.FlagIndexesAndFencesFollowTheirDescriptor := by
  unfold Obligations.FlagIndexesAndFencesFollowTheirDescriptor
  intro h
  obtain ⟨-, -, -, -, hbehind⟩ := h classNineState 0 0 clearFlagZero
  obtain ⟨t, ht, hboth, -, -⟩ := hbehind classNineOp sound_clearFlagZero rfl rfl rfl (by decide) rfl (by decide) rfl
    flagCheck_clearFlagZero
  obtain ⟨u, hu, hone⟩ := clear_completes_beside_otherRow sound_clearFlagZero rfl rfl rfl rfl rfl rfl rfl (by decide)
  obtain rfl : t = u := Host.Outcome.next.inj (ht.symm.trans hu)
  simp [hboth] at hone

end Sys2Proof.Machine
end

section
/-!
PROOF. O17: a claim of an interrupt (R433), the time limit of coalescing (R434), and an event that goes out on channel 15 (R465).
The rules for one bit of a word, for a word written to an unlocked or a locked queue, and for what a message changes come first.
-/

namespace Sys2Proof.Machine

/-! ### One bit of a word -/

theorem bit_eq_testBit (v i : Nat) : bit v i = v.testBit i := by
  rw [Nat.testBit_eq_decide_div_mod_eq, bit, beq_eq_decide]

/-- A word with bit `i` replaced: the bits above it, the new bit, and the bits below it. -/
theorem setBit_eq (v i : Nat) (b : Bool) : setBit v i b = 2 ^ i * (2 * (v / 2 ^ i / 2) + b2n b) + v % 2 ^ i := by
  have hv : v = 2 ^ i * (2 * (v / 2 ^ i / 2) + v / 2 ^ i % 2) + v % 2 ^ i := by rw [Nat.div_add_mod, Nat.div_add_mod]
  have hb : b2n b % 2 = b2n b := by cases b <;> rfl
  unfold setBit setBits bits
  rw [show i + 1 - i = 1 by omega, pow_one, hb]
  generalize v / 2 ^ i / 2 = q at *
  generalize v / 2 ^ i % 2 = m at *
  generalize v % 2 ^ i = r at *
  subst hv
  rw [Nat.mul_add, Nat.mul_add, Nat.mul_comm m, Nat.mul_comm (b2n b)]
  omega

theorem bit_setBit (v i j : Nat) (b : Bool) : bit (setBit v i b) j = if j = i then b else bit v j := by
  rw [bit_eq_testBit, bit_eq_testBit, setBit_eq, Nat.testBit_two_pow_mul_add _ (Nat.mod_lt _ (Nat.two_pow_pos i))]
  rcases Nat.lt_trichotomy j i with hj | rfl | hj
  · rw [if_pos hj, if_neg (by omega), Nat.testBit_mod_two_pow]
    simp [hj]
  · rw [if_neg (by omega), if_pos rfl, Nat.sub_self]
    cases b <;> simp [b2n]
  · obtain ⟨k, rfl⟩ : ∃ k, j = i + 1 + k := ⟨j - (i + 1), by omega⟩
    have hq : (2 * (v / 2 ^ i / 2) + b2n b) / 2 = v / 2 ^ i / 2 := by cases b <;> simp [b2n]; omega
    rw [if_neg (by omega), if_neg (by omega), show i + 1 + k - i = k + 1 by omega, Nat.testBit_succ, hq, ← Nat.testBit_succ,
      Nat.testBit_div_two_pow, show k + 1 + i = i + 1 + k by omega]

theorem bit_mod_two_pow {v w j : Nat} (hj : j < w) : bit (v % 2 ^ w) j = bit v j := by
  rw [bit_eq_testBit, bit_eq_testBit, Nat.testBit_mod_two_pow]
  simp [hj]

/-! ### The pending bits -/

/-- The pending bits depend on the registers alone. -/
theorem irqPending_congr {s t : State} (hr : t.regs = s.regs) (h : HalfId) (src : Nat) : irqPending t h src = irqPending s h src := by
  unfold irqPending; rw [State.rf_congr hr]

/-- A pending bit written is read back, and the other sources keep theirs. -/
theorem irqPending_wf_setBit (s : State) (h : HalfId) (i j : Nat) (b : Bool) :
    irqPending (s.wf .IRQ_PEND_PEND (setBit (s.rf .IRQ_PEND_PEND h.val (i / 64)) (i % 64) b) h.val (i / 64)) h j =
      if j = i then b else irqPending s h j := by
  have hwidth : Fld.width .IRQ_PEND_PEND = 64 := rfl
  unfold irqPending
  by_cases hword : j / 64 = i / 64
  · rw [hword, State.rf_wf_self, hwidth, bit_mod_two_pow (Nat.mod_lt _ (by decide)), bit_setBit]
    exact if_congr (by omega) rfl rfl
  · rw [rf_wf_idx _ _ _ _ _ _ hword, if_neg (fun e => hword (by rw [e]))]

/-- An event of a source sets its pending bit while the controller's clock runs (R432, R435). -/
theorem irqPending_raiseIrq_self {s : State} {h : HalfId} (src : Nat) (hruns : irqStopped s h = false) :
    irqPending (raiseIrq s h src) h src = true := by
  unfold raiseIrq irqSetPending
  simp only [hruns, Bool.false_eq_true, if_false]
  split
  · exact (irqPending_congr (State.setHalf_regs _ _ _) _ _).trans ((irqPending_wf_setBit s h src src true).trans (if_pos rfl))
  · exact (irqPending_wf_setBit s h src src true).trans (if_pos rfl)

/-- The request line settled changes the halves alone (R434). -/
theorem irqSettle_eq (s : State) (h : HalfId) : ∃ hs, irqSettle s h = { s with halves := hs } := by
  unfold irqSettle
  split
  · exact ⟨_, rfl⟩
  · exact ⟨s.halves, rfl⟩

/-- Whether the controller's clock runs does not rest on the pending bits. -/
theorem irqStopped_wf_pend (s : State) (h : HalfId) (v u i : Nat) : irqStopped (s.wf .IRQ_PEND_PEND v u i) h = irqStopped s h := by
  unfold irqStopped clockDead State.rb
  rw [State.rf_wf_ne _ _ _ _ _ _ (by decide), State.rf_wf_ne _ _ _ _ _ _ (by decide)]
  rfl

@[simp] theorem irqStopped_reply (s : State) (r : Reply) (h : HalfId) : irqStopped { s with reply := r } h = irqStopped s h := rfl

/-- Whether the controller's clock runs does not rest on the request line. -/
theorem irqStopped_irqSettle (s : State) (h : HalfId) : irqStopped (irqSettle s h) h = irqStopped s h := by
  unfold irqSettle
  split
  · unfold irqStopped
    rw [State.half_setHalf_self]
    rfl
  · rfl

/-! ### The source that a claim takes -/

theorem mem_irqReady {s : State} {h : HalfId} {i : Nat} :
    i ∈ irqReady s h ↔ i < 512 ∧ (irqPending s h i && irqEnabled s h i) = true := by
  rw [irqReady, List.mem_filter, List.mem_range]

theorem irqReady_eq_nil {s : State} {h : HalfId} (hnone : ∀ i, i < 512 → (irqPending s h i && irqEnabled s h i) = false) :
    irqReady s h = [] :=
  List.eq_nil_iff_forall_not_mem.mpr fun i hi => by
    obtain ⟨hlt, hready⟩ := mem_irqReady.mp hi
    simp [hnone i hlt] at hready

/-- The last source that is pending and enabled is the highest of them. -/
theorem getLast?_irqReady {s : State} {h : HalfId} {i : Nat} (hi : i < 512) (hpend : irqPending s h i = true)
    (hen : irqEnabled s h i = true) (habove : ∀ j, i < j → j < 512 → (irqPending s h j && irqEnabled s h j) = false) :
    (irqReady s h).getLast? = some i := by
  have hmem : i ∈ irqReady s h := mem_irqReady.mpr ⟨hi, by rw [hpend, hen]; rfl⟩
  have hsorted : (irqReady s h).Pairwise (· < ·) := List.pairwise_lt_range.filter _
  obtain ⟨m, hlast⟩ := Option.isSome_iff_exists.mp (List.getLast?_isSome.mpr (List.ne_nil_of_mem hmem))
  obtain ⟨ys, hys⟩ := List.getLast?_eq_some_iff.mp hlast
  obtain ⟨hm, hready⟩ := mem_irqReady.mp (List.mem_of_getLast? hlast)
  have hnot : ¬ i < m := fun hlt => by simp [habove m hlt hm] at hready
  rw [hys] at hsorted hmem
  obtain ⟨-, -, hbelow⟩ := List.pairwise_append.mp hsorted
  rcases List.mem_append.mp hmem with hin | hin
  · exact absurd (hbelow i hin m (List.mem_singleton_self m)) hnot
  · rw [hlast, List.mem_singleton.mp hin]

theorem exec_irqClaim (s : State) (a : Agent) (h : HalfId) : exec (.irqClaim a h) s = execIrqClaim a h s := rfl

/-- A claim where no source is pending and enabled (R433). -/
theorem execIrqClaim_of_none {s : State} {a : Agent} {h : HalfId} (hreach : outOfReach s a h = false)
    (hnone : (irqReady s h).getLast? = none) : execIrqClaim a h s = .next { s with reply := .value (2 ^ 31) } := by
  simp [execIrqClaim, hreach, hnone]

/-- A claim of source `i`: its pending bit is cleared, and the request line follows (R433, R434). -/
theorem execIrqClaim_of_some {s : State} {a : Agent} {h : HalfId} {i : Nat} (hreach : outOfReach s a h = false)
    (hsome : (irqReady s h).getLast? = some i) :
    execIrqClaim a h s = .next { irqSettle (s.wf .IRQ_PEND_PEND (setBit (s.rf .IRQ_PEND_PEND h.val (i / 64)) (i % 64) false) h.val
      (i / 64)) h with reply := .value i } := by
  simp [execIrqClaim, hreach, hsome]

/-- The highest source that is pending and enabled is claimed (R433). -/
theorem irqClaim_highest {s : State} {a : Agent} {h : HalfId} {i : Nat} (hreach : outOfReach s a h = false)
    (hsome : (irqReady s h).getLast? = some i) :
    ∃ t, exec (.irqClaim a h) s = .next t ∧ t.reply = .value i ∧ irqPending t h i = false ∧
      (∀ j, j < 512 → j ≠ i → irqPending t h j = irqPending s h j) ∧ RegsBut s t [.IRQ_PEND_PEND] ∧
      t = { s with reply := t.reply, regs := t.regs, halves := t.halves } ∧
      (irqStopped s h = false → irqPending (raiseIrq t h i) h i = true) := by
  refine ⟨_, (exec_irqClaim s a h).trans (execIrqClaim_of_some hreach hsome), rfl, ?_⟩
  generalize hu : s.wf .IRQ_PEND_PEND (setBit (s.rf .IRQ_PEND_PEND h.val (i / 64)) (i % 64) false) h.val (i / 64) = u
  have hpend : ∀ j, irqPending u h j = if j = i then false else irqPending s h j := fun j => hu ▸ irqPending_wf_setBit s h i j false
  have hregs : RegsBut s u [.IRQ_PEND_PEND] := fun f v k hf => hu ▸ State.rf_wf_ne _ _ _ _ _ _ (List.ne_of_not_mem_cons hf)
  have hframe : u = { s with regs := u.regs } := hu ▸ rfl
  have hclock : irqStopped u h = irqStopped s h := hu ▸ irqStopped_wf_pend s h _ _ _
  have hstop : irqStopped { irqSettle u h with reply := .value i } h = irqStopped s h := by
    rw [irqStopped_reply, irqStopped_irqSettle, hclock]
  obtain ⟨hs, hsettle⟩ := irqSettle_eq u h
  rw [hsettle] at hstop ⊢
  refine ⟨(hpend i).trans (if_pos rfl), fun j _ hj => (hpend j).trans (if_neg hj), hregs, ?_,
    fun hruns => irqPending_raiseIrq_self i (hstop.trans hruns)⟩
  rw [hframe]

/-! ### A word written to a queue -/

/-- A header written to a queue that no writer locks (R426, R427). -/
theorem mqPush_header {q : MQueue} {w : Nat} (a : Agent) (hlock : q.lock = none) (hlen : hdrLen w ≤ 7) (hroom : q.words.length < 8) :
    mqPush q a w = ({ q with words := q.words ++ [⟨w, true, a⟩], lock := if hdrLen w = 0 then none else some (a, hdrLen w) },
      .taken (hdrLen w == 0)) := by
  simp only [mqPush, hlock]
  rw [if_neg (by omega), if_neg (by omega)]

/-- An argument word written by the holder of the lock (R426, R427). -/
theorem mqPush_argument {q : MQueue} {a : Agent} {n : Nat} (w : Nat) (hlock : q.lock = some (a, n + 1)) (hwhole : q.broken = false)
    (hroom : q.words.length < 8) :
    mqPush q a w = ({ q with words := q.words ++ [⟨w, false, a⟩], lock := if n = 0 then none else some (a, n) },
      .taken (decide (n + 1 ≤ 1))) := by
  simp only [mqPush, hlock]
  rw [if_neg (by simp), if_neg (by simp [hwhole]; omega)]
  simp

/-- A vector raised changes the host's side alone. -/
theorem msixRaise_eq (s : State) (v : Nat) : ∃ x, msixRaise s v = { s with host := x } := by
  unfold msixRaise
  dsimp only
  split
  · split
    · exact ⟨s.host, rfl⟩
    · exact ⟨_, rfl⟩
  · exact ⟨_, rfl⟩

@[simp] theorem outQueue_setOutQueue (s : State) (h : HalfId) (ch : ChanId) (q : MQueue) :
    outQueue (setOutQueue s h ch q) h ch = q := by
  simp [outQueue, setOutQueue]

/-- The outbound queues depend on the halves alone. -/
theorem outQueue_congr {s t : State} (hh : t.halves = s.halves) (h : HalfId) (ch : ChanId) : outQueue t h ch = outQueue s h ch := by
  unfold outQueue State.half; rw [hh]

/-- A word that an outbound queue takes changes that queue, and the host's side where it completes a message. -/
theorem pushOut_of_taken {s : State} {a : Agent} {h : HalfId} {ch : ChanId} {w : Nat} {q : MQueue} {done : Bool}
    (htaken : mqPush (outQueue s h ch) a (w % 2 ^ 32) = (q, .taken done)) :
    ∃ hs x, pushOut s a h ch w = { s with halves := hs, host := x } ∧ outQueue (pushOut s a h ch w) h ch = q := by
  obtain ⟨x, hx⟩ := msixRaise_eq (setOutQueue s h ch q) ch.val
  cases done with
  | true =>
    have heq : pushOut s a h ch w = msixRaise (setOutQueue s h ch q) ch.val := by simp only [pushOut, htaken, pushStat, if_true]
    rw [heq, hx]
    exact ⟨_, x, rfl, (outQueue_congr rfl h ch).trans (outQueue_setOutQueue s h ch q)⟩
  | false =>
    have heq : pushOut s a h ch w = setOutQueue s h ch q := by
      simp only [pushOut, htaken, pushStat]
      rw [if_neg (by decide)]
    rw [heq]
    exact ⟨_, s.host, rfl, outQueue_setOutQueue s h ch q⟩

/-- The argument words of a message enter the queue that its header has locked, in order. -/
theorem pushOutAll_arguments (s : State) (h : HalfId) (ch : ChanId) (ws : List Nat)
    (hlock : (outQueue s h ch).lock = if ws.length = 0 then none else some (.dexca h, ws.length))
    (hwhole : (outQueue s h ch).broken = false) (hroom : (outQueue s h ch).words.length + ws.length ≤ 8) :
    ∃ hs x, pushOutAll s h ch ws = { s with halves := hs, host := x } ∧
      (outQueue (pushOutAll s h ch ws) h ch).words.map MWord.word =
        (outQueue s h ch).words.map MWord.word ++ ws.map (fun w => w % 2 ^ 32) := by
  induction ws generalizing s with
  | nil => exact ⟨s.halves, s.host, rfl, by simp [pushOutAll]⟩
  | cons w ws ih =>
    rw [List.length_cons] at hlock hroom
    obtain ⟨hs, x, hpush, hq⟩ := pushOut_of_taken (mqPush_argument (w % 2 ^ 32) (by simpa using hlock) hwhole (by omega))
    obtain ⟨hs', x', hall, hwords⟩ := ih (pushOut s (.dexca h) h ch w) (by rw [hq]) (by rw [hq]; exact hwhole)
      (by rw [hq]; simp; omega)
    refine ⟨hs', x', ?_, ?_⟩
    · rw [pushOutAll, hall, hpush]
    · rw [pushOutAll, hwords, hq]
      simp

/-- A whole message enters an outbound queue that has room for it and that no writer locks (R426, R427). -/
theorem pushOutAll_message (s : State) (h : HalfId) (ch : ChanId) (w : Nat) (ws : List Nat) (hlen : hdrLen (w % 2 ^ 32) = ws.length)
    (hlock : (outQueue s h ch).lock = none) (hwhole : (outQueue s h ch).broken = false)
    (hroom : (outQueue s h ch).words.length + (ws.length + 1) ≤ 8) :
    ∃ hs x, pushOutAll s h ch (w :: ws) = { s with halves := hs, host := x } ∧
      (outQueue (pushOutAll s h ch (w :: ws)) h ch).words.map MWord.word =
        (outQueue s h ch).words.map MWord.word ++ (w :: ws).map (fun w => w % 2 ^ 32) := by
  obtain ⟨hs, x, hpush, hq⟩ := pushOut_of_taken (mqPush_header (w := w % 2 ^ 32) (.dexca h) hlock (by omega) (by omega))
  rw [hlen] at hq
  obtain ⟨hs', x', hall, hwords⟩ := pushOutAll_arguments (pushOut s (.dexca h) h ch w) h ch ws (by rw [hq])
    (by rw [hq]; exact hwhole) (by rw [hq]; simp; omega)
  refine ⟨hs', x', ?_, ?_⟩
  · rw [pushOutAll, hall, hpush]
  · rw [pushOutAll, hwords, hq]
    simp

/-! ### An event posted -/

theorem eventMessage_length {e : List Nat} (he : e ≠ []) : (eventMessage e).length = e.length := by
  have := List.length_pos_iff.mpr he
  simp [eventMessage]; omega

/-- LEN of an event's header counts the words behind it (R426, R464). -/
theorem hdrLen_eventHeader {n kind : Nat} (hn : n < 8) (hkind : kind < 256) : hdrLen ((n * 65536 + 0x700 + kind) % 2 ^ 32) = n := by
  unfold hdrLen bits
  norm_num
  omega

theorem eventVector_eq (s : State) (e : List Nat) : ∃ x, eventVector s e = { s with host := x } := by
  unfold eventVector
  split
  · exact msixRaise_eq s 16
  · exact ⟨s.host, rfl⟩

theorem exec_eventPost (s : State) (h : HalfId) : exec (.eventPost h) s = execEventPost h s := rfl

theorem execEventPost_of_room {s : State} {h : HalfId} {e : List Nat} {rest : List (List Nat)} (hev : eventsOf s h = e :: rest)
    (hroom : (eventMessage e).length ≤ outRoom s h 15) :
    execEventPost h s = .next (eventVector (pushOutAll (setEvents s h rest) h 15 (eventMessage e)) e) := by
  simp only [execEventPost, hev]
  rw [if_pos hroom]

theorem eventsOf_setEvents (s : State) (h : HalfId) (es : List (List Nat)) : eventsOf (setEvents s h es) h = es := aget_aset_self _ _ _ _

theorem backlog_setEvents (s : State) (h : HalfId) (es : List (List Nat)) :
    (setEvents s h es).rf .DXC_EVT_STAT_BACKLOG h.val = min 255 es.length := by
  have hwidth : Fld.width .DXC_EVT_STAT_BACKLOG = 8 := rfl
  rw [setEvents, State.rf_wf_self, hwidth]
  omega

theorem regsBut_setEvents (s : State) (h : HalfId) (es : List (List Nat)) : RegsBut s (setEvents s h es) [.DXC_EVT_STAT_BACKLOG] :=
  fun _ _ _ hf => State.rf_wf_ne _ _ _ _ _ _ (List.ne_of_not_mem_cons hf)

/-- The message of an event enters an outbound queue that has room for it and that no writer locks (R426, R464). -/
theorem pushOutAll_eventMessage (s : State) (h : HalfId) (ch : ChanId) {e : List Nat} (he : e ≠ []) (hkind : e.headD 0 < 256)
    (hlock : (outQueue s h ch).lock = none) (hwhole : (outQueue s h ch).broken = false)
    (hroom : (outQueue s h ch).words.length + e.length ≤ 8) :
    ∃ hs x, pushOutAll s h ch (eventMessage e) = { s with halves := hs, host := x } ∧
      (outQueue (pushOutAll s h ch (eventMessage e)) h ch).words.map MWord.word =
        (outQueue s h ch).words.map MWord.word ++ (eventMessage e).map (fun w => w % 2 ^ 32) := by
  have hpos := List.length_pos_iff.mpr he
  refine pushOutAll_message s h ch _ (e.drop 1) ?_ hlock hwhole (by rw [List.length_drop]; omega)
  rw [List.length_drop]
  exact hdrLen_eventHeader (by omega) hkind

/-- The oldest event of a half goes out where channel 15 has room for it (R465). -/
theorem eventPost_of_room {s : State} {h : HalfId} {e : List Nat} {rest : List (List Nat)} (hev : eventsOf s h = e :: rest)
    (he : e ≠ []) (hkind : e.headD 0 < 256) (hlock : (outQueue s h 15).lock = none) (hwhole : (outQueue s h 15).broken = false)
    (hroom : (outQueue s h 15).words.length + e.length ≤ 8) :
    ∃ t, exec (.eventPost h) s = .next t ∧ eventsOf t h = rest ∧
      (outQueue t h 15).words.map MWord.word =
        (outQueue s h 15).words.map MWord.word ++ (eventMessage e).map (fun w => w % 2 ^ 32) ∧
      t.rf .DXC_EVT_STAT_BACKLOG h.val = min 255 rest.length ∧ RegsBut s t [.DXC_EVT_STAT_BACKLOG] ∧ SameMem s t := by
  have hfits : (eventMessage e).length ≤ outRoom s h 15 := by
    rw [eventMessage_length he, outRoom, if_neg (by simp [hlock])]
    omega
  obtain ⟨hs, x, hpush, hwords⟩ := pushOutAll_eventMessage (setEvents s h rest) h 15 he hkind hlock hwhole hroom
  obtain ⟨y, hvector⟩ := eventVector_eq (pushOutAll (setEvents s h rest) h 15 (eventMessage e)) e
  refine ⟨_, (exec_eventPost s h).trans (execEventPost_of_room hev hfits), ?_⟩
  rw [hpush] at hwords hvector ⊢
  rw [hvector]
  exact ⟨eventsOf_setEvents s h rest, hwords, backlog_setEvents s h rest, regsBut_setEvents s h rest, fun _ => rfl⟩

/-- Settles O17: a claim takes the last of the sources that are pending and enabled, which is the highest of them, and an event's
message enters channel 15 word by word, its header first. -/
theorem claimsCoalescingAndEvents : Obligations.ClaimsCoalescingAndEvents := by
  intro s a h hreach
  refine ⟨fun hnone => ?_, fun i hi hpend hen habove => irqClaim_highest hreach (getLast?_irqReady hi hpend hen habove),
    fun i hi hpend hen htime hcount => ?_, fun e rest hev he hkind hlock hwhole hroom => eventPost_of_room hev he hkind hlock hwhole hroom,
    fun hev => ?_⟩
  · exact (exec_irqClaim s a h).trans (execIrqClaim_of_none hreach (by rw [irqReady_eq_nil hnone]; rfl))
  · have hready : irqReady s h ≠ [] := List.ne_nil_of_mem (mem_irqReady.mpr ⟨hi, by rw [hpend, hen]; rfl⟩)
    exact if_pos ⟨htime, hcount, by simpa using hready⟩
  · exact (exec_eventPost s h).trans (by simp only [execEventPost, hev])

end Sys2Proof.Machine
end

section
/-!
PROOF. O19: the refusals of Dexca (R441, R443, R444, R446, R449). The first of them that applies is the one answered, before the
command's own function is run; so one rule for `runCmd` serves every command of the tables.
-/

namespace Sys2Proof.Machine

/-! ### The request that is next -/

/-- A request taken is of the half and the channel that it stands on. -/
theorem place_of_nextRequest {s t : State} {h : HalfId} {ch : ChanId} {device : Bool} {r : Req} {a : Agent} {args : List Nat}
    (hnext : nextRequest s h ch device = some (r, a, args, t)) : r.half = h ∧ r.chan = ch := by
  unfold nextRequest at hnext
  split at hnext
  · cases hnext
  · split at hnext
    · cases hnext
    · split at hnext <;> cases hnext
      exact ⟨rfl, rfl⟩

/-! ### The first refusal that applies -/

section
variable {s : State} {k : CmdSpec} {r : Req} {a : Agent} {args : List Nat}

theorem refusal_of_not_permitted (hperm : permitted s r.half r.chan a r.op = false) : refusal s k r a args = some dsPerm := by
  simp [refusal, hperm]

theorem refusal_of_length (hperm : permitted s r.half r.chan a r.op = true) (hlen : args.length ≠ k.nargs) :
    refusal s k r a args = some dsBadLen := by
  simp [refusal, hperm, hlen]

theorem refusal_of_state (hperm : permitted s r.half r.chan a r.op = true) (hlen : args.length = k.nargs)
    (hjob : s.dx.job ∉ k.states) : refusal s k r a args = some dsBadState := by
  simp [refusal, hperm, hlen, hjob]

theorem refusal_of_handle (hperm : permitted s r.half r.chan a r.op = true) (hlen : args.length = k.nargs)
    (hjob : s.dx.job ∈ k.states) (hlong : k.long = true)
    (hhandle : args.headD 0 % 65536 = 0 ∨ (aget? s.dx.long (args.headD 0 % 65536)).isSome = true) :
    refusal s k r a args = some dsHandle := by
  have hused : (args.headD 0 % 65536 == 0 || (aget? s.dx.long (args.headD 0 % 65536)).isSome) = true := by
    rwa [Bool.or_eq_true, beq_iff_eq]
  simp only [refusal, hused]
  simp [hperm, hlen, hlong, hjob]

theorem refusal_of_full (hperm : permitted s r.half r.chan a r.op = true) (hlen : args.length = k.nargs)
    (hjob : s.dx.job ∈ k.states) (hlong : k.long = true) (hzero : args.headD 0 % 65536 ≠ 0)
    (hfree : aget? s.dx.long (args.headD 0 % 65536) = none) (hfull : 64 ≤ s.dx.long.length) :
    refusal s k r a args = some dsBusy := by
  simp [-List.headD_eq_head?_getD, refusal, hperm, hlen, hlong, hjob, hzero, hfree, hfull]

end

/-! ### A refused command -/

theorem status_eq (n : Nat) : status n = [n] := by simp [statusWord]

/-- A refused command is answered with the status of its refusal, in the state that has its message popped, and no more. -/
theorem runCmd_of_refused {s t : State} {k : CmdSpec} {h : HalfId} {ch : ChanId} {r : Req} {a : Agent} {args : List Nat} {e : Nat}
    (f : State → Req → List Nat → State × List Nat) (hnext : nextRequest s h ch k.device = some (r, a, args, t)) (hop : r.op = k.op)
    (hch : ch.val ≠ 15) (hrefused : refusal s k r a args = some e) : runCmd k h ch f s = .next (answer t r [e]) := by
  have htaken : ¬(r.op ≠ k.op ∨ ch.val = 15) := by simp [hop, hch]
  simp only [runCmd, hnext, hrefused]
  rw [if_neg htaken, status_eq]

/-- The instruction runs the command of this entry of Dexca's tables on a channel of a half. -/
def Runs (h : HalfId) (ch : ChanId) (k : CmdSpec) (i : Instr) : Prop := ∃ f, ∀ s, exec i s = runCmd k h ch f s

/-- The refusals before the arguments, in their order, for an instruction that runs a command of the tables. -/
theorem refusals_of_runs {s t : State} {h : HalfId} {ch : ChanId} {k : CmdSpec} {i : Instr} {r : Req} {a : Agent} {args : List Nat}
    (hruns : Runs h ch k i) (hnext : nextRequest s h ch k.device = some (r, a, args, t)) (hop : r.op = k.op) (hch : ch.val ≠ 15) :
    (permitted s h ch a r.op = false → exec i s = .next (answer t r [dsPerm])) ∧
    (permitted s h ch a r.op = true → args.length ≠ k.nargs → exec i s = .next (answer t r [dsBadLen])) ∧
    (permitted s h ch a r.op = true → args.length = k.nargs →
      (s.dx.job ∉ k.states → exec i s = .next (answer t r [dsBadState])) ∧
      (s.dx.job ∈ k.states → k.long = true →
        (args.headD 0 % 65536 = 0 ∨ (aget? s.dx.long (args.headD 0 % 65536)).isSome = true →
          exec i s = .next (answer t r [dsHandle])) ∧
        (args.headD 0 % 65536 ≠ 0 → aget? s.dx.long (args.headD 0 % 65536) = none → 64 ≤ s.dx.long.length →
          exec i s = .next (answer t r [dsBusy])))) := by
  obtain ⟨f, hf⟩ := hruns
  have hanswer : ∀ {e}, refusal s k r a args = some e → exec i s = .next (answer t r [e]) :=
    fun hrefused => (hf s).trans (runCmd_of_refused f hnext hop hch hrefused)
  obtain ⟨rfl, rfl⟩ := place_of_nextRequest hnext
  refine ⟨fun hperm => ?_, fun hperm hlen => ?_, fun hperm hlen => ⟨fun hjob => ?_, fun hjob hlong =>
    ⟨fun hhandle => ?_, fun hzero hfree hfull => ?_⟩⟩⟩
  · exact hanswer (refusal_of_not_permitted hperm)
  · exact hanswer (refusal_of_length hperm hlen)
  · exact hanswer (refusal_of_state hperm hlen hjob)
  · exact hanswer (refusal_of_handle hperm hlen hjob hlong hhandle)
  · exact hanswer (refusal_of_full hperm hlen hjob hlong hzero hfree hfull)

/-! ### Messages of no command -/

/-- An opcode of no table is answered BAD_OPCODE, and PERM where the channel may not ask (R441, R446). -/
theorem exec_badOpcode_of_unknown {s t : State} {h : HalfId} {ch : ChanId} {r : Req} {a : Agent} {args : List Nat}
    (hnext : nextRequest s h ch false = some (r, a, args, t)) (hch : ch.val ≠ 15) (hop : knownOp r.op = false) :
    exec (.badOpcode h ch) s = .next (answer t r [if permitted s h ch a r.op then dsBadOpcode else dsPerm]) := by
  have htaken : ¬(knownOp r.op = true ∨ ch.val = 15) := by simp [hop, hch]
  change execBadOpcode h ch s = _
  simp only [execBadOpcode, hnext]
  rw [if_neg htaken, status_eq]

/-- A message of channel 15 is taken, counted, and not answered (R446). -/
theorem exec_channel15Discard_of_message {s t : State} {h : HalfId} {r : Req} {a : Agent} {args : List Nat}
    (hnext : nextRequest s h 15 false = some (r, a, args, t)) :
    exec (.channel15Discard h) s = .next (t.incSat .DXC_EVT_STAT_IN15 1 h.val) := by
  change execChannel15Discard h s = _
  simp only [execChannel15Discard, hnext]

/-- Settles O19: each instruction of the tables runs its entry by `runCmd`, whose answer to a refused request does not depend on what
the command would do. -/
theorem refusalsHaveTheirStatuses : Obligations.RefusalsHaveTheirStatuses := by
  intro s t h ch r a args any rows handle
  have hruns : ∀ x ∈ rows, Runs h ch x.1 x.2 := by
    repeat refine List.forall_mem_cons.mpr ⟨⟨_, fun _ => by unfold exec; rfl⟩, ?_⟩
    exact List.forall_mem_nil _
  exact ⟨fun x hx hnext hop hch => refusals_of_runs (hruns x hx) hnext hop hch, exec_badOpcode_of_unknown,
    exec_channel15Discard_of_message⟩

end Sys2Proof.Machine
end
